-- ==== Sys2Proof/Word.lean ====
section
/-! DEFINITION. The word types of the model and the sparse table that holds numbered units. -/

namespace Sys2Proof

/-- A byte of memory (R70, R203). -/
abbrev Byte := BitVec 8
/-- A scalar register or a ring register, 64 bits (R68, R230). -/
abbrev Word := BitVec 64
/-- A counter value or an expected register (R141), an FP32 bit pattern (R48). -/
abbrev W32 := BitVec 32
/-- A log record, a host event record, a trace record or a wait record: 32 bytes (R155, R267, R294, R373). -/
abbrev Rec := BitVec 256

/-- A table of numbered things: pairs of number and value, numbers strictly rising, and no entry
equal to the table's default (the value of every number that is not listed). -/
abbrev SMap (α : Type) := List (Nat × α)

/-- The signed value of a 64-bit register. -/
def sgn64 (w : Word) : Int := w.toInt

/-- A signed 32-bit immediate extended to 64 bits (R89). -/
def imm64 (i : Int) : Word := BitVec.ofInt 64 i

/-- Whether an integer is a signed 32-bit immediate (R89). -/
def immOk (i : Int) : Bool := decide (-2147483648 ≤ i) && decide (i < 2147483648)

/-- Bits [hi:lo] of a number, as a number. -/
def bits (hi lo n : Nat) : Nat := (n / 2 ^ lo) % 2 ^ (hi + 1 - lo)

end Sys2Proof
end

