-- ==== Sys2Proof/Syntax.lean ====
section
/-! DEFINITION. The commands of the GL-3072: one constructor of Instr for each row of
spec/opcode_table.json, with the operands the spec gives the row and the unit it happens in. -/

namespace Sys2Proof

/-- A cluster, numbered 64·d + 8·y + x (R16, R371). -/
abbrev Cl := Fin 256
/-- A logical core of a cluster (R16). -/
abbrev Cn := Fin 12
/-- A ring of a cluster (R16). -/
abbrev Rn := Fin 16
/-- A partition (R2). -/
abbrev Pn := Fin 16
/-- A compute die (R16). -/
abbrev Dn := Fin 4
/-- A link DL01, DL02, DL03, DL12, DL13, DL23, HL0 to HL3, in this order (R295, R329). -/
abbrev Ln := Fin 10
/-- A control-port function: 8·port + function, port 0 A and 1 B, function 0 the PF (R290). -/
abbrev Fx := Fin 16
/-- A DRAM channel: 16·die + channel (R16). -/
abbrev Ch := Fin 64
/-- A storage port S0 to S7 (R301). -/
abbrev Sp := Fin 8
/-- A ledger account: 4·d + q (R331). -/
abbrev Ac := Fin 16

/-- Who issues instructions in a cluster: a core's sequencer (R68) or the steward core (R122). -/
inductive Who where
  | core (c : Cn)
  | steward
deriving DecidableEq, Repr

/-- An issue: the cluster, the sequencer, and the device address of the instruction. Encodings are
private (R15), so the command carries the address. -/
structure At where
  cl : Cl
  who : Who
  ia : Nat
deriving DecidableEq, Repr

/-- A source operand: a scalar register or an immediate (R89). -/
inductive Src where
  | reg (r : Nat)
  | imm (v : Int)
deriving DecidableEq, Repr

/-- Element formats of CONFIG (R77). -/
inductive Fmt where
  | bf16 | fp16 | e4m3 | e5m2 | int8 | mxfp8 | mxfp6 | mxfp4
deriving DecidableEq, Repr

/-- Output formats of a drain (R38). -/
inductive OFmt where
  | fp32 | bf16 | fp16 | e4m3 | e5m2 | mxfp8 | mxfp6 | mxfp4
deriving DecidableEq, Repr

/-- SCALE and BIAS of a drain specification (R38). -/
inductive VSel where
  | none | imm (v : W32) | rowv | colv
deriving DecidableEq, Repr

/-- FUNC of a drain specification (R38, R40). -/
inductive Func where
  | none | exp2 | rcp | rsq
deriving DecidableEq, Repr

/-- RED of a drain specification (R38, R41). -/
inductive Red where
  | none | rowmax | rowsum
deriving DecidableEq, Repr

/-- A drain specification (R38). -/
structure Drain where
  scale : VSel
  svec : Nat
  bias : VSel
  bvec : Nat
  func : Func
  red : Red
  rvec : Nat
  fmt : OFmt
  sr : Bool
  dst : Nat
  part : Nat
  sdst : Nat
deriving DecidableEq, Repr

/-- OP of TEW (R37). -/
inductive TewOp where
  | mul | add | mulb
deriving DecidableEq, Repr

/-- SHAPE of a tile move (R78). -/
inductive Shape where
  | oper | acc | vec | scale
deriving DecidableEq, Repr

/-- CVT of a tile move (R79). -/
inductive Cvt where
  | none | f32bf16 | f32bf16lo | f32e4m3 | f32e5m2 | bf16e4m3 | bf16e5m2 | e4m3bf16 | e5m2bf16
  | mx8bf16 | mx6bf16 | mx4bf16 | q6 | q4
deriving DecidableEq, Repr

/-- Reuse hints of cache lines (R212, R236). -/
inductive Hint where
  | keep | stream | dead
deriving DecidableEq, Repr

/-- The operands of TLOAD and TSTORE (R78). ADDR, STRIDE and SCL name registers. -/
structure MoveArgs where
  region : Nat
  shape : Shape
  addr : Nat
  stride : Nat
  cvt : Cvt
  tr : Bool
  ew : Nat
  scl : Nat
  hint : Hint
deriving DecidableEq, Repr

/-- A counter operand: the core's own counter k, a hub counter h of its cluster, or a register that
holds a full name (R142, R146). -/
inductive CRef where
  | own (k : Nat)
  | hub (h : Nat)
  | full (r : Nat)
deriving DecidableEq, Repr

/-- A writable or readable register of R230, by RSET and RGET (R235). -/
inductive RReg where
  | rbase | rcfg | head | tail | fill | status | erraddr | sumgot | donecnt
deriving DecidableEq, Repr

/-- Where a REGISTER_WRITE goes: a control-space address written by a cluster's steward core (some) or
the management processor (none) (R229), or an offset of BAR0 or BAR2 with an access size (R289). -/
inductive RegTarget where
  | ctl (by_ : Option Cl) (addr : Nat)
  | bar0 (f : Fx) (off size : Nat)
  | bar2 (f : Fx) (off size : Nat)
deriving DecidableEq, Repr

/-- A requester of a cluster cache (R213, R220): a core's move slot, the steward core, a ring, or a ring of another cluster in a
peer access. -/
inductive Requester where
  | core (c : Cn) (slot : Fin 4)
  | steward
  | ring (n : Rn)
  | peer (cl : Cl) (n : Rn)
deriving DecidableEq, Repr

/-- What a cluster request asks (R210). -/
inductive ReqKind where
  | read | write (bytes : List Byte) | ifetch | runahead | prefetch
deriving DecidableEq, Repr

/-- A request to a cluster cache (R210): requester, byte address, kind, hint, tag, and the island
cycle at which it is made (for the stream detectors of R220). -/
structure CReq where
  who : Requester
  addr : Nat
  kind : ReqKind
  hint : Hint
  tag : Nat
  cyc : Nat
deriving DecidableEq, Repr

/-- What a flit is, as it meets a crossing (R182, R183). A write is a request that carries data (R185, R189). -/
inductive FlitKind where
  | request | response | write
deriving DecidableEq, Repr

/-- A word of a flit as it stands on the wire: data and check bits (R185, R248). -/
structure FlitWord where
  data : BitVec 128
  check : BitVec 16
deriving DecidableEq, Repr

/-- A flit for a cluster island (R185): what its header word says (kind, partition, source cluster or none for the hub, destination,
line), the syndrome of the header word, and up to eight data words. -/
structure Flit where
  kind : FlitKind
  part : Nat
  src : Option Cl
  dst : Cl
  line : Nat
  header : BitVec 16
  words : List FlitWord
deriving DecidableEq, Repr

/-- Who sends a flit (R185): its partition, and its cluster or none for the hub. -/
structure FlitFrom where
  part : Nat
  src : Option Cl
deriving DecidableEq, Repr

/-- What a flit carries (R185): its line, the syndrome of its header word, and its data words. -/
structure FlitBody where
  line : Nat
  header : BitVec 16
  words : List FlitWord
deriving DecidableEq, Repr

/-- The flit that a command names. -/
def Flit.of (dst : Cl) (fr : FlitFrom) (kind : FlitKind) (b : FlitBody) : Flit := ⟨kind, fr.part, fr.src, dst, b.line, b.header, b.words⟩

/-- A unit named in an error (R267): 24 bits. -/
abbrev UnitName := Nat

/-- What an error concerns, as the management processor receives it (R263 to R267). -/
structure ErrIn where
  source : Nat
  cls : Nat
  unit : UnitName
  part : Nat
  addr : Nat
  syndrome : Nat
  symbol : Nat
  status : Nat
  taskId : Nat
deriving DecidableEq, Repr

/-- What an error is (R267). -/
structure ErrWhat where
  source : Nat
  cls : Nat
  syndrome : Nat
  symbol : Nat
  status : Nat
deriving DecidableEq, Repr

/-- Where an error is, and the task it concerns (R267). -/
structure ErrPlace where
  unit : UnitName
  part : Nat
  addr : Nat
  taskId : Nat
deriving DecidableEq, Repr

/-- The error that a command reports. -/
def ErrIn.of (x : ErrWhat) (p : ErrPlace) : ErrIn := ⟨x.source, x.cls, p.unit, p.part, p.addr, x.syndrome, x.symbol, x.status, p.taskId⟩

/-- A ring to which a line comes back, and whether it is a write (R243). -/
structure RingBack where
  n : Rn
  write : Bool
deriving DecidableEq, Repr

/-- An acknowledgement, by its place among those on their way, and how often its packet fails its CRC (R138, R147). -/
structure AckSeen where
  i : Nat
  crcFails : Nat
deriving DecidableEq, Repr

/-- What is known once the rings of a dropped die have halted (R112, R113, R280): the die, the first excluded unit, and the counters
for that source of every receiving cluster and outstanding unit. -/
structure DropDone where
  d : Dn
  unit : Nat
  ctrs : List Nat
deriving DecidableEq, Repr

/-- A lane of a link that fails: toward the higher-numbered die or the hub, or back (R189). -/
structure LaneOf where
  l : Ln
  back : Bool
deriving DecidableEq, Repr

/-- A read of a semaphore register (R289, R299): first byte, size, and whether the other port's physical function reads it in the same hub
cycle. -/
structure SemaAccess where
  off : Nat
  size : Nat
  tie : Bool
deriving DecidableEq, Repr

/-- How a control link has come up (R288): in FLIT mode, and the virtual functions that its host enables. -/
structure LinkMode where
  flit : Bool
  vfs : Fin 8
deriving DecidableEq, Repr

/-- The scope a fatal error fences (R183, R264, R266); a link end is named by its link and its die. -/
inductive Scope where
  | none | cluster (c : Cl) | channel (c : Ch) | linkEnd (l : Ln) (d : Dn) | partition (p : Pn) | die (d : Dn) | device
deriving DecidableEq, Repr

/-- A clock domain of R13 and R362 other than the hub's own three. A die-to-die link has an end on each of its dies (true: on the
higher-numbered one), and each field port its own generator (true: F-out). -/
inductive Domain where
  | island (c : Cl) | channel (c : Ch) | dieLinkEnd (l : Fin 6) (high : Bool) | hubLinkHubEnd (d : Dn) | hubLinkDieEnd (d : Dn)
  | ctrlPort (b : Bool) | storagePort (k : Sp) | fieldPort (out : Bool)
deriving DecidableEq, Repr

/-- Energies of one 1 µs sample (R160), in units of 2⁻⁸ µJ: the cluster rails of a cluster, a channel
rail, or a die's fabric rail. -/
inductive Monitor where
  | cluster (c : Cl) (vddArr vddCl : Nat)
  | channel (c : Ch) (e : Nat)
  | fabric (d : Dn) (e : Nat)
deriving DecidableEq, Repr

/-- A thermal sensor reading in units of 0.25 °C (R175). -/
inductive Sensor where
  | cluster (c : Cl)
  | die (d : Dn)
deriving DecidableEq, Repr

/-- What the pins show at option loading (R354, R358, R360): three samples of each strap, and eight
codes of CFG_RES. -/
structure StrapSamples where
  bootSrc : List Nat
  clkMode : List Nat
  strapSelN : List Nat
  cfgRes : List Nat
deriving DecidableEq, Repr

/-- A failing physical cell of a self-test (R47). -/
structure BadCell where
  row : Nat
  col : Nat
deriving DecidableEq, Repr

/-- What a storage port finds at bring-up (R301, R302): whether the link trains, whether CSTS.RDY comes in time, the NVMe Base version
(256 times the major number, plus the minor one), whether it offers the NVM command set, whether NSID 1 is active, data and metadata bytes of an LBA, the bytes of MDTS (0
no limit) and of MPSMIN, the capacity in bytes, whether ONCS reports Write Zeroes, and whether the queues are created. -/
structure BringUp where
  trained : Bool
  ready : Bool
  version : Nat
  nvmSet : Bool
  nsActive : Bool
  lbaBytes : Nat
  metadata : Nat
  mdts : Nat
  mpsMin : Nat
  capacity : Nat
  zeroes : Bool
  queues : Bool
deriving DecidableEq, Repr

/-- An NVMe completion (R303, R304): the command's identifier and whether its status is an error. -/
structure NvmeCompletion where
  cid : Nat
  error : Bool
deriving DecidableEq, Repr

/-- A field frame as it stands on the wire (R307): EtherType, payload bytes, whether its FCS holds,
and whether it is at a 1 µs time. -/
structure Frame where
  etherType : Nat
  payload : List Byte
  fcsOk : Bool
deriving DecidableEq, Repr

/-- A component that a JTAG or reset happening names. -/
abbrev RefPort := Bool

/-- The commands. Each constructor is a row of spec/opcode_table.json. -/
inductive Instr where
  -- scalar instructions of cores and steward cores (R89)
  | movi (w : At) (sd : Nat) (imm : Int)
  | add (w : At) (sd sa : Nat) (b : Src)
  | sub (w : At) (sd sa : Nat) (b : Src)
  | and (w : At) (sd sa : Nat) (b : Src)
  | or (w : At) (sd sa : Nat) (b : Src)
  | xor (w : At) (sd sa : Nat) (b : Src)
  | shl (w : At) (sd sa : Nat) (b : Src)
  | shr (w : At) (sd sa : Nat) (b : Src)
  | sra (w : At) (sd sa : Nat) (b : Src)
  | mul (w : At) (sd sa sb : Nat)
  | beq (w : At) (sa sb target : Nat)
  | bne (w : At) (sa sb target : Nat)
  | blt (w : At) (sa sb target : Nat)
  | bge (w : At) (sa sb target : Nat)
  | jmp (w : At) (target : Nat)
  | nop (w : At)
  -- array instructions (R25, R77, R32, R59)
  | config (w : At) (fmtA fmtB : Fmt)
  | setmask (w : At) (row col : W32)
  | srseed (w : At) (sa : Nat)
  | tprod (w : At) (acc srcA srcB sclA sclB n : Nat) (add tb : Bool) (drn : Option Drain)
  | tdrain (w : At) (acc : Nat) (drn : Drain)
  | tew (w : At) (op : TewOp) (srcX srcY vec : Nat) (neg : Bool) (drn : Drain)
  | arrayOutputVisible (cl : Cl) (c : Cn)
  -- tile moves (R78 to R88)
  | tload (w : At) (m : MoveArgs)
  | tstore (w : At) (m : MoveArgs)
  | moveLineResponse (cl : Cl) (c : Cn) (slot line : Nat)
  | moveInterrupted (cl : Cl) (c : Cn) (slot : Nat)
  | moveBusError (cl : Cl) (c : Cn) (slot addr status : Nat)
  | moveComplete (cl : Cl) (c : Cn) (slot : Nat)
  -- posts (R233)
  | rpost (w : At) (n sa : Nat) (region : Option Nat)
  | postSlotWritten (cl : Cl) (who : Who)
  -- counters (R144 to R149)
  | cinc (w : At) (ctr : CRef) (amt : Src) (whenDone : Bool)
  | whenDoneIncrement (cl : Cl) (c : Cn)
  | cexp (w : At) (ctr : CRef) (amt : Src)
  | cwait (w : At) (ctr : CRef)
  | cread (w : At) (sd : Nat) (ctr : CRef) (expected : Bool)
  | creadResult (cl : Cl) (who : Who)
  | cwstat (w : At) (sd : Nat)
  | fence (w : At)
  | endTask (w : At)
  | endBalanceCheck (cl : Cl) (c : Cn)
  | instructionFetchFill (w : At)
  -- steward instructions (R122, R217, R235)
  | tpost (w : At) (n sa : Nat)
  | tretry (w : At) (n : Nat)
  | tskip (w : At) (n : Nat)
  | tabort (w : At) (coreset : Nat)
  | scommit (w : At) (slot : Nat)
  | sdiscard (w : At) (slot : Nat)
  | icinv (w : At)
  | evwait (w : At)
  | evread (w : At) (sd : Nat)
  | evarg (w : At) (sd k : Nat)
  | cclean (w : At) (sa sb : Nat)
  | ccflush (w : At) (sa sb : Nat)
  | ccdiscard (w : At) (sa sb : Nat)
  | ccmark (w : At) (tag : Nat) (hint : Hint)
  | stewardRpost (w : At) (n sa : Nat)
  | rset (w : At) (n : Nat) (reg : RReg) (sa : Nat)
  | rget (w : At) (sd n : Nat) (reg : RReg)
  | rstart (w : At) (n : Nat)
  | rstop (w : At) (n : Nat)
  | rskip (w : At) (n : Nat)
  | rclear (w : At) (n : Nat)
  -- ring registers and ring events (R228 to R247)
  | ringCmdStart (cl : Cl) (n : Rn)
  | ringCmdStop (cl : Cl) (n : Rn)
  | ringCmdSkip (cl : Cl) (n : Rn)
  | ringCmdClear (cl : Cl) (n : Rn)
  | tailWrite (cl : Cl) (n : Rn) (v : Word)
  | registerWrite (t : RegTarget) (v : Word)
  | ringSlotRead (cl : Cl) (n : Rn)
  | ringDescriptorStart (cl : Cl) (n : Rn)
  | ringLineResponse (cl : Cl) (n : Rn)
  | ringWriteResponse (cl : Cl) (n : Rn)
  | ringRetry (cl : Cl) (n : RingBack)
  | ringBusError (cl : Cl) (n : Rn) (addr status : Nat)
  | ringDescriptorComplete (cl : Cl) (n : Rn)
  -- dispatch and speculation (R115 to R137)
  | taskStart (cl : Cl) (n : Rn)
  | specCommit (cl : Cl) (k : Fin 4)
  | specCommitComplete (cl : Cl) (k : Fin 4)
  | specDiscard (cl : Cl) (k : Fin 4)
  | specDiscardComplete (cl : Cl) (k : Fin 4)
  -- sync network, hang, drop (R138 to R157, R112, R377)
  | incrementApplied (i crcFails : Nat)
  | incrementAck (k : AckSeen)
  | managementRaise (ctr : Nat) (v : W32)
  | counterSettle (cl : Cl) (c : Cn)
  | waitExamination (cl : Cl)
  | waitTimeout (p : Pn)
  | dumpComplete (p : Pn)
  | microbatchDrop (p : Pn) (d : Dn)
  | dropRingsHalted (p : Pn) (d : DropDone)
  -- ledger, guard, heat, clock steps (R158 to R178)
  | ledgerRequestPost (cl : Cl) (n : Rn)
  | ledgerRequestWithdraw (cl : Cl) (n : Rn)
  | ledgerCycle (a : Ac)
  | creditRefill
  | ledgerGrant (cl : Cl) (n : Rn)
  | creditStarved (a : Ac)
  | guardSample (hub : Nat) (die0 die1 die2 die3 : Nat)
  | guardStart
  | guardStepUp
  | thermalSample (r : Sensor) (temp : Int)
  | thermalStepRecover (cl : Cl)
  | clockStepChange (cl : Cl)
  | thermalTrip (r : Sensor) (temp : Int)
  -- self-test, repair, coppice (R43 to R47, R193 to R197)
  | selftestDue (cl : Cl) (c : Cn)
  | selftestStart (cl : Cl) (c : Cn)
  | selftestEnd (cl : Cl) (c : Cn) (fails : List BadCell) (more : Bool)
  | ifrFuseProgrammed (cl : Cl) (c : Cn) (readbackOk : Bool)
  | coreRetire (cl : Cl) (c : Cn)
  | coppiceRemap (cl : Cl) (c : Cn)
  | remapReestablish (d : Dn)
  | spareSelftestDue (cl : Cl)
  | clusterPowerGate (cl : Cl)
  -- fabric and links (R181 to R190)
  | flitArrives (dst : Cl) (fr : FlitFrom) (kind : FlitKind) (b : FlitBody)
  | linkCrcFail (l : Ln)
  | linkReplayLimit (l : Ln)
  | laneFail (l : LaneOf)
  | linkRetrainComplete (l : Ln) (ok : Bool)
  -- caches and DRAM (R203 to R227, R384)
  | cacheRequest (cl : Cl) (r : CReq)
  | permissionCacheFill (cl : Cl) (page : Nat)
  | cacheFill (cl : Cl) (line : Nat)
  | dramWriteAccept
  | writeAcceptResponse
  | dramRead (addr : Nat)
  | streamDetectorTimeout (cl : Cl) (i : Fin 8)
  | permissionInvalidate (cl : Cl) (page : Nat)
  -- scrubbing, errors, test window (R258 to R267)
  | scrubLine (ch : Ch)
  | scrubCorrectionWrite (ch : Ch)
  | errorReported (x : ErrWhat) (pl : ErrPlace)
  | errorHandlerComplete
  | urEscalation (cl : Cl) (n : Nat)
  | ceStorm (unit : UnitName)
  | stormWindowEnd
  | twReadRaw
  | twWriteData
  | twWriteCheck
  | twWriteBoth
  -- checkpoint (R268 to R287, R383)
  | mirrorStart (p : Pn)
  | mirrorComplete (p : Pn) (d : Dn)
  | flashCopyComplete (p : Pn) (d : Dn)
  | flashCopyFail (p : Pn) (d : Dn)
  | tensorWatchComplete (p : Pn)
  | restoreComplete (p : Pn) (d : Dn)
  | rollback (p : Pn)
  | rollbackComplete (p : Pn)
  | ckptHold (p : Pn) (v : Nat)
  | ckptHoldExpire (p : Pn)
  | coreMapAck (p : Pn) (v : W32)
  -- control ports (R289 to R300)
  | semaRead (f : Fx) (sec : Fin 10) (r : SemaAccess)
  | semaRelease (f : Fx) (sec : Fin 10) (size : Nat) (token : Word)
  | semaHoldExpire (sec : Fin 10)
  | objRead (f : Fx)
  | objWrite (f : Fx) (hubCycle : Nat)
  | objRequestComplete (f : Fx)
  | dbWrite (f : Fx) (n : Rn) (v : W32)
  | doorbellEventQueued (f : Fx)
  | evqHeadWrite (f : Fx) (v : W32)
  | hostEventRecordWrite (f : Fx)
  | bar4Read (f : Fx) (off len : Nat)
  | bar4Write (f : Fx) (off : Nat) (bytes : List Byte)
  | functionLevelReset (f : Fx)
  | hotReset (b : RefPort)
  | perst (b : RefPort)
  | refclkLoss (b : RefPort)
  -- storage ports (R301 to R304)
  | storagePortBringup (k : Sp) (result : BringUp)
  | nvmeCompletionPoll (k : Sp) (cs : List NvmeCompletion)
  | nvmeCommandTimeout (k : Sp)
  | smartPoll (k : Sp) (warning : Byte)
  | ssdInboundRequest (k : Sp) (addr len : Nat) (write : Bool)
  | storagePortDown (k : Sp) (cause : Nat)
  -- field link (R305 to R312)
  | fieldFrame (fr : Frame)
  | fieldReturnFrame (fr : Frame)
  | fieldTurnRound
  | fieldLost
  -- dictionary and runs (R314 to R331)
  | dictionaryCommit
  | runStart (p : Pn)
  | runStop (p : Pn)
  | runPreempt (p : Pn)
  | partitionStop (p : Pn)
  | permWrite (p : Pn) (addr count entry : Nat)
  | granuleOwner (d : Dn) (q : Fin 4) (owner : Nat)
  | selftestReq (p : Pn) (mask : Nat)
  | supFence
  | supPartReset (mask : BitVec 16)
  | supDeviceReset (v : Byte)
  | ledgerCountsClear (v : Nat)
  -- observation (R371 to R383)
  | breakpointWrite (p : Pn) (v : Nat)
  | breakpointHalt (cl : Cl) (ia : Nat)
  | breakpointClusterHalted (cl : Cl)
  | breakpointResume (cl : Cl)
  | pcSample (cl : Cl) (c : Cn) (stall : Nat)
  | traceLineAccepted (cl : Cl)
  -- firmware and trust (R332 to R350)
  | quoteNonce (f : Fx) (v : Rec)
  | quoteReady (f : Fx)
  | pageMeasured (p : Pn)
  | fwVerify
  | fwVerifyAndWrite
  | fwCopyComplete
  | fwVerifyComplete
  | fwFlashProgramComplete (ok : Bool)
  | fwReadbackComplete
  | svnFuseRaise
  | unlockToken (v : Nat)
  | unlockEraseComplete
  | openingFuseBlown (readbackOk : Bool)
  | bootImageLoaded
  | firmwareUp
  -- resets, clocks, pins, JTAG (R351 to R370)
  | powerOnReset (vddIoLow : Bool)
  | brownOut
  | pinReset
  | resetHoldoffEnd
  | pwrgdRise
  | watchdogExpire
  | clockFailure
  | clockLockLoss (d : Domain)
  | lockUp
  | holdEnd
  | optionLoadingComplete (st : StrapSamples)
  | domainRelease
  | dramCalibrationDone (d : Dn) (ok : Bool)
  | calibrationTimeout
  | trst
  | bypass
  | idcode
  | samplePreload (shiftIn : Nat)
  | extest
  | clamp
  | highz
  | dbgAccess
  | dbgReset
  | monitorSample (m : Monitor)
  | refclkReturn (b : RefPort)
  | controlLinkUp (b : RefPort) (gen width : Nat) (mode : LinkMode)
  | fieldOutLinkUp
deriving DecidableEq, Repr

end Sys2Proof
end

