-- ==== Sys2Proof/Decode.lean ====
section
/-! DEFINITION. Decoding. The device takes commands, not words: spec/opcode_table.json gives no row any
bits, and instruction encodings are private (R15), so no word spells a command. -/

namespace Sys2Proof

/-- The command that a word spells by the table's bits: no row has bits, so none. -/
def decodeTableWord (_nbits _w : Nat) : Option Instr := none

end Sys2Proof
end

