-- ==== Sys2Proof/Config.lean ====
section
/-! DEFINITION. What an implementation fixes and the values the manual leaves open: opaque constants,
of which no proof can see a value. -/

namespace Sys2Proof.Config

/-- DESIGN CHOICE (log 2). A fresh value the spec does not state, for each use of the state's counter:
UNLOCK_CHALLENGE (R330, R350), and the other values that log 2 lists. -/
opaque freeValue : Nat → BitVec 256

/-- DESIGN CHOICE (log 3). R40 bounds EXP2, RCP and RSQ to within 1 ulp and says that they are the same on every
core. For function number 1 (EXP2), 2 (RCP), 3 (RSQ) and the FP32 bits of the input, this picks the delivered
value: of the two neighbouring FP32 values of an exact result that is none, an odd number the upper one; of an exact
result that is an FP32 value, 0 mod 3 that value, 1 mod 3 the FP32 value above it, 2 mod 3 the one below it. -/
opaque funcPick : Nat → BitVec 32 → Nat

/-- PRESUMED (log 5). SHAKE256 with 64 bytes of output (R332, R339, R346), a named standard outside the spec: a
function of the length in bytes and of the bytes that are not zero, by offset. -/
opaque shake256 : Nat → List (Nat × Byte) → BitVec 512

/-- PRESUMED (log 5). Falcon-1024 verification (R338, R339, R349): key number (0, 1 firmware, 2 service), the signed
bytes as a number, the signature bytes as a number. -/
opaque falconVerify : Nat → Nat → Nat → Bool

/-- PRESUMED (log 5). The identity key's Falcon-1024 signature (1,280 bytes) over a quote (R348). -/
opaque falconSign : Nat → Nat

/-- DESIGN CHOICE (log 5). IDENTITY_KEY of a provisioned device (R322, R345), 1,793 bytes as a number. -/
opaque identityKey : Nat

/-- DESIGN CHOICE (log 5). The fused ROM digest (R337, R348) and whether the ROM meets it. -/
opaque romMeasure : BitVec 512

/-- DESIGN CHOICE (log 6). ROM_VERSION (R322), from the boot ROM. -/
opaque romVersion : BitVec 32

/-- DESIGN CHOICE (log 34). Where a storage port's queues and PRP lists lie (R301): for port k and area 0 admin submission, 1 I/O
submission, 2 admin completion, 3 I/O completion, 4 PRP lists, 5 image headers, the offset in the die's system granule. -/
opaque nvmePlace : Nat → Nat → Nat

/-- DESIGN CHOICE (log 2). How a SELFTEST_FAIL record carries the time of the last passing test and the first step after it in DETAIL and
AUX (R281, R294). -/
opaque selftestWords : Nat → Nat → Nat

/-- DESIGN CHOICE (log 2). The code with which STEP_RESTART names its cause in DETAIL (R279, R294): 1 no valid micro-batch, 2 a lost die, 3
a lost cluster. -/
opaque restartCode : Nat → Nat

end Sys2Proof.Config
end

