-- ==== Sys2Proof/Machine/State.lean ====
section
/-! DEFINITION. The state of the GL-3072 as plain data, its reset, and the ways a command can stop. -/

namespace Sys2Proof.Machine

open Sys2Proof

/-- Bytes with the word code (R248, R252): the listed bytes (every other byte reads 0x00), and, by
word number (address / 16), the syndrome of the word's stored check bits against its stored data
(unlisted: 0x0000, clean). A poison word is sixteen zero bytes with syndrome 0x0831 (R251). -/
structure Mem where
  bytes : List Host.Cell
  syn : SMap (BitVec 16)
deriving DecidableEq, Repr

/-- A floating-point value: NaN, an infinity, or (-1)^neg · m · 2^e (R48, R54). A zero is m = 0, e = 0. -/
inductive Num where
  | nan
  | inf (neg : Bool)
  | fin (neg : Bool) (m : Nat) (e : Int)
deriving DecidableEq, Repr

/-- The bits of one tile-store byte that an array output writes: the address, the mask of the bits
written (a nibble or the byte, R39) and their value. -/
structure OutByte where
  addr : Nat
  mask : Byte
  val : Byte
deriving DecidableEq, Repr

/-- A tile that an array instruction reads: address, bytes, and read point (R29), counted from the issue of the instruction
that is being issued, and as an island cycle once it stands in a slice. -/
structure TileRead where
  addr : Nat
  len : Nat
  at_ : Nat
deriving DecidableEq, Repr

/-- What the drain of a TPROD took at issue (R29, R32, R60): accumulator tile, specification, masks, generator, and the
row-vector tiles it reads. -/
structure DrainSrc where
  acc : Nat
  spec : Drain
  rows : W32
  cols : W32
  seed : BitVec 64
  cnt : Nat
  vecs : Mem
deriving DecidableEq, Repr

/-- A pending array output (R29, R82): it becomes visible at island cycle `vis` (the manual's L). `regions` are those that its
tiles touch, written or masked (R82), `words` the words it writes. The values of a TPROD's output are filled in from `src` when
its last slice has been read. -/
structure PendOut where
  vis : Nat
  ia : Nat
  poison : Bool
  regions : BitVec 64
  words : List Nat
  cells : List OutByte
  src : Option DrainSrc
deriving DecidableEq, Repr

/-- A slice of an issued TPROD, read at island cycle `at_` (R24, R29): its number in the product, the accumulator tile, whether
it replaces the contents, whether its product clears the poison mark (R31), formats and tiles of the two edges, the masks, and
the L of the output whose drain begins when this slice, the last, is in. -/
structure PendSlice where
  at_ : Nat
  ix : Nat
  acc : Nat
  replace : Bool
  clears : Bool
  int8 : Bool
  fmtL : Fmt
  fmtT : Fmt
  left : List TileRead
  top : List TileRead
  rows : W32
  cols : W32
  vis : Option Nat
deriving DecidableEq, Repr

/-- A read of a tile-store region by an issued array instruction, with its last read point (R82). -/
structure AReadMark where
  region : Nat
  point : Nat
deriving DecidableEq, Repr

/-- What occupies one of a core's four move slots (R81): a TLOAD, a TSTORE, or a ring descriptor that
reads from or writes into the core's tile store (R83, R241). -/
inductive MKind where
  | load | store | ringInto | ringFrom
deriving DecidableEq, Repr

/-- A tile move in flight (R78 to R87). `segs` are the memory rows (address, bytes), `lines` the device lines in request order, `got` the
positions already answered, `rows` the tile rows written, `buf` the bytes gathered (load) or to be
written (store), by device address; `stalled` is the position that a limit of R132 stops. -/
structure Move where
  kind : MKind
  serial : Nat
  ia : Nat
  args : MoveArgs
  addr : Nat
  stride : Int
  scl : Nat
  tag : Nat
  regions : BitVec 64
  ring : Nat
  segs : List (Nat × Nat)
  lines : List Nat
  got : List Nat
  rows : BitVec 32
  buf : Mem
  retries : Nat
  stallSince : Option Nat
  stalled : Option Nat
  tripped : Bool
deriving DecidableEq, Repr

/-- What an instruction that cannot issue waits for (R68). -/
inductive HoldWhy where
  | scoreboard | moveSlot | counter (ctr : Nat) | deferral | event | cacheOp | icache
deriving DecidableEq, Repr

/-- An instruction held at issue (R68), what it waits for, since when (µs), and TRIPPED (R154). -/
structure Hold where
  instr : Instr
  why : HoldWhy
  since : Nat
  tripped : Bool
deriving DecidableEq, Repr

/-- Where a core stands in its task (R118, R121, R149). -/
inductive CPhase where
  | free | running | ending | passed
deriving DecidableEq, Repr

/-- Who sent an increment (R144, R147): a core for its task, by the task's number in the cluster; a slot that committed released it
(R134), and no task waits for its acknowledgement. -/
inductive Sender where
  | core (cl : Cl) (c : Cn) (key : Nat)
  | released (cl : Cl)
  | steward (cl : Cl)
  | ring (cl : Cl) (n : Rn)
  | dispatcher (cl : Cl)
deriving DecidableEq, Repr

/-- An increment on its way (R138, R139): counter name, amount, sender, the sender's partition. -/
structure Packet where
  ctr : Nat
  amt : Nat
  sender : Sender
  part : Nat
deriving DecidableEq, Repr

/-- A CINC with WHEN = DONE that waits (R89, R144): it acts once every output up to cycle `vis` is
visible and every move with a serial below `before` is complete. -/
structure Armed where
  ctr : Nat
  amt : Nat
  vis : Nat
  before : Nat
deriving DecidableEq, Repr

/-- Whose a posted descriptor is (R233, R245, R130): the address of the posting instruction, the poster's task in its
cluster (0 for a steward core) and its core set, the poster's speculative slot, and whether its task has been aborted or discarded since
(R88, R137). -/
structure PostBy where
  ia : Nat
  key : Nat
  cores : BitVec 12
  slot : Option Nat
  gone : Bool
deriving DecidableEq, Repr

/-- A post on its way (R233): ring, source address, region for a core's post, and its poster. -/
structure Post where
  ring : Nat
  src : Nat
  region : Option Nat
  who : PostBy
deriving DecidableEq, Repr

/-- A counter read on its way (R146). -/
structure CRead where
  sd : Nat
  ctr : Nat
  expected : Bool
deriving DecidableEq, Repr

/-- A logical core (R68 to R90). `slices` are the slices that issued TPRODs have still to read (R29). The banks (R71): `grants`
holds the words that the collectors are granted by cycle, `readq` and `writeq` the words that move reads and move writes still
ask for, each with the serial of its move, and `bankCyc` the first cycle that the banks have not served yet. -/
structure Core where
  regs : SMap Word
  npc : Option Nat
  fmtA : Fmt
  fmtB : Fmt
  rowMask : W32
  colMask : W32
  seed : BitVec 64
  srCount : BitVec 64
  acc : SMap Num
  accPoison : BitVec 4
  ts : Mem
  cyc : Nat
  edgeFree : Nat
  slotFree : Nat
  drainFree : Nat
  wbDone : Nat
  accDrained : SMap Nat
  accDone : SMap Nat
  outs : List PendOut
  slices : List PendSlice
  areads : List AReadMark
  grants : List (Nat × List Nat)
  readq : List (Nat × Nat)
  writeq : List (Nat × Nat)
  bankCyc : Nat
  moves : SMap Move
  moveSerial : Nat
  incomplete : BitVec 64
  latchA : List (Nat × List Nat)
  latchB : List (Nat × List Nat)
  hold : Option Hold
  task : Option Nat
  phase : CPhase
  unacked : Nat
  armed : List Armed
  creads : List CRead
  posts : List Post
  touched : List Nat
  toSettle : List Nat
  settleWait : Nat
  deferStall : Option Nat
  deferTripped : Bool
  bankConf : Nat
  reuseHits : Nat
  icache : List Nat
  fetchBad : Option Nat
  schedCheck : Bool
  lastIa : Nat
deriving DecidableEq, Repr

/-- A core as reset leaves it (R352): masks as R32 states, everything else clear. -/
def Core.init : Core where
  regs := []
  npc := none
  fmtA := .bf16
  fmtB := .bf16
  rowMask := 0xFFFFFFFF#32
  colMask := 0xFFFFFFFF#32
  seed := 0
  srCount := 0
  acc := []
  accPoison := 0
  ts := ⟨[], []⟩
  cyc := 0
  edgeFree := 0
  slotFree := 0
  drainFree := 0
  wbDone := 0
  accDrained := []
  accDone := []
  outs := []
  slices := []
  areads := []
  grants := []
  readq := []
  writeq := []
  bankCyc := 0
  moves := []
  moveSerial := 0
  incomplete := 0
  latchA := []
  latchB := []
  hold := none
  task := none
  phase := .free
  unacked := 0
  armed := []
  creads := []
  posts := []
  touched := []
  toSettle := []
  settleWait := 0
  deferStall := none
  deferTripped := false
  bankConf := 0
  reuseHits := 0
  icache := []
  fetchBad := none
  schedCheck := false
  lastIa := 0

/-- Physical-core state that does not follow a logical name: the repair word (R43), the self-test (R45 to R47) with the
energy measured in the test that runs (R161), the in-field repair that is being programmed (true: a column, and its
index; R44), the spent spare lines, and the counts of R329 from names that the core no longer serves. `lastPass` is the time of its
last passing test, `passStep` the first step of its home partition that begins after it (R281). -/
structure Phys where
  repair : W32
  testDue : Bool
  testing : Bool
  testEnergy : Nat
  prevStart : Nat
  lastPass : Nat
  passStep : Nat
  fuseWait : Option (Bool × Nat)
  retireDue : Bool
  spareRowSpent : Bool
  spareColSpent : Bool
  conf : Nat
  reuse : Nat
deriving DecidableEq, Repr

/-- Physical state before option loading: an unused spare row and column (log 6). -/
def Phys.init : Phys where
  repair := 0x00020800#32
  testDue := false
  testing := false
  testEnergy := 0
  prevStart := 0
  lastPass := 0
  passStep := 0
  fuseWait := none
  retireDue := false
  spareRowSpent := false
  spareColSpent := false
  conf := 0
  reuse := 0

/-- A steward core (R122, R123, R385, R386). An event record is eight 64-bit words, word 0 lowest. -/
structure Steward where
  regs : SMap Word
  npc : Option Nat
  hold : Option Hold
  evq : List (BitVec 512)
  evLost : Nat
  evRec : BitVec 512
  cwstat : Nat
  stopped : Bool
  passBreak : Option Nat
  unacked : Nat
  creads : List CRead
  posts : List Post
  icache : List Nat
  fetchBad : Option Nat
  lastIa : Nat
deriving DecidableEq, Repr

/-- A steward core at reset. -/
def Steward.init : Steward where
  regs := []
  npc := none
  hold := none
  evq := []
  evLost := 0
  evRec := 0
  cwstat := 0
  stopped := false
  passBreak := none
  unacked := 0
  creads := []
  posts := []
  icache := []
  fetchBad := none
  lastIa := 0

/-- A running task (R118 to R124): its ring and home cluster, descriptor, core set, slot, start time,
cores that have passed step 3 of R149, hub counters they touched, energy booked (2⁻⁸ µJ). -/
structure TaskRun where
  ring : Nat
  home : Cl
  desc : BitVec 512
  slotAddr : Nat
  coreset : BitVec 12
  slot : Option Nat
  start : Nat
  passed : BitVec 12
  energy : Nat
deriving DecidableEq, Repr

/-- Where a speculative slot stands (R131, R134, R135). -/
inductive SlotSt where
  | free | running | ended | committing | discarding
deriving DecidableEq, Repr

/-- A speculative slot (R130 to R137). `began` is the µs in which its commit began, `written` the
byte-written mask of each shadow line, `marks` its hint and tensor tag
(R212). -/
structure Slot where
  st : SlotSt
  desc : BitVec 512
  home : Cl
  taskKey : Nat
  began : Nat
  due : Bool
  dueBy : Nat
  cause : Nat
  shadow : Mem
  written : SMap (BitVec 128)
  marks : List (Nat × Hint × Nat)
  deferq : List Packet
deriving DecidableEq, Repr

/-- A free slot. -/
def Slot.init : Slot where
  st := .free
  desc := 0
  home := 0
  taskKey := 0
  began := 0
  due := false
  dueBy := 0
  cause := 0
  shadow := ⟨[], []⟩
  written := []
  marks := []
  deferq := []

/-- A line of a cluster cache (R212): dirty or clean, valid bytes, hint, tensor tag, last use, whether a write-back of it is on
its way (the line stays dirty until that is accepted, R189), and whether it has been written again since that went out. -/
structure Line where
  dirty : Bool
  mask : BitVec 128
  hint : Hint
  tag : Nat
  age : Nat
  wb : Bool
  again : Bool
deriving DecidableEq, Repr

/-- The default of a table of lines; a line that is listed is present. -/
def Line.init : Line := ⟨false, 0, .keep, 0, 0, false, false⟩

/-- A stream detector (R220): requester, last missed line, cycle of the last miss, and the
tensor tag it asks with; a detector that is listed runs. -/
structure Detector where
  who : Requester
  last : Nat
  cyc : Nat
  tag : Nat
deriving DecidableEq, Repr

/-- A cluster cache (R212 to R220) with its permission cache (R210). -/
structure Cache where
  mem : Mem
  lines : SMap Line
  tick : Nat
  perm : List (Nat × BitVec 4)
  permWaits : List CReq
  fillWaits : List CReq
  detectors : List (Option Detector)
  lastMiss : List (Requester × Nat × Nat)
  fills : Nat
  writebacks : Nat
  evKeep : Nat
  evStream : Nat
  evDead : Nat
  prefetches : Nat
  pageLimits : Nat
  lastData : List Byte
  lastStatus : Nat
deriving DecidableEq, Repr

/-- An empty cluster cache. -/
def Cache.init : Cache where
  mem := ⟨[], []⟩
  lines := []
  tick := 0
  perm := []
  permWaits := []
  fillWaits := []
  detectors := []
  lastMiss := []
  fills := 0
  writebacks := 0
  evKeep := 0
  evStream := 0
  evDead := 0
  prefetches := 0
  pageLimits := 0
  lastData := []
  lastStatus := 0

/-- An island's state at its crossings (R183), and not yet released (R356). -/
inductive Isl where
  | held | running | fenced | gated
deriving DecidableEq, Repr

/-- A cluster's trace writer (R372). -/
structure Trace where
  buf : List Rec
  lines : List (List Rec)
  written : Nat
  dropped : Nat
  lost : Nat
deriving DecidableEq, Repr

/-- Whether a breakpoint has halted a cluster (R380). -/
inductive BrkSt where
  | none | halting (slot : Nat) | halted (slot : Nat)
deriving DecidableEq, Repr

/-- A record of a balance fault (R150): unit of the core, counter name, value, expected register, deferred sum, difference, and the
unit of the waiter that was found held, if one was. -/
structure BalRec where
  unit : Nat
  ctr : Nat
  value : W32
  expected : W32
  deferred : Nat
  diff : W32
  waiter : Option Nat
deriving DecidableEq, Repr

/-- A cluster: dispatcher, speculative slots, cache, island, thermal state, trace (R3). `balance` holds the records of its last balance
fault, at most eight, and `balanceMore` whether more counters were unbalanced (R150). `xing` is the crossing FIFO into its
island, of 8 flits, the oldest first (R182). `discards` counts the flits that the
router discarded (R183); `flit` is the status with which the last flit for the island was answered, 0 if it was delivered. -/
structure Cluster where
  isl : Isl
  dispStopped : Bool
  tasks : SMap TaskRun
  nextKey : Nat
  slots : SMap Slot
  cache : Cache
  icache : List Nat
  ccLines : List Nat
  therm : Nat
  coolRun : Nat
  step : Nat
  temp : Int
  trace : Trace
  brk : BrkSt
  brkRings : BitVec 16
  balance : List BalRec
  balanceMore : Bool
  xing : List Flit
  discards : Nat
  flit : Nat
  vddArr : Nat
  vddCl : Nat
deriving DecidableEq, Repr

/-- A cluster that has not been released. Its step reads 15 (R325). -/
def Cluster.init : Cluster where
  isl := .held
  dispStopped := false
  tasks := []
  nextKey := 0
  slots := []
  cache := Cache.init
  icache := []
  ccLines := []
  therm := 0
  coolRun := 0
  step := 15
  temp := 0
  trace := ⟨[], [], 0, 0, 0⟩
  brk := .none
  brkRings := 0
  balance := []
  balanceMore := false
  xing := []
  discards := 0
  flit := 0
  vddArr := 0
  vddCl := 0

/-- STATE of R232. -/
inductive RingSt where
  | idle | running | stopping | halted
deriving DecidableEq, Repr

/-- Progress of the descriptor at the head of a data ring (R243). -/
inductive DescPh where
  | unread | checked | waiting | moving
deriving DecidableEq, Repr

/-- A descriptor in a ring's buffer (R228): its life number, its 64 bytes, and whether a word of it was
uncorrectable, poisoned or refused (R238, R117). -/
structure Buffered where
  num : Nat
  desc : BitVec 512
  bad : Bool
  slotAddr : Nat
deriving DecidableEq, Repr

/-- A descriptor in a task ring's held list (R124), with the address of the slot it came from. -/
structure Held where
  desc : BitVec 512
  slotAddr : Nat
deriving DecidableEq, Repr

/-- A ring (R228 to R247). `posted` and `granted` tell where its candidate stands with the ledger: an entry in the request
table; a grant on its way (both); a grant that has arrived (granted only). `keptAge` is the age kept for the descriptor at HEAD and
`keptHeld` for a retried one (R168); `readyRank` orders what became ready within one µs (R120). `wrOut` are the lines of the
running descriptor's writes that a cache or tile store has not answered, `wtOut` of those that a channel has not accepted, and
`wrOld` counts the unanswered writes of descriptors before it (R244). -/
structure Ring where
  rbase : Nat
  rcfg : Nat
  head : W32
  tail : W32
  ovrcnt : Nat
  cause : Nat
  overrun : Bool
  refused : Bool
  stopAs : Nat
  st : RingSt
  erraddr : Nat
  sumgot : Word
  donecnt : W32
  buf : List Buffered
  ph : DescPh
  next : Nat
  wrOut : List Nat
  wtOut : List Nat
  wrOld : Nat
  retries : Nat
  sum : Nat
  sumBytes : Nat
  waitSince : Option Nat
  wait2Since : Option Nat
  tripped : Bool
  tripped2 : Bool
  held : List Held
  cand : Bool
  badTask : Bool
  readySince : Option Nat
  readyRank : Nat
  keptAge : Option Nat
  keptHeld : Option Nat
  posted : Bool
  granted : Bool
  grantAge : Nat
  target : Option Cl
  postBy : SMap PostBy
deriving DecidableEq, Repr

/-- A ring at the start of a run (R230). -/
def Ring.init : Ring where
  rbase := 0
  rcfg := 0
  head := 0
  tail := 0
  ovrcnt := 0
  cause := 0
  overrun := false
  refused := false
  stopAs := 0
  st := .idle
  erraddr := 0
  sumgot := 0
  donecnt := 0
  buf := []
  ph := .unread
  next := 0
  wrOut := []
  wtOut := []
  wrOld := 0
  retries := 0
  sum := 0
  sumBytes := 0
  waitSince := none
  wait2Since := none
  tripped := false
  tripped2 := false
  held := []
  cand := false
  badTask := false
  readySince := none
  readyRank := 0
  keptAge := none
  keptHeld := none
  posted := false
  granted := false
  grantAge := 0
  target := none
  postBy := []

/-- A sync counter (R141, R151). -/
structure Counter where
  value : W32
  expected : W32
  settled : Bool
deriving DecidableEq, Repr

/-- A counter at the start of a run (R141). -/
def Counter.init : Counter := ⟨0, 0, false⟩

/-- The sync network (R138 to R147): increments and acknowledgements on their way. -/
structure Net where
  flight : List Packet
  acks : List Sender
deriving DecidableEq, Repr

/-- An entry of an account's request table (R166). -/
structure LReq where
  cl : Cl
  ring : Nat
  eclass : Nat
  ready : Nat
  rank : Nat
  target : Cl
deriving DecidableEq, Repr

/-- A true-up on its way to an account (R165, R171): measured and declared energy, ring, TASK_ID, home. -/
structure TrueUp where
  em : Nat
  d : Nat
  selftest : Bool
  refund : Bool
  home : Cl
  ring : Nat
  taskId : Nat
deriving DecidableEq, Repr

/-- A ledger account (R159 to R171). Energies in units of 2⁻⁸ µJ. -/
structure Acct where
  credit : Int
  cap : Int
  share : Nat
  background : Nat
  reqs : List LReq
  score : Nat
  starved : Nat
  starvedDue : Bool
  dues : List TrueUp
  lastNet : Int
  admissions : Nat
  guardAdmits : Nat
deriving DecidableEq, Repr

/-- The package guard, power and thermal records (R172 to R177, R323). Powers in W. -/
structure Power where
  g : Nat
  aboveRun : Nat
  peak : Nat
  stepdowns : Nat
  hold : Bool
  goodRun : Nat
  lastAbove2100 : Bool
  pkg : Nat
  hub : Nat
  dies : List Nat
  guardStarts : Nat
  dieTemps : List Int
  thermalStepdowns : Nat
  underDeclared : Nat
  creditStarved : Nat
  tripped : Bool
deriving DecidableEq, Repr

/-- Where a link stands (R189, R190, R356). -/
inductive LinkSt where
  | untrained | up | retraining | down
deriving DecidableEq, Repr

/-- A link (R189), with its spare lanes toward the higher-numbered die or the hub, and back. -/
structure Link where
  st : LinkSt
  half : Bool
  toHalf : Bool
  spares : Nat
  sparesBack : Nat
  replays : Nat
  retrains : Nat
  winReplays : List Nat
  recent : List Nat
deriving DecidableEq, Repr

/-- A link that has not been trained; every link has 4 spare lanes in each direction (R189). -/
def Link.init : Link := ⟨.untrained, false, false, 4, 4, 0, 0, [], []⟩

/-- Links, core map and die state (R189 to R200): `remapDue` holds the core-map indices of the logical cores that wait for a
coppice remap (R195), `remapped` the dies whose remaps have been re-established since reset (R197). `buffers` holds the flits that wait in the link
buffers of the routers, by router, output and virtual channel (R185), the oldest first; `endsFenced` the link ends declared failed,
as link and die (R183). -/
structure Fabric where
  links : SMap Link
  buffers : SMap (List Flit)
  endsFenced : List (Nat × Nat)
  dieFenced : BitVec 4
  coreMap : SMap (BitVec 16)
  phys : SMap Phys
  remapDue : List Nat
  remapped : BitVec 4
  mapGen : W32
  gradeFused : Nat
  gradeNow : Nat
  selftestRuns : Nat
  selftestFails : Nat
  repairsBlown : Nat
deriving DecidableEq, Repr

/-- Who waits for the acceptance of a write (R384): a write-back of a cluster cache, or a ring's descriptor by its number. -/
inductive Writer where
  | writeBack (cl : Cl) (line : Nat)
  | ring (cl : Cl) (n : Rn) (num : Nat)
deriving DecidableEq, Repr

/-- A write on its way to a DRAM channel (R384): line, mask of the bytes written, their values at their device addresses
with poison marks, and who waits. -/
structure WReq where
  line : Nat
  mask : BitVec 128
  data : Mem
  writer : Writer
deriving DecidableEq, Repr

/-- A channel's scrubber (R258, R259): next channel address, the line held and its corrected bytes. -/
structure Scrub where
  pos : Nat
  held : Option Nat
  pendWrites : List WReq
deriving DecidableEq, Repr

/-- DRAM and what surrounds it (R203 to R211, R258, R384); `fenced` are the channels
declared failed and `discards` the writes discarded for them (R183); `poisonSeen` counts the poisoned words that scrubbers met (R259);
`touched` holds, by partition, the dies whose state ranges have taken a write or an error in the step that runs (R282). -/
structure DramSt where
  mem : Mem
  wq : List WReq
  wacks : List WReq
  permTable : SMap (BitVec 4)
  scrub : SMap Scrub
  fenced : List Nat
  discards : Nat
  touched : SMap (BitVec 4)
  scrubPasses : Nat
  poisonSeen : Nat
  lastRead : BitVec 128
  lastVerdict : Nat
deriving DecidableEq, Repr

/-- A running or queued error handler (R265). -/
structure Handler where
  err : ErrIn
  scope : Scope
  preempted : Bool
deriving DecidableEq, Repr

/-- The management processor's errors, counts and log (R260, R265 to R267, R334 to R336). A device fence has its causes, or the field
link (`fenceField`), and DEVICE_FENCED is due until the dumps are complete (R266, R311). -/
structure Mgmt where
  inbox : List (ErrIn × Scope)
  running : List Handler
  queue : List Handler
  ce : Nat
  de : Nat
  ur : Nat
  fatal : Nat
  lostCe : Nat
  lostDe : Nat
  lostUr : Nat
  ceUnits : SMap Nat
  storms : List Nat
  urUnits : SMap (List Nat)
  logCount : Nat
  mirror : List Rec
  slots : SMap Rec
  fenced : Bool
  fencedDue : Bool
  fenceField : Bool
  fenceCauses : List ErrIn
deriving DecidableEq, Repr

/-- RUN_STATE of R324. -/
inductive RunSt where
  | noRun | running | hung | stopping | fenced
deriving DecidableEq, Repr

/-- A hang dump (R377, R378): its cause, the unit at fault (0 for none), wait, producer, core, ring and slot records. -/
structure Dump where
  cause : Nat
  unit : Nat
  freeze : Nat
  step : Nat
  waits : List Rec
  prods : List Rec
  cores : List (BitVec 512)
  rings : List (BitVec 512)
  slots : List Rec
deriving DecidableEq, Repr

/-- The trace layout of a run (R371). -/
structure TraceLay where
  on : Bool
  base : Nat
  size : Nat
  nClusters : Nat
  segLen : Nat
  watchLen : Nat
  start : Nat
deriving DecidableEq, Repr

/-- A partition (R2, R92, R112, R268 to R287, R324, R346, R371 to R383). By die: `runDies` take part in the run and are not
lost, `shardDies` are those whose shard has passed to the partner (R283), `endSeen` holds the value of hub counter 57 that
the last step end has used (R272), `mirroring`, `flash` and `ckptSlots` the slot that a mirror writes, that a flash copy
reads, that the host holds, `lastSlot` the slot that the last mirror wrote, `liveSlot` the slot whose body is the live state of a lost
die's shard (R283). `rolling` is the step of the image that is
being read back; `startReq` says that a START waits for the remaps of R197. `dropDies` are the dies whose rings are stopped for a
drop, `dropLater` those whose drop waits for a restore (R286); `faults` are the logical cores, by core-map index, whose faults the
step has met, and `releaseDue` says that hub counter 58 waits for their tests and remaps (R280). -/
structure Part where
  run : RunSt
  startReq : Bool
  startAt : Nat
  dropped : Nat
  frozen : Bool
  stopCause : Nat
  dieValid : BitVec 4
  runDies : BitVec 4
  shardDies : BitVec 4
  stepNow : W32
  flashStep : W32
  prot : Nat
  ckptStep : W32
  ckptSince : Option Nat
  ckptSlots : SMap Nat
  endSeen : SMap Nat
  mirroring : SMap Nat
  lastSlot : SMap Nat
  watching : Bool
  flash : SMap Nat
  restoring : BitVec 4
  restartCause : Nat
  rolling : Option Nat
  ackDue : Bool
  dropDies : BitVec 4
  dropLater : BitVec 4
  liveSlot : SMap Nat
  faults : List Nat
  releaseDue : Bool
  pm : BitVec 512
  progCount : Nat
  wxPages : Nat
  pages : List Nat
  dump : Option Dump
  dumpBytes : Nat
  dumpDue : Bool
  hangDue : Bool
  trace : TraceLay
  haltSince : Option Nat
deriving DecidableEq, Repr

/-- A partition with no run. PROTECTION defaults to 3 (R287). -/
def Part.init : Part where
  run := .noRun
  startReq := false
  startAt := 0
  dropped := 0
  frozen := false
  stopCause := 0
  dieValid := 0
  runDies := 0
  shardDies := 0
  stepNow := 0
  flashStep := 0
  prot := 3
  ckptStep := 0
  ckptSince := none
  ckptSlots := []
  endSeen := []
  mirroring := []
  lastSlot := []
  watching := false
  flash := []
  restoring := 0
  restartCause := 0
  rolling := none
  ackDue := false
  dropDies := 0
  dropLater := 0
  liveSlot := []
  faults := []
  releaseDue := false
  pm := 0
  progCount := 0
  wxPages := 0
  pages := []
  dump := none
  dumpBytes := 0
  dumpDue := false
  hangDue := false
  trace := ⟨false, 0, 0, 0, 0, 0, 0⟩
  haltSince := none

/-- Device totals of R287. -/
structure CkTotals where
  droppedMb : Nat
  stepRestarts : Nat
  optRepeats : Nat
  shardSkips : Nat
  mirrorsSkipped : Nat
deriving DecidableEq, Repr

/-- A write that waits for the end of its dictionary cycle (R318). -/
structure DWrite where
  field : Bool
  src : Nat
  fn : Nat
  hub : Nat
  idx : Nat
  sub : Nat
  off : Nat
  len : Nat
  val : Nat
deriving DecidableEq, Repr

/-- The object dictionary (R314 to R331): stored values by 256·index + subindex, little-endian; `twDue` is the test-window
command that waits to act (R262), 0 for none. -/
structure Dict where
  vals : SMap Nat
  twDue : Nat
  waiting : List DWrite
  clampCount : Nat
  clamps : SMap Rec
deriving DecidableEq, Repr

/-- What a control-port function last received as a completion (R289, R297): data bytes, words marked
poisoned, Completer Abort, vectors sent (MSI-X messages so far). -/
structure Resp where
  data : List Byte
  poisoned : List Nat
  abort : Bool
deriving DecidableEq, Repr

/-- A doorbell (R293): number, value, merges so far, when its event was queued, and the partition to which its function was bound at the
write. -/
structure Bell where
  n : Nat
  v : W32
  merges : Nat
  at_ : Nat
  part : Nat
deriving DecidableEq, Repr

/-- A control-port function (R289 to R297, R348). `objBusy` tells where its object request stands: 0 none, 1 a read, 2 a write that
waits for its commit, 3 a committed write, 16 + c refused with cause c; `reqIndex`, `reqSub` and `reqOff` are what a read asked for.
`msixTab` is the MSI-X table: two entries of 16 bytes, bit 96 of each its mask. -/
structure Fn where
  objIndex : Nat
  objSub : Nat
  objOff : Nat
  objState : Nat
  objCause : Nat
  objClamps : Nat
  objLen : Nat
  objBusy : Nat
  objBuf : List Host.Cell
  reqIndex : Nat
  reqSub : Nat
  reqOff : Nat
  evBase : Word
  evSize : Nat
  evHead : W32
  evTail : W32
  evLost : Nat
  evWait : List Rec
  armed : Bool
  winBase : Nat
  msixTab : BitVec 256
  msixPending : BitVec 2
  msixSent0 : Nat
  msixSent1 : Nat
  bells : List Bell
  lastBell : Option Bell
  nonce : Rec
  quote : Nat
  quoteDue : Bool
  aer : Nat
  resp : Resp
deriving DecidableEq, Repr

/-- A function at reset (R290, R292, R294): MSI-X masked, event queue armed. -/
def Fn.init : Fn where
  objIndex := 0
  objSub := 0
  objOff := 0
  objState := 0
  objCause := 0
  objClamps := 0
  objLen := 0
  objBusy := 0
  objBuf := []
  reqIndex := 0
  reqSub := 0
  reqOff := 0
  evBase := 0
  evSize := 0
  evHead := 0
  evTail := 0
  evLost := 0
  evWait := []
  armed := true
  winBase := 0
  msixTab := 0x0000000100000000000000000000000000000001000000000000000000000000#256
  msixPending := 0
  msixSent0 := 0
  msixSent1 := 0
  bells := []
  lastBell := none
  nonce := 0
  quote := 0
  quoteDue := false
  aer := 0
  resp := ⟨[], [], false⟩

/-- A semaphore (R298, R299). The holder is a port: false A, true B. `lossDue` says that the hold is lost once the holder's object
write has been applied. -/
structure Sema where
  holder : Option Bool
  gen : BitVec 16
  ownerLost : Bool
  fieldWrote : Bool
  since : Nat
  tieLoser : Bool
  lossDue : Bool
deriving DecidableEq, Repr

/-- A free semaphore with generation 0 (R352); the first tie goes to A (R299). -/
def Sema.init : Sema := ⟨none, 0, false, false, 0, false, false⟩

/-- A control port's link (R328, R362), and NumVFs, the virtual functions that its host has enabled (R288). -/
structure CtrlPort where
  gen : Nat
  width : Nat
  flit : Bool
  refPresent : Bool
  down : Bool
  vfs : Nat
deriving DecidableEq, Repr

/-- Control ports, functions and semaphores (R288 to R300). -/
structure Ports where
  fns : SMap Fn
  semas : SMap Sema
  portA : CtrlPort
  portB : CtrlPort
  hostMem : SMap Rec
  staleReleases : Nat
  ignoredWrites : Nat
  winDrops : Nat
  clockFails : Nat
  sysclk : Bool
deriving DecidableEq, Repr

/-- An NVMe command's operation (R303). -/
inductive NvmeOp where
  | read | write | flush | zeroes
deriving DecidableEq, Repr

/-- An outstanding NVMe command (R303, R304): its identifier, its operation, and the device addresses that its PRP entries name. -/
structure NvmeCmd where
  cid : Nat
  op : NvmeOp
  addr : Nat
  len : Nat
deriving DecidableEq, Repr

/-- A copy or a read of an image on one port (R276, R285): the partition and the die of the image, its direction, the ranges of device
addresses in order, the next of the port's 128 KiB units, and the stage: 0 not begun, 1 to 5 the steps of R276, 6 finished. -/
structure NvmeJob where
  part : Nat
  die : Nat
  write : Bool
  ranges : List (Nat × Nat)
  next : Nat
  stage : Nat
deriving DecidableEq, Repr

/-- A storage port (R301 to R304, R328). State 0 DOWN, 1 BRINGING_UP, 2 UP: the queues exist. `lbaBytes` and `zeroes` are what the SSD has
told of itself (R302, R303), `jobs` the copies and reads of the port, the oldest first, `cmds` the commands in its I/O queue. `lastUr`
says whether the last inbound request received Unsupported Request (R304). -/
structure SPort where
  st : Nat
  cause : Nat
  smart : Byte
  resets : List Nat
  violations : Nat
  perst : Bool
  lbaBytes : Nat
  zeroes : Bool
  jobs : List NvmeJob
  cmds : List NvmeCmd
  nextCid : Nat
  lastUr : Bool
deriving DecidableEq, Repr

/-- A storage port in reset, S_PERST_N low (R353). -/
def SPort.init : SPort := ⟨0, 0, 0, [], 0, true, 0, false, [], [], 0, false⟩

/-- A flash image of a die's SSD pair (R276): header and body. -/
structure Image where
  valid : Bool
  step : W32
  bytes : Nat
  sum : Word
  body : Mem
deriving DecidableEq, Repr

/-- An image area that holds no valid image (log 7). -/
def Image.init : Image := ⟨false, 0, 0, 0, ⟨[], []⟩⟩

/-- Storage ports and SSD images, images keyed 2·die + area (R276, R301). -/
structure Store where
  ports : SMap SPort
  images : SMap Image
deriving DecidableEq, Repr

/-- The field ports (R305 to R312). `down` and `outDown` tell that F-in and F-out have lost their generators (R362). -/
structure Field where
  lastExec : Option Nat
  lastGood : Nat
  outLink : Bool
  turned : Bool
  forwarded : Option Frame
  returned : Option Frame
  badFrames : Nat
  earlyFrames : Nat
  lastCycle : Nat
  down : Bool
  outDown : Bool
  lost : Bool
deriving DecidableEq, Repr

/-- Fuses (R4, R43, R191, R322, R338, R340, R349). -/
structure Fuses where
  grade : Nat
  coreMap : SMap (BitVec 16)
  repair : SMap W32
  serial : Word
  rev : Byte
  svn : Nat
  openings : Nat
  key0Revoked : Bool
deriving DecidableEq, Repr

/-- Firmware and update (R332 to R344). Flash and hold area are byte stores. -/
structure Fw where
  fuses : Fuses
  flash : Mem
  hold : Mem
  holdDie : Option Nat
  state : Nat
  cause : Nat
  progress : Nat
  cmd : Nat
  recovery : Bool
  inRecovery : Bool
  recOwner : Option Nat
  version : W32
  svn : Nat
  measure : BitVec 512
  up : Bool
  upSince : Nat
  bootSource : Nat
deriving DecidableEq, Repr

/-- Service access, identity, sealed store (R345 to R350). -/
structure Trust where
  service : Bool
  scope : Nat
  challenge : Rec
  opening : Option Nat
  erased : Bool
  tokenWaiting : Bool
  hasIdentity : Bool
  sealedAt : Option Nat
deriving DecidableEq, Repr

/-- Reset phases (R354). -/
inductive Phase where
  | hold | optionLoading | release (step : Nat) | up
deriving DecidableEq, Repr

/-- Reset, boot and straps (R351 to R360). `base` is the time in µs that had passed before the last reset (MODEL), on which
the falling edges of RESET_N are kept. -/
structure Boot where
  phase : Phase
  source : Nat
  recorded : Bool
  pwrgd : Bool
  resetLow : Bool
  holdOff : Bool
  base : Nat
  edges : List Nat
  jtagHold : Bool
  calOk : BitVec 4
  calBad : BitVec 4
  calStopped : Bool
  watchdog : Bool
  bootSrc : Nat
  clkMode : Nat
  cfgRes : Nat
  vddIoLow : Bool
deriving DecidableEq, Repr

/-- JTAG instructions (R369). -/
inductive JInstr where
  | idcode | bypass | sample | extest | clamp | highz | dbgAccess | dbgReset
deriving DecidableEq, Repr

/-- JTAG test logic (R369, R370). -/
structure Jtag where
  ir : JInstr
  tdr : Nat
  boundary : Nat
  debug : Bool
deriving DecidableEq, Repr

/-- Output pins (R353, R366): true is high. -/
structure Pins where
  thermtripN : Bool
  devFaultN : Bool
deriving DecidableEq, Repr

/-- The state of the device. -/
structure State where
  now : Nat
  freeCtr : Nat
  cores : SMap Core
  stewards : SMap Steward
  clusters : SMap Cluster
  rings : SMap Ring
  counters : SMap Counter
  net : Net
  accts : SMap Acct
  power : Power
  fabric : Fabric
  dram : DramSt
  mgmt : Mgmt
  parts : SMap Part
  totals : CkTotals
  dict : Dict
  ports : Ports
  store : Store
  field : Field
  fw : Fw
  trust : Trust
  boot : Boot
  jtag : Jtag
  pins : Pins
  pending : List Instr
deriving DecidableEq, Repr

/-- The share of an account at P = 1,800 W with four dies, in mW (R158, R159). -/
def Acct.shareDefault : Nat := 108125

/-- An account at reset: credit at its cap (R331), the share and cap of P = 1,800 W (R158, R164). -/
def Acct.init : Acct where
  credit := 2768000
  cap := 2768000
  share := Acct.shareDefault
  background := 0
  reqs := []
  score := 0
  starved := 0
  starvedDue := false
  dues := []
  lastNet := 0
  admissions := 0
  guardAdmits := 0

/-- DESIGN CHOICE (log 6). The fused core map of a grade A part that meets R4: on every die core 11 of the
first eight clusters is a field spare (STATE 1) and core 11 of the next twenty-four is fenced at test
(STATE 2), which leaves 736 enabled cores. -/
def Fuses.gradeA : SMap (BitVec 16) :=
  ((List.range 4).flatMap fun d => (List.range 32).map fun k =>
    (768 * d + 12 * k + 11, if k < 8 then (0x2000#16) else (0x4000#16)))

/-- The fuses of the part that is modelled (log 6). -/
def Fuses.init : Fuses where
  grade := 0x41
  coreMap := Fuses.gradeA
  repair := []
  serial := 0
  rev := 0
  svn := 0
  openings := 0
  key0Revoked := false

/-- The machine right after a power-on reset (R351, R352): everything cleared, the device in Hold, with
the fuses, the flash and the sealed store kept. -/
def State.reset : State where
  now := 0
  freeCtr := 1
  cores := []
  stewards := []
  clusters := []
  rings := []
  counters := []
  net := ⟨[], []⟩
  accts := []
  power :=
    { g := 0, aboveRun := 0, peak := 0, stepdowns := 0, hold := false, goodRun := 0
      lastAbove2100 := false, pkg := 0, hub := 0, dies := [0, 0, 0, 0], guardStarts := 0
      dieTemps := [0, 0, 0, 0], thermalStepdowns := 0, underDeclared := 0, creditStarved := 0
      tripped := false }
  fabric :=
    { links := [], buffers := [], endsFenced := [], dieFenced := 0, coreMap := [], phys := [], remapDue := [], remapped := 0, mapGen := 0, gradeFused := 0x41
      gradeNow := 0x41, selftestRuns := 0, selftestFails := 0, repairsBlown := 0 }
  dram :=
    { mem := ⟨[], []⟩, wq := [], wacks := [], permTable := [], scrub := [], fenced := [], discards := 0, touched := [], scrubPasses := 0, poisonSeen := 0
      lastRead := 0, lastVerdict := 0 }
  mgmt :=
    { inbox := [], running := [], queue := [], ce := 0, de := 0, ur := 0, fatal := 0, lostCe := 0
      lostDe := 0, lostUr := 0, ceUnits := [], storms := [], urUnits := [], logCount := 0, mirror := []
      slots := [], fenced := false, fencedDue := false, fenceField := false, fenceCauses := [] }
  parts := []
  totals := ⟨0, 0, 0, 0, 0⟩
  dict := { vals := [], twDue := 0, waiting := [], clampCount := 0, clamps := [] }
  ports :=
    { fns := [], semas := [], portA := ⟨0, 0, false, true, false, 0⟩, portB := ⟨0, 0, false, true, false, 0⟩
      hostMem := [], staleReleases := 0, ignoredWrites := 0, winDrops := 0, clockFails := 0, sysclk := true }
  store := { ports := [], images := [] }
  field :=
    { lastExec := none, lastGood := 0, outLink := true, turned := false, forwarded := none, returned := none
      badFrames := 0, earlyFrames := 0, lastCycle := 0, down := false, outDown := false, lost := false }
  fw :=
    { fuses := Fuses.init, flash := ⟨[], []⟩, hold := ⟨[], []⟩, holdDie := none, state := 0, cause := 0
      progress := 0, cmd := 0, recovery := false, inRecovery := false, recOwner := none, version := 0
      svn := 0, measure := 0, up := false, upSince := 0, bootSource := 0 }
  trust :=
    { service := false, scope := 0, challenge := Config.freeValue 0, opening := none, erased := false, tokenWaiting := false
      hasIdentity := true, sealedAt := none }
  boot :=
    { phase := .hold, source := 1, recorded := false, pwrgd := true, resetLow := false, holdOff := false
      base := 0, edges := [], jtagHold := false, calOk := 0, calBad := 0, calStopped := false, watchdog := false
      bootSrc := 0, clkMode := 0, cfgRes := 0xFF, vddIoLow := false }
  jtag := { ir := .idcode, tdr := 0, boundary := 0, debug := false }
  pins := { thermtripN := true, devFaultN := true }
  pending := []

/-- Ways the device's model stops with a fault. No command raises one: every fault of the spec (R69,
R264, R385 and the rest) is an effect the spec describes, and the model takes it. -/
inductive Fault where
  /-- Raised by no command. Safe: it stops nothing the hardware does. -/
  | noneSpecified
deriving DecidableEq, Repr

/-- Ways the model has no meaning for a command. -/
inductive Refusal where
  /-- Raised by exec for a command whose meaning is not written. Safe: nothing is claimed of it. -/
  | notModelled (mnemonic : String)
deriving DecidableEq, Repr

end Sys2Proof.Machine
end

