-- ==== Sys2Proof/Machine/Ops.lean ====
section
/-! DEFINITION. Shared operations: tables, bytes under the word code (R248 to R256), the address map
(R203 to R209), names, records, events and errors. -/

namespace Sys2Proof.Machine

open Sys2Proof

/-! ### Tables -/

/-- The value of number k; `d` is the table's default. -/
def look {α : Type} (d : α) : SMap α → Nat → α
  | [], _ => d
  | (j, v) :: t, k => if j = k then v else look d t k

/-- The listed entry of number k, if there is one. -/
def find {α : Type} : SMap α → Nat → Option α
  | [], _ => none
  | (j, v) :: t, k => if j = k then some v else find t k

/-- Removes the entry of number k, and any further entry of that number. -/
def del {α : Type} : SMap α → Nat → SMap α
  | [], _ => []
  | (j, v) :: t, k => if j = k then del t k else (j, v) :: del t k

/-- Lists v under number k, in rising order. -/
def ins {α : Type} : SMap α → Nat → α → SMap α
  | [], k, v => [(k, v)]
  | (j, w) :: t, k, v =>
    if k < j then (k, v) :: (j, w) :: t
    else if j = k then (k, v) :: t
    else (j, w) :: ins t k v

/-- Sets number k to v; the default is not listed. -/
def put {α : Type} [DecidableEq α] (d : α) (m : SMap α) (k : Nat) (v : α) : SMap α :=
  if v = d then del m k else ins m k v

/-- Strictly rising numbers, no entry equal to the default: the canonical form. -/
def canon {α : Type} [DecidableEq α] (d : α) : SMap α → Bool
  | [] => true
  | (k, v) :: t => decide (v ≠ d) && t.all (fun e => decide (k < e.1)) && canon d t

/-- Memory is in its canonical form: bytes and syndromes both are. -/
def Mem.wf (m : Mem) : Bool := canon (0 : Byte) m.bytes && canon (0 : BitVec 16) m.syn

/-- Saturating addition to a 32-bit count. -/
def sat32 (n k : Nat) : Nat := min (n + k) 4294967295

/-- A field list, highest bits first, as a number: (width, value) pairs. -/
def pack (fs : List (Nat × Nat)) : Nat := fs.foldl (fun a f => a * 2 ^ f.1 + f.2 % 2 ^ f.1) 0

/-- Ceiling of a quotient. -/
def cdiv (a b : Nat) : Nat := (a + b - 1) / b

/-! ### Little-endian bytes (R315, R50) -/

/-- Bytes, lowest first, as a number. -/
def leNat : List Byte → Nat
  | [] => 0
  | b :: t => b.toNat + 256 * leNat t

/-- The n lowest bytes of a number, lowest first. -/
def leBytes : Nat → Nat → List Byte
  | 0, _ => []
  | n + 1, v => BitVec.ofNat 8 v :: leBytes n (v / 256)

/-- Replaces len bytes at byte offset off of a number. -/
def spliceNat (old off len v : Nat) : Nat :=
  old % 2 ^ (8 * off) + (v % 2 ^ (8 * len)) * 2 ^ (8 * off) + (old / 2 ^ (8 * (off + len))) * 2 ^ (8 * (off + len))

/-- Byte off to off + len - 1 of a number. -/
def sliceNat (v off len : Nat) : Nat := (v / 2 ^ (8 * off)) % 2 ^ (8 * len)

/-! ### The word code (R248 to R251) -/

/-- Multiplication by x in GF(16) with x⁴ + x + 1 (R249). -/
def gfx (d : Nat) : Nat := if d / 8 % 2 = 1 then ((2 * d) % 16) ^^^ 3 else (2 * d) % 16

/-- Product in GF(16) (R249). -/
def gfmul (h d : Nat) : Nat :=
  (if h % 2 = 1 then d else 0) ^^^ (if h / 2 % 2 = 1 then gfx d else 0)
    ^^^ (if h / 4 % 2 = 1 then gfx (gfx d) else 0) ^^^ (if h / 8 % 2 = 1 then gfx (gfx (gfx d)) else 0)

/-- Columns (h1, h2, h3) of the data symbols (R249). -/
def codeCols : List (Nat × Nat × Nat) :=
  [(0xF, 0x2, 0x0), (0x0, 0x3, 0x1), (0x1, 0x0, 0x2), (0xE, 0x1, 0x3), (0xC, 0x6, 0x4), (0x3, 0x7, 0x5),
   (0x2, 0x4, 0x6), (0xD, 0x5, 0x7), (0xC, 0xA, 0x8), (0x3, 0xB, 0x9), (0x2, 0x8, 0xA), (0xD, 0x9, 0xB),
   (0xF, 0xE, 0xC), (0x0, 0xF, 0xD), (0x1, 0xC, 0xE), (0xE, 0xD, 0xF), (0xA, 0x4, 0x0), (0xE, 0x5, 0x1),
   (0x3, 0x6, 0x2), (0x7, 0x7, 0x3), (0xF, 0x0, 0x4), (0xB, 0x1, 0x5), (0x6, 0x2, 0x6), (0x2, 0x3, 0x7),
   (0x3, 0xC, 0x8), (0x7, 0xD, 0x9), (0xA, 0xE, 0xA), (0xE, 0xF, 0xB), (0x6, 0x8, 0xC), (0x2, 0x9, 0xD),
   (0xF, 0xA, 0xE), (0xB, 0xB, 0xF)]

/-- The check bits of 128 data bits, from symbol i on (R249): C3 in [15:12] down to C0 in [3:0]. -/
def checkFrom : List (Nat × Nat × Nat) → Nat → Nat × Nat × Nat × Nat
  | [], _ => (0, 0, 0, 0)
  | (a, b, c) :: t, v =>
    let d := v % 16
    let r := checkFrom t (v / 16)
    (d ^^^ r.1, gfmul a d ^^^ r.2.1, gfmul b d ^^^ r.2.2.1, gfmul c d ^^^ r.2.2.2)

/-- The check bits of a word (R249). -/
def checkBits (data : Nat) : BitVec 16 :=
  let r := checkFrom codeCols data
  BitVec.ofNat 16 (r.1 + 16 * r.2.1 + 256 * r.2.2.1 + 4096 * r.2.2.2)

/-- The poison syndrome (R251). -/
def poisonSyn : BitVec 16 := 0x0831#16

/-- A reader's verdict (R250): the symbol corrected, with the amount by which a data symbol was wrong. -/
inductive Verdict where
  | clean | poisoned | uncorrectable
  | corrected (symbol wrong : Nat)
deriving DecidableEq, Repr

/-- The data symbol whose column is S / S0, counted from i (R250). -/
def matchCol (s0 s1 s2 s3 : Nat) : List (Nat × Nat × Nat) → Nat → Option Nat
  | [], _ => none
  | (a, b, c) :: t, i =>
    if s1 = gfmul a s0 ∧ s2 = gfmul b s0 ∧ s3 = gfmul c s0 then some i else matchCol s0 s1 s2 s3 t (i + 1)

/-- R250's table, first row that matches. -/
def verdict (syn : BitVec 16) : Verdict :=
  let n := syn.toNat
  let s0 := n % 16
  let s1 := n / 16 % 16
  let s2 := n / 256 % 16
  let s3 := n / 4096
  if n = 0 then .clean
  else if syn = poisonSyn then .poisoned
  else if s0 ≠ 0 ∧ s1 = 0 ∧ s2 = 0 ∧ s3 = 0 then .corrected 32 0
  else if s0 = 0 ∧ s2 = 0 ∧ s3 = 0 then .corrected 33 0
  else if s0 = 0 ∧ s1 = 0 ∧ s3 = 0 then .corrected 34 0
  else if s0 = 0 ∧ s1 = 0 ∧ s2 = 0 then .corrected 35 0
  else if s0 = 0 then .uncorrectable
  else match matchCol s0 s1 s2 s3 codeCols 0 with
    | some i => .corrected i s0
    | none => .uncorrectable

/-! ### Bytes under the code -/

/-- An empty store: every byte zero, every word clean. -/
def Mem.empty : Mem := ⟨[], []⟩

/-- The stored byte at an address, uncorrected. -/
def Mem.raw (m : Mem) (a : Nat) : Byte := look 0 m.bytes a

/-- The syndrome of word w. -/
def Mem.synAt (m : Mem) (w : Nat) : BitVec 16 := look 0 m.syn w

/-- Stores a byte; the word's syndrome is left as it is. -/
def Mem.setRaw (m : Mem) (a : Nat) (b : Byte) : Mem := { m with bytes := put 0 m.bytes a b }

/-- Sets the syndrome of word w. -/
def Mem.setSyn (m : Mem) (w : Nat) (s : BitVec 16) : Mem := { m with syn := put 0 m.syn w s }

/-- Stores bytes from an address on, leaving the syndromes. -/
def Mem.setRaws (m : Mem) : Nat → List Byte → Mem
  | _, [] => m
  | a, b :: t => (m.setRaw a b).setRaws (a + 1) t

/-- The 16 stored bytes of word w. -/
def Mem.word (m : Mem) (w : Nat) : List Byte := (List.range 16).map fun i => m.raw (16 * w + i)

/-- The stored check bits of word w: the code of the stored data, wrong by the syndrome (R250). -/
def Mem.checkAt (m : Mem) (w : Nat) : BitVec 16 := checkBits (leNat (m.word w)) ^^^ m.synAt w

/-- What a read of a byte delivers (R250): the byte, corrected if its word has one wrong symbol. -/
def Mem.byte (m : Mem) (a : Nat) : Byte :=
  let s := m.synAt (a / 16)
  if s = 0 then m.raw a
  else match verdict s with
    | .corrected sym wrong =>
      if sym < 32 ∧ sym / 2 = a % 16 then m.raw a ^^^ BitVec.ofNat 8 (wrong * 16 ^ (sym % 2)) else m.raw a
    | _ => m.raw a

/-- n delivered bytes from an address on. -/
def Mem.read (m : Mem) (a n : Nat) : List Byte := (List.range n).map fun i => m.byte (a + i)

/-- The words that n bytes at a touch. -/
def wordsOf (a n : Nat) : List Nat :=
  if n = 0 then [] else (List.range ((a + n - 1) / 16 + 1 - a / 16)).map fun i => a / 16 + i

/-- Whether a word among those touched has a given verdict. -/
def Mem.anyPoison (m : Mem) (a n : Nat) : Bool :=
  (wordsOf a n).any fun w => decide (verdict (m.synAt w) = .poisoned)
/-- Whether a word touched is uncorrectable. -/
def Mem.anyBad (m : Mem) (a n : Nat) : Bool :=
  (wordsOf a n).any fun w => decide (verdict (m.synAt w) = .uncorrectable)

/-- Writes the poison word (R251) as word w. -/
def Mem.poisonWord (m : Mem) (w : Nat) : Mem :=
  (m.setRaws (16 * w) (List.replicate 16 0)).setSyn w poisonSyn

/-- Poisons the words touched. -/
def Mem.poison (m : Mem) (a n : Nat) : Mem := (wordsOf a n).foldl Mem.poisonWord m

/-- Replaces word w by the poison word if it is uncorrectable (R252). -/
def Mem.settleBad (m : Mem) (a n : Nat) : Mem :=
  (wordsOf a n).foldl (fun m w => if verdict (m.synAt w) = .uncorrectable then m.poisonWord w else m) m

/-- Rewrites word w corrected if one symbol was wrong (R252). -/
def Mem.fixWord (m : Mem) (w : Nat) : Mem :=
  match verdict (m.synAt w) with
  | .corrected _ _ => (m.setRaws (16 * w) (m.read (16 * w) 16)).setSyn w 0
  | _ => m

/-- Merges the written bytes of word w over the old word (R255, R256): a whole word is stored with a new
code; a part is merged with a clean or corrected old word, and a poisoned or uncorrectable old word
gives the poison word. -/
def Mem.mergeWord (m : Mem) (w : Nat) (bs : List (Option Byte)) : Mem :=
  if bs.all (fun b => b.isNone) then m
  else
    let store (m : Mem) : Mem :=
      (List.range 16).foldl (fun m i => match bs[i]? with
        | some (some b) => m.setRaw (16 * w + i) b
        | _ => m) m
    if bs.all (fun b => b.isSome) ∧ bs.length = 16 then (store m).setSyn w 0
    else match verdict (m.synAt w) with
      | .clean => store m
      | .corrected _ _ => store (m.fixWord w)
      | _ => m.poisonWord w

/-- Writes the bytes that are given, from an address on, word by word (R255). -/
def Mem.writeOpt (m : Mem) (a : Nat) (bs : List (Option Byte)) : Mem :=
  (wordsOf a bs.length).foldl (fun m w =>
    m.mergeWord w ((List.range 16).map fun i =>
      if 16 * w + i < a then none else (bs[16 * w + i - a]?).join)) m

/-- Writes bytes from an address on. -/
def Mem.write (m : Mem) (a : Nat) (bs : List Byte) : Mem := m.writeOpt a (bs.map some)

/-- Writes bytes, or poison words where the data is poisoned. -/
def Mem.writeP (m : Mem) (a : Nat) (bs : List Byte) (poison : Bool) : Mem :=
  if poison then m.poison a bs.length else m.write a bs

/-- Copies n bytes word by word, poison marks included (R251). Both addresses lie at the same offset
within a word, or the copy goes by bytes and a poisoned source word poisons what it touches. -/
def Mem.copyFrom (m src : Mem) (a b n : Nat) : Mem :=
  (List.range (cdiv n 16)).foldl (fun m i =>
    let k := min 16 (n - 16 * i)
    m.writeP (a + 16 * i) (src.read (b + 16 * i) k) (src.anyPoison (b + 16 * i) k || src.anyBad (b + 16 * i) k)) m

/-- The transfer sum of bytes (R246): little-endian 64-bit words, padded with zeros, modulo 2⁶⁴. -/
def transferSum : Nat → List Byte → Nat
  | 0, _ => 0
  | fuel + 1, bs => if bs.isEmpty then 0 else (leNat (bs.take 8) + transferSum fuel (bs.drop 8)) % 2 ^ 64

/-! ### Names (R16, R142, R155) -/

/-- Die of a cluster. -/
def dieOf (cl : Cl) : Nat := cl.val / 64
/-- x of a cluster. -/
def xOf (cl : Cl) : Nat := cl.val % 8
/-- y of a cluster. -/
def yOf (cl : Cl) : Nat := cl.val / 8 % 8
/-- The cluster (d, x, y). -/
def clAt (d x y : Nat) : Cl := Fin.ofNat 256 (64 * (d % 4) + 8 * (y % 8) + x % 8)
/-- The quarter-die granule of a cluster (R16). -/
def granOf (cl : Cl) : Nat := 2 * (yOf cl / 4) + xOf cl / 4
/-- The account and granule number 4·d + q of a cluster (R331). -/
def acctOf (cl : Cl) : Nat := 4 * dieOf cl + granOf cl
/-- The channel under a cluster, 16·d + ch (R16). -/
def chanOf (cl : Cl) : Nat := 16 * dieOf cl + 4 * (yOf cl / 2) + xOf cl / 2
/-- Core-map index of a core (R191): also the key of the table of cores. -/
def coreKey (cl : Cl) (c : Cn) : Nat := 12 * cl.val + c.val
/-- Key of the table of rings. -/
def ringKey (cl : Cl) (n : Nat) : Nat := 16 * cl.val + n
/-- Unit name of R155 with a unit number. -/
def unitName (cl : Cl) (u : Nat) : Nat := pack [(2, dieOf cl), (3, xOf cl), (3, yOf cl), (8, u), (8, 0)]
/-- Unit number of a sequencer (R155). -/
def whoUnit : Who → Nat
  | .core c => c.val
  | .steward => 0x10
/-- Name of core counter k (R142). -/
def nameCore (cl : Cl) (c k : Nat) : Nat :=
  pack [(2, dieOf cl), (3, xOf cl), (3, yOf cl), (1, 0), (3, 0), (4, c), (2, 0), (6, k)]
/-- Name of hub counter h (R142). -/
def nameHub (cl : Cl) (h : Nat) : Nat :=
  pack [(2, dieOf cl), (3, xOf cl), (3, yOf cl), (1, 1), (3, 0), (4, 0), (2, 0), (6, h)]
/-- The cluster that a counter name names. -/
def nameCl (n : Nat) : Cl := clAt (bits 23 22 n) (bits 21 19 n) (bits 18 16 n)
/-- Whether a counter name names a hub counter. -/
def nameIsHub (n : Nat) : Bool := bits 15 15 n = 1
/-- The form of a counter name (R142, R143): reserved bits 0, k at most 47, c at most 11. DESIGN CHOICE (log 89): a register
that holds a full name must be 0 above bit 23; the spec says nothing of bits [63:24], and a name that has one set is refused. -/
def nameOk (n : Nat) : Bool :=
  n < 2 ^ 24 && bits 14 12 n = 0 && bits 7 6 n = 0 &&
    (if nameIsHub n then bits 11 8 n = 0 else bits 11 8 n < 12 && bits 5 0 n < 48)

/-! ### Units in the state -/

/-- A core's state. -/
def State.core (s : State) (cl : Cl) (c : Cn) : Core := look Core.init s.cores (coreKey cl c)
/-- Replaces a core's state. -/
def State.setCore (s : State) (cl : Cl) (c : Cn) (v : Core) : State :=
  { s with cores := put Core.init s.cores (coreKey cl c) v }
/-- A steward core's state. -/
def State.stew (s : State) (cl : Cl) : Steward := look Steward.init s.stewards cl.val
/-- Replaces a steward core's state. -/
def State.setStew (s : State) (cl : Cl) (v : Steward) : State :=
  { s with stewards := put Steward.init s.stewards cl.val v }
/-- A cluster's state. -/
def State.clu (s : State) (cl : Cl) : Cluster := look Cluster.init s.clusters cl.val
/-- Replaces a cluster's state. -/
def State.setClu (s : State) (cl : Cl) (v : Cluster) : State :=
  { s with clusters := put Cluster.init s.clusters cl.val v }
/-- A ring's state. -/
def State.ring (s : State) (cl : Cl) (n : Nat) : Ring := look Ring.init s.rings (ringKey cl n)
/-- Replaces a ring's state. -/
def State.setRing (s : State) (cl : Cl) (n : Nat) (v : Ring) : State :=
  { s with rings := put Ring.init s.rings (ringKey cl n) v }
/-- A counter (R141). -/
def State.ctr (s : State) (name : Nat) : Counter := look Counter.init s.counters name
/-- Replaces a counter. -/
def State.setCtr (s : State) (name : Nat) (v : Counter) : State :=
  { s with counters := put Counter.init s.counters name v }
/-- An account. -/
def State.acct (s : State) (a : Nat) : Acct := look Acct.init s.accts a
/-- Replaces an account. -/
def State.setAcct (s : State) (a : Nat) (v : Acct) : State :=
  { s with accts := put Acct.init s.accts a v }
/-- A partition. -/
def State.part (s : State) (p : Nat) : Part := look Part.init s.parts p
/-- Replaces a partition. -/
def State.setPart (s : State) (p : Nat) (v : Part) : State :=
  { s with parts := put Part.init s.parts p v }
/-- A control-port function. -/
def State.fn (s : State) (f : Nat) : Fn := look Fn.init s.ports.fns f
/-- Replaces a function. -/
def State.setFn (s : State) (f : Nat) (v : Fn) : State :=
  { s with ports := { s.ports with fns := put Fn.init s.ports.fns f v } }
/-- A semaphore. -/
def State.sema (s : State) (k : Nat) : Sema := look Sema.init s.ports.semas k
/-- Replaces a semaphore. -/
def State.setSema (s : State) (k : Nat) (v : Sema) : State :=
  { s with ports := { s.ports with semas := put Sema.init s.ports.semas k v } }
/-- A link. -/
def State.link (s : State) (l : Nat) : Link := look Link.init s.fabric.links l
/-- Replaces a link. -/
def State.setLink (s : State) (l : Nat) (v : Link) : State :=
  { s with fabric := { s.fabric with links := put Link.init s.fabric.links l v } }
/-- A storage port. -/
def State.sport (s : State) (k : Nat) : SPort := look SPort.init s.store.ports k
/-- Replaces a storage port. -/
def State.setSport (s : State) (k : Nat) (v : SPort) : State :=
  { s with store := { s.store with ports := put SPort.init s.store.ports k v } }
/-- Physical state of the core at a core-map index. -/
def State.phy (s : State) (i : Nat) : Phys := look Phys.init s.fabric.phys i
/-- Replaces physical core state. -/
def State.setPhy (s : State) (i : Nat) (v : Phys) : State :=
  { s with fabric := { s.fabric with phys := put Phys.init s.fabric.phys i v } }
/-- Core-map entry (R191). -/
def State.mapEntry (s : State) (i : Nat) : BitVec 16 := look 0 s.fabric.coreMap i
/-- Replaces a core-map entry. -/
def State.setMapEntry (s : State) (i : Nat) (v : BitVec 16) : State :=
  { s with fabric := { s.fabric with coreMap := put 0 s.fabric.coreMap i v } }
/-- A speculative slot. -/
def Cluster.slot (v : Cluster) (k : Nat) : Slot := look Slot.init v.slots k
/-- Replaces a speculative slot. -/
def Cluster.setSlot (v : Cluster) (k : Nat) (x : Slot) : Cluster := { v with slots := put Slot.init v.slots k x }

/-- All clusters. -/
def allCl : List Cl := List.finRange 256
/-- All logical cores of a cluster. -/
def allCn : List Cn := List.finRange 12

/-! ### The dictionary's stored values (chapter 14) -/

/-- Defaults of the stored objects that are not zero (R260, R287, R299, R300, R311, R324, R325, R329). -/
def dictDefault (idx sub : Nat) : Nat :=
  if idx = 0x2001 then 1800
  else if idx = 0x3010 then 0xFF
  else if idx = 0x3011 then 2 ^ 760 - 1 + 0xFE * 2 ^ 760
  else if idx = 0x3022 then 2000
  else if idx = 0x3024 then 1000
  else if idx = 0x3025 then 1
  else if idx = 0x3030 ∨ idx = 0x3031 then 0xFF
  else if idx = 0x4001 ∨ idx = 0x4010 then 15
  else if idx = 0x5012 then 256
  else if idx = 0x6011 then 1
  else if idx = 0x601D then 600
  else if idx = 0x6020 ∧ sub = 1 then 24
  else if idx = 0x7010 ∧ sub = 1 then 10
  else if idx = 0x7040 ∧ sub = 1 then 0xFF
  else if idx = 0x7040 ∧ sub = 3 then 100
  else if idx = 0x8021 then 4096
  else 0

/-- The stored value of an object, as a little-endian number. -/
def State.obj (s : State) (idx sub : Nat) : Nat :=
  (find s.dict.vals (256 * idx + sub)).getD (dictDefault idx sub)

/-- Stores an object's value. -/
def State.setObj (s : State) (idx sub v : Nat) : State :=
  { s with dict := { s.dict with
      vals := if v = dictDefault idx sub then del s.dict.vals (256 * idx + sub)
              else ins s.dict.vals (256 * idx + sub) v } }

/-- Owner of quarter-die granule 4·d + q, 0xFF none (R201). -/
def State.granOwner (s : State) (g : Nat) : Nat := s.obj 0x3010 (1 + g)
/-- The partition of a cluster, 0xFF none. -/
def State.clPart (s : State) (cl : Cl) : Nat := s.granOwner (acctOf cl)
/-- Owner of DRAM granule g of die d, 0xFF none (R205). -/
def State.dramOwner (s : State) (d g : Nat) : Nat := sliceNat (s.obj 0x3011 (d + 1)) g 1
/-- The partition to which a function is bound, 0xFF none (R300). -/
def State.bound (s : State) (f : Nat) : Nat := s.obj (0x3030 + f / 8) (f % 8 + 1)
/-- The function bound to a partition (R300); no function is bound to what is no partition (0xFF). -/
def State.fnOf (s : State) (p : Nat) : Option Nat :=
  if p < 16 then (List.range 16).find? fun f => s.bound f = p else none
/-- The clusters of a partition. -/
def State.clustersOf (s : State) (p : Nat) : List Cl := allCl.filter fun cl => s.clPart cl = p
/-- The partition's lowest granule (R293). -/
def State.lowGran (s : State) (p : Nat) : Option Nat := (List.range 16).find? fun g => s.granOwner g = p
/-- Cluster (d, 4·(q mod 2), 4·⌊q/2⌋) of granule 4·d + q (R293). -/
def granLead (g : Nat) : Cl := clAt (g / 4) (4 * (g % 4 % 2)) (4 * (g % 4 / 2))
/-- The dies on which a partition holds granules (R92). -/
def State.diesOf (s : State) (p : Nat) : BitVec 4 :=
  BitVec.ofNat 4 ((List.range 4).foldl (fun m d =>
    if (List.range 4).any (fun q => s.granOwner (4 * d + q) = p) then m + 2 ^ d else m) 0)
/-- Whether a partition has a run (R324). -/
def State.hasRun (s : State) (p : Nat) : Bool := (s.part p).run ≠ .noRun

/-! ### The address map (R203 to R209) -/

/-- Whether an address is DRAM (R203, R204). -/
def isDram (a : Nat) : Bool := a < 2 ^ 39 && bits 36 30 a < 96
/-- Whether an address lies in control space (R203). -/
def isCtl (a : Nat) : Bool := decide (0xFF0000000000 ≤ a) && decide (a < 2 ^ 48)
/-- The channel and channel address of a DRAM address (R206, R207), as one number:
(16·die + channel)·2³³ + channel address. -/
def State.phys (s : State) (a : Nat) : Nat :=
  let d := bits 38 37 a
  let g := bits 36 30 a
  let j := g / 16
  let u := bits 36 0 a - j * 2 ^ 34
  let ch :=
    if j < 5 ∧ bits j j (s.obj 0x3012 (d + 1)) = 1 then (g - 16 * j, j * 2 ^ 30 + bits 29 0 a)
    else (u / 4096 % 16, j * 2 ^ 30 + (u / 65536) * 4096 + u % 4096)
  (16 * d + ch.1) * 2 ^ 33 + ch.2
/-- The partition that owns a DRAM address, 0xFF none. -/
def State.ownerOf (s : State) (a : Nat) : Nat :=
  if isDram a then s.dramOwner (bits 38 37 a) (bits 36 30 a) else 0xFF
/-- Whether a range lies wholly in DRAM that a partition owns. -/
def State.ownsRange (s : State) (p base len : Nat) : Bool :=
  len = 0 || (decide (base + len ≤ 2 ^ 39) &&
    (List.range ((base + len - 1) / 2 ^ 30 + 1 - base / 2 ^ 30)).all fun i =>
      s.ownerOf ((base / 2 ^ 30 + i) * 2 ^ 30) = p && isDram ((base / 2 ^ 30 + i) * 2 ^ 30))
/-- The permission entry of a page for a partition (R209): 0b0011 unless set, 0b0000 if not owned. -/
def State.permEntry (s : State) (p page : Nat) : BitVec 4 :=
  if isDram (page * 2 ^ 21) ∧ s.ownerOf (page * 2 ^ 21) = p ∧ p < 16 then look 3 s.dram.permTable page else 0
/-- READ, WRITE, EXEC and NOPF of an entry (R209). -/
def permR (e : BitVec 4) : Bool := e.getLsbD 0
/-- WRITE. -/
def permW (e : BitVec 4) : Bool := e.getLsbD 1
/-- EXEC. -/
def permX (e : BitVec 4) : Bool := e.getLsbD 2
/-- NOPF. -/
def permN (e : BitVec 4) : Bool := e.getLsbD 3

/-- Replaces DRAM contents. -/
def State.setDram (s : State) (m : Mem) : State := { s with dram := { s.dram with mem := m } }
/-- What a channel delivers for n bytes of one 16-byte word or of one 4 KiB block (R252). -/
def State.dramRd (s : State) (a n : Nat) : List Byte := s.dram.mem.read (s.phys a) n
/-- Whether the words read are poisoned or uncorrectable. -/
def State.dramPoison (s : State) (a n : Nat) : Bool :=
  s.dram.mem.anyPoison (s.phys a) n || s.dram.mem.anyBad (s.phys a) n
/-- A channel takes a write (R214, R384): bytes given are written, or their words poisoned. -/
def State.dramWr (s : State) (a : Nat) (bs : List (Option Byte)) (poison : Bool) : State :=
  s.setDram (if poison then s.dram.mem.poison (s.phys a) bs.length else s.dram.mem.writeOpt (s.phys a) bs)
/-- Reads n bytes from an address that may cross 4 KiB blocks. -/
def State.dramBytes (s : State) (a n : Nat) : List Byte :=
  (List.range n).map fun i => s.dram.mem.byte (s.phys (a + i))
/-- Writes bytes from an address that may cross 4 KiB blocks, one 16-byte word at a time. -/
def State.dramBytesWr (s : State) (a : Nat) (bs : List Byte) : State :=
  (List.range (cdiv (bs.length + a % 16) 16)).foldl (fun s i =>
    let w := a / 16 + i
    s.dramWr (16 * w) ((List.range 16).map fun j => if 16 * w + j < a then none else bs[16 * w + j - a]?) false) s

/-! ### Free values -/

/-- A fresh free value (log 2). -/
def State.fresh (s : State) : BitVec 256 × State := (Config.freeValue s.freeCtr, { s with freeCtr := s.freeCtr + 1 })

/-! ### Events, errors, log -/

/-- A steward event record (R386): word 0 from CODE, TASK_ID and UNIT, then words 1 to 7. -/
def evRecord (code taskId unit : Nat) (ws : List Nat) : BitVec 512 :=
  BitVec.ofNat 512 (pack [(8, code), (16, taskId), (16, 0), (24, unit)]
    + (List.range 7).foldl (fun a i => a + (ws.getD i 0 % 2 ^ 64) * 2 ^ (64 * (i + 1))) 0)

/-- Places an event in a steward core's queue of 32, or loses and counts it (R123, R386). -/
def State.pushEv (s : State) (cl : Cl) (r : BitVec 512) : State :=
  let v := s.stew cl
  s.setStew cl (if v.evq.length < 32 then { v with evq := v.evq ++ [r] } else { v with evLost := min 65535 (v.evLost + 1) })

/-- A host event record (R294) without LOST and SEQ, which the write fills in. -/
def hostRecord (code part step die unit detail aux time : Nat) : Rec :=
  BitVec.ofNat 256 (pack [(8, code), (8, part), (32, step), (8, die), (24, unit), (16, detail), (32, aux), (64, time), (64, 0)])

/-- Gives a function an event: it waits in the port, or is dropped and counted beyond 64 (R294). -/
def State.fnEvent (s : State) (f : Nat) (r : Rec) : State :=
  let v := s.fn f
  s.setFn f (if v.evWait.length < 64 then { v with evWait := v.evWait ++ [r] } else { v with evLost := sat32 v.evLost 1 })

/-- An event for a partition's bound function (R295). -/
def State.hostEv (s : State) (p code die unit detail aux : Nat) : State :=
  match s.fnOf p with
  | some f => s.fnEvent f (hostRecord code p (s.part p).stepNow.toNat die unit detail aux s.now)
  | none => s

/-- A device-wide event, to both physical functions (R295). -/
def State.devEv (s : State) (code die unit detail aux : Nat) : State :=
  let r := hostRecord code 0xFF 0 die unit detail aux s.now
  (s.fnEvent 0 r).fnEvent 8 r

/-- Writes a record to the log (R334): SRAM mirror of 256, slot n mod 4,096, LOG_COUNT. -/
def State.logRec (s : State) (r : Nat) : State :=
  let n := s.mgmt.logCount
  let rec_ : Rec := BitVec.ofNat 256 (r / 65536 * 65536 + n % 65536)
  let m := s.mgmt.mirror ++ [rec_]
  { s with mgmt := { s.mgmt with
      logCount := (n + 1) % 2 ^ 32
      mirror := m.drop (m.length - 256)
      slots := ins s.mgmt.slots (n % 4096) rec_ } }

/-- An event record of R336. -/
def State.logEvent (s : State) (type part unit step detail aux : Nat) : State :=
  s.logRec (pack [(8, type), (8, part), (24, unit), (32, step), (56, detail), (64, s.now), (48, aux), (16, 0)])

/-- An error on its way to the management processor (R263). -/
def State.raise (s : State) (e : ErrIn) (sc : Scope) : State :=
  { s with mgmt := { s.mgmt with inbox := s.mgmt.inbox ++ [(e, sc)] } }

/-- Error of class 2 for a bus refusal (R201, R267): source 0x08 with its status. -/
def State.refusal (s : State) (unit part addr status : Nat) : State :=
  s.raise { source := 0x08, cls := 2, unit := unit, part := part, addr := addr, syndrome := 0, symbol := 0xFF, status := status, taskId := 0 } .none

/-- Logs what a check of the words at an address found (R252, R253, R263): a corrected error for each
corrected word, and the given class for an uncorrectable one. -/
def State.wordErrors (s : State) (m : Mem) (key a n source unit part cls : Nat) : State :=
  (wordsOf key n).foldl (fun s w =>
    let syn := m.synAt w
    match verdict syn with
    | .corrected sym _ =>
      s.raise { source := source, cls := 0, unit := unit, part := part, addr := a / 16 * 16 + 16 * (w - key / 16), syndrome := syn.toNat, symbol := sym, status := 0, taskId := 0 } .none
    | .uncorrectable =>
      s.raise { source := source, cls := cls, unit := unit, part := part, addr := a / 16 * 16 + 16 * (w - key / 16), syndrome := syn.toNat, symbol := 0xFF, status := if cls = 2 then 1 else 0, taskId := 0 } .none
    | _ => s) s

/-- Sends an increment (R144). -/
def State.send (s : State) (k : Packet) : State := { s with net := { s.net with flight := s.net.flight ++ [k] } }

/-- R145: value x reaches target t when (x − t) mod 2³² is below 2³¹. -/
def reaches (x t : W32) : Bool := (x - t).toNat < 2 ^ 31

/-- Adds to a counter (R144): modulo 2³², and the expected register too while SETTLED (R151). -/
def Counter.add (c : Counter) (n : W32) : Counter :=
  { c with value := c.value + n, expected := if c.settled then c.expected + n else c.expected }

/-! ### Instructions of sequencers -/

/-- The issue of an instruction of a core or steward core; none for other commands. -/
def instrAt : Instr → Option At
  | .movi w .. | .add w .. | .sub w .. | .and w .. | .or w .. | .xor w ..
  | .shl w .. | .shr w .. | .sra w .. | .mul w .. | .beq w .. | .bne w ..
  | .blt w .. | .bge w .. | .jmp w .. | .nop w .. | .config w .. | .setmask w ..
  | .srseed w .. | .tprod w .. | .tdrain w .. | .tew w .. | .tload w .. | .tstore w ..
  | .rpost w .. | .cinc w .. | .cexp w .. | .cwait w .. | .cread w .. | .cwstat w ..
  | .fence w .. | .endTask w .. | .instructionFetchFill w .. | .tpost w .. | .tretry w .. | .tskip w ..
  | .tabort w .. | .scommit w .. | .sdiscard w .. | .icinv w .. | .evwait w .. | .evread w ..
  | .evarg w .. | .cclean w .. | .ccflush w .. | .ccdiscard w .. | .ccmark w .. | .stewardRpost w ..
  | .rset w .. | .rget w .. | .rstart w .. | .rstop w .. | .rskip w .. | .rclear w .. => some w
  | _ => none

/-- The outcome of a command that completes. -/
abbrev Out := Host.Outcome State Fault Refusal

end Sys2Proof.Machine
end

