-- ==== Sys2Proof/Machine/Mesh.lean ====
section
/-! DEFINITION. The mesh: ports of a die (R180), fixed routes (R186, R190), virtual channels and link buffers (R185). -/

namespace Sys2Proof.Machine

open Sys2Proof

/-! ### Links and ports (R180) -/

/-- The dies that a die-to-die link joins; none for a hub link. -/
def linkEnds (l : Nat) : Option (Nat × Nat) :=
  [(0, 1), (0, 2), (0, 3), (1, 2), (1, 3), (2, 3)][l]?
/-- The link between two dies. -/
def linkOf (a b : Nat) : Nat := ((List.range 6).find? fun l => linkEnds l = some (min a b, max a b)).getD 0
/-- The hub link of a die. -/
def hubLink (d : Nat) : Nat := 6 + d
/-- The lower die of a link, the die of a hub link. -/
def linkDie (l : Nat) : Nat := match linkEnds l with
  | some (a, _) => a
  | none => l - 6
/-- The unit name of a link's end on a die (R267): the die, and 0x60 + link. -/
def linkEndUnit (l d : Nat) : Nat := pack [(2, d), (6, 0), (8, 0x60 + l), (8, 0)]
/-- The unit name of a link: its end on the lower die. -/
def linkUnit (l : Nat) : Nat := linkEndUnit l (linkDie l)

/-- The outputs of a router (R185): its neighbours, the cluster island, the channel island of its block, and the fabric ports of R180,
which edge routers have. -/
inductive RPort where
  | north | east | south | west | island | channel | dN | dE | dS | hub
deriving DecidableEq, Repr

/-- The port of die d that joins it to die d' (R180). -/
def portTo (d d' : Nat) : RPort :=
  match d ^^^ d' with
  | 1 => .dN
  | 2 => .dE
  | _ => .dS

/-- The edge router, as (x, y), from which traffic of router (x, y) leaves by a port (R180, R186); its lane is x, or y for D-E. -/
def edgeRouter (p : RPort) (x y : Nat) : Nat × Nat :=
  match p with
  | .dN => (x, 0)
  | .dE => (7, y)
  | .dS => (x, 7)
  | _ => (0, if y ≤ 3 then 3 else 4)

/-- The lane index of an edge router of a die-to-die port (R180). -/
def laneIndex (p : RPort) (x y : Nat) : Nat := if p = .dE then y else x

/-! ### Virtual channels (R185) -/

/-- The second half of a virtual channel's name (R185). -/
inductive VDir where
  | outbound | inbound | transit
deriving DecidableEq, Repr

/-- A link buffer that a flit uses: router, output, and direction; the class is the flit's. -/
structure Hop where
  die : Nat
  x : Nat
  y : Nat
  out : RPort
  dir : VDir
deriving DecidableEq, Repr

/-- Number of an output. -/
def RPort.num : RPort → Nat
  | .north => 0
  | .east => 1
  | .south => 2
  | .west => 3
  | .island => 4
  | .channel => 5
  | .dN => 6
  | .dE => 7
  | .dS => 8
  | .hub => 9

/-- The virtual channel of a flit on a hop: Request Outbound, Inbound, Transit, then Response (R185). -/
def vchan (k : FlitKind) (d : VDir) : Nat :=
  (if k = .response then 3 else 0) + match d with
    | .outbound => 0
    | .inbound => 1
    | .transit => 2

/-- The key of a link buffer in the table of buffers. -/
def bufKey (h : Hop) (k : FlitKind) : Nat := ((64 * (h.die % 4) + 8 * (h.y % 8) + h.x % 8) * 10 + h.out.num) * 6 + vchan k h.dir

/-! ### Routes (R186, R190) -/

/-- The moves along x at row y. -/
def walkX (d y x1 x2 : Nat) (v : VDir) : List Hop :=
  if x1 ≤ x2 then (List.range (x2 - x1)).map fun i => ⟨d, x1 + i, y, .east, v⟩
  else (List.range (x1 - x2)).map fun i => ⟨d, x1 - i, y, .west, v⟩

/-- The moves along y in column x; north is toward row 0 (R16). -/
def walkY (d x y1 y2 : Nat) (v : VDir) : List Hop :=
  if y1 ≤ y2 then (List.range (y2 - y1)).map fun i => ⟨d, x, y1 + i, .south, v⟩
  else (List.range (y1 - y2)).map fun i => ⟨d, x, y1 - i, .north, v⟩

/-- On one die: along x, then along y (R186). -/
def walkTo (d x1 y1 x2 y2 : Nat) (v : VDir) : List Hop := walkX d y1 x1 x2 v ++ walkY d x2 y1 y2 v

/-- From a router to the edge router of a port, and out of it (R186): along y for D-N and D-S, along x for D-E, along x and then y to
the hub. -/
def walkOut (d x y : Nat) (p : RPort) (v : VDir) : List Hop :=
  let e := edgeRouter p x y
  (if p = .hub then walkTo d x y e.1 e.2 v else walkX d y x e.1 v ++ walkY d e.1 y e.2 v) ++ [⟨d, e.1, e.2, p, v⟩]

/-- From a router of the first die through the dies listed to router (x2, y2) of the last and out by a port of it (R186, R190): Outbound on
the source die, Transit on a third, Inbound on the destination die. -/
def routeDies (x2 y2 : Nat) (out : RPort) : (x y : Nat) → (v : VDir) → List Nat → List Hop
  | _, _, _, [] => []
  | x, y, v, [d] => walkTo d x y x2 y2 v ++ [⟨d, x2, y2, out, v⟩]
  | x, y, v, d :: d' :: rest =>
    let p := portTo d d'
    let e := edgeRouter p x y
    walkOut d x y p v ++ routeDies x2 y2 out e.1 e.2 (if rest = [] then .inbound else .transit) (d' :: rest)

/-- On-die hops between two clusters of a die (R186). -/
def hopsBetween (a b : Cl) : Nat := (walkTo 0 (xOf a) (yOf a) (xOf b) (yOf b) .outbound).length

/-! ### Paths between dies (R190) -/

/-- Whether a link is not down: it carries traffic, perhaps after a training. -/
def State.linkGood (s : State) (l : Nat) : Bool := decide ((s.link l).st ≠ .down)

/-- Whether a link is up, or retrains. -/
def State.linkUp (s : State) (l : Nat) : Bool := decide ((s.link l).st = .up) || decide ((s.link l).st = .retraining)

/-- The die through which traffic between dies a and b passes while their link is down: the lowest-numbered other die whose links to both
are up (R190). The routers of a fenced die go on carrying traffic (R183). -/
def State.viaDie (s : State) (a b : Nat) : Option Nat :=
  (List.range 4).find? fun c => decide (c ≠ a) && decide (c ≠ b) && s.linkUp (linkOf a c) && s.linkUp (linkOf b c)

/-- The die through which hub traffic for die d passes while its hub link is down: die d XOR 1, or the lowest-numbered other die whose hub
link is up (R190). -/
def State.hubVia (s : State) (d : Nat) : Option Nat :=
  ((d ^^^ 1) :: List.range 4).find? fun c => decide (c ≠ d) && s.linkUp (hubLink c) && s.linkUp (linkOf c d)

/-- The dies that traffic from die a to die b crosses, in order; none if b cannot be reached. -/
def State.pathDies (s : State) (a b : Nat) : List Nat :=
  if a = b then [a]
  else if s.linkGood (linkOf a b) then [a, b]
  else match s.viaDie a b with
    | some c => [a, c, b]
    | none => []

/-- The dies that traffic from the hub to die d crosses. -/
def State.hubDies (s : State) (d : Nat) : List Nat :=
  if s.linkGood (hubLink d) then [d]
  else match s.hubVia d with
    | some c => [c, d]
    | none => []

/-- The links between the dies of a path. -/
def linksAlong : List Nat → List Nat
  | a :: b :: t => linkOf a b :: linksAlong (b :: t)
  | _ => []

/-- The links that traffic from die a to die b crosses. -/
def State.pathLinks (s : State) (a b : Nat) : List Nat := linksAlong (s.pathDies a b)

/-- Whether traffic from die a to die b meets a link end that has been declared failed (R183). -/
def State.pathFenced (s : State) (a b : Nat) : Bool := (s.pathLinks a b).any fun l => s.fabric.endsFenced.any fun e => decide (e.1 = l)

/-- The link buffers of a flit's way to its cluster island (R185, R186, R190). From the hub it enters at the router that its
destination's y gives. -/
def State.flitRoute (s : State) (f : Flit) : List Hop :=
  match f.src with
  | some c => routeDies (xOf f.dst) (yOf f.dst) .island (xOf c) (yOf c) .outbound (s.pathDies (dieOf c) (dieOf f.dst))
  | none =>
    let ds := s.hubDies (dieOf f.dst)
    let e := edgeRouter .hub 0 (yOf f.dst)
    routeDies (xOf f.dst) (yOf f.dst) .island e.1 e.2 (if ds.length = 1 then .inbound else .transit) ds

/-- The link that a hop leaves by, for a hop out of an edge router to another die. -/
def Hop.link (h : Hop) : Option Nat :=
  match h.out with
  | .dN => some (linkOf h.die (h.die ^^^ 1))
  | .dE => some (linkOf h.die (h.die ^^^ 2))
  | .dS => some (linkOf h.die (h.die ^^^ 3))
  | .hub => some (hubLink h.die)
  | _ => none

/-- Where a flit stops on its way: the first hop whose link is not up, behind flits of its channel that wait there (R187, R189). -/
def State.flitStops (s : State) (f : Flit) : Option Hop :=
  (s.flitRoute f).find? fun h => match h.link with
    | some l => decide ((s.link l).st ≠ .up)
    | none => false

/-- A link buffer's flits. -/
def State.buffer (s : State) (k : Nat) : List Flit := look [] s.fabric.buffers k
/-- Replaces a link buffer's flits. -/
def State.setBuffer (s : State) (k : Nat) (fs : List Flit) : State :=
  { s with fabric := { s.fabric with buffers := put [] s.fabric.buffers k fs } }
/-- A flit waits in the buffer of a hop. -/
def State.waitAt (s : State) (h : Hop) (f : Flit) : State := s.setBuffer (bufKey h f.kind) (s.buffer (bufKey h f.kind) ++ [f])

/-- The hop of a link buffer's key. -/
def keyHop (k : Nat) : Hop :=
  ⟨k / 3840, k / 60 % 8, k / 480 % 8, ([.north, .east, .south, .west, .island, .channel, .dN, .dE, .dS, .hub][k / 6 % 10]?).getD .hub,
    ([.outbound, .inbound, .transit][k % 3]?).getD .outbound⟩

/-- Takes the flits out of the link buffers that meet a condition, the oldest of each buffer first. -/
def State.takeWaiting (s : State) (p : Hop → Bool) : State × List Flit :=
  ({ s with fabric := { s.fabric with buffers := s.fabric.buffers.filter fun e => !p (keyHop e.1) } },
    (s.fabric.buffers.filter fun e => p (keyHop e.1)).flatMap fun e => e.2)

/-- Whether a hop leaves by a link. -/
def Hop.onLink (h : Hop) (l : Nat) : Bool := decide (h.link = some l)

/-- Whether a hop ends at a cluster's island. -/
def Hop.into (h : Hop) (cl : Cl) : Bool := decide (h.out = .island) && decide (clAt h.die h.x h.y = cl)

end Sys2Proof.Machine
end

