-- ==== Sys2Proof/Machine/Num.lean ====
section
/-! DEFINITION. Number formats, roundings, the K-slice sum, the functions and the conversions of 02 and R37 to R41. -/

namespace Sys2Proof.Machine

open Sys2Proof

/-! ### Formats (R48) -/

/-- A floating-point format: mantissa and exponent field widths, the exponent of its smallest subnormal, whether it
has infinities and NaNs as IEEE 754 (0), only the E4M3 NaN (1) or neither (2), and its largest finite value maxM · 2^maxE. -/
structure FFmt where
  mb : Nat
  eb : Nat
  g : Int
  kind : Nat
  maxM : Nat
  maxE : Int
deriving DecidableEq, Repr

/-- FP32. -/
def fp32 : FFmt := ⟨23, 8, -149, 0, 2 ^ 24 - 1, 104⟩
/-- BF16. -/
def bf16 : FFmt := ⟨7, 8, -133, 0, 255, 120⟩
/-- FP16. -/
def fp16 : FFmt := ⟨10, 5, -24, 0, 2047, 5⟩
/-- E4M3. -/
def e4m3 : FFmt := ⟨3, 4, -9, 1, 14, 5⟩
/-- E5M2. -/
def e5m2 : FFmt := ⟨2, 5, -16, 0, 7, 13⟩
/-- E2M3, the element of MXFP6. -/
def e2m3 : FFmt := ⟨3, 2, -3, 2, 15, -1⟩
/-- E2M1, the element of MXFP4. -/
def e2m1 : FFmt := ⟨1, 2, -1, 2, 3, 1⟩

/-- +0. -/
def Num.zero : Num := .fin false 0 0
/-- Whether a value is a zero of either sign. -/
def Num.isZero : Num → Bool
  | .fin _ m _ => m = 0
  | _ => false
/-- Whether a value is NaN. -/
def Num.isNan : Num → Bool
  | .nan => true
  | _ => false
/-- The opposite sign. -/
def Num.negate : Num → Num
  | .nan => .nan
  | .inf s => .inf (!s)
  | .fin s m e => .fin (!s) m e
/-- A finite value times 2^k, exactly. -/
def Num.scale (x : Num) (k : Int) : Num :=
  match x with
  | .fin s m e => if m = 0 then .fin s 0 0 else .fin s m (e + k)
  | y => y

/-- The value of a bit pattern (R48). -/
def FFmt.decode (f : FFmt) (n : Nat) : Num :=
  let frac := n % 2 ^ f.mb
  let ex := n / 2 ^ f.mb % 2 ^ f.eb
  let neg := n / 2 ^ (f.mb + f.eb) % 2 = 1
  if f.kind = 0 ∧ ex = 2 ^ f.eb - 1 then (if frac = 0 then .inf neg else .nan)
  else if f.kind = 1 ∧ ex = 2 ^ f.eb - 1 ∧ frac = 2 ^ f.mb - 1 then .nan
  else if ex = 0 then (if frac = 0 then .fin neg 0 0 else .fin neg frac f.g)
  else .fin neg (2 ^ f.mb + frac) (f.g + (ex - 1 : Nat))

/-- The bit pattern of a value that the format holds; NaN is canonical (R55). -/
def FFmt.encode (f : FFmt) (x : Num) : Nat :=
  let sgn (b : Bool) : Nat := if b then 2 ^ (f.mb + f.eb) else 0
  match x with
  | .nan => if f.kind = 1 then 2 ^ (f.mb + f.eb) - 1 else (2 ^ f.eb - 1) * 2 ^ f.mb + 2 ^ (f.mb - 1)
  | .inf s => sgn s + (2 ^ f.eb - 1) * 2 ^ f.mb
  | .fin s m e =>
    if m = 0 then sgn s
    else
      let l : Int := e + (Nat.log2 m : Int)
      let b : Int := max l (f.g + f.mb)
      let k : Int := e - (b - f.mb)
      let man := if k ≥ 0 then m * 2 ^ k.toNat else m / 2 ^ (-k).toNat
      sgn s + (b - (f.g + f.mb)).toNat * 2 ^ f.mb + man

/-! ### Rounding (R57, R58) -/

/-- n / 2^k rounded to nearest, ties to even. -/
def rneShift (n k : Nat) : Nat :=
  let q := n / 2 ^ k
  let r := n % 2 ^ k
  if 2 * r > 2 ^ k ∨ (2 * r = 2 ^ k ∧ q % 2 = 1 ∧ k ≠ 0) then q + 1 else q

/-- The format's grid at a magnitude with leading exponent l. -/
def FFmt.gridAt (f : FFmt) (l : Int) : Int := max (l - f.mb) f.g

/-- Whether m · 2^e is greater than n · 2^k. -/
def magGt (m : Nat) (e : Int) (n : Nat) (k : Int) : Bool :=
  if e ≥ k then decide (m * 2 ^ (e - k).toNat > n) else decide (m > n * 2 ^ (k - e).toNat)

/-- A finite overflow: ±∞, or the largest finite value in a format without infinity (R57, R61). -/
def FFmt.over (f : FFmt) (s : Bool) : Num := if f.kind = 0 then .inf s else .fin s f.maxM f.maxE

/-- Round-to-nearest-even to a format (R57, R61, R62). -/
def FFmt.round (f : FFmt) (x : Num) : Num :=
  match x with
  | .nan => .nan
  | .inf s => if f.kind = 0 then .inf s else if f.kind = 1 then .nan else .fin s f.maxM f.maxE
  | .fin s m e =>
    if m = 0 then .fin s 0 0
    else
      let g := f.gridAt (e + (Nat.log2 m : Int))
      if e ≥ g then (if magGt m e f.maxM f.maxE then f.over s else .fin s m e)
      else
        let q := rneShift m (g - e).toNat
        if q = 0 then .fin s 0 0
        else if magGt q g f.maxM f.maxE then f.over s else .fin s q g

/-- Stochastic rounding to a format with the generator value r (R58). -/
def FFmt.roundSR (f : FFmt) (r : Nat) (x : Num) : Num :=
  match x with
  | .fin s m e =>
    if m = 0 then .fin s 0 0
    else if magGt m e f.maxM f.maxE then
      (if f.kind = 0 ∧ !magGt (2 * f.maxM + 1) (f.maxE - 1) m e then .inf s else .fin s f.maxM f.maxE)
    else
      let g := f.gridAt (e + (Nat.log2 m : Int))
      if e ≥ g then .fin s m e
      else
        let k := (g - e).toNat
        let q := m / 2 ^ k
        let rem := m % 2 ^ k
        let q := if r < 2 ^ 32 * rem / 2 ^ k then q + 1 else q
        if q = 0 then .fin s 0 0 else .fin s q g
  | y => f.round y

/-! ### Exact arithmetic with one rounding -/

/-- A finite value as a whole number of units 2^g, truncated toward zero. -/
def Num.units (g : Int) : Num → Int
  | .fin s m e =>
    let n : Nat := if e ≥ g then m * 2 ^ (e - g).toNat else m / 2 ^ (g - e).toNat
    if s then -(n : Int) else n
  | _ => 0

/-- A whole number of units 2^g; a zero takes the given sign. -/
def Num.ofUnits (v : Int) (g : Int) (zneg : Bool) : Num :=
  if v = 0 then .fin zneg 0 0 else .fin (decide (v < 0)) v.natAbs g

/-- The exponent of the unit of a finite value. -/
def Num.unit : Num → Int
  | .fin _ m e => if m = 0 then 0 else e
  | _ => 0

/-- Exact product (R52, R55). -/
def Num.mul (a b : Num) : Num :=
  match a, b with
  | .nan, _ | _, .nan => .nan
  | .inf s, .inf t => .inf (s != t)
  | .inf s, .fin t m _ => if m = 0 then .nan else .inf (s != t)
  | .fin s m _, .inf t => if m = 0 then .nan else .inf (s != t)
  | .fin s m e, .fin t n k => if m = 0 ∨ n = 0 then .fin (s != t) 0 0 else .fin (s != t) (m * n) (e + k)

/-- Exact sum of two values (R55); a zero sum is −0 only of two −0. -/
def Num.addExact (a b : Num) : Num :=
  match a, b with
  | .nan, _ | _, .nan => .nan
  | .inf s, .inf t => if s = t then .inf s else .nan
  | .inf s, _ | _, .inf s => .inf s
  | .fin s m e, .fin t n k =>
    if m = 0 ∧ n = 0 then .fin (s && t) 0 0
    else if m = 0 then .fin t n k
    else if n = 0 then .fin s m e
    else
      let g := min e k
      Num.ofUnits (Num.units g (.fin s m e) + Num.units g (.fin t n k)) g false

/-- FP32 product and sum, each rounded once (R37, R38). -/
def fmul32 (a b : Num) : Num := fp32.round (a.mul b)
/-- FP32 sum. -/
def fadd32 (a b : Num) : Num := fp32.round (a.addExact b)

/-! ### The wide adder and the accumulator (R53 to R56) -/

/-- Rounding to a 24-bit normalised significand; a magnitude that reaches 2¹⁴⁸ is ±∞ (R54). -/
def round24 (x : Num) : Num :=
  match x with
  | .fin s m e =>
    if m = 0 then .fin s 0 0
    else
      let l := Nat.log2 m
      let r : Nat × Int :=
        if l ≤ 23 then (m * 2 ^ (23 - l), e - ((23 - l : Nat) : Int))
        else
          let q := rneShift m (l - 23)
          if q = 2 ^ 24 then (2 ^ 23, e + ((l - 22 : Nat) : Int)) else (q, e + ((l - 23 : Nat) : Int))
      if r.2 + 23 ≥ 148 then .inf s else .fin s r.1 r.2
  | y => y

/-- The greatest leading exponent among non-zero finite values. -/
def topExp : List Num → Option Int
  | [] => none
  | .fin _ m e :: t =>
    let r := topExp t
    if m = 0 then r
    else
      let l := e + (Nat.log2 m : Int)
      match r with
      | some k => some (max l k)
      | none => some l
  | _ :: t => topExp t

/-- The sum in the wide adder before rounding (R53, R55): truncated below 2^(E − 47), summed exactly. -/
def wideSum (ps : List Num) : Num :=
  if ps.any Num.isNan ∨ (ps.contains (.inf false) ∧ ps.contains (.inf true)) then .nan
  else if ps.contains (.inf false) then .inf false
  else if ps.contains (.inf true) then .inf true
  else match topExp ps with
    | none => .fin (ps.all fun p => match p with
        | .fin s _ _ => s
        | _ => false) 0 0
    | some e => Num.ofUnits (ps.foldl (fun a p => a + p.units (e - 47)) 0) (e - 47) false

/-- The rounded K-slice sum (R53, R54). -/
def sliceSum (ps : List Num) : Num := round24 (wideSum ps)

/-- Addition into an accumulator (R54, R55). -/
def accAdd (a b : Num) : Num := round24 (a.addExact b)

/-! ### The functions of R40 -/

/-- Integer square root by bits, from bit k down: the greatest r with r² ≤ n and r < 2^k. -/
def isqrtBits (n : Nat) : Nat → Nat → Nat
  | 0, r => r
  | k + 1, r => let t := r + 2 ^ k; isqrtBits n k (if t * t ≤ n then t else r)

/-- Integer square root. -/
def isqrt (n : Nat) : Nat := isqrtBits n (Nat.log2 n / 2 + 1) 0

/-- The FP32 neighbour at or below 2^(−e) / m, and whether it is exact. -/
def rcpLow (m : Nat) (e : Int) : Num × Bool :=
  let l : Int := (Nat.log2 (2 ^ 64 / m) : Int) - 64 - e
  let g := fp32.gridAt l
  let k : Int := -e - g
  if k ≥ 0 then (.fin false (2 ^ k.toNat / m) g, 2 ^ k.toNat % m = 0) else (.fin false 0 0, false)

/-- The FP32 neighbour at or below 1 / √(m · 2^e), and whether it is exact. -/
def rsqLow (m : Nat) (e : Int) : Num × Bool :=
  let m' := if e % 2 = 0 then m else 2 * m
  let e' := if e % 2 = 0 then e else e - 1
  let l : Int := (Nat.log2 (isqrt (4 ^ 64 / m')) : Int) - 64 - e' / 2
  let g := fp32.gridAt l
  let k : Int := -(e' / 2) - g
  if k ≥ 0 then
    let q := isqrt (4 ^ k.toNat / m')
    (.fin false q g, q * q * m' = 4 ^ k.toNat)
  else (.fin false 0 0, false)

/-- 2^f · 2^320 from below, where f = fr / 2^n is a fraction: the product of the roots 2^(2^−i) of the bits of f,
from the highest bit on; r is the current root with 320 fraction bits. -/
def exp2Frac : Nat → Nat → Nat → Nat → Nat
  | 0, _, _, a => a
  | n + 1, fr, r, a =>
    let r' := isqrt (r * 2 ^ 320)
    exp2Frac n fr r' (if fr / 2 ^ n % 2 = 1 then a * r' / 2 ^ 320 else a)

/-- The FP32 neighbour at or below 2^x for a finite x between −150 and 128, and whether it is exact. -/
def exp2Low (s : Bool) (m : Nat) (e : Int) : Num × Bool :=
  let n := (-e).toNat
  let v : Int := if e ≥ 0 then m * 2 ^ e.toNat else m
  let v := if s then -v else v
  let whole : Int := v / (2 ^ n : Nat)
  let fr := (v % (2 ^ n : Nat)).toNat
  let g := fp32.gridAt whole
  let a := if fr = 0 then 2 ^ 320 else exp2Frac n fr (2 * 2 ^ 320) (2 ^ 320)
  let k : Int := whole - 320 - g
  let q := if k ≥ 0 then a * 2 ^ k.toNat else a / 2 ^ (-k).toNat
  (if q = 0 then Num.zero else .fin false q g, fr = 0 ∧ (k ≥ 0 ∨ a % 2 ^ (-k).toNat = 0))

/-- The delivered magnitude: the free pick among the values within 1 ulp (R40, log 3). -/
def funcPicked (fn : Nat) (x : Num) (neg : Bool) (lo : Num × Bool) : Num :=
  let p := Config.funcPick fn (BitVec.ofNat 32 (fp32.encode x))
  let c := fp32.encode lo.1
  let c := if lo.2 then (if p % 3 = 1 then c + 1 else if p % 3 = 2 then c - 1 else c)
           else if p % 2 = 1 then c + 1 else c
  let y := fp32.decode c
  if neg then y.negate else y

/-- FUNC of R38 on an FP32 value (R40). -/
def applyFunc (f : Func) (x : Num) : Num :=
  match f, x with
  | .none, x => x
  | _, .nan => .nan
  | .exp2, .inf s => if s then .zero else .inf false
  | .exp2, .fin s m e =>
    if m = 0 then .fin false 1 0
    else if !s ∧ !magGt 128 0 m e then .inf false
    else if s ∧ !magGt 150 0 m e then .zero
    else funcPicked 1 (.fin s m e) false (exp2Low s m e)
  | .rcp, .inf s => .fin s 0 0
  | .rcp, .fin s m e =>
    if m = 0 ∨ !magGt m e 1 (-128) then .inf s
    else funcPicked 2 (.fin s m e) s (rcpLow m e)
  | .rsq, .inf s => if s then .nan else .zero
  | .rsq, .fin s m e =>
    if m = 0 then .inf s
    else if s then .nan
    else funcPicked 3 (.fin s m e) false (rsqLow m e)

/-! ### Reductions (R41) -/

/-- ROWSUM: the wide adder, rounded once to FP32. -/
def rowSum (xs : List Num) : Num := fp32.round (wideSum xs)

/-- Whether a is greater than b in the order of ROWMAX, where +0 is greater than −0. -/
def Num.gt (a b : Num) : Bool :=
  match a, b with
  | .nan, _ | _, .nan => false
  | .inf s, .inf t => !s && t
  | .inf s, _ => !s
  | _, .inf t => t
  | .fin s m e, .fin t n k =>
    if m = 0 ∧ n = 0 then !s && t
    else
      let g := min e k
      decide (Num.units g (.fin s m e) > Num.units g (.fin t n k))

/-- ROWMAX. -/
def rowMax (xs : List Num) : Num :=
  if xs.any Num.isNan then .nan
  else match xs with
    | [] => .zero
    | x :: t => t.foldl (fun a b => if b.gt a then b else a) x

/-! ### The stochastic generator (R59) -/

/-- The generator value of a seed at count c: the upper 32 bits of z. -/
def srValue (seed c : BitVec 64) : Nat :=
  let z := seed + (c + 1) * 0x9E3779B97F4A7C15#64
  let z := (z ^^^ (z >>> 30)) * 0xBF58476D1CE4E5B9#64
  let z := (z ^^^ (z >>> 27)) * 0x94D049BB133111EB#64
  let z := z ^^^ (z >>> 31)
  (z >>> 32).toNat

/-! ### Elements in bytes (R50) -/

/-- Bits of one element of an array format. -/
def elBits : Fmt → Nat
  | .bf16 | .fp16 => 16
  | .e4m3 | .e5m2 | .int8 | .mxfp8 | .mxfp6 => 8
  | .mxfp4 => 4

/-- MX blocks (scale tiles) per operand per slice (R23). -/
def elBlocks : Fmt → Nat
  | .mxfp8 | .mxfp6 => 2
  | .mxfp4 => 4
  | _ => 0

/-- K elements per slice (R23). -/
def elDepth (f : Fmt) : Nat := 512 / elBits f

/-- Whether CONFIG accepts a pairing (R23). -/
def pairOk : Fmt → Fmt → Bool
  | .e4m3, .e4m3 | .e4m3, .e5m2 | .e5m2, .e4m3 | .e5m2, .e5m2 => true
  | a, b => decide (a = b)

/-- The value of an element's bits (R48, R49), without block scale. -/
def elValue (f : Fmt) (n : Nat) : Num :=
  match f with
  | .bf16 => bf16.decode n
  | .fp16 => fp16.decode n
  | .e4m3 | .mxfp8 => e4m3.decode n
  | .e5m2 => e5m2.decode n
  | .mxfp6 => e2m3.decode (n % 64)
  | .mxfp4 => e2m1.decode n
  | .int8 => if n ≥ 128 then .fin true (256 - n) 0 else if n = 0 then .zero else .fin false n 0

/-- Applies an E8M0 scale (R49). -/
def scaled (x : Num) (scale : Nat) : Num := if scale = 0xFF then .nan else x.scale ((scale : Int) - 127)

/-- The bits of element k of a row of bytes, with elements of w bits (R50). -/
def elemBits (row : List Byte) (w k : Nat) : Nat :=
  if w = 4 then (row.getD (k / 2) 0).toNat / 16 ^ (k % 2) % 16
  else leNat ((List.range (w / 8)).map fun i => row.getD (w / 8 * k + i) 0)

/-- Rows of bytes from elements of w bits. -/
def packBits (w : Nat) (es : List Nat) : List Byte :=
  if w = 4 then (List.range ((es.length + 1) / 2)).map fun i => BitVec.ofNat 8 (es.getD (2 * i) 0 % 16 + 16 * (es.getD (2 * i + 1) 0 % 16))
  else es.flatMap fun n => leBytes (w / 8) n

/-! ### Conversions of drains (R61, R63) -/

/-- The FFmt and the width of a plain output format. -/
def outFmt : OFmt → FFmt
  | .fp32 => fp32
  | .bf16 => bf16
  | .fp16 => fp16
  | .e4m3 | .mxfp8 => e4m3
  | .e5m2 => e5m2
  | .mxfp6 => e2m3
  | .mxfp4 => e2m1

/-- Bits of one output element as stored. -/
def outBits : OFmt → Nat
  | .fp32 => 32
  | .bf16 | .fp16 => 16
  | .e4m3 | .e5m2 | .mxfp8 | .mxfp6 => 8
  | .mxfp4 => 4

/-- Whether an output format is MX. -/
def outMx : OFmt → Bool
  | .mxfp8 | .mxfp6 | .mxfp4 => true
  | _ => false

/-- emax of R49. -/
def outEmax : OFmt → Int
  | .mxfp8 => 8
  | _ => 2

/-- One element, by round-to-nearest-even or with a generator value. -/
def convElem (f : FFmt) (r : Option Nat) (x : Num) : Nat :=
  match r with
  | none => f.encode (f.round x)
  | some v => f.encode (f.roundSR v x)

/-- The magnitude exponent ⌊log₂ m⌋ of the greatest magnitude, none when every value is zero (R63). -/
def blockTop (xs : List Num) : Option Int := topExp xs

/-- The scale of an MX block and whether it reads as NaN (R63). -/
def mxScale (f : OFmt) (xs : List Num) : Nat :=
  if xs.any (fun x => match x with
    | .fin _ _ _ => false
    | _ => true) then 0xFF
  else match blockTop xs with
    | none => 0
    | some l => (max (-127) (min 127 (l - outEmax f)) + 127).toNat

/-- An element of an MX block of a given scale (R63). -/
def mxElem (f : OFmt) (scale : Nat) (r : Option Nat) (x : Num) : Nat :=
  if scale = 0xFF then 0 else convElem (outFmt f) r (x.scale (127 - (scale : Int)))

end Sys2Proof.Machine
end

