-- ==== Sys2Proof/Machine/Product.lean ====
section
/-! DEFINITION. What a slice adds to the accumulators and what a drain makes of them (R21 to R23, R33, R35, R38 to R42, R52 to
R63). -/

namespace Sys2Proof.Machine

open Sys2Proof

/-- Whether SCALE or BIAS reads a row-vector tile. -/
def vselVec : VSel → Bool
  | .rowv | .colv => true
  | _ => false

/-- Alignment and size of a drain's destination tile (R39, R76). -/
def drainTile (d : Drain) : Nat × Nat := if d.fmt = .fp32 then (4096, 4096) else (2048, 2048)

/-- Tiles of slice s on one edge: the operand tile, then its scale tiles (R23, R25). -/
def sliceTiles (src scl blocks s : Nat) : List TileRead :=
  ⟨src + 2048 * s, 2048, 32 * s⟩ :: (List.range blocks).map fun b => ⟨scl + 32 * (s * blocks + b), 32, 32 * s⟩

/-! ### Arithmetic of a slice (R21 to R23, R33, R35, R52 to R55) -/

/-- The values of row r of an operand tile, scales applied (R49, R50). -/
def rowValues (f : Fmt) (m : Mem) (ts : List TileRead) (r : Nat) : List Num :=
  match ts with
  | [] => []
  | t :: sc =>
    let row := m.read (t.addr + 64 * r) 64
    (List.range (elDepth f)).map fun k =>
      let x := elValue f (elemBits row (elBits f) k)
      match sc[k / 32]? with
      | some b => if elBlocks f = 0 then x else scaled x (m.byte (b.addr + r)).toNat
      | none => x

/-- A product; an INT8 product is an integer, whose zero has no sign (R52). -/
def elProduct (int8 : Bool) (a b : Num) : Num :=
  let p := a.mul b
  if int8 && p.isZero then .zero else p

/-- The rows or columns that a mask enables. -/
def maskLines (m : W32) : List Nat := (List.range 32).filter fun i => m.getLsbD i

/-- Number of an accumulator element: tile t, row i, column j. -/
def accIx (t i j : Nat) : Nat := 1024 * t + 32 * i + j

/-- One slice into accumulator t (R22, R33, R53, R54). -/
def accSlice (acc : SMap Num) (t : Nat) (replace int8 : Bool) (left top : List (Nat × List Num)) : SMap Num :=
  left.foldl (fun acc l => top.foldl (fun acc u =>
    let x := sliceSum (List.zipWith (elProduct int8) l.2 u.2)
    let i := accIx t l.1 u.1
    put Num.zero acc i (if replace then x else accAdd (look Num.zero acc i) x)) acc) acc

/-! ### The drain (R38 to R42, R56 to R63) -/

/-- A value of SCALE or BIAS for row r and column j. -/
def vselValue (v : VSel) (m : Mem) (vec r j : Nat) : Num :=
  let entry (i : Nat) : Num := fp32.decode (leNat (m.read (vec + 4 * i) 4))
  match v with
  | .none => .zero
  | .imm w => fp32.decode w.toNat
  | .rowv => entry r
  | .colv => entry j

/-- Stages 1 to 3 on one element (R38). -/
def drainStages (d : Drain) (m : Mem) (r j : Nat) (x : Num) : Num :=
  let x := if d.scale = .none then x else fmul32 x (vselValue d.scale m d.svec r j)
  let x := if d.bias = .none then x else fadd32 x (vselValue d.bias m d.bvec r j)
  applyFunc d.func x

/-- Whole bytes at an address. -/
def outBytes (a : Nat) (bs : List Byte) : List OutByte := bs.zipIdx.map fun e => ⟨a + e.2, 0xFF, e.1⟩

/-- The converted elements of a row as bytes (R39): (column, bits). -/
def placeRow (d : Drain) (r : Nat) (es : List (Nat × Nat)) : List OutByte :=
  match d.fmt with
  | .fp32 => es.flatMap fun e => outBytes (d.dst + 128 * r + 4 * e.1) (leBytes 4 e.2)
  | .bf16 | .fp16 => es.flatMap fun e => outBytes (d.dst + 64 * r + 2 * e.1) (leBytes 2 e.2)
  | .e4m3 | .e5m2 | .mxfp8 | .mxfp6 => es.flatMap fun e => outBytes (d.dst + 64 * r + 32 * d.part + e.1) (leBytes 1 e.2)
  | .mxfp4 => (List.range 16).flatMap fun b =>
    let lo := es.find? fun e => e.1 = 2 * b
    let hi := es.find? fun e => e.1 = 2 * b + 1
    let a := d.dst + 64 * r + 16 * d.part + b
    match lo, hi with
    | none, none => []
    | some x, none => [⟨a, 0x0F, BitVec.ofNat 8 x.2⟩]
    | none, some y => [⟨a, 0xF0, BitVec.ofNat 8 (16 * y.2)⟩]
    | some x, some y => [⟨a, 0xFF, BitVec.ofNat 8 (x.2 + 16 * y.2)⟩]

/-- One row through the drain: its cells, and the conversion count after it (R60). -/
def drainRow (d : Drain) (m : Mem) (seed : BitVec 64) (r : Nat) (cnt : Nat) (xs : List (Nat × Num)) : List OutByte × Nat :=
  match xs with
  | [] => ([], cnt)
  | _ =>
    let ys := xs.map fun e => (e.1, drainStages d m r e.1 e.2)
    let vals := ys.map (·.2)
    let red := match d.red with
      | .none => []
      | .rowmax => outBytes (d.rvec + 4 * r) (leBytes 4 (fp32.encode (rowMax vals)))
      | .rowsum => outBytes (d.rvec + 4 * r) (leBytes 4 (fp32.encode (rowSum vals)))
    let sc := mxScale d.fmt vals
    let es := ys.zipIdx.map fun e =>
      let rv : Option Nat := if d.sr then some (srValue seed (BitVec.ofNat 64 (cnt + e.2))) else none
      (e.1.1, if outMx d.fmt then mxElem d.fmt sc rv e.1.2 else convElem (outFmt d.fmt) rv e.1.2)
    (placeRow d r es ++ red ++ (if outMx d.fmt then outBytes (d.sdst + r) (leBytes 1 sc) else []),
      if d.sr then cnt + xs.length else cnt)

/-- A whole drain in drain order, rows 0 to 31 (R60): the cells and the count. `src r j` is the FP32 value that enters. -/
def drainAll (d : Drain) (m : Mem) (seed : BitVec 64) (cnt : Nat) (rows cols : List Nat) (src : Nat → Nat → Num) : List OutByte × Nat :=
  rows.foldl (fun a r =>
    let x := drainRow d m seed r a.2 (cols.map fun j => (j, src r j))
    (a.1 ++ x.1, x.2)) ([], cnt)

end Sys2Proof.Machine
end

