-- ==== Sys2Proof/Machine/Operands.lean ====
section
/-! DEFINITION. Operands: registers, counter names, descriptor fields, tile-store regions and the scoreboard. -/

namespace Sys2Proof.Machine

open Sys2Proof

/-! ### Scalar registers (R68, R122) -/

/-- Register n of a core; s0 reads as zero. -/
def Core.reg (k : Core) (n : Nat) : Word := if n = 0 then 0 else look 0 k.regs n
/-- Writes register n of a core; a write to s0 is discarded. -/
def Core.setReg (k : Core) (n : Nat) (v : Word) : Core := if n = 0 then k else { k with regs := put 0 k.regs n v }
/-- Register n of a steward core. -/
def Steward.reg (k : Steward) (n : Nat) : Word := if n = 0 then 0 else look 0 k.regs n
/-- Writes register n of a steward core. -/
def Steward.setReg (k : Steward) (n : Nat) (v : Word) : Steward :=
  if n = 0 then k else { k with regs := put 0 k.regs n v }

/-- Register n of the sequencer of an issue. -/
def State.reg (s : State) (w : At) (n : Nat) : Word :=
  match w.who with
  | .core c => (s.core w.cl c).reg n
  | .steward => (s.stew w.cl).reg n

/-- Writes register n of the sequencer of an issue. -/
def State.setReg (s : State) (w : At) (n : Nat) (v : Word) : State :=
  match w.who with
  | .core c => s.setCore w.cl c ((s.core w.cl c).setReg n v)
  | .steward => s.setStew w.cl ((s.stew w.cl).setReg n v)

/-- Whether a number names a scalar register. -/
def regOk (n : Nat) : Bool := decide (n < 32)

/-- Whether a source operand is in range (R89). -/
def srcOk : Src → Bool
  | .reg r => regOk r
  | .imm v => immOk v

/-- The value of a source operand. -/
def State.src (s : State) (w : At) : Src → Word
  | .reg r => s.reg w r
  | .imm v => imm64 v

/-! ### Descriptors (R115, R236) -/

/-- Bits [hi:lo] of a descriptor. -/
def dfl (d : BitVec 512) (hi lo : Nat) : Nat := bits hi lo d.toNat
/-- DTYPE. -/
def dType (d : BitVec 512) : Nat := dfl d 511 504
/-- TASK_ID of R115. -/
def tTaskId (d : BitVec 512) : Nat := dfl d 503 488
/-- CORESET. -/
def tCoreset (d : BitVec 512) : BitVec 12 := BitVec.ofNat 12 (dfl d 487 476)
/-- ECLASS. -/
def tEclass (d : BitVec 512) : Nat := dfl d 475 468
/-- SPEC. -/
def tSpec (d : BitVec 512) : Bool := dfl d 467 467 = 1
/-- RELOC. -/
def tReloc (d : BitVec 512) : Bool := dfl d 466 466 = 1
/-- ENTRY. -/
def tEntry (d : BitVec 512) : Nat := dfl d 463 416
/-- A condition of R115 by the place of its SEL's top bit: SEL in [hi:hi−7], its value in the 32 bits below.
COND0 415, COND1 375, COMMIT 335, DISCARD 295. -/
def tCond (d : BitVec 512) (hi : Nat) : Option (Nat × W32) :=
  if dfl d hi hi = 1 then some (dfl d (hi - 2) (hi - 7), BitVec.ofNat 32 (dfl d (hi - 8) (hi - 39))) else none
/-- DONE_SEL's hub counter. -/
def tDone (d : BitVec 512) : Option Nat := if dfl d 63 63 = 1 then some (dfl d 61 56) else none

/-- A signed 32-bit field. -/
def sfl (d : BitVec 512) (hi lo : Nat) : Int := (BitVec.ofNat 32 (dfl d hi lo)).toInt

/-- A data descriptor's SRC_TS, DST_TS and TSV (R236). -/
def dSrcTs (d : BitVec 512) : Bool := dfl d 500 500 = 1
/-- DST_TS. -/
def dDstTs (d : BitVec 512) : Bool := dfl d 499 499 = 1
/-- TSV. -/
def dTsv (d : BitVec 512) : Bool := dfl d 498 498 = 1
/-- WT. -/
def dWt (d : BitVec 512) : Bool := dfl d 501 501 = 1
/-- SUM_EN. -/
def dSumEn (d : BitVec 512) : Bool := dfl d 502 502 = 1
/-- Bytes of an element, 2^ESIZE. -/
def dEsize (d : BitVec 512) : Nat := 2 ^ dfl d 493 491
/-- The hint of two HINT bits (R236). -/
def hintOf (n : Nat) : Hint := if n = 0 then .keep else if n = 1 then .stream else .dead
/-- The cluster that PEER names. -/
def dPeer (d : BitVec 512) : Cl := clAt (dfl d 394 393) (dfl d 392 390) (dfl d 389 387)
/-- N0, N1, N2. -/
def dCounts (d : BitVec 512) : Nat × Nat × Nat := (dfl d 308 293 + 1, dfl d 292 277 + 1, dfl d 276 261 + 1)
/-- Number of elements. -/
def dElems (d : BitVec 512) : Nat := let c := dCounts d; c.1 * c.2.1 * c.2.2
/-- Offset of element n in loop order for three steps (R239). -/
def loopOff (c : Nat × Nat × Nat) (n : Nat) (a b e : Int) : Int :=
  (n % c.1 : Nat) * a + (n / c.1 % c.2.1 : Nat) * b + (n / (c.1 * c.2.1) : Nat) * e
/-- SRC; a tile-store address lies in its bits [17:0] (R236). -/
def dSrcBase (d : BitVec 512) : Nat := if dSrcTs d then dfl d 386 348 % 2 ^ 18 else dfl d 386 348
/-- DST. -/
def dDstBase (d : BitVec 512) : Nat := if dDstTs d then dfl d 347 309 % 2 ^ 18 else dfl d 347 309
/-- Source address of element n in loop order. -/
def dSrc (d : BitVec 512) (n : Nat) : Int :=
  (dSrcBase d : Nat) + loopOff (dCounts d) n (sfl d 260 229) (sfl d 228 197) (sfl d 196 165)
/-- Destination address of element n in loop order. -/
def dDst (d : BitVec 512) (n : Nat) : Int :=
  (dDstBase d : Nat) + loopOff (dCounts d) n (sfl d 164 133) (sfl d 132 101) (sfl d 100 69)
/-- Lowest and highest byte of a side (R239): base plus the sums of the negative and of the positive reaches. -/
def spanOf (base : Nat) (c : Nat × Nat × Nat) (a b e : Int) (sz : Nat) : Int × Int :=
  let r : List Int := [((c.1 - 1 : Nat) : Int) * a, ((c.2.1 - 1 : Nat) : Int) * b, ((c.2.2 - 1 : Nat) : Int) * e]
  (base + r.foldl (fun x y => x + min y 0) 0, base + r.foldl (fun x y => x + max y 0) 0 + (sz - 1 : Nat))
/-- Span of the source side; the list of a GATHER has entries of 8 bytes (R240). -/
def dSrcSpan (d : BitVec 512) : Int × Int :=
  spanOf (dSrcBase d) (dCounts d) (sfl d 260 229) (sfl d 228 197) (sfl d 196 165) (if dType d = 6 then 8 else dEsize d)
/-- Span of the destination side. -/
def dDstSpan (d : BitVec 512) : Int × Int :=
  spanOf (dDstBase d) (dCounts d) (sfl d 164 133) (sfl d 132 101) (sfl d 100 69) (dEsize d)

/-! ### Counter operands (R142, R143, R146) -/

/-- The counter that an operand names. -/
def State.crefName (s : State) (w : At) (r : CRef) : Nat :=
  match r, w.who with
  | .own k, .core c => nameCore w.cl c.val k
  | .own k, .steward => nameCore w.cl 15 k
  | .hub h, _ => nameHub w.cl h
  | .full n, _ => (s.reg w n).toNat

/-- Whether a name is a counter of partition p that the issuer may name (R143). -/
def State.nameAllowed (s : State) (p : Nat) (sys : Bool) (n : Nat) : Bool :=
  nameOk n && s.clPart (nameCl n) = p && p ≠ 0xFF && (sys || !nameIsHub n || bits 5 0 n < 56)

/-- Whether CINC and CREAD accept an operand (R143); a steward names every counter in full (R146). -/
def State.crefOk (s : State) (w : At) (r : CRef) : Bool :=
  (match r with
    | .own k => k < 48 && w.who ≠ .steward
    | .hub h => h < 64 && w.who ≠ .steward
    | .full n => regOk n) &&
  s.nameAllowed (s.clPart w.cl) (w.who = .steward) (s.crefName w r)

/-- Whether CEXP and CWAIT accept it as well (R143): a core's own counters or its cluster's hub counters;
a steward's cluster's hub counters or its cluster's cores' counters. -/
def State.crefNarrow (s : State) (w : At) (r : CRef) : Bool :=
  let n := s.crefName w r
  s.crefOk w r && decide (nameCl n = w.cl) &&
    (nameIsHub n || (match w.who with
      | .core c => bits 11 8 n = c.val
      | .steward => true))

/-- Whether an increment's amount is in range (R144), and its value. -/
def State.amtOk (s : State) (w : At) : Src → Bool
  | .imm v => decide (1 ≤ v) && decide (v ≤ 65535)
  | .reg r => regOk r && decide (1 ≤ (s.reg w r).toNat) && decide ((s.reg w r).toNat < 2 ^ 31)
/-- The amount. -/
def State.amt (s : State) (w : At) (a : Src) : Nat := (s.src w a).toNat

/-! ### Tile-store regions and the scoreboard (R82, R83) -/

/-- The regions that n bytes at a touch, one bit each. -/
def regionMask (a n : Nat) : BitVec 64 :=
  if n = 0 then 0
  else BitVec.ofNat 64 ((List.range 64).foldl (fun m r => if a / 4096 ≤ r ∧ r ≤ (a + n - 1) / 4096 then m + 2 ^ r else m) 0)

/-- Regions with a pending move write. -/
def Core.moveWrites (k : Core) : BitVec 64 :=
  k.moves.foldl (fun m e => if e.2.kind = .load ∨ e.2.kind = .ringInto then m ||| e.2.regions else m) 0
/-- Regions from which a ring has still to read (R241). -/
def Core.ringReads (k : Core) : BitVec 64 :=
  k.moves.foldl (fun m e => if e.2.kind = .ringFrom then m ||| e.2.regions else m) 0
/-- Regions of which a TSTORE has still to read a word (R83). -/
def Core.storeReads (k : Core) : BitVec 64 := k.readq.foldl (fun m e => m ||| regionMask (16 * e.2) 16) 0
/-- Regions with a pending move read (R82). -/
def Core.moveReads (k : Core) : BitVec 64 := k.ringReads ||| k.storeReads

/-- Cycle from which no array output into the regions is pending. -/
def Core.outsClear (k : Core) (m : BitVec 64) : Nat :=
  k.outs.foldl (fun t o => if o.regions &&& m ≠ 0 then max t o.vis else t) 0
/-- Cycle from which no array read of the regions is pending. -/
def Core.readsClear (k : Core) (m : BitVec 64) : Nat :=
  k.areads.foldl (fun t r => if m.getLsbD r.region then max t r.point else t) 0

/-- Whether the regions an array instruction reads and writes meet R83, but for reads that a TSTORE has still to make, which
end as the banks serve them (`Core.readEnd`). -/
def Core.arrayMay (k : Core) (rd wr : BitVec 64) : Bool :=
  (k.moveWrites ||| k.incomplete) &&& rd = 0 && (k.moveWrites ||| k.ringReads) &&& wr = 0
/-- Whether a move into the regions meets R83's conditions on other moves, but for reads of a TSTORE. -/
def Core.intoMay (k : Core) (m : BitVec 64) : Bool := (k.moveWrites ||| k.ringReads) &&& m = 0
/-- Whether a move from the regions meets R83's conditions on other moves. -/
def Core.fromMay (k : Core) (m : BitVec 64) : Bool := (k.moveWrites ||| k.incomplete) &&& m = 0
/-- Whether no move is pending and no region is INCOMPLETE (R83: CONFIG, FENCE, END). -/
def Core.movesClear (k : Core) : Bool := k.moves.isEmpty && k.incomplete = 0
/-- A free move slot (R81). -/
def Core.freeSlot (k : Core) : Option Nat := (List.range 4).find? fun i => (find k.moves i).isNone

/-! ### Banks (R71) -/

/-- Whether cycle c lies in the write-back window of an output, the 8 cycles before its L. -/
def inWindow (outs : List PendOut) (c : Nat) : Bool := outs.any fun o => decide (c < o.vis) && decide (o.vis ≤ c + 8)

/-- The words that free banks serve in a cycle, and those refused; a bank serves one word. -/
def bankServe (used : List Nat) : List Nat → List Nat × List Nat
  | [] => ([], [])
  | w :: t =>
    if used.contains (w % 32) then let r := bankServe used t; (r.1, w :: r.2)
    else let r := bankServe (w % 32 :: used) t; (w :: r.1, r.2)

/-- What a move client asks for in a cycle: at most 8 words of the move issued first among those with words ready. -/
def clientAsk (q : List (Nat × Nat)) : List (Nat × Nat) :=
  match q with
  | [] => []
  | e :: t => let s := t.foldl (fun s x => min s x.1) e.1; (q.filter fun x => x.1 = s).take 8

/-- A move client's cycle: the words still asked for, the words served, and whether one was refused. -/
def clientCycle (used : List Nat) (q : List (Nat × Nat)) : List (Nat × Nat) × List Nat × Bool :=
  let r := bankServe used ((clientAsk q).map (·.2))
  (q.filter fun e => !((clientAsk q).contains e && r.1.contains e.2), r.1, !r.2.isEmpty)

/-- One cycle of the banks for move reads and, behind them, move writes (R71). -/
def Core.bankCycle (k : Core) : Core :=
  let used := if inWindow k.outs k.bankCyc then List.range 32
    else (k.grants.filter fun g => g.1 = k.bankCyc).flatMap fun g => g.2.map (· % 32)
  let r := clientCycle used k.readq
  let w := clientCycle (used ++ r.2.1.map (· % 32)) k.writeq
  { k with
    readq := r.1, writeq := w.1, bankCyc := k.bankCyc + 1
    bankConf := k.bankConf + (if r.2.2 then 1 else 0) + (if w.2.2 then 1 else 0) }

/-- Cycles that are enough for the banks to serve every word asked for. -/
def Core.bankFuel (k : Core) : Nat := k.readq.length + k.writeq.length + 8 * k.outs.length + k.grants.length

/-- The banks serve the move clients up to cycle t. -/
def Core.clients : Nat → Core → Nat → Core
  | 0, k, t => { k with bankCyc := max k.bankCyc t }
  | f + 1, k, t =>
    if t ≤ k.bankCyc ∨ (k.readq = [] ∧ k.writeq = []) then { k with bankCyc := max k.bankCyc t, grants := k.grants.filter fun g => decide (t ≤ g.1) }
    else Core.clients f k.bankCycle t

/-- The cycle from which no word of the regions is left for a TSTORE to read (R83); 0 if none is left now. -/
def Core.readEndFrom : Nat → Core → BitVec 64 → Nat
  | 0, k, _ => k.bankCyc
  | f + 1, k, m => if k.storeReads &&& m = 0 then k.bankCyc else Core.readEndFrom f k.bankCycle m
/-- As `readEndFrom`, from where the core stands. -/
def Core.readEnd (k : Core) (m : BitVec 64) : Nat := if k.storeReads &&& m = 0 then 0 else Core.readEndFrom k.bankFuel k m

/-- A move of serial n asks the banks for words to read or to write, from the core's cycle on. -/
def Core.askBanks (k : Core) (read : Bool) (n : Nat) (ws : List Nat) : Core :=
  let k := Core.clients k.bankFuel k k.cyc
  if read then { k with readq := k.readq ++ ws.map fun w => (n, w) } else { k with writeq := k.writeq ++ ws.map fun w => (n, w) }

/-! ### Pending array outputs (R29, R39, R42) -/

/-- Stores an output's cells of one word (R255, R256): whole words get a new code; a part is merged with the old
word, and a poisoned or uncorrectable old word gives the poison word. -/
def outWord (m : Mem) (w : Nat) (cs : List OutByte) : Mem :=
  let whole := cs.length = 16 && cs.all fun c => c.mask = 0xFF
  let store (m : Mem) : Mem := cs.foldl (fun m c => m.setRaw c.addr ((m.raw c.addr &&& ~~~c.mask) ||| (c.val &&& c.mask))) m
  if whole then (store m).setSyn w 0
  else match verdict (m.synAt w) with
    | .clean => store m
    | .corrected _ _ => store (m.fixWord w)
    | _ => m.poisonWord w

/-- Makes an output visible. -/
def PendOut.apply (m : Mem) (o : PendOut) : Mem :=
  o.words.foldl (fun m w => if o.poison then m.poisonWord w else outWord m w (o.cells.filter fun c => c.addr / 16 = w)) m

/-- What a bank finds (R252, R253): a word, its syndrome, and the class of the error that an uncorrectable one raises. -/
abbrev Found := Nat × BitVec 16 × Nat

/-- What the merges of an output meet: a word that is written in part is checked (R253: a deferred error). -/
def PendOut.meets (m : Mem) (o : PendOut) : List Found :=
  if o.poison then []
  else (o.words.filter fun w => !decide ((o.cells.filter fun c => c.addr / 16 = w && c.mask = 0xFF).length = 16)).map fun w => (w, m.synAt w, 1)

/-- Drops latched slices (an operand tile's address, then scale tiles') that were collected before cycle t and hold a
word of ws, which a write touches (R75). -/
def latchDrop (l : List (Nat × List Nat)) (t : Nat) (ws : List Nat) : List (Nat × List Nat) :=
  l.filter fun e => !(decide (e.1 < t) && (match e.2 with
    | [] => false
    | a :: sc => ws.any fun w => decide (w / 128 = a / 2048) || sc.any fun b => decide (w / 2 = b / 32)))

/-- The outputs with L at or before cycle t become visible (R29, R42); what their merges meet. -/
def Core.land (k : Core) (t : Nat) : Core × List Found :=
  let k := Core.clients k.bankFuel k t
  let due := k.outs.filter fun o => o.vis ≤ t
  ({ k with
      ts := due.foldl PendOut.apply k.ts
      outs := k.outs.filter fun o => !decide (o.vis ≤ t)
      areads := k.areads.filter fun r => decide (t < r.point)
      latchA := due.foldl (fun l o => latchDrop l o.vis o.words) k.latchA
      latchB := due.foldl (fun l o => latchDrop l o.vis o.words) k.latchB },
    (due.foldl (fun (a : Mem × List Found) o => (o.apply a.1, a.2 ++ o.meets a.1)) (k.ts, [])).2)

/-! ### Collection (R71 to R75) -/

/-- Whether a word is written by an output visible at t: it counts as collected at L, without a bank cycle (R73). -/
def forwarded (outs : List PendOut) (t w : Nat) : Bool := outs.any fun o => decide (o.vis ≤ t) && o.words.contains w

/-- The words asked for in each cycle of a slice's collection (R72): 8 operand cycles, the scale tiles one by one, the left edge's
before the top edge's, then the vector tiles. An edge that copies its slice (R75) asks for nothing. -/
def collectPlan (l r : List TileRead) (hitL hitR : Bool) (vecs : List Nat) : List (List Nat) :=
  let half (hit : Bool) (ts : List TileRead) (t : Nat) : List Nat := match hit, ts with
    | false, x :: _ => (List.range 16).map fun i => x.addr / 16 + 16 * t + i
    | _, _ => []
  let scales (hit : Bool) (ts : List TileRead) : List (List Nat) := if hit then [] else (ts.drop 1).map fun x => wordsOf x.addr 32
  ((List.range 8).map fun t => half hitL l t ++ half hitR r ((t + 1) % 8)) ++ scales hitL l ++ scales hitR r ++ vecs.map fun v => wordsOf v 128

/-- What of a plan needs the banks, for a read point. -/
def collectNeeds (outs : List PendOut) (plan : List (List Nat)) (t : Nat) : List (List Nat) :=
  (plan.map fun ws => ws.filter fun w => !forwarded outs t w).filter fun ws => !ws.isEmpty

/-- Collects a plan from cycle c on: a cycle of a write-back window is refused and counted (R71). The cycle after the last one, the
count, and the words granted by cycle. -/
def collectFrom (outs : List PendOut) : Nat → Nat → List (List Nat) → Nat → Nat × Nat × List (Nat × List Nat)
  | 0, c, _, conf => (c, conf, [])
  | _, c, [], conf => (c, conf, [])
  | f + 1, c, p :: ps, conf =>
    if inWindow outs c then collectFrom outs f (c + 1) (p :: ps) (conf + 1)
    else let r := collectFrom outs f (c + 1) ps conf; (r.1, r.2.1, (c, p) :: r.2.2)

/-- Collects what a plan needs for read point t. -/
def collect (outs : List PendOut) (c : Nat) (plan : List (List Nat)) (t : Nat) : Nat × Nat × List (Nat × List Nat) :=
  let n := collectNeeds outs plan t
  collectFrom outs (n.length + 8 * outs.length) c n 0

/-- The earliest cycle, from `base` on, at which a first slice whose collection begins at c is in the edge buffers (R26, R73): the
words of an output visible by then are there without a bank cycle. -/
def collectedAt (outs : List PendOut) (c base : Nat) (plan : List (List Nat)) : Nat :=
  outs.foldl (fun t o => min t (max (max base o.vis) (collect outs c plan o.vis).1)) (max base (collect outs c plan 0).1)

/-- Whether a slice with these addresses is in an edge's latch or slots (R75); the slice before the last one counts
only if the last had not yet left when collection began at cycle c. -/
def latchHit (l : List (Nat × List Nat)) (c : Nat) (addrs : List Nat) : Bool :=
  match l with
  | [] => false
  | [x] => decide (x.2 = addrs)
  | x :: y :: _ => decide (x.2 = addrs) || (decide (c < x.1 + 32) && decide (y.2 = addrs))

/-- The addresses of a slice's tiles. -/
def tileAddrs (ts : List TileRead) : List Nat := ts.map (·.addr)

/-- Records a slice that an edge delivers from cycle t on. -/
def latchPut (l : List (Nat × List Nat)) (t : Nat) (ts : List TileRead) : List (Nat × List Nat) := ((t, tileAddrs ts) :: l).take 2

/-- Both edges deliver a slice from cycle t on. -/
def Core.deliver (k : Core) (t : Nat) (l r : List TileRead) : Core :=
  { k with latchA := latchPut k.latchA t l, latchB := latchPut k.latchB t r }

/-- A slice is collected from cycle c on for read point t: reuse hits, conflicts and grants (R71 to R75). -/
def Core.collectSlice (k : Core) (c t : Nat) (l r : List TileRead) (vecs : List Nat) : Core × Nat :=
  let hl := latchHit k.latchA c (tileAddrs l)
  let hr := latchHit k.latchB c (tileAddrs r)
  let x := collect k.outs c (collectPlan l r hl hr vecs) t
  ({ k with
      reuseHits := k.reuseHits + (if hl && !l.isEmpty then 1 else 0) + (if hr && !r.isEmpty then 1 else 0)
      bankConf := k.bankConf + x.2.1, grants := k.grants ++ x.2.2 }, x.1)

/-! ### Slices as the array reads them (R24, R29, R31, R33) -/

/-- What the words of tiles hold: whether one is poisoned or uncorrectable. -/
def tilesBad (m : Mem) (ts : List TileRead) : Bool := ts.any fun t => m.anyPoison t.addr t.len || m.anyBad t.addr t.len

/-- The bank rewrites corrected and uncorrectable words that a collector meets (R252). -/
def tilesFix (m : Mem) (ts : List TileRead) : Mem :=
  ts.foldl (fun m t => (wordsOf t.addr t.len).foldl (fun m w => match verdict (m.synAt w) with
    | .uncorrectable => m.poisonWord w
    | .corrected _ _ => m.fixWord w
    | _ => m) m) m

/-- What the collectors meet in tiles: an uncorrectable word is an error of class 2 (R253). -/
def tilesMeet (m : Mem) (ts : List TileRead) : List Found := ts.flatMap fun t => (wordsOf t.addr t.len).map fun w => (w, m.synAt w, 2)

/-- The value with which an accumulator element enters the drain (R56). -/
def Core.accOut (k : Core) (t r j : Nat) : Num := fp32.round (look Num.zero k.acc (accIx t r j))

/-- Fills in the values of an output whose last slice has been read. -/
def Core.fill (k : Core) (o : PendOut) : PendOut :=
  match o.src with
  | some d =>
    { o with
      cells := (drainAll d.spec d.vecs d.seed d.cnt (maskLines d.rows) (maskLines d.cols) (k.accOut d.acc)).1
      poison := o.poison || k.accPoison.getLsbD d.acc, src := none }
  | none => o

/-- The array reads a slice: its products are added, the accumulator's poison mark follows R31, and the product's output is
filled in behind the last slice. -/
def Core.readSlice (k : Core) (p : PendSlice) : Core × List Found :=
  let m := k.ts
  let ts := p.left ++ p.top
  let bit := BitVec.ofNat 4 (2 ^ p.acc)
  let mark := if tilesBad m ts then k.accPoison ||| bit else if p.clears then k.accPoison &&& ~~~bit else k.accPoison
  let left := (maskLines p.rows).map fun r => (r, rowValues p.fmtL m p.left r)
  let top := (maskLines p.cols).map fun j => (j, rowValues p.fmtT m p.top j)
  let k1 := { k with ts := tilesFix m ts, acc := accSlice k.acc p.acc p.replace p.int8 left top, accPoison := mark }
  ({ k1 with outs := k1.outs.map fun o => if p.vis = some o.vis then k1.fill o else o }, tilesMeet m ts)

/-- While a slice behind a product's first one streams, the edges collect the one after it (R72). The first slice of a product and the
second one's collection are accounted for at issue. -/
def Core.gatherNext (k : Core) (p : PendSlice) (rest : List PendSlice) : Core :=
  let k := if p.ix = 0 then k else k.deliver p.at_ p.left p.top
  match p.ix, rest with
  | _ + 1, q :: _ => if q.ix = p.ix + 1 then (k.collectSlice p.at_ q.at_ q.left q.top []).1 else k
  | _, _ => k

/-- Reads the slices that are due by cycle t, each behind the outputs visible at its read point. -/
def Core.readSlices (t : Nat) : List PendSlice → Core × List Found → Core × List Found
  | [], a => a
  | p :: rest, a =>
    if t < p.at_ then a
    else
      let x := a.1.land p.at_
      let y := x.1.readSlice p
      Core.readSlices t rest ({ y.1.gatherNext p rest with slices := rest }, a.2 ++ x.2 ++ y.2)

/-- Settles what is due by cycle t: slices are read and outputs become visible, in the order of their cycles (R29, R42). -/
def Core.settle (k : Core) (t : Nat) : Core × List Found :=
  let a := Core.readSlices t k.slices (k, [])
  let b := a.1.land t
  (b.1, a.2 ++ b.2)

/-- Whether a partition's task of this cluster and core is speculative, and its slot. -/
def State.slotOf (s : State) (cl : Cl) (c : Cn) : Option Nat :=
  match (s.core cl c).task with
  | some key => match find (s.clu cl).tasks key with
    | some t => t.slot
    | none => none
  | none => none

/-- The core set of the task a core runs, or none. -/
def State.taskCores (s : State) (cl : Cl) (c : Cn) : BitVec 12 :=
  match (s.core cl c).task with
  | some key => match find (s.clu cl).tasks key with
    | some t => t.coreset
    | none => 0
  | none => 0

/-- The TASK_ID of the task a core runs, or 0. -/
def State.taskIdOf (s : State) (cl : Cl) (c : Cn) : Nat :=
  match (s.core cl c).task with
  | some key => match find (s.clu cl).tasks key with
    | some t => tTaskId t.desc
    | none => 0
  | none => 0

/-- Reports what the banks of a core found (R253, R263): a corrected error, or an error of the class given, from source 0x04 for
a collector and 0x06 for the merge of a write. -/
def State.reportFound (s : State) (cl : Cl) (c : Cn) (fs : List Found) : State :=
  fs.foldl (fun s f =>
    let e (cls sym st : Nat) : ErrIn :=
      { source := if f.2.2 = 1 then 0x06 else 0x04, cls := cls, unit := unitName cl c.val, part := s.clPart cl, addr := 16 * f.1
        syndrome := f.2.1.toNat, symbol := sym, status := st, taskId := s.taskIdOf cl c }
    match verdict f.2.1 with
    | .corrected sym _ => s.raise (e 0 sym 0) .none
    | .uncorrectable => s.raise (e f.2.2 0xFF (if f.2.2 = 2 then 1 else 0)) .none
    | _ => s) s

/-- Lets a core's island run on to cycle t, and reports what its banks found. -/
def State.coreTo (s : State) (cl : Cl) (c : Cn) (t : Nat) : State :=
  let k := s.core cl c
  let r := k.settle (max k.cyc t)
  (s.setCore cl c { r.1 with cyc := max k.cyc t }).reportFound cl c r.2

/-- The field spare that serves logical core c of a cluster (R193), by core-map index. -/
def State.servedBy (s : State) (cl : Cl) (c : Nat) : Option Nat :=
  (s.fabric.coreMap.find? fun e => decide (e.1 / 768 = cl.val / 64) && e.2.toNat / 8192 = 4 &&
    bits 9 7 e.2.toNat = xOf cl && bits 6 4 e.2.toNat = yOf cl && bits 3 0 e.2.toNat = c).map (·.1)

/-- The physical core that works as logical core c (R192), by core-map index. -/
def State.physOf (s : State) (cl : Cl) (c : Nat) : Nat := (s.servedBy cl c).getD (12 * cl.val + c)

/-- Whether a logical core waits for its coppice remap (R195). -/
def State.remapping (s : State) (cl : Cl) (c : Nat) : Bool := s.fabric.remapDue.contains (12 * cl.val + c)

/-- Whether logical core c of a cluster is enabled (R192), or is about to be again by a remap (R195). -/
def State.coreEnabled (s : State) (cl : Cl) (c : Nat) : Bool :=
  decide ((s.mapEntry (12 * cl.val + c)).toNat / 8192 = 0) || (s.servedBy cl c).isSome || s.remapping cl c

end Sys2Proof.Machine
end

