-- ==== Sys2Proof/Machine/Lines.lean ====
section
/-! DEFINITION. Lines: permission checks (R209 to R211), cluster caches (R212 to R218), shadow lines (R132), and the
DRAM channels behind them (R252, R384). -/

namespace Sys2Proof.Machine

open Sys2Proof

/-- Line number of a device address (R212). -/
def lineOf (a : Nat) : Nat := a / 128
/-- Set of a line (R212). -/
def setOf (line : Nat) : Nat := line % 1536
/-- The byte mask of n bytes at offset o of a line. -/
def maskOf (o n : Nat) : BitVec 128 := BitVec.ofNat 128 ((2 ^ n - 1) * 2 ^ o)
/-- Every byte of a line. -/
def maskAll : BitVec 128 := BitVec.ofNat 128 (2 ^ 128 - 1)

/-! ### Permission (R209, R210) -/

/-- The permission entry that a cluster uses for a page: its cached entry, or the table's, which it then caches. -/
def State.permUse (s : State) (cl : Cl) (page : Nat) : State × BitVec 4 :=
  let v := s.clu cl
  match v.cache.perm.find? fun e => e.1 = page with
  | some e => (s, e.2)
  | none =>
    let e := s.permEntry (s.clPart cl) page
    (s.setClu cl { v with cache := { v.cache with perm := ((page, e) :: v.cache.perm).take 256 } }, e)

/-- The status of a read or write of an address by a cluster's requester (R203, R210, R254): 0, PERMISSION or UNMAPPED, or FENCED where the
way to the channel meets a failed link end (R183). -/
def State.reqStatus (s : State) (cl : Cl) (a : Nat) (write : Bool) : State × Nat :=
  if !isDram a then (s, 3)
  else
    let r := s.permUse cl (a / 2 ^ 21)
    (r.1, if !(if write then permW r.2 else permR r.2) then 2 else if s.pathFenced (dieOf cl) (s.phys a / 2 ^ 37) then 5 else 0)

/-- The line numbers that n bytes at an address touch. -/
def linesAt (a n : Nat) : List Nat := (List.range ((a + n - 1) / 128 + 1 - a / 128)).map fun i => a / 128 + i

/-! ### State ranges of a training run (R268, R269, R283) -/

/-- Whether an address lies in a range. -/
def inSpan (base len a : Nat) : Bool := decide (base ≤ a) && decide (a < base + len)

/-- The partner of die d (R268). -/
def State.partner (s : State) (d : Nat) : Nat := if s.obj 0x6010 1 = 0 then d ^^^ 1 else d ^^^ 2

/-- The state ranges that die d names (R269). -/
def State.namedRanges (s : State) (p d : Nat) : List (Nat × Nat) :=
  let b := s.obj 0x6012 (p + 1)
  ((List.range 16).map fun i => (sliceNat b (256 * d + 16 * i) 8, sliceNat b (256 * d + 16 * i + 8) 8)).filter fun r => r.2 ≠ 0

/-- The total length of the ranges that die d names. -/
def State.ownLen (s : State) (p d : Nat) : Nat := (s.namedRanges p d).foldl (fun a r => a + r.2) 0

/-- Whether die d's shard has passed to its partner (R283). -/
def State.shardMoved (s : State) (p d : Nat) : Bool := (s.part p).shardDies.getLsbD d

/-- Whether die d owns its lost partner's shard too (R283). -/
def State.carries (s : State) (p d : Nat) : Bool := s.shardMoved p (s.partner d)

/-- The live state of die d: its ranges, and the body of the slot that holds the shard it took over (R283). -/
def State.liveRanges (s : State) (p d : Nat) : List (Nat × Nat) :=
  let b := s.partner d
  let own := s.namedRanges p d
  if s.carries p d then match find (s.part p).liveSlot b with
    | some a => own ++ [(a + 4096, s.ownLen p b)]
    | none => own
  else own

/-- S_die (R269, R284). -/
def State.liveLen (s : State) (p d : Nat) : Nat := (s.liveRanges p d).foldl (fun a r => a + r.2) 0

/-- Members of a die mask, in order. -/
def diesIn (m : BitVec 4) : List Nat := (List.range 4).filter fun d => m.getLsbD d

/-- The dies of a partition whose live state holds an address. -/
def State.diesAt (s : State) (p a : Nat) : BitVec 4 :=
  BitVec.ofNat 4 ((List.range 4).foldl (fun m d => if (s.liveRanges p d).any fun r => inSpan r.1 r.2 a then m + 2 ^ d else m) 0)

/-- Notes a write of a line, or an error met in it, for the dies whose state it is (R279, R282). -/
def State.note (s : State) (line : Nat) : State :=
  let p := s.ownerOf (128 * line)
  if p < 16 then
    { s with dram := { s.dram with touched := put 0 s.dram.touched p (look 0 s.dram.touched p ||| s.diesAt p (128 * line)) } }
  else s

/-! ### Channels -/

/-- Unit name of the channel that serves an address (R267). -/
def chanUnit (phys : Nat) : Nat := pack [(2, phys / 2 ^ 37 % 4), (6, 0), (8, 0x40 + phys / 2 ^ 33 % 16), (8, 0)]

/-- The channel of a line, 16·die + channel. -/
def State.lineChan (s : State) (line : Nat) : Nat := s.phys (128 * line) / 2 ^ 33

/-- Whether the channel of a line, or its die, has been declared failed (R183). -/
def State.chanDown (s : State) (line : Nat) : Bool :=
  s.dram.fenced.contains (s.lineChan line) || s.fabric.dieFenced.getLsbD (s.lineChan line / 16)

/-- A channel's scrubber. -/
def State.scrubber (s : State) (ch : Nat) : Scrub := look ⟨0, none, []⟩ s.dram.scrub ch
/-- Replaces a channel's scrubber. -/
def State.setScrubber (s : State) (ch : Nat) (v : Scrub) : State :=
  { s with dram := { s.dram with scrub := put ⟨0, none, []⟩ s.dram.scrub ch v } }

/-- Whether a line is held by its channel's scrubber (R259). -/
def State.lineHeld (s : State) (line : Nat) : Bool := decide ((s.scrubber (s.lineChan line)).held = some line)

/-- A channel takes the given bytes of a line, or poison for words that are poisoned in the source (R214, R384). A word that is
merged in part reads its old word, and a bad one is reported (R253, R256). A write to a state range is noted (R282). -/
def State.chanWrite (s : State) (src : Mem) (line : Nat) (mask : BitVec 128) : State :=
  let p := s.phys (128 * line)
  let s := (List.range 8).foldl (fun s w =>
    let mk := (mask.toNat / 2 ^ (16 * w)) % 65536
    if mk = 0 ∨ mk = 65535 then s
    else s.wordErrors s.dram.mem (p + 16 * w) (128 * line + 16 * w) 16 0x06 (chanUnit p) (s.ownerOf (128 * line)) 1) s
  let m := (List.range 8).foldl (fun (m : Mem) w =>
    let mk := (mask.toNat / 2 ^ (16 * w)) % 65536
    let k := 8 * line + w
    if mk = 0 then m
    else if src.anyPoison (16 * k) 16 || src.anyBad (16 * k) 16 then m.poisonWord (p / 16 + w)
    else m.mergeWord (p / 16 + w) ((List.range 16).map fun i => if mk / 2 ^ i % 2 = 1 then some (src.byte (16 * k + i)) else none)) s.dram.mem
  (s.setDram m).note line

/-- A write reaches its channel (R384), which discards and counts it once it is declared failed (R183). -/
def State.chanTake (s : State) (src : Mem) (line : Nat) (mask : BitVec 128) : State :=
  if s.chanDown line then { s with dram := { s.dram with discards := s.dram.discards + 1 } } else s.chanWrite src line mask

/-- A write reaches the array and its acceptance goes out (R384). -/
def State.takeWrite (s : State) (q : WReq) : State :=
  let s := s.chanTake q.data q.line q.mask
  { s with dram := { s.dram with wacks := s.dram.wacks ++ [q] } }

/-- The corrected words of the line that a channel's scrubber holds are written; writes that waited are applied after (R259). -/
def State.correctHeld (s : State) (ch : Nat) : State :=
  let v := s.scrubber ch
  match v.held with
  | none => s
  | some l =>
    let s := s.setDram ((wordsOf (s.phys (128 * l)) 128).foldl Mem.fixWord s.dram.mem)
    let s := s.setScrubber ch { v with held := none, pendWrites := [] }
    v.pendWrites.foldl State.takeWrite s

/-- An access that waits while its line is held, and takes no retry status, comes after the correction write (R259; DESIGN CHOICE,
log 76). -/
def State.freeLine (s : State) (line : Nat) : State := if s.lineHeld line then s.correctHeld (s.lineChan line) else s

/-- Retry status (R86) as an answer beside the statuses of R254. -/
def retryStatus : Nat := 8

/-- A channel serves a read of n bytes of one line (R252): the words found, as bytes and poison marks at the same device address,
and a status: 1 for an uncorrectable word, FENCED for a failed channel (R183), retry status for a held line (R259). An uncorrectable
word is poisoned in DRAM, a corrected word is delivered corrected and left stored; both are reported, the uncorrectable ones in the
class given. -/
def State.chanRead (s : State) (a n part cls : Nat) : State × Mem × Nat :=
  if s.chanDown (lineOf a) then (s, Mem.empty, 5)
  else if s.lineHeld (lineOf a) then (s, Mem.empty, retryStatus)
  else
    let p := s.phys a
    let m := s.dram.mem
    let bad := m.anyBad p n
    let s1 := s.wordErrors m p a n 0x01 (chanUnit p) part cls
    let s2 := if bad then s1.setDram (m.settleBad p n) else s1
    let s2 := if bad || m.anyPoison p n then s2.note (lineOf a) else s2
    (s2, (Mem.empty).copyFrom s2.dram.mem a p n, if bad then 1 else 0)

/-- The acceptance of a write reaches its writer (R384): a cluster's line is clean, unless it has been written again (R189); a ring counts
it for the descriptor at its head. -/
def State.ackWrite (s : State) : Writer → State
  | .writeBack cl l =>
    let v := s.clu cl
    let lines := match find v.cache.lines l with
      | some e => if e.wb then ins v.cache.lines l { e with wb := false, dirty := e.again, again := false } else v.cache.lines
      | none => v.cache.lines
    s.setClu cl { v with cache := { v.cache with lines := lines }, ccLines := v.ccLines.erase l }
  | .ring cl n num =>
    let r := s.ring cl n.val
    if num = r.head.toNat then s.setRing cl n.val { r with wtOut := r.wtOut.drop 1 } else s

/-- The writes on their way that meet a condition are accepted, in the order in which they were sent (R187, R214), and their
acceptances arrive. -/
def State.landWrites (s : State) (p : WReq → Bool) : State :=
  let mine := s.dram.wq.filter p
  let s := { s with dram := { s.dram with wq := s.dram.wq.filter fun q => !p q } }
  mine.foldl (fun s q => ((s.freeLine q.line).chanTake q.data q.line q.mask).ackWrite q.writer) s

/-! ### Lines of a cluster cache -/

/-- Copies whole words of a line from one store to another at the same addresses. -/
def copyLine (dst src : Mem) (line : Nat) : Mem := dst.copyFrom src (128 * line) (128 * line) 128

/-- Removes the contents of a line. -/
def dropLine (m : Mem) (line : Nat) : Mem :=
  ⟨m.bytes.filter fun e => e.1 / 128 ≠ line, m.syn.filter fun e => e.1 / 8 ≠ line⟩

/-- Lays the bytes of a mask of one line over another store's line, word by word (R255, R256). -/
def overLine (base ov : Mem) (line : Nat) (mask : BitVec 128) : Mem :=
  (List.range 8).foldl (fun (m : Mem) w =>
    let mk := (mask.toNat / 2 ^ (16 * w)) % 65536
    let k := 8 * line + w
    if mk = 0 then m
    else if ov.anyPoison (16 * k) 16 || ov.anyBad (16 * k) 16 then m.poisonWord k
    else m.mergeWord k ((List.range 16).map fun i => if mk / 2 ^ i % 2 = 1 then some (ov.byte (16 * k + i)) else none)) base

/-- The present line, if any. -/
def Cache.line (c : Cache) (l : Nat) : Option Line := find c.lines l

/-- Removes a line and its contents. -/
def Cache.dropLine (c : Cache) (l : Nat) : Cache := { c with mem := Machine.dropLine c.mem l, lines := del c.lines l }

/-- Number of shadow lines of a set over the slots (R132, R216). -/
def Cluster.shadowInSet (v : Cluster) (set : Nat) : Nat :=
  v.slots.foldl (fun n e => n + (e.2.written.filter fun x => setOf x.1 = set).length) 0
/-- Number of shadow lines of a cluster. -/
def Cluster.shadowLines (v : Cluster) : Nat := v.slots.foldl (fun n e => n + e.2.written.length) 0

/-- R216's victim among the lines of a set: the oldest dead, then stream, then keep line, not awaiting a write-back, nor a fill
(`waits`). -/
def victim (waits : List Nat) (ls : List (Nat × Line)) : Option Nat :=
  let oldest (h : Hint) : Option Nat :=
    (ls.filter fun e => decide (e.2.hint = h) && !e.2.wb && !waits.contains e.1).foldl (fun (a : Option (Nat × Nat)) e =>
      match a with
      | some (_, g) => if e.2.age < g then some (e.1, e.2.age) else a
      | none => some (e.1, e.2.age)) none |>.map (·.1)
  match oldest .dead with
  | some l => some l
  | none => match oldest .stream with
    | some l => some l
    | none => oldest .keep

/-- The hint and tag of a line for an access that carries none of its own: those it has, or keep and 0. -/
def Cache.ownHint (c : Cache) (l : Nat) : Hint × Nat :=
  match c.line l with
  | some e => (e.hint, e.tag)
  | none => (.keep, 0)

/-- Counts an eviction by hint (R227). -/
def Cache.countEvict (c : Cache) : Hint → Cache
  | .keep => { c with evKeep := c.evKeep + 1 }
  | .stream => { c with evStream := c.evStream + 1 }
  | .dead => { c with evDead := c.evDead + 1 }

/-- The words of a line are checked before they leave the cache: corrected words are rewritten, uncorrectable ones become poison,
both are reported (R252, R253). -/
def State.checkLine (s : State) (cl : Cl) (l : Nat) : State :=
  let v := s.clu cl
  let s := s.wordErrors v.cache.mem (128 * l) (128 * l) 128 0x03 (unitName cl 0x10) (s.clPart cl) 1
  s.setClu cl { v with cache := { v.cache with mem := (wordsOf (128 * l) 128).foldl Mem.fixWord (v.cache.mem.settleBad (128 * l) 128) } }

/-- The acceptances of a line's write-backs that are on their way arrive. -/
def State.takeAcks (s : State) (cl : Cl) (l : Nat) : State :=
  if s.dram.wacks.any fun q => decide (q.writer = .writeBack cl l) then
    { s with dram := { s.dram with wacks := s.dram.wacks.filter fun q => q.writer ≠ Writer.writeBack cl l } }.ackWrite (.writeBack cl l)
  else s

/-- Whether a line is there and dirty. -/
def Cache.isDirty (c : Cache) (l : Nat) : Bool := match c.line l with
  | some e => e.dirty
  | none => false

/-- Writes a dirty line's valid bytes back to DRAM at once (R214), behind every write of the line that is on its way, and counts it;
if such a write was all of it, the line is clean with that one's acceptance. -/
def State.writeBack (s : State) (cl : Cl) (l : Nat) : State :=
  if !(s.clu cl).cache.isDirty l then s
  else
    let s := (s.landWrites fun q => decide (q.line = l)).takeAcks cl l
    match (s.clu cl).cache.line l with
    | some e =>
      if e.dirty then
        let s := s.checkLine cl l
        let v := s.clu cl
        let s := (s.freeLine l).chanTake v.cache.mem l e.mask
        s.setClu cl { v with cache := { v.cache with lines := ins v.cache.lines l { e with dirty := false }, writebacks := v.cache.writebacks + 1 } }
      else s
    | none => s

/-- Evicts a line (R214, R216, R227). -/
def State.evict (s : State) (cl : Cl) (x : Nat) : State :=
  let h := match (s.clu cl).cache.line x with
    | some e => e.hint
    | none => .keep
  let s := s.writeBack cl x
  let v := s.clu cl
  s.setClu cl { v with cache := (v.cache.dropLine x).countEvict h }

/-- Makes room in the set of a line that is to be installed (R216). Where every candidate awaits a write-back, the request waits
for the first of them, which comes first here (DESIGN CHOICE, log 76). -/
def State.makeRoom (s : State) (cl : Cl) (l : Nat) : State :=
  let v := s.clu cl
  let inSet := v.cache.lines.filter fun e => setOf e.1 = setOf l
  if inSet.length + v.shadowInSet (setOf l) < 16 then s
  else match victim (v.cache.fillWaits.map fun r => lineOf r.addr) inSet with
    | some x => s.evict cl x
    | none => match s.dram.wq.find? fun q => inSet.any fun e => decide (q.writer = .writeBack cl e.1) with
      | some q => (s.landWrites fun x => decide (x = q)).evict cl q.line
      | none => match inSet.find? fun e => e.2.wb with
        | some e => s.evict cl e.1
        | none => match inSet with
          | e :: _ => s.evict cl e.1
          | [] => s

/-- Marks a use of a line: hint, tag, age (R215). -/
def Cache.touch (c : Cache) (l : Nat) (h : Hint) (tag : Nat) : Cache :=
  match c.line l with
  | some e => { c with lines := ins c.lines l { e with hint := h, tag := tag, age := c.tick }, tick := c.tick + 1 }
  | none => c

/-- What laying bytes over a line meets (R253, R256): the old words that are written in part are checked. -/
def State.mergeErrors (s : State) (cl : Cl) (base : Mem) (l : Nat) (mask : BitVec 128) : State :=
  (List.range 8).foldl (fun s w =>
    let mk := (mask.toNat / 2 ^ (16 * w)) % 65536
    if mk = 0 ∨ mk = 65535 then s
    else s.wordErrors base (128 * l + 16 * w) (128 * l + 16 * w) 16 0x06 (unitName cl 0x10) (s.clPart cl) 1) s

/-- A line of DRAM with a cluster's valid bytes of it laid over (R214). -/
def State.mergedLine (s : State) (cl : Cl) (l : Nat) (m : Mem) : Mem :=
  match (s.clu cl).cache.line l with
  | some e => overLine (copyLine Mem.empty m l) (s.clu cl).cache.mem l e.mask
  | none => copyLine Mem.empty m l

/-- Installs a whole line as clean (R214, R219, R220). A line that is present dirty with missing bytes keeps its
written bytes over the fill and stays dirty. -/
def State.install (s : State) (cl : Cl) (l : Nat) (m : Mem) (h : Hint) (tag : Nat) : State :=
  match (s.clu cl).cache.line l with
  | some e =>
    let s := s.checkLine cl l
    let v := s.clu cl
    s.setClu cl { v with cache :=
      { v.cache with mem := copyLine (Machine.dropLine v.cache.mem l) (s.mergedLine cl l m) l, lines := ins v.cache.lines l { e with mask := maskAll, hint := h, tag := tag, age := v.cache.tick }, tick := v.cache.tick + 1, fills := v.cache.fills + 1 } }
  | none =>
    let s := s.makeRoom cl l
    let v := s.clu cl
    s.setClu cl { v with cache :=
      { v.cache with mem := copyLine (Machine.dropLine v.cache.mem l) m l, lines := ins v.cache.lines l ⟨false, maskAll, h, tag, v.cache.tick, false, false⟩, tick := v.cache.tick + 1, fills := v.cache.fills + 1 } }

/-- Whether a line concerned by a commit that has begun is asked for (R134): such a request waits until the commit ends. -/
def State.lineBusy (s : State) (cl : Cl) (l : Nat) : Bool :=
  (s.clu cl).slots.any fun e => decide (e.2.st = .committing) && (find e.2.written l).isSome

/-- Whether a read of n bytes of a line is served without DRAM: its bytes are valid, or the reader's slot holds a shadow of the line
(R132, R214). -/
def State.readHits (s : State) (cl : Cl) (slot : Option Nat) (a n : Nat) : Bool :=
  let v := s.clu cl
  (match slot with
    | some k => (find (v.slot k).written (lineOf a)).isSome
    | none => false) || (match v.cache.line (lineOf a) with
    | some e => decide (e.mask &&& maskOf (a % 128) n = maskOf (a % 128) n)
    | none => false)

/-- A read of n bytes of one line through a cluster's cache (R212 to R216, R132): the words read, and a status as `chanRead` gives
it. `slot` is the speculative slot of the reader, `cls` the class of an uncorrectable word (R253), `alloc` whether a miss may
install the line (a peer read installs nothing, R219). -/
def State.cacheRead (s : State) (cl : Cl) (slot : Option Nat) (a n : Nat) (h : Hint) (tag cls : Nat) (alloc : Bool) : State × Mem × Nat :=
  let l := lineOf a
  let v := s.clu cl
  let shadow : Option (Nat × Slot) := match slot with
    | some k => if (find (v.slot k).written l).isSome then some (k, v.slot k) else none
    | none => none
  match shadow with
  | some (k, x) =>
    let bad := x.shadow.anyBad a n
    let s1 := s.wordErrors x.shadow a a n 0x03 (unitName cl 0x10) (s.clPart cl) cls
    let m := (wordsOf a n).foldl Mem.fixWord (x.shadow.settleBad a n)
    (s1.setClu cl (v.setSlot k { x with shadow := m, marks := ins x.marks l (h, tag) }), (Mem.empty).copyFrom m a a n, if bad then 1 else 0)
  | none =>
    if s.readHits cl none a n then
      let bad := v.cache.mem.anyBad a n
      let s1 := s.wordErrors v.cache.mem a a n 0x03 (unitName cl 0x10) (s.clPart cl) cls
      let m := (wordsOf a n).foldl Mem.fixWord (v.cache.mem.settleBad a n)
      (s1.setClu cl { v with cache := { v.cache with mem := m }.touch l h tag }, (Mem.empty).copyFrom m a a n, if bad then 1 else 0)
    else
      let r := s.chanRead (128 * l) 128 (s.clPart cl) cls
      if r.2.2 ≠ 0 ∧ r.2.2 ≠ 1 then r
      else if !alloc || ((v.cache.line l).isNone && h = .dead) then (r.1, (Mem.empty).copyFrom (r.1.mergedLine cl l r.2.1) a a n, r.2.2)
      else
        let s1 := r.1.install cl l r.2.1 h tag
        (s1, (Mem.empty).copyFrom (s1.clu cl).cache.mem a a n, r.2.2)

/-- A read by a cluster's own requester. -/
def State.clRead (s : State) (cl : Cl) (slot : Option Nat) (a n : Nat) (h : Hint) (tag cls : Nat) : State × Mem × Nat :=
  s.cacheRead cl slot a n h tag cls true

/-- Takes the bytes of a mask of one line into a cluster's cache as dirty (R214, R215). -/
def State.clWrite (s : State) (cl : Cl) (src : Mem) (l : Nat) (mask : BitVec 128) (h : Hint) (tag : Nat) : State :=
  match (s.clu cl).cache.line l with
  | some e =>
    let v := s.clu cl
    (s.mergeErrors cl v.cache.mem l mask).setClu cl { v with cache :=
      { v.cache with mem := overLine v.cache.mem src l mask, lines := ins v.cache.lines l { e with dirty := true, again := e.wb, mask := e.mask ||| mask, hint := h, tag := tag, age := v.cache.tick }, tick := v.cache.tick + 1 } }
  | none =>
    let s := s.makeRoom cl l
    let v := s.clu cl
    s.setClu cl { v with cache :=
      { v.cache with mem := overLine (Machine.dropLine v.cache.mem l) src l mask, lines := ins v.cache.lines l ⟨true, mask, h, tag, v.cache.tick, false, false⟩, tick := v.cache.tick + 1 } }

/-- Which limit of R132 a new shadow line would break: 0 the cluster's 8,192 lines, 1 a set's 8 lines. -/
def Cluster.shadowLimit (v : Cluster) (k l : Nat) : Option Nat :=
  if (find (v.slot k).written l).isSome then none
  else if v.shadowLines ≥ 8192 then some 0
  else if v.shadowInSet (setOf l) ≥ 8 then some 1
  else none

/-- A speculative write (R132): the first write of a line copies it as it stands, which allocates no ordinary line; room in
the set is made first. The shadow line has a hint and a tag of its own (R212, R215). The answer is the status of that copy: 0, or the
write is not made. -/
def State.shadowWrite (s : State) (cl : Cl) (k : Nat) (src : Mem) (l : Nat) (mask : BitVec 128) (h : Hint) (tag : Nat) : State × Nat :=
  if (find ((s.clu cl).slot k).written l).isSome then
    let v := s.clu cl
    let x := v.slot k
    ((s.mergeErrors cl x.shadow l mask).setClu cl (v.setSlot k { x with
      shadow := overLine x.shadow src l mask, written := ins x.written l (look 0 x.written l ||| mask), marks := ins x.marks l (h, tag) }), 0)
  else
    let hs : Hint × Nat := match (s.clu cl).cache.line l with
      | some e => (e.hint, e.tag)
      | none => (.dead, 0)
    let r := s.clRead cl none (128 * l) 128 hs.1 hs.2 1
    if r.2.2 ≠ 0 ∧ r.2.2 ≠ 1 then (r.1, r.2.2)
    else
      let s := r.1.makeRoom cl l
      let v := s.clu cl
      let x := v.slot k
      (s.setClu cl (v.setSlot k { x with
        shadow := overLine (copyLine x.shadow r.2.1 l) src l mask, written := ins x.written l mask, marks := ins x.marks l (h, tag) }), 0)

/-- Writes back every dirty line and drops every line (R218); writes of the cluster that are on their way reach their channels
first. -/
def State.emptyCache (s : State) (cl : Cl) : State :=
  let s := s.landWrites fun q => match q.writer with
    | .writeBack c _ | .ring c _ _ => decide (c = cl)
  let s := (s.clu cl).cache.lines.foldl (fun s e => s.writeBack cl e.1) s
  let v := s.clu cl
  s.setClu cl { v with cache := { v.cache with mem := Mem.empty, lines := [] } }

/-- Writes back the dirty lines of a cluster that lie in a range (R272, R383). -/
def State.cleanRange (s : State) (cl : Cl) (base len : Nat) : State :=
  (s.clu cl).cache.lines.foldl (fun s e => if base ≤ 128 * e.1 ∧ 128 * e.1 < base + len then s.writeBack cl e.1 else s) s

/-! ### Stream detectors (R220) -/

/-- Detector i of a cache. -/
def Cache.detector (c : Cache) (i : Nat) : Option Detector := (c.detectors[i]?).join
/-- Sets detector i of eight. -/
def Cache.setDetector (c : Cache) (i : Nat) (d : Option Detector) : Cache :=
  { c with detectors := ((List.range 8).map c.detector).set i d }

/-- A detector asks for up to 4 lines ahead of a miss, in the miss's 2 MiB page; lines present or already asked for are
left out. -/
def State.askAhead (s : State) (cl : Cl) (who : Requester) (l tag cyc : Nat) : State :=
  (List.range 4).foldl (fun s j =>
    let v := s.clu cl
    let n := l + 1 + j
    let asked := v.cache.fillWaits.any fun r => lineOf r.addr = n
    if n / 16384 ≠ l / 16384 then s.setClu cl { v with cache := { v.cache with pageLimits := v.cache.pageLimits + 1 } }
    else if (v.cache.line n).isSome || asked then s
    else
      let q := s.permUse cl (n / 16384)
      if permR q.2 && !permN q.2 then
        let v := q.1.clu cl
        q.1.setClu cl { v with cache := { v.cache with
          prefetches := v.cache.prefetches + 1, fillWaits := v.cache.fillWaits ++ [⟨who, 128 * n, .prefetch, .stream, tag, cyc⟩] } }
      else q.1) s

/-- The detectors take note of a read miss of a move slot, the steward core or a ring (R220): one that runs for the requester
follows misses up to five lines on; otherwise two ascending consecutive lines within 64 cycles start one (DEDUCED, log 27). -/
def State.detect (s : State) (cl : Cl) (who : Requester) (l tag cyc : Nat) : State :=
  match who with
  | .peer .. => s
  | _ =>
  let v := s.clu cl
  let mine : Option Nat := (List.range 8).find? fun i => match v.cache.detector i with
    | some d => decide (d.who = who)
    | none => false
  let prev := v.cache.lastMiss.find? fun e => e.1 = who
  let noted := (v.cache.lastMiss.filter fun e => e.1 ≠ who) ++ [(who, l, cyc)]
  let s := s.setClu cl { v with cache := { v.cache with lastMiss := noted } }
  let v := s.clu cl
  match mine.bind fun i => (v.cache.detector i).map fun d => (i, d) with
  | some (i, d) =>
    if d.last < l ∧ l ≤ d.last + 5 ∧ cyc ≤ d.cyc + 256 ∧ s.obj 0x3025 (s.clPart cl + 1) = 1 then
      (s.setClu cl { v with cache := v.cache.setDetector i (some { d with last := l, cyc := cyc, tag := tag }) }).askAhead cl who l tag cyc
    else s
  | none => match prev, (List.range 8).find? fun i => (v.cache.detector i).isNone with
    | some (_, pl, pc), some i =>
      if l = pl + 1 ∧ cyc ≤ pc + 64 ∧ s.obj 0x3025 (s.clPart cl + 1) = 1 then
        (s.setClu cl { v with cache := v.cache.setDetector i (some ⟨who, l, cyc, tag⟩) }).askAhead cl who l tag cyc
      else s
    | _, _ => s

/-! ### Instruction caches (R127 to R129) -/

/-- Brings a line to the front of a cache of `sets` sets and `ways` ways, dropping the set's least recent (R127). -/
def lruPut (sets ways l : Nat) (ls : List Nat) : List Nat :=
  let rest := ls.filter (· ≠ l)
  let mine := (rest.filter fun x => x % sets = l % sets).take (ways - 1)
  l :: rest.filter fun x => x % sets ≠ l % sets || mine.contains x

end Sys2Proof.Machine
end

