-- ==== Sys2Proof/Machine/Flags.lean ====
section
/-! DEFINITION. Status words and record fields that are computed from the state. -/

namespace Sys2Proof.Machine

open Sys2Proof

/-- DEPTH_LOG2 and DEPTH of a ring (R231). -/
def Ring.depth (r : Ring) : Nat := 2 ^ bits 4 0 r.rcfg
/-- KIND of RCFG. -/
def Ring.kind (r : Ring) : Nat := bits 13 12 r.rcfg
/-- SYS of RCFG. -/
def Ring.sys (r : Ring) : Bool := bits 14 14 r.rcfg = 1
/-- FORCE_WAIT of RCFG. -/
def Ring.forceWait (r : Ring) : Bool := bits 15 15 r.rcfg = 1
/-- FILL (R230). -/
def Ring.fill (r : Ring) : Nat := (r.tail - r.head).toNat
/-- STATE of R232 as a number. -/
def ringStCode : RingSt → Nat
  | .idle => 0
  | .running => 1
  | .stopping => 2
  | .halted => 3
/-- STATUS (R232). -/
def Ring.status (r : Ring) : Nat :=
  pack [(16, r.ovrcnt), (32, 0), (4, r.cause), (1, if r.overrun then 1 else 0), (1, if r.refused then 1 else 0),
    (1, if r.ph = .waiting || (r.kind = 1 && (r.waitSince.isSome || r.wait2Since.isSome)) then 1 else 0), (1, 0), (2, ringStCode r.st), (6, 0)]
/-- A readable register of a ring (R230); CMD is write-only and RGET cannot name it. -/
def Ring.register (r : Ring) : RReg → Nat
  | .rbase => r.rbase
  | .rcfg => r.rcfg
  | .head => r.head.toNat
  | .tail => r.tail.toNat
  | .fill => r.fill
  | .status => r.status
  | .erraddr => r.erraddr
  | .sumgot => r.sumgot.toNat
  | .donecnt => r.donecnt.toNat

/-- Whether a ring accepts RBASE, RCFG and TAIL (R230): IDLE or HALTED. -/
def Ring.writable (r : Ring) : Bool := r.st = .idle || r.st = .halted

/-- The buffered descriptor at HEAD, if the ring has read it. -/
def Ring.headDesc (r : Ring) : Option Buffered := r.buf.find? fun b => b.num = r.head.toNat

/-- Enabled cores of a die (R200): entries of STATE 0 and 4. -/
def State.enabledOf (s : State) (d : Nat) : Nat :=
  ((List.range 768).filter fun i => (s.mapEntry (768 * d + i)).toNat / 8192 = 0 || (s.mapEntry (768 * d + i)).toNat / 8192 = 4).length
/-- Field spares of a die (R200): entries of STATE 1. -/
def State.sparesOf (s : State) (d : Nat) : Nat :=
  ((List.range 768).filter fun i => (s.mapEntry (768 * d + i)).toNat / 8192 = 1).length

/-! ### Tracing (R371 to R373) -/

/-- A trace record. -/
def traceRec (kind unit task time payload : Nat) : Rec :=
  BitVec.ofNat 256 (pack [(8, kind), (24, unit), (16, task), (48, time), (160, payload)])

/-- Records that a trace writer holds. -/
def Trace.held (t : Trace) : Nat := t.buf.length + 4 * t.lines.length

/-- Forms a line from the buffer; a LOST record comes first while records have been dropped. -/
def Trace.line (t : Trace) (unit time : Nat) : Trace :=
  let lost : List Rec := if t.lost = 0 then [] else [traceRec 0x05 unit 0 time t.lost]
  let recs := lost ++ t.buf.take (4 - lost.length)
  { t with buf := t.buf.drop (4 - lost.length), lines := t.lines ++ [recs ++ List.replicate (4 - recs.length) 0], lost := 0 }

/-- Whether a cluster's partition traces its run. -/
def State.tracing (s : State) (cl : Cl) : Bool := (s.part (s.clPart cl)).trace.on && decide (s.clPart cl < 16)

/-- A cluster's trace writer takes a record, or drops and counts it (R371, R372). -/
def State.trace (s : State) (cl : Cl) (r : Rec) : State :=
  if s.tracing cl then
    let v := s.clu cl
    let t := v.trace
    let t := if (s.part (s.clPart cl)).trace.segLen < 4096 ∨ t.held ≥ 64 then { t with dropped := t.dropped + 1, lost := t.lost + 1 }
      else { t with buf := t.buf ++ [r] }
    let t := if t.buf.length + (if t.lost = 0 then 0 else 1) ≥ 4 ∧ t.buf ≠ [] then t.line (unitName cl 0x30) s.now else t
    s.setClu cl { v with trace := t }
  else s

/-- Writes a partial line (R372). -/
def State.traceFlush (s : State) (cl : Cl) : State :=
  let v := s.clu cl
  if s.tracing cl && decide (v.trace.buf ≠ []) then s.setClu cl { v with trace := v.trace.line (unitName cl 0x30) s.now } else s

end Sys2Proof.Machine
end

