-- ==== Sys2Proof/Machine/Waits.lean ====
section
/-! DEFINITION. Task candidates and start conditions (R116, R117, R120, R124), timed waits (R152 to R155), and the hang
dump (R377, R378). -/

namespace Sys2Proof.Machine

open Sys2Proof

/-! ### Conditions and candidates -/

/-- Whether a condition of a descriptor holds (R116): hub counter h of the cluster reaches the value. -/
def State.condMet (s : State) (cl : Cl) : Option (Nat × W32) → Bool
  | none => true
  | some (h, v) => reaches (s.ctr (nameHub cl h)).value v

/-- The reserved bits of a task descriptor (R115): set bits make it fail R117. -/
def taskReserved (d : BitVec 512) : Bool :=
  dfl d 465 464 ≠ 0 || dfl d 55 0 ≠ 0 || dfl d 414 414 ≠ 0 || dfl d 374 374 ≠ 0 || dfl d 334 334 ≠ 0
    || dfl d 294 294 ≠ 0 || dfl d 62 62 ≠ 0

/-- Whether a descriptor passes R117 and R192 for a task that would run in cluster `tgt`. -/
def State.taskOk (s : State) (cl tgt : Cl) (d : BitVec 512) : Bool :=
  decide (dType d = 2) && !taskReserved d && decide (tCoreset d ≠ 0) && decide (tEntry d % 16 = 0) &&
    permX (s.permEntry (s.clPart cl) (tEntry d / 2 ^ 21)) &&
    allCn.all fun c => !(tCoreset d).getLsbD c.val || s.coreEnabled tgt c.val

/-- cand(n) of R124. -/
def Ring.candidate (r : Ring) : Option (BitVec 512) :=
  if r.cand then r.held.head?.map (·.desc)
  else match r.held with
    | [] => if r.st = .running ∧ r.ph ≠ .unread ∧ r.badTask = false then r.headDesc.map (·.desc) else none
    | _ => none

/-- Whether a ring is a task ring. -/
def Ring.isTask (r : Ring) : Bool := decide (r.kind = 1)

/-- The cluster where a ring's candidate is to run (R126, R178). -/
def Ring.runsIn (r : Ring) (cl : Cl) : Cl := r.target.getD cl

/-- Whether a physical core is held for a self-test, its repair or its retirement (R44, R46). -/
def Phys.busy (v : Phys) : Bool := v.testing || v.testDue || v.fuseWait.isSome || v.retireDue

/-- Whether logical core c is free for a task (R120): not held by a task, a self-test (R46), or a remap (R195). -/
def State.coreFree (s : State) (cl : Cl) (c : Cn) : Bool :=
  let k := s.core cl c
  decide (k.phase = .free) && k.task.isNone && !(s.phy (s.physOf cl c.val)).busy && !s.remapping cl c.val

/-- A free speculative slot of a cluster (R131), the lowest-numbered (DESIGN CHOICE, log 82). -/
def Cluster.freeSpec (v : Cluster) : Option Nat := (List.range 4).find? fun k => (v.slot k).st = .free

/-- Whether both start conditions of a descriptor hold. -/
def State.startMet (s : State) (cl : Cl) (d : BitVec 512) : Bool :=
  s.condMet cl (tCond d 415) && s.condMet cl (tCond d 375)

/-- Whether every core of a core set is free in a cluster. -/
def State.coresFree (s : State) (cl : Cl) (d : BitVec 512) : Bool :=
  allCn.all fun c => !(tCoreset d).getLsbD c.val || s.coreFree cl c

/-- Whether a descriptor is ready (R120) to run in cluster tgt. -/
def State.ready (s : State) (cl tgt : Cl) (d : BitVec 512) : Bool :=
  s.startMet cl d && s.coresFree tgt d && (!tSpec d || ((s.clu tgt).freeSpec).isSome)

/-- R178's choice of a target for a relocatable task: the home cluster unless another candidate reads at least 4 °C
(16 units) cooler, then the coolest; none if there is no candidate. -/
def State.placement (s : State) (cl : Cl) (d : BitVec 512) : Option Cl :=
  let cands := (s.clustersOf (s.clPart cl)).filter fun c =>
    dieOf c = dieOf cl && s.coresFree c d && (s.clu c).temp < 380 &&
      allCn.all fun k => !(tCoreset d).getLsbD k.val || s.coreEnabled c k.val
  let best := cands.foldl (fun (b : Option Cl) c => match b with
    | none => some c
    | some x => if (s.clu c).temp < (s.clu x).temp then some c else b) none
  match best with
  | none => none
  | some b => if cands.contains cl ∧ (s.clu b).temp > (s.clu cl).temp - 16 then some cl else some b

/-- Whether a ring's candidate is ready (R120): where it has been posted to run, or, for a relocatable task not yet
posted, where R178 would place it. -/
def State.candReady (s : State) (cl : Cl) (r : Ring) (d : BitVec 512) : Bool :=
  if tReloc d && r.target.isNone then match s.placement cl d with
    | some t => s.ready cl t d
    | none => false
  else s.ready cl (r.runsIn cl) d

/-- The age that a ring keeps for its candidate after a returned grant (R168). -/
def Ring.kept (r : Ring) : Option Nat := if r.cand then r.keptHeld else r.keptAge

/-- The rank of a task that becomes ready at time t: behind every task that has (R120). -/
def State.nextRank (s : State) (t : Nat) : Nat :=
  s.rings.foldl (fun n e => if e.2.readySince = some t then max n (e.2.readyRank + 1) else n) 0

/-- Brings a task ring's waits and readiness up to date with the counters and cores (R120, R152, R168). Of tasks that become ready
within one µs the first to do so is the older (log 81). -/
def State.refreshRing (s : State) (cl : Cl) (n : Nat) : State :=
  let r := s.ring cl n
  if r.isTask then
    match r.candidate with
    | some d =>
      let keep (o : Option Nat) (met : Bool) : Option Nat := if met then none else some (o.getD s.now)
      let m0 := s.condMet cl (tCond d 415)
      let m1 := s.condMet cl (tCond d 375)
      let rdy := s.candReady cl r d
      s.setRing cl n { r with
        waitSince := keep r.waitSince m0
        wait2Since := keep r.wait2Since m1
        tripped := r.tripped && !m0
        tripped2 := r.tripped2 && !m1
        readySince := if rdy then some (r.readySince.getD (s.now - r.kept.getD 0)) else none
        readyRank := if rdy then (if r.readySince.isSome then r.readyRank else s.nextRank (s.now - r.kept.getD 0)) else 0
        keptAge := if rdy ∧ !r.cand then none else r.keptAge
        keptHeld := if rdy ∧ r.cand then none else r.keptHeld }
    | none => s.setRing cl n { r with waitSince := none, wait2Since := none, tripped := false, tripped2 := false, readySince := none, readyRank := 0 }
  else s

/-- Brings all task rings of a cluster up to date. -/
def State.refresh (s : State) (cl : Cl) : State := (List.range 16).foldl (fun s n => s.refreshRing cl n) s

/-! ### Timed waits (R152) -/

/-- A timed wait, as R155 records it. -/
structure Wait where
  kind : Nat
  task : Nat
  unit : Nat
  ctr : Nat
  target : W32
  since : Nat
  tripped : Bool
  second : Bool
deriving DecidableEq, Repr

/-- The counter waits of a sequencer's hold. -/
def holdWaits (s : State) (kind task unit : Nat) (h : Option Hold) : List Wait :=
  match h with
  | some h => match h.why with
    | .counter n => [⟨kind, task, unit, n, (s.ctr n).expected, h.since, h.tripped, false⟩]
    | _ => []
  | none => []

/-- Waits of a cluster, in the order of unit (R377). -/
def State.waitsOf (s : State) (cl : Cl) : List Wait :=
  let v := s.clu cl
  let cores := allCn.flatMap fun c =>
    let k := s.core cl c
    let u := unitName cl c.val
    holdWaits s 1 (s.taskIdOf cl c) u k.hold
      ++ k.moves.flatMap (fun e => match e.2.stallSince with
        | some t => [⟨5, s.taskIdOf cl c, u, 0, 0, t, e.2.tripped, false⟩]
        | none => [])
      ++ (match k.deferStall with
        | some t => [⟨6, s.taskIdOf cl c, u, 0, 0, t, k.deferTripped, false⟩]
        | none => [])
  let stew := holdWaits s 2 0 (unitName cl 0x10) (s.stew cl).hold
  let rings := (List.range 16).flatMap fun n =>
    let r := s.ring cl n
    let u := unitName cl (0x20 + n)
    if r.isTask then
      match r.candidate with
      | some d =>
        let one (c : Option (Nat × W32)) (t : Option Nat) (tr sec : Bool) : List Wait := match c, t with
          | some (h, v), some t => [⟨4, tTaskId d, u, nameHub cl h, v, t, tr, sec⟩]
          | _, _ => []
        one (tCond d 415) r.waitSince r.tripped false ++ one (tCond d 375) r.wait2Since r.tripped2 true
      | none => []
    else match r.ph, r.headDesc, r.waitSince with
      | .waiting, some b, some t => [⟨3, 0, u, dfl b.desc 450 427, BitVec.ofNat 32 (dfl b.desc 426 395), t, r.tripped, false⟩]
      | _, _, _ => []
  if v.isl = .running then cores ++ stew ++ rings else []

/-- The age of a wait in µs (R153); it stands still while a cluster of the partition is halted (R381). -/
def Wait.age (s : State) (w : Wait) : Nat :=
  match (s.part (s.clPart (nameCl w.unit))).haltSince with
  | some h => max h w.since - w.since
  | none => s.now - w.since

/-- The record of a wait (R155). -/
def Wait.record (s : State) (w : Wait) : Rec :=
  let c := if w.ctr = 0 ∧ (w.kind = 5 ∨ w.kind = 6) then Counter.init else s.ctr w.ctr
  BitVec.ofNat 256 (pack [(8, w.kind), (16, w.task), (24, w.unit), (24, w.ctr), (32, w.target.toNat), (32, c.value.toNat),
    (32, c.expected.toNat), (32, w.age s), (1, if w.tripped then 1 else 0), (1, if c.settled then 1 else 0),
    (1, if w.second then 1 else 0), (53, 0)])

/-- A partition's timeout in µs (R153, R326). -/
def State.waitTimeout (s : State) (p : Nat) : Nat := s.obj 0x3022 (p + 1) * 1000

/-- Whether a cluster of the partition is halting or halted at a breakpoint (R381). -/
def State.anyHalted (s : State) (p : Nat) : Bool := (s.clustersOf p).any fun cl => (s.clu cl).brk ≠ .none

/-- Sets TRIPPED on a cluster's waits at or over the timeout (R154). -/
def State.trip (s : State) (cl : Cl) (limit : Nat) : State :=
  let over_ (t : Nat) : Bool := decide (limit ≤ s.now - t)
  let mark (h : Option Hold) : Option Hold := h.map fun h => match h.why with
    | .counter _ => { h with tripped := h.tripped || over_ h.since }
    | _ => h
  let s1 := allCn.foldl (fun s c =>
    let k := s.core cl c
    s.setCore cl c { k with
      hold := mark k.hold
      deferTripped := k.deferTripped || (match k.deferStall with
        | some t => over_ t
        | none => false)
      moves := k.moves.map fun e => (e.1, { e.2 with tripped := e.2.tripped || (match e.2.stallSince with
        | some t => over_ t
        | none => false) }) }) s
  let s2 := s1.setStew cl { s1.stew cl with hold := mark (s1.stew cl).hold }
  (List.range 16).foldl (fun s n =>
    let r := s.ring cl n
    let on (o : Option Nat) : Bool := match o with
      | some t => over_ t
      | none => false
    if r.waitSince.isSome ∨ r.wait2Since.isSome then
      s.setRing cl n { r with tripped := r.tripped || on r.waitSince, tripped2 := r.tripped2 || on r.wait2Since }
    else s) s2

/-! ### The dump (R377, R378) -/

/-- Whether a free core is named by a task that passes a test of its home cluster and its descriptor: the candidate of a task ring
of its own cluster, or of another cluster's ring that has posted its task to run here (R178, R375). -/
def State.namedBy (s : State) (cl : Cl) (c : Cn) (f : Cl → BitVec 512 → Bool) : Bool :=
  let names (home : Cl) (r : Ring) : Bool := match r.isTask, r.candidate with
    | true, some d => (tCoreset d).getLsbD c.val && f home d
    | _, _ => false
  (List.range 16).any (fun n => names cl (s.ring cl n)) ||
    s.rings.any fun e => decide (e.2.target = some cl) && decide (e.1 / 16 ≠ cl.val) && names (Fin.ofNat 256 (e.1 / 16)) e.2

/-- The stall class of a core (R375), the first row that its state shows. -/
def State.stallClass (s : State) (cl : Cl) (c : Cn) : Nat :=
  let k := s.core cl c
  if (s.phy (s.physOf cl c.val)).testing then 8
  else match k.phase with
    | .free =>
      if s.namedBy cl c fun home d => !s.startMet home d then 4
      else if s.namedBy cl c fun home d => s.ready home cl d then 6
      else if s.namedBy cl c fun _ _ => true then 9
      else 7
    | .running =>
      if k.deferStall.isSome || k.moves.any (fun e => e.2.stallSince.isSome) then 5
      else match k.hold with
        | none => 0
        | some h => match h.why with
          | .icache => 2
          | .counter _ => 4
          | .deferral => 5
          | _ => 3
    | .ending => 4
    | .passed => 9

/-- The stall class of a sample (R375): the command tells what the sampled cycle of a core that waits for nothing was (it issued, a bank was
refused, an instruction was fetched, another wait, a taken branch), and whether a wait of R83 or R26 was for a bank or for a line that
missed; every other class follows from the state. -/
def State.sampleClass (s : State) (cl : Cl) (c : Cn) (stall : Nat) : Nat :=
  let k := s.stallClass cl c
  if k = 0 ∧ (stall < 4 ∨ stall = 9) then stall
  else if k = 3 ∧ (stall = 1 ∨ stall = 2) then stall
  else k

/-- Number of speculative slot k plus one of the task a core runs, or 0. -/
def State.slotCode (s : State) (cl : Cl) (c : Cn) : Nat := match s.slotOf cl c with
  | some k => k + 1
  | none => 0

/-- Regions of a core with a pending scoreboard entry. -/
def Core.pendingRegions (k : Core) : BitVec 64 :=
  (k.outs.filter fun o => decide (k.cyc < o.vis)).foldl (fun m o => m ||| o.regions) ((k.areads.filter fun r => decide (k.cyc ≤ r.point)).foldl (fun m r => m ||| BitVec.ofNat 64 (2 ^ r.region)) (k.moveWrites ||| k.moveReads))

/-- A CORE record of the dump. -/
def State.coreRecord (s : State) (cl : Cl) (c : Cn) : BitVec 512 :=
  let k := s.core cl c
  BitVec.ofNat 512 (pack [(24, unitName cl c.val), (16, s.taskIdOf cl c), (48, k.lastIa), (4, s.stallClass cl c),
    (4, (s.clu cl).step), (3, s.slotCode cl c), (13, 0), (64, k.pendingRegions.toNat), (64, k.incomplete.toNat), (272, 0)])

/-- A RING record of the dump. -/
def State.ringRecord (s : State) (cl : Cl) (n : Nat) : BitVec 512 :=
  let r := s.ring cl n
  BitVec.ofNat 512 (pack [(24, unitName cl (0x20 + n)), (16, r.rcfg), (32, r.head.toNat), (32, r.tail.toNat), (64, r.status),
    (32, r.donecnt.toNat), (39, r.erraddr), (273, 0)])

/-- A SLOT record of the dump. A slot that is being discarded is unresolved (state 2) until the discard ends. -/
def State.slotRecord (s : State) (cl : Cl) (k : Nat) : Rec :=
  let x := (s.clu cl).slot k
  let st := match x.st with
    | .free => 0
    | .running => 1
    | .ended => 2
    | .committing => 3
    | .discarding => 2
  BitVec.ofNat 256 (pack [(24, unitName cl (0x38 + k)), (16, if x.st = .free then 0 else tTaskId x.desc), (2, st), (14, x.written.length),
    (7, x.deferq.length), (193, 0)])

/-- A PRODUCER record. -/
def prodRecord (kind unit ctr task pos : Nat) : Rec :=
  BitVec.ofNat 256 (pack [(8, kind), (24, unit), (24, ctr), (16, task), (16, pos), (168, 0)])

/-- The PRODUCER records of a cluster for the counters that wait records name (R378), in the order of unit: running
tasks under their lowest core, rings, slots. -/
def State.producers (s : State) (cl : Cl) (named : Nat → Bool) : List Rec :=
  let v := s.clu cl
  let tasks := allCn.flatMap fun c => v.tasks.flatMap fun e =>
    let low := allCn.find? fun k => e.2.coreset.getLsbD k.val
    match tDone e.2.desc with
    | some h => if low = some c ∧ named (nameHub e.2.home h) then [prodRecord 0x12 (unitName cl c.val) (nameHub e.2.home h) (tTaskId e.2.desc) 0] else []
    | none => []
  let rings := (List.range 16).flatMap fun n =>
    let r := s.ring cl n
    r.buf.flatMap fun b =>
      let pos := b.num - r.head.toNat
      if r.isTask then match tDone b.desc with
        | some h => if named (nameHub cl h) then [prodRecord 0x11 (unitName cl (0x20 + n)) (nameHub cl h) (tTaskId b.desc) pos] else []
        | none => []
      else if dfl b.desc 476 476 = 1 ∧ named (dfl b.desc 475 452) then [prodRecord 0x10 (unitName cl (0x20 + n)) (dfl b.desc 475 452) 0 pos]
      else []
  let slots := (List.range 4).flatMap fun k =>
    let x := v.slot k
    x.deferq.flatMap fun p => if named p.ctr then [prodRecord 0x13 (unitName cl (0x38 + k)) p.ctr (tTaskId x.desc) 0] else []
  tasks ++ rings ++ slots

/-- The dump of the clusters given, as things stand (R377). -/
def State.dumpOf (s : State) (p cause unit : Nat) (cls : List Cl) : Dump :=
  let ws := cls.flatMap s.waitsOf
  { cause := cause
    unit := unit
    freeze := s.now
    step := (s.part p).stepNow.toNat
    waits := ws.map (Wait.record s)
    prods := cls.flatMap fun cl => s.producers cl fun n => ws.any fun w => w.ctr = n && w.kind ≤ 4
    cores := cls.flatMap fun cl => allCn.map fun c => s.coreRecord cl c
    rings := cls.flatMap fun cl => (List.range 16).map fun n => s.ringRecord cl n
    slots := cls.flatMap fun cl => (List.range 4).map fun k => s.slotRecord cl k }

/-- Index of the tripped wait record with the greatest AGE, or all ones (R377). -/
def Dump.tripped (d : Dump) : Nat :=
  let best := (List.range d.waits.length).foldl (fun (b : Option (Nat × Nat)) i =>
    let r := (d.waits.getD i 0).toNat
    if bits 55 55 r = 1 then match b with
      | some (_, a) => if a < bits 87 56 r then some (i, bits 87 56 r) else b
      | none => some (i, bits 87 56 r)
    else b) none
  match best with
  | some (i, _) => i
  | none => 0xFFFFFFFF

/-- The bytes of a dump: header, then the sections one after another (R377). -/
def Dump.bytes (p : Nat) (d : Dump) : List Byte :=
  let offs := [256, 256 + 32 * d.waits.length, 256 + 32 * (d.waits.length + d.prods.length),
    256 + 32 * (d.waits.length + d.prods.length) + 64 * d.cores.length,
    256 + 32 * (d.waits.length + d.prods.length) + 64 * (d.cores.length + d.rings.length)]
  let cnts := [d.waits.length, d.prods.length, d.cores.length, d.rings.length, d.slots.length]
  let head := [0x47, 0x4C, 0x48, 0x44].map (BitVec.ofNat 8) ++ leBytes 2 1 ++ [BitVec.ofNat 8 d.cause, BitVec.ofNat 8 p]
    ++ leBytes 8 d.freeze ++ leBytes 4 d.step ++ leBytes 4 d.tripped
    ++ (List.range 5).flatMap (fun i => leBytes 4 (offs.getD i 0) ++ leBytes 4 (cnts.getD i 0))
  head ++ List.replicate 192 0 ++ (d.waits ++ d.prods).flatMap (fun r => leBytes 32 r.toNat)
    ++ (d.cores ++ d.rings).flatMap (fun r => leBytes 64 r.toNat) ++ d.slots.flatMap (fun r => leBytes 32 r.toNat)

end Sys2Proof.Machine
end

