-- ==== Sys2Proof/Machine/Tasks.lean ====
section
/-! DEFINITION. Aborts and faults (R69, R88, R124), counters as increments reach them (R139 to R147, R151), task start and
end (R118, R121), the stop of a partition (R125, R154, R156), speculative slots (R130 to R137). -/

namespace Sys2Proof.Machine

open Sys2Proof

/-- Applies f to every entry of a table; entries equal to the default are not listed. -/
def mapS {α : Type} [DecidableEq α] (d : α) (f : Nat → α → α) (m : SMap α) : SMap α :=
  m.foldr (fun e t => put d t e.1 (f e.1 e.2)) []

/-! ### Energy (R163, R165) -/

/-- D(e) in units of 2⁻⁸ µJ, the nearest whole number to 2^((e + 32)/8) (R163). -/
def declared (e : Nat) : Nat :=
  if e = 0 then 0
  else
    let f := isqrt (isqrt (isqrt (2 ^ (e + 32))))
    if (2 * f + 1) ^ 8 ≤ 2 ^ (e + 40) then f + 1 else f

/-- A true-up on its way to the account where a task ran. -/
def State.trueUp (s : State) (cl : Cl) (t : TaskRun) : State :=
  let a := s.acct (acctOf cl)
  s.setAcct (acctOf cl) { a with dues := a.dues ++ [⟨t.energy, declared (tEclass t.desc), false, false, t.home, t.ring, tTaskId t.desc⟩] }

/-! ### Aborts (R69, R88) -/

/-- Fills 4 KiB region r with poison words (R88). -/
def poisonRegion (m : Mem) (r : Nat) : Mem :=
  ⟨m.bytes.filter (fun e => e.1 / 4096 ≠ r),
   m.syn.filter (fun e => e.1 / 256 < r) ++ (List.range 256).map (fun i => (256 * r + i, poisonSyn))
     ++ m.syn.filter (fun e => decide (r < e.1 / 256))⟩

/-- Poisons the regions of a mask. -/
def poisonRegions (m : Mem) (k : BitVec 64) : Mem :=
  (List.range 64).foldl (fun m r => if k.getLsbD r then poisonRegion m r else m) m

/-- A core at an abort (R69, R88): nothing issues, what is in flight is cancelled, regions that may hold part of a tile
are poisoned, every scoreboard entry clears; the touched counters wait to be settled (R151). -/
def Core.abort (k : Core) : Core :=
  let m := k.outs.foldl (fun m o => m ||| o.regions) (k.incomplete ||| k.moveWrites)
  { k with
    ts := poisonRegions k.ts m
    outs := []
    slices := []
    areads := []
    grants := []
    readq := []
    writeq := []
    moves := []
    incomplete := 0
    latchA := []
    latchB := []
    npc := none
    hold := none
    armed := []
    creads := []
    deferStall := none
    deferTripped := false
    phase := .free
    task := none
    posts := k.posts.map fun p => { p with who := { p.who with gone := true } }
    toSettle := k.toSettle ++ k.touched
    settleWait := k.settleWait + k.unacked
    touched := []
    unacked := 0 }

/-- Aborts a core, once what is due by its cycle has become visible. -/
def State.abortCore (s : State) (cl : Cl) (c : Cn) : State :=
  let s := s.coreTo cl c (s.core cl c).cyc
  s.setCore cl c (s.core cl c).abort

/-- Aborts the cores of a core set in a cluster. -/
def State.abortCores (s : State) (cl : Cl) (m : BitVec 12) : State :=
  allCn.foldl (fun s c => if m.getLsbD c.val then s.abortCore cl c else s) s

/-- The TASK_END record of a task (R373), whose cycle count the model does not state (log 2), and the partial line of
R372. -/
def State.traceEnd (s : State) (t : TaskRun) (outcome : Nat) : State :=
  let f := s.fresh
  ((f.2.trace t.home (traceRec 0x02 (unitName t.home 0x30) (tTaskId t.desc) s.now
    (pack [(48, t.start), (48, f.1.toNat), (4, 0), (12, t.coreset.toNat), (2, outcome), (6, 0), (40, t.energy)]))).traceFlush t.home)

/-- The descriptors that a task of a cluster has posted are marked: the task is aborted, or its slot discarded (R88, R137). -/
def State.voidPosts (s : State) (cl : Cl) (key : Nat) : State :=
  (List.range 16).foldl (fun s n =>
    let r := s.ring cl n
    if r.postBy.any fun e => decide (e.2.key = key) then
      s.setRing cl n { r with postBy := r.postBy.map fun e => if e.2.key = key then (e.1, { e.2 with gone := true }) else e }
    else s) s

/-- Ends a task's run by an abort: its cores abort, its account is trued up, its trace record is written. -/
def State.stopTask (s : State) (cl : Cl) (key outcome : Nat) : State :=
  match find (s.clu cl).tasks key with
  | none => s
  | some t =>
    let s := (s.abortCores cl t.coreset).voidPosts cl key
    let s := (s.trueUp cl t).traceEnd t outcome
    let v := s.clu cl
    s.setClu cl { v with tasks := del v.tasks key }

/-- A discard of a speculative slot begins (R135): cause 0 condition, 1 instruction, 2 fault, 3 reset or hang. A
running task is stopped, which frees its cores; it has not faulted and joins no held list (DESIGN CHOICE, log 83). A slot that is
free, committing or already being discarded is left (R136). -/
def State.beginDiscard (s : State) (cl : Cl) (k cause : Nat) : State :=
  let x := (s.clu cl).slot k
  if x.st = .running ∨ x.st = .ended then
    let s := if x.st = .running then s.stopTask cl x.taskKey 2 else s.voidPosts cl x.taskKey
    let v := s.clu cl
    let s := s.setClu cl (v.setSlot k { x with st := .discarding, cause := cause })
    if x.st = .running then (s.refresh cl).refresh x.home else s
  else s

/-- A report of a task, descriptor or steward fault to the management processor (R124, R278, R385): source 0, the kind
of R386 in the place of the syndrome. -/
def State.report (s : State) (unit part ia kind status taskId : Nat) : State :=
  s.raise { source := 0, cls := 2, unit := unit, part := part, addr := ia, syndrome := kind, symbol := 0xFF, status := status, taskId := taskId } .none

/-- A task faults (R124): it stops on all its cores, a speculative slot is discarded, its ring holds the descriptor
FAULTED, and the home steward core receives TASK_FAULT. -/
def State.taskFault (s : State) (cl : Cl) (key kind core ia : Nat) (ws : List Nat) (status : Nat) : State :=
  match find (s.clu cl).tasks key with
  | none => s
  | some t =>
    let s := s.stopTask cl key (if kind = 7 then 2 else 1)
    let s := match t.slot with
      | some k =>
        let v := s.clu cl
        s.setClu cl (v.setSlot k { v.slot k with st := .discarding, cause := 2 })
      | none => s
    let r := s.ring t.home t.ring
    let s := s.setRing t.home t.ring { r with held := r.held ++ [⟨t.desc, t.slotAddr⟩], st := .halted, cause := 12 }
    let s := s.pushEv t.home (evRecord 0x01 (tTaskId t.desc) (unitName cl core) ([256 * t.ring + kind, ia] ++ ws))
    let s := s.report (unitName cl core) (s.clPart cl) ia kind status (tTaskId t.desc)
    (s.refresh cl).refresh t.home

/-- A core's fault aborts its task (R69). -/
def State.coreFault (s : State) (cl : Cl) (c : Cn) (kind ia : Nat) (ws : List Nat) (status : Nat) : State :=
  match (s.core cl c).task with
  | some key => s.taskFault cl key kind c.val ia ws status
  | none => s

/-- A steward fault (R385): the steward core stops issuing and the fault is reported. -/
def State.stewardFault (s : State) (cl : Cl) (ia : Nat) : State :=
  let v := s.stew cl
  (s.setStew cl { v with stopped := true, hold := none }).report (unitName cl 0x10) (s.clPart cl) ia 8 0 0

/-! ### Counters (R139 to R147) -/

/-- The address of a held instruction. -/
def Hold.ia (h : Hold) : Nat := match instrAt h.instr with
  | some w => w.ia
  | none => 0

/-- A core's held CWAIT completes and issue goes on behind it. -/
def Core.release (k : Core) : Core :=
  match k.hold with
  | some h => { k with hold := none, npc := none, lastIa := h.ia, cyc := k.cyc + 1 }
  | none => k

/-- A steward core's held CWAIT ends with an outcome (R146): 0 satisfied, 1 abandoned, 2 timed out. -/
def Steward.release (k : Steward) (outcome : Nat) : Steward :=
  match k.hold with
  | some h => { k with hold := none, npc := none, lastIa := h.ia, passBreak := none, cwstat := outcome }
  | none => k

/-- Releases waits on counter n that are now satisfied: a CWAIT completes, a data ring's head may start. -/
def State.wake (s : State) (n : Nat) : State :=
  let c := s.ctr n
  let met := reaches c.value c.expected
  let on (h : Option Hold) : Bool := met && (match h with
    | some h => decide (h.why = .counter n)
    | none => false)
  let s := { s with
    cores := mapS Core.init (fun _ k => if on k.hold then k.release else k) s.cores
    stewards := mapS Steward.init (fun _ k => if on k.hold then k.release 0 else k) s.stewards
    rings := mapS Ring.init (fun _ r =>
      match r.headDesc with
      | some b =>
        if r.ph = .waiting ∧ dfl b.desc 450 427 = n ∧ reaches c.value (BitVec.ofNat 32 (dfl b.desc 426 395)) then
          { r with ph := .checked, waitSince := none, tripped := false }
        else r
      | none => r) s.rings }
  if nameIsHub n then s.refresh (nameCl n) else s

/-- Counts a dropped increment (R147). -/
def State.dropInc (s : State) (p : Nat) : State :=
  let v := s.part p
  s.setPart p { v with dropped := sat32 v.dropped 1 }

/-- An increment reaches its sync hub (R139, R147): applied, or dropped and counted while the partition is frozen;
acknowledged once. -/
def State.applyInc (s : State) (k : Packet) : State :=
  let p := s.clPart (nameCl k.ctr)
  let s := { s with net := { s.net with acks := s.net.acks ++ [k.sender] } }
  if (s.part p).frozen then s.dropInc k.part
  else (s.setCtr k.ctr ((s.ctr k.ctr).add (BitVec.ofNat 32 k.amt))).wake k.ctr

/-- Whether a name is a counter of a task's own cores (R130). -/
def ownCtr (cl : Cl) (cs : BitVec 12) (n : Nat) : Bool :=
  !nameIsHub n && decide (nameCl n = cl) && cs.getLsbD (bits 11 8 n)

/-- Enters an increment in a slot's deferral queue (R133); the answer says whether there was room. -/
def State.defer (s : State) (cl : Cl) (k : Nat) (p : Packet) : State × Bool :=
  let v := s.clu cl
  let x := v.slot k
  if x.deferq.length < 64 then (s.setClu cl (v.setSlot k { x with deferq := x.deferq ++ [p] }), true) else (s, false)

/-- A core of a slot's task stalls on a full deferral queue (R133), and DEFER_FULL is raised. -/
def State.deferFull (s : State) (cl : Cl) (c : Cn) (k : Nat) : State :=
  let v := s.core cl c
  let x := (s.clu cl).slot k
  if v.deferStall.isSome ∨ v.task ≠ some x.taskKey then s
  else
    (s.setCore cl c { v with deferStall := some s.now }).pushEv x.home (evRecord 0x04 (tTaskId x.desc) (unitName cl c.val) [k])

/-! ### Ring halts (R245) -/

/-- The poster of a descriptor that no post of this run wrote. -/
def PostBy.none : PostBy := ⟨0, 0, 0, .none, false⟩

/-- A ring halts with a cause: progress is given up, and RING_HALT is raised except for STOPPED and for task rings. A halt other than
STOPPED or OVERRUN that meets a descriptor with a scoreboarded tile-store side faults its posting core's task; where no bus status
halted the ring, the record's status is free (log 2). -/
def State.haltRing (s : State) (cl : Cl) (n cause erraddr status : Nat) : State :=
  let r := s.ring cl n
  let s := s.setRing cl n { r with
    st := .halted, cause := cause, stopAs := 0, erraddr := erraddr, ph := .unread, next := 0, retries := 0, sum := 0
    sumBytes := 0, waitSince := none, tripped := false }
  let s := if cause = 1 ∨ r.isTask then s
    else s.pushEv cl (evRecord 0x05 0 (unitName cl (0x20 + n)) [cause, r.head.toNat, erraddr])
  match r.headDesc with
  | some b =>
    let c := dfl b.desc 497 494
    if !r.isTask ∧ dTsv b.desc ∧ (dSrcTs b.desc ∨ dDstTs b.desc) ∧ cause ≠ 1 ∧ cause ≠ 7 ∧ c < 12 then
      let f := if cause = 2 ∨ cause = 3 then (BitVec.ofNat 256 status, s) else s.fresh
      f.2.coreFault cl (Fin.ofNat 12 c) 3 (look PostBy.none r.postBy b.num).ia [0, erraddr, f.1.toNat % 256] (f.1.toNat % 256)
    else s
  | none => s

/-! ### Stops of a partition (R125, R154, R156) -/

/-- Every dispatcher of a partition stops. -/
def State.stopDispatch (s : State) (p : Nat) : State :=
  (s.clustersOf p).foldl (fun s cl => s.setClu cl { s.clu cl with dispStopped := true }) s

/-- Every running task of a cluster aborts as a fault of kind STEWARD, without events, its descriptor held (R125, R154);
slots that have not begun to commit are discarded. -/
def State.abortAll (s : State) (cl : Cl) : State :=
  let s := (s.clu cl).tasks.foldl (fun s e =>
    let s := s.stopTask cl e.1 2
    let r := s.ring e.2.home e.2.ring
    s.setRing e.2.home e.2.ring { r with held := r.held ++ [⟨e.2.desc, e.2.slotAddr⟩], st := .halted, cause := 12 }) s
  (List.range 4).foldl (fun s k =>
    let v := s.clu cl
    let x := v.slot k
    if x.st = .running ∨ x.st = .ended then s.setClu cl (v.setSlot k { x with st := .discarding, cause := 3 }) else s) s

/-- Ends the CWAIT of a cluster's steward core with an outcome: 1 abandoned, 2 timed out (R146). -/
def State.endStewWait (s : State) (cl : Cl) (outcome : Nat) : State :=
  let v := s.stew cl
  match v.hold with
  | some h => match h.why with
    | .counter _ => s.setStew cl (v.release outcome)
    | _ => s
  | none => s

/-- The data rings of a cluster at a hang (R245): held on a condition TIMED_OUT; running a descriptor, HANG_STOP at its
end; between descriptors or empty, HANG_STOP at once. -/
def State.hangRings (s : State) (cl : Cl) : State :=
  (List.range 16).foldl (fun s n =>
    let r := s.ring cl n
    if r.isTask ∨ ¬(r.st = .running ∨ r.st = .stopping) then s
    else match r.ph with
      | .waiting => s.haltRing cl n 8 0 0
      | .moving => s.setRing cl n { r with st := .stopping, stopAs := 10 }
      | _ => s.haltRing cl n 10 0 0) s

/-- Applies every increment in flight to a partition's counters (R154, step 3). -/
def State.landAll (s : State) (p : Nat) : State :=
  let mine := s.net.flight.filter fun k => s.clPart (nameCl k.ctr) = p
  let rest := s.net.flight.filter fun k => s.clPart (nameCl k.ctr) ≠ p
  mine.foldl State.applyInc { s with net := { s.net with flight := rest } }

/-- Takes a dump of clusters of a partition at the freeze (R377). -/
def State.takeDump (s : State) (p cause unit : Nat) (cls : List Cl) : State :=
  let v := s.part p
  s.setPart p { v with dump := some (s.dumpOf p cause unit cls), dumpBytes := 0, dumpDue := true, stopCause := cause }

/-- Steps 2 to 6 of R154 for a partition, with a dump cause of R377. -/
def State.hangStop (s : State) (p cause unit : Nat) : State :=
  let s := (s.stopDispatch p).landAll p
  let s := s.takeDump p cause unit (s.clustersOf p)
  let v := s.part p
  let s := s.setPart p { v with frozen := true, run := .hung, hangDue := false, mirroring := [], restoring := 0, rolling := none, watching := false, dropDies := 0, dropLater := 0, releaseDue := false }
  (s.clustersOf p).foldl (fun s cl => ((((s.abortAll cl).endStewWait cl 2).hangRings cl).traceFlush cl)) s

/-- The descriptor that a ring has placed with the ledger: the retried one, or the one at HEAD. -/
def Ring.placedDesc (r : Ring) : Option (BitVec 512) := if r.cand then r.held.head?.map (·.desc) else r.headDesc.map (·.desc)

/-- A task ring gives up its candidate's place with the ledger (R166, R168): an entry is withdrawn; a grant is returned
and D refunded, whatever has become of the candidate, and its age is kept. -/
def State.withdraw (s : State) (cl : Cl) (n : Nat) : State :=
  let r := s.ring cl n
  let ac := acctOf (r.runsIn cl)
  let a := s.acct ac
  let a := if r.granted then
      match r.placedDesc with
      | some d => { a with dues := a.dues ++ [⟨0, declared (tEclass d), false, true, cl, n, tTaskId d⟩] }
      | none => a
    else { a with reqs := a.reqs.filter fun q => !(decide (q.cl = cl) && decide (q.ring = n)) }
  if r.posted ∨ r.granted then
    (s.setAcct ac a).setRing cl n { r with
      posted := false, granted := false, target := none
      keptAge := if r.granted ∧ !r.cand then some r.grantAge else r.keptAge
      keptHeld := if r.granted ∧ r.cand then some r.grantAge else r.keptHeld
      readySince := if r.granted then none else r.readySince }
  else s

/-- The data rings of a cluster are cut by a reset or pre-emption and halt ABANDONED (R245). -/
def State.abandonRings (s : State) (cl : Cl) : State :=
  (List.range 16).foldl (fun s n =>
    let r := s.ring cl n
    if !r.isTask ∧ (r.st = .running ∨ r.st = .stopping) then s.haltRing cl n 9 0 0 else s) s

/-- A reset or pre-emption begins (R125, steps 1 to 3): STOPPING. Entries and grants are given back (R169), tasks abort, data rings
are cut, increments in flight are dropped (R156, R245). -/
def State.beginStop (s : State) (p : Nat) : State :=
  let s := s.stopDispatch p
  let v := s.part p
  let s := s.setPart p { v with run := .stopping, frozen := true, mirroring := [], restoring := 0, rolling := none, watching := false, haltSince := none, hangDue := false, dropDies := 0, dropLater := 0, releaseDue := false }
  let s := (s.clustersOf p).foldl (fun s cl => (List.range 16).foldl (fun s n => s.withdraw cl n) s) s
  (s.clustersOf p).foldl (fun s cl =>
    let s := (s.abortAll cl).abandonRings cl
    let v := s.clu cl
    (s.setClu cl { v with brk := .none, brkRings := 0 }).traceFlush cl) s

/-- Whether a partition has a commit that has begun. -/
def State.committing (s : State) (p : Nat) : Bool :=
  (s.clustersOf p).any fun cl => (s.clu cl).slots.any fun e => e.2.st = .committing

/-! ### Task start (R118, R120) -/

/-- The s3 of a core (R118): its number. -/
def coreNumber (cl : Cl) (c : Cn) : Nat := pack [(2, dieOf cl), (3, xOf cl), (3, yOf cl), (4, 0), (4, c.val)]

/-- A core at the start of a task (R30, R59, R75, R77, R85, R118, R148). -/
def Core.start (k : Core) (cl : Cl) (c : Cn) (d : BitVec 512) (key : Nat) (sched : Bool) : Core :=
  let regs := ([dfl d 191 128, dfl d 127 64, coreNumber cl c, tTaskId d, (tCoreset d).toNat].zipIdx 1).foldl
    (fun (m : SMap Word) e => put 0 m e.2 (BitVec.ofNat 64 e.1)) []
  { k with
    regs := regs
    npc := some (tEntry d)
    fmtA := .bf16, fmtB := .bf16
    rowMask := 0xFFFFFFFF#32, colMask := 0xFFFFFFFF#32
    seed := BitVec.ofNat 64 (dfl d 255 192), srCount := 0
    acc := [], accPoison := 0
    cyc := 8, edgeFree := 0, slotFree := 0, drainFree := 0, wbDone := 0, accDrained := [], accDone := []
    outs := [], slices := [], areads := [], grants := [], readq := [], writeq := [], bankCyc := 8, moves := [], moveSerial := 0, incomplete := 0, latchA := [], latchB := []
    hold := none, task := some key, phase := .running, unacked := 0, armed := [], creads := [], touched := []
    deferStall := none, deferTripped := false, fetchBad := none, schedCheck := sched }

/-- A head descriptor fails R117: its ring holds it BAD_TASK, with a TASK_FAULT. -/
def State.failHead (s : State) (cl : Cl) (n : Nat) (b : Buffered) : State :=
  let r := s.ring cl n
  let s := s.setRing cl n { r with ph := .checked, badTask := true, st := .halted, cause := 11, readySince := none, readyRank := 0 }
  let s := s.pushEv cl (evRecord 0x01 (tTaskId b.desc) (unitName cl (0x20 + n)) [256 * n + 5, b.slotAddr])
  s.report (unitName cl (0x20 + n)) (s.clPart cl) b.slotAddr 5 0 (tTaskId b.desc)

/-- The head descriptor of a task ring is checked (R117). -/
def State.checkHead (s : State) (cl : Cl) (n : Nat) : State :=
  let r := s.ring cl n
  match r.headDesc with
  | none => s
  | some b =>
    if r.isTask ∧ r.ph = .unread ∧ r.st = .running then
      if !b.bad ∧ s.taskOk cl cl b.desc then s.setRing cl n { r with ph := .checked, badTask := false } else s.failHead cl n b
    else s

/-- Whether a descriptor names a logical core that is not enabled where it is to run (R192). -/
def State.coresMissing (s : State) (tgt : Cl) (d : BitVec 512) : Bool := allCn.any fun c => (tCoreset d).getLsbD c.val && !s.coreEnabled tgt c.val

/-- A descriptor that a ring offers and that names a missing core fails R117 (R192, R198): the one at HEAD is held BAD_TASK; a retried
one stays first in the held list, and the ring holds BAD_TASK (R122). -/
def State.failMissing (s : State) (cl : Cl) (n : Nat) : State :=
  let r := s.ring cl n
  match r.isTask, r.candidate with
  | true, some d =>
    if !s.coresMissing (r.runsIn cl) d then s
    else
      let s := s.withdraw cl n
      if r.cand then
        match r.held with
        | h :: _ =>
          let s := s.setRing cl n { s.ring cl n with cand := false, st := .halted, cause := 11, readySince := none, readyRank := 0, keptHeld := none }
          let s := s.pushEv cl (evRecord 0x01 (tTaskId h.desc) (unitName cl (0x20 + n)) [256 * n + 5, h.slotAddr])
          s.report (unitName cl (0x20 + n)) (s.clPart cl) h.slotAddr 5 0 (tTaskId h.desc)
        | [] => s
      else match r.headDesc with
        | some b => s.failHead cl n b
        | none => s
  | _, _ => s

/-- A task ring that has been overrun halts OVERRUN at its next descriptor boundary (R234): it offers no further descriptor. -/
def State.overrunTask (s : State) (cl : Cl) (n : Nat) : State := (s.withdraw cl n).haltRing cl n 7 0 0

/-- A task ring's HEAD moves past its descriptor, and the next one is checked (R117, R120). -/
def State.advanceHead (s : State) (cl : Cl) (n : Nat) : State :=
  let r := s.ring cl n
  let h := r.head + 1
  let s := s.setRing cl n { r with
    head := h, buf := r.buf.filter (fun b => b.num ≠ r.head.toNat), ph := .unread, badTask := false, waitSince := none, wait2Since := none
    tripped := false, tripped2 := false, readySince := none, readyRank := 0, keptAge := none, posted := false, granted := false, target := none }
  if r.overrun then s.overrunTask cl n else s.checkHead cl n

/-- A task ring whose held list has become empty offers its HEAD again (R124), unless it was overrun (R234); a descriptor at HEAD that is
held BAD_TASK stays so. -/
def State.heldEmptied (s : State) (cl : Cl) (n : Nat) : State :=
  let r := s.ring cl n
  if r.overrun then s.overrunTask cl n
  else if r.badTask then s.setRing cl n { r with st := .halted, cause := 11 }
  else (s.setRing cl n { r with st := .running, cause := 0 }).checkHead cl n

/-- Starts a ring's candidate in cluster tgt (R118, R120, R131). -/
def State.startTask (s : State) (cl tgt : Cl) (n : Nat) (d : BitVec 512) : State :=
  let v := s.clu tgt
  let key := v.nextKey
  let sl := if tSpec d then v.freeSpec else none
  let from_ : Nat := match (s.ring cl n).cand, (s.ring cl n).held.head?, (s.ring cl n).headDesc with
    | true, some h, _ => h.slotAddr
    | _, _, some b => b.slotAddr
    | _, _, _ => 0
  let t : TaskRun := { ring := n, home := cl, desc := d, slotAddr := from_, coreset := tCoreset d, slot := sl, start := s.now, passed := 0, energy := 0 }
  let v := { v with tasks := ins v.tasks key t, nextKey := key + 1 }
  let v := match sl with
    | some k => v.setSlot k { Slot.init with st := .running, desc := d, home := cl, taskKey := key }
    | none => v
  let sched := s.obj 0x3023 (s.clPart cl + 1) = 1
  let s := s.setClu tgt v
  let s := allCn.foldl (fun s c => if (tCoreset d).getLsbD c.val then s.setCore tgt c ((s.core tgt c).start tgt c d key sched) else s) s
  let r := s.ring cl n
  let s := if r.cand then
      let rest := r.held.drop 1
      let s := s.setRing cl n { r with
        held := rest, cand := false, readySince := none, readyRank := 0, keptHeld := none, posted := false, granted := false, target := none }
      if rest = [] then s.heldEmptied cl n else s
    else s.advanceHead cl n
  (s.refresh tgt).refresh cl

/-! ### Task end (R121, R133, R149) -/

/-- The unit of a waiter held on a counter with a target that it has not reached (R149, R150): a core, a steward core or a ring. -/
def State.waiterOn (s : State) (n : Nat) : Option Nat :=
  let c := s.ctr n
  let on (h : Option Hold) : Bool := match h with
    | some h => decide (h.why = .counter n) && !reaches c.value c.expected
    | none => false
  match s.cores.find? fun e => on e.2.hold with
  | some e => some (unitName (Fin.ofNat 256 (e.1 / 12)) (e.1 % 12))
  | none => match s.stewards.find? fun e => on e.2.hold with
    | some e => some (unitName (Fin.ofNat 256 e.1) 0x10)
    | none => (s.rings.find? fun e => match e.2.headDesc with
      | some b => decide (e.2.ph = .waiting) && dfl b.desc 450 427 = n && !reaches c.value (BitVec.ofNat 32 (dfl b.desc 426 395))
      | none => false).map fun e => unitName (Fin.ofNat 256 (e.1 / 16)) (0x20 + e.1 % 16)

/-- Whether a waiter is held on a counter (R149). -/
def State.heldWaiter (s : State) (n : Nat) : Bool := (s.waiterOn n).isSome

/-- Sum of the deferred increments of a counter in a slot (R150). -/
def Slot.deferredSum (x : Slot) (n : Nat) : Nat := (x.deferq.filter fun p => p.ctr = n).foldl (fun a p => a + p.amt) 0 % 2 ^ 32

/-- The difference of R150 for a counter: value plus deferred sum minus expected. -/
def State.imbalance (s : State) (x : Slot) (n : Nat) : W32 :=
  (s.ctr n).value + BitVec.ofNat 32 (x.deferredSum n) - (s.ctr n).expected

/-- Unbalanced counters among those given (R149). -/
def State.unbalanced (s : State) (x : Slot) (ns : List Nat) : List Nat :=
  ns.filter fun n => s.imbalance x n ≠ 0 || s.heldWaiter n

/-- The words 3 to 7 of a balance fault record (R386). -/
def State.balanceWords (s : State) (x : Slot) (bad : List Nat) : List Nat :=
  match bad with
  | [] => []
  | n :: rest =>
    [n, (s.ctr n).value.toNat, (s.ctr n).expected.toNat, x.deferredSum n,
      (s.imbalance x n).toNat + 2 ^ 32 * min 7 rest.length + (if bad.length > 8 then 2 ^ 36 else 0)]

/-- The records of a balance fault (R150): one for each unbalanced counter, at most eight. -/
def State.balanceRecs (s : State) (unit : Nat) (x : Slot) (bad : List Nat) : List BalRec :=
  (bad.take 8).map fun n => ⟨unit, n, (s.ctr n).value, (s.ctr n).expected, x.deferredSum n, s.imbalance x n, s.waiterOn n⟩

/-- A balance fault of a core (R149, R150): its records are kept, and the task aborts. -/
def State.balanceFault (s : State) (cl : Cl) (c : Cn) (x : Slot) (bad : List Nat) : State :=
  let s := s.setClu cl { s.clu cl with balance := s.balanceRecs (unitName cl c.val) x bad, balanceMore := decide (8 < bad.length) }
  s.coreFault cl c 4 (s.core cl c).lastIa (s.balanceWords x bad) 0

/-- The dispatcher's DONE increment (R121, R144). -/
def State.done (s : State) (t : TaskRun) : State :=
  match tDone t.desc with
  | some h => s.send ⟨nameHub t.home h, 1, .dispatcher t.home, s.clPart t.home⟩
  | none => s

/-- A task ends (R121): cores are freed, the account is trued up, the DONE increment is sent, or deferred for a
speculative task; a full queue stalls the last core (R133). -/
def State.endTask (s : State) (cl : Cl) (c : Cn) (key : Nat) (t : TaskRun) : State :=
  let freeAll (s : State) : State :=
    allCn.foldl (fun s k => if t.coreset.getLsbD k.val then s.setCore cl k { s.core cl k with phase := .free, task := none, npc := none, deferStall := none, deferTripped := false } else s) s
  let close (s : State) : State :=
    let s := ((freeAll s).trueUp cl t).traceEnd t 0
    let v := s.clu cl
    (s.setClu cl { v with tasks := del v.tasks key }).refresh cl
  match t.slot with
  | none => close (s.done t)
  | some k =>
    let r := match tDone t.desc with
      | some h => s.defer cl k ⟨nameHub t.home h, 1, .dispatcher t.home, s.clPart t.home⟩
      | none => (s, true)
    if r.2 then
      let s := close r.1
      let v := s.clu cl
      s.setClu cl (v.setSlot k { v.slot k with st := .ended })
    else s.deferFull cl c k

end Sys2Proof.Machine
end

