-- ==== Sys2Proof/Machine/Issue.lean ====
section
/-! DEFINITION. Issue (R68, R122, R127, R128, R379, R385): when an instruction of a core or steward core issues, faults,
holds or completes. -/

namespace Sys2Proof.Machine

open Sys2Proof

/-! ### The sequencers behind an issue -/

/-- What the sequencer of an issue waits with. -/
def State.holdOf (s : State) (w : At) : Option Hold :=
  match w.who with
  | .core c => (s.core w.cl c).hold
  | .steward => (s.stew w.cl).hold

/-- The address the next instruction must have, after a start or a taken branch. -/
def State.npcOf (s : State) (w : At) : Option Nat :=
  match w.who with
  | .core c => (s.core w.cl c).npc
  | .steward => (s.stew w.cl).npc

/-- The lines of the sequencer's instruction cache; a steward core uses the cluster's (R127). -/
def State.icacheOf (s : State) (w : At) : List Nat :=
  match w.who with
  | .core c => (s.core w.cl c).icache
  | .steward => (s.clu w.cl).icache

/-- Whether the sequencer runs at all: a core in a task and not stalled, a steward core not stopped, none
while a CREAD is on its way; no breakpoint halts the cluster (R380). -/
def State.seqRuns (s : State) (w : At) : Bool :=
  decide ((s.clu w.cl).isl = .running) && decide ((s.clu w.cl).brk = .none) &&
  (match w.who with
    | .core c => decide ((s.core w.cl c).phase = .running) && (s.core w.cl c).task.isSome && (s.core w.cl c).deferStall.isNone && (s.core w.cl c).creads.isEmpty
    | .steward => !(s.stew w.cl).stopped && (s.stew w.cl).creads.isEmpty)

/-- Whether this instruction may be tried now: it lies where the last branch led, and no other instruction is held. -/
def State.mayTry (s : State) (w : At) (i : Instr) : Bool :=
  s.seqRuns w && (match s.npcOf w with
    | none => true
    | some a => decide (a = w.ia)) &&
  (match s.holdOf w with
    | none => true
    | some h => decide (h.instr = i))

/-- Whether the instruction's line is in the instruction cache (R127). -/
def State.icHit (s : State) (w : At) : Bool := (s.icacheOf w).contains (lineOf w.ia)

/-- Sets what the sequencer waits with. -/
def State.setHold (s : State) (w : At) (h : Option Hold) : State :=
  match w.who with
  | .core c => s.setCore w.cl c { s.core w.cl c with hold := h }
  | .steward => s.setStew w.cl { s.stew w.cl with hold := h }

/-- Holds an instruction at issue; one that is held already keeps the time its wait began (R153). -/
def State.holdFor (s : State) (w : At) (i : Instr) (why : HoldWhy) : State :=
  match s.holdOf w with
  | some h => if h.why = why then s else s.setHold w (some ⟨i, why, s.now, false⟩)
  | none => s.setHold w (some ⟨i, why, s.now, false⟩)

/-- An instruction issues and its successor follows it: one cycle, or `cyc` more for a taken branch (R68). -/
def State.advance (s : State) (w : At) (npc : Option Nat) (cyc : Nat) : State :=
  match w.who with
  | .core c =>
    let k := s.core w.cl c
    s.setCore w.cl c { k with npc := npc, hold := none, lastIa := w.ia, cyc := k.cyc + cyc,
                              icache := lruPut 64 4 (lineOf w.ia) k.icache }
  | .steward =>
    let k := s.stew w.cl
    let v := s.clu w.cl
    (s.setStew w.cl { k with npc := npc, hold := none, lastIa := w.ia, passBreak := none }).setClu w.cl
      { v with icache := if v.icache.contains (lineOf w.ia) then lruPut 256 8 (lineOf w.ia) v.icache else v.icache }

/-- An instruction that issues in one cycle. -/
def State.next1 (s : State) (w : At) : State := s.advance w none 1

/-- The mnemonic's number in the order of R89, for the fault record (R386). -/
def mnemonicNumber : Instr → Option Nat
  | .movi .. => some 0
  | .add .. => some 1
  | .sub .. => some 2
  | .and .. => some 3
  | .or .. => some 4
  | .xor .. => some 5
  | .shl .. => some 6
  | .shr .. => some 7
  | .sra .. => some 8
  | .mul .. => some 9
  | .beq .. => some 10
  | .bne .. => some 11
  | .blt .. => some 12
  | .bge .. => some 13
  | .jmp .. => some 14
  | .nop .. => some 15
  | .config .. => some 16
  | .setmask .. => some 17
  | .srseed .. => some 18
  | .tprod .. => some 19
  | .tdrain .. => some 20
  | .tew .. => some 21
  | .tload .. => some 22
  | .tstore .. => some 23
  | .rpost .. => some 24
  | .cinc .. => some 25
  | .cexp .. => some 26
  | .cwait .. => some 27
  | .cread .. => some 28
  | .fence .. => some 29
  | .endTask .. => some 30
  | _ => none

/-- An instruction fault of a core, or a steward fault (R69, R385). A mnemonic that R89 does not list has no number:
the record carries a free value (log 2). -/
def State.instrFault (s : State) (w : At) (i : Instr) (pos : Nat) : State :=
  match w.who with
  | .core c =>
    match mnemonicNumber i with
    | some n => s.coreFault w.cl c 1 w.ia [n, pos] 0
    | none => let f := s.fresh; f.2.coreFault w.cl c 1 w.ia [f.1.toNat, pos] 0
  | .steward => s.stewardFault w.cl w.ia

/-! ### Breakpoints (R379, R380) -/

/-- Entry e of a partition's BREAKPOINTS. -/
def State.bpEntry (s : State) (p e : Nat) : Nat := sliceNat (s.obj 0x8023 (p + 1)) (16 * e) 16

/-- Whether an entry is armed for a cluster and an address. -/
def bpMatches (v : Nat) (cl : Cl) (ia : Nat) : Bool :=
  bits 127 127 v = 1 && bits 121 120 v = dieOf cl && bits 119 117 v = xOf cl && bits 116 114 v = yOf cl && bits 111 64 v / 16 = ia / 16

/-- The entry that acts on an instruction of a steward core: the one of the lowest SLOT (R381). -/
def State.bpFor (s : State) (cl : Cl) (ia : Nat) : Option Nat :=
  let p := s.clPart cl
  if p ≥ 16 ∨ (s.part p).run ≠ .running then none
  else (List.range 4).findSome? fun slot => (List.range 256).find? fun e =>
    let v := s.bpEntry p e
    bpMatches v cl ia && bits 126 125 v = slot

/-- Replaces a breakpoint entry. -/
def State.setBp (s : State) (p e v : Nat) : State := s.setObj 0x8023 (p + 1) (spliceNat (s.obj 0x8023 (p + 1)) (16 * e) 16 v)

/-- An entry with one more match, saturating. -/
def bpCount (v : Nat) : Nat := v / 2 ^ 32 * 2 ^ 32 + sat32 (v % 2 ^ 32) 1

/-- Whether a breakpoint keeps a steward core from an instruction until it has halted (R380). -/
def State.bpStops (s : State) (w : At) : Bool :=
  match w.who, s.bpFor w.cl w.ia with
  | .steward, some e =>
    let v := s.bpEntry (s.clPart w.cl) e
    decide ((s.stew w.cl).passBreak ≠ some w.ia) && decide (bits 63 32 v ≤ v % 2 ^ 32)
  | _, _ => false

/-- Counts a match that a breakpoint lets pass. -/
def State.bpPass (s : State) (w : At) : State :=
  match w.who, s.bpFor w.cl w.ia with
  | .steward, some e =>
    if (s.stew w.cl).passBreak = some w.ia ∨ (s.stew w.cl).hold.isSome then s
    else s.setBp (s.clPart w.cl) e (bpCount (s.bpEntry (s.clPart w.cl) e))
  | _, _ => s

/-! ### Issue -/

/-- Who may issue an instruction: cores (R89), steward cores (R122, R385). -/
inductive Issuer where
  | core | steward | both
deriving DecidableEq, Repr

/-- Whether a sequencer has an instruction among its own. -/
def issuerOk (k : Issuer) (w : Who) : Bool :=
  match k, w with
  | .both, _ | .core, .core _ | .steward, .steward => true
  | _, _ => false

/-- The position of the first operand that is out of range, counted from 0 (R69). -/
def firstBad : List Bool → Nat → Option Nat
  | [], _ => none
  | true :: t, n => firstBad t (n + 1)
  | false :: _, n => some n

/-- An issue attempt (R68, R69, R385): nothing where the sequencer does not come to this instruction; a hold on an
instruction-cache miss; a fault for an instruction that is not the sequencer's own, or an operand out of range (`oks`
says of each operand, in the order of R89, whether it is in range); otherwise the instruction's own action. -/
def State.issue (s : State) (w : At) (i : Instr) (k : Issuer) (oks : List Bool) (run : State → State) : State :=
  if !s.mayTry w i || s.bpStops w then s
  else if !s.icHit w then s.holdFor w i .icache
  else
    let s := s.bpPass w
    if !issuerOk k w.who then s.instrFault w i 0
    else match firstBad oks 0 with
      | some n => s.instrFault w i n
      | none => run s

/-- What the statements call ready to issue: the sequencer comes to the instruction, its line is at hand, it is among
the sequencer's own, and no breakpoint entry matches it. -/
def State.readyFor (s : State) (w : At) (i : Instr) (k : Issuer) : Bool :=
  s.mayTry w i && s.icHit w && issuerOk k w.who && (match w.who with
    | .core _ => true
    | .steward => (s.bpFor w.cl w.ia).isNone)

end Sys2Proof.Machine
end

