-- ==== Sys2Proof/Machine/Array.lean ====
section
/-! DEFINITION. The array instructions (01, 02 R52 to R63, 03 R72 to R77, R82 to R85). -/

namespace Sys2Proof.Machine

open Sys2Proof

/-! ### Operands (R25, R36, R38, R39, R69, R71) -/

/-- Bytes of the tile store. -/
def tsSize : Nat := 0x40000

/-- Whether n bytes at a region lie in the tile store at an alignment (R76). -/
def tsOk (a n al : Nat) : Bool := decide (a % al = 0) && decide (a + n ≤ tsSize)

/-- Whether a drain specification is accepted (R38, R39, R71). -/
def drainOk (d : Drain) : Bool :=
  (!vselVec d.scale || tsOk d.svec 128 128) && (!vselVec d.bias || tsOk d.bvec 128 128) &&
  (decide (d.red = .none) || (tsOk d.rvec 128 128 && decide (d.fmt ≠ .fp32))) &&
  tsOk d.dst (drainTile d).2 (drainTile d).1 && (!outMx d.fmt || tsOk d.sdst 32 32) &&
  (match d.fmt with
    | .e4m3 | .e5m2 | .mxfp8 | .mxfp6 => decide (d.part < 2)
    | .mxfp4 => decide (d.part < 4)
    | _ => true)

/-- The row-vector tiles a drain reads. -/
def drainVecs (d : Drain) : List Nat :=
  (if vselVec d.scale then [d.svec] else []) ++ (if vselVec d.bias then [d.bvec] else [])

/-- The regions a drain writes (R82: a tile marks every region it touches). -/
def drainRegions (d : Drain) : BitVec 64 :=
  regionMask d.dst (drainTile d).2 ||| (if d.red = .none then 0 else regionMask d.rvec 128) |||
    (if outMx d.fmt then regionMask d.sdst 32 else 0)

/-- Row-vector tiles, read at issue. -/
def vecTiles (vs : List Nat) : List TileRead := vs.map fun v => ⟨v, 128, 0⟩

/-- The regions of a list of tile reads. -/
def readRegions (ts : List TileRead) : BitVec 64 := ts.foldl (fun m t => m ||| regionMask t.addr t.len) 0

/-! ### Schedule-check mode (R85) -/

/-- The early read that schedule-check mode finds (R85): the region, its read point, and the output. Where several qualify, the
first tile in operand order and the first output in issue order (DESIGN CHOICE, log 74). -/
def earlyRead (k : Core) (i : Nat) (ts : List TileRead) : Option (Nat × Nat × PendOut) :=
  ts.findSome? fun t => k.outs.findSome? fun o =>
    if i + t.at_ < o.vis then
      (o.cells.find? fun c => decide (t.addr ≤ c.addr) && decide (c.addr < t.addr + t.len)).map fun c => (c.addr / 4096, i + t.at_, o)
    else none

/-! ### Issue (R24 to R26, R29) -/

/-- An output enters the pending ones with L = vis (R29, R82): its cells as the drain places them, and the values that stand in
the accumulator now; those of a TPROD (`later`) are filled in behind its last slice. -/
def Core.drainTo (k : Core) (d : Drain) (rows cols : W32) (m : Mem) (poison : Bool) (ia vis : Nat) (later : Option Nat) (src : Nat → Nat → Num) : Core :=
  let r := drainAll d m k.seed k.srCount.toNat (maskLines rows) (maskLines cols) src
  let vecs := (drainVecs d).foldl (fun x v => x.write v (m.read v 128)) Mem.empty
  { k with
    outs := k.outs ++ [⟨vis, ia, poison, drainRegions d, (r.1.map fun c => c.addr / 16).dedup, r.1,
      later.map fun a => ⟨a, d, rows, cols, k.seed, k.srCount.toNat, vecs⟩⟩]
    srCount := BitVec.ofNat 64 r.2
    wbDone := vis }

/-- Marks the array reads of an instruction issued at cycle i (R82). -/
def Core.markReads (k : Core) (i : Nat) (ts : List TileRead) : Core :=
  { k with areads := k.areads ++ ts.flatMap fun t =>
      (List.range 64).filterMap fun r => if (regionMask t.addr t.len).getLsbD r then some ⟨r, i + t.at_⟩ else none }

/-- The slices of a TPROD issued at cycle i (R24, R25, R35, R77). -/
def Core.slicesOf (k : Core) (i acc srcA srcB sclA sclB n : Nat) (add tb : Bool) (vis : Option Nat) : List PendSlice :=
  let full := decide (k.rowMask = 0xFFFFFFFF#32) && decide (k.colMask = 0xFFFFFFFF#32)
  (List.range n).map fun s =>
    let a := sliceTiles srcA sclA (elBlocks k.fmtA) s
    let b := sliceTiles srcB sclB (elBlocks k.fmtB) s
    { at_ := i + 32 * s, ix := s, acc := acc, replace := decide (s = 0) && !add, clears := decide (s = 0) && !add && full
      int8 := decide (k.fmtA = .int8), fmtL := if tb then k.fmtB else k.fmtA, fmtT := if tb then k.fmtA else k.fmtB
      left := if tb then b else a, top := if tb then a else b, rows := k.rowMask, cols := k.colMask
      vis := if s + 1 = n then vis else none }

/-- TPROD at its issue cycle i (R22 to R35): its slices wait for their read points, its output for L. -/
def Core.tprod (k : Core) (ia i acc srcA srcB sclA sclB n : Nat) (add tb : Bool) (drn : Option Drain) : Core :=
  let vis := drn.map fun _ => i + 32 * n + 102
  let prevEnd := k.edgeFree - (if k.schedCheck then 1 else 0)
  let k := { k with
    slices := k.slices ++ k.slicesOf i acc srcA srcB sclA sclB n add tb vis
    edgeFree := i + 32 * n + (if k.schedCheck then 1 else 0)
    slotFree := if n ≥ 2 then i + 32 * (n - 1) else prevEnd
    accDone := ins k.accDone acc (i + 32 * n + 62) }
  match drn with
  | none => k
  | some d =>
    { k.drainTo d k.rowMask k.colMask k.ts (tilesBad k.ts (vecTiles (drainVecs d))) ia (i + 32 * n + 102) (some acc) (k.accOut acc) with
      drainFree := i + 32 * n + 94, accDrained := ins k.accDrained acc (i + 32 * n + 94) }

/-- TDRAIN at its issue cycle (R25). A vector tile that is poisoned or uncorrectable poisons the output, and one that is
uncorrectable marks the accumulator (R31, R253, R256). -/
def Core.tdrain (k : Core) (ia i acc : Nat) (d : Drain) : Core :=
  let vs := vecTiles (drainVecs d)
  let k := if vs.any fun t => k.ts.anyBad t.addr t.len then { k with accPoison := k.accPoison ||| BitVec.ofNat 4 (2 ^ acc) } else k
  { k.drainTo d k.rowMask k.colMask k.ts (k.accPoison.getLsbD acc || tilesBad k.ts vs) ia (i + 40) none (k.accOut acc) with
    drainFree := i + 32, accDrained := ins k.accDrained acc (i + 32) }

/-- The result element of TEW (R37). -/
def tewElem (op : TewOp) (neg : Bool) (v x y : Num) : Num :=
  let y := if neg then y.negate else y
  match op with
  | .mul => fmul32 x y
  | .add => fadd32 x y
  | .mulb => fmul32 x (fadd32 y v)

/-- TEW at its issue cycle (R36, R37). Row r comes from cell (r, r) alone, so it is left out where that cell is masked, and the
drain leaves out the masked columns of every row (R33; DESIGN CHOICE, log 75). -/
def Core.tew (k : Core) (ia i : Nat) (op : TewOp) (srcX srcY vec : Nat) (neg : Bool) (d : Drain) (poison : Bool) : Core :=
  let m := k.ts
  let xs (r : Nat) := rowValues k.fmtA m (sliceTiles srcX 0 0 0) r
  let ys (r : Nat) := rowValues k.fmtB m (sliceTiles srcY 0 0 0) r
  let v (r : Nat) := if op = .mulb then fp32.decode (leNat (m.read (vec + 4 * r) 4)) else .zero
  let prevEnd := k.edgeFree - (if k.schedCheck then 1 else 0)
  let k' := k.drainTo d (k.rowMask &&& k.colMask) k.colMask m poison ia (i + 134) none
    fun r j => tewElem op neg (v r) ((xs r).getD j .zero) ((ys r).getD j .zero)
  { k' with
    edgeFree := i + 32 + (if k.schedCheck then 1 else 0)
    slotFree := prevEnd
    drainFree := i + 126 }

/-- What an array instruction asks of the core: the slices that its edges collect first and second, the vector tiles, every tile
it reads, the regions it writes, and the earliest cycle that the conditions of R26 on edges, drain and accumulator allow. -/
structure ArrayAsk where
  first : List TileRead × List TileRead
  second : Option (List TileRead × List TileRead)
  vecs : List Nat
  reads : List TileRead
  writes : BitVec 64
  from_ : Nat

/-- Whether an instruction uses the edges. -/
def ArrayAsk.edges (a : ArrayAsk) : Bool := !a.first.1.isEmpty

/-- The cycle at which the collection of an instruction's first slice begins (R72): a slot is free, the waits of R83 are over. -/
def ArrayAsk.begin (a : ArrayAsk) (k : Core) : Nat :=
  max (if a.edges then max k.cyc k.slotFree else k.cyc) (k.readEnd a.writes)

/-- The issue cycle (R26): the earliest one at which every condition holds. -/
def ArrayAsk.issueAt (a : ArrayAsk) (k : Core) : Nat :=
  let c := a.begin k
  collectedAt k.outs c (max c a.from_)
    (collectPlan a.first.1 a.first.2 (latchHit k.latchA c (tileAddrs a.first.1)) (latchHit k.latchB c (tileAddrs a.first.2)) a.vecs)

/-- The collection of the first slice, and of the second one, which begins behind the first as soon as the previous instruction's
last slice has left its slot (R72). -/
def ArrayAsk.gather (a : ArrayAsk) (k : Core) (t : Nat) : Core :=
  let x := k.collectSlice (a.begin k) t a.first.1 a.first.2 a.vecs
  let k1 := if a.edges then x.1.deliver t a.first.1 a.first.2 else x.1
  match a.second with
  | some q => (k1.collectSlice (max x.2 (k.edgeFree - (if k.schedCheck then 1 else 0))) (t + 32) q.1 q.2 []).1
  | none => k1

/-- The common course of TPROD, TEW and TDRAIN (R26, R83, R85): it holds while a move is in the way; else it issues at the
earliest cycle that R26 allows, unless schedule-check mode faults an early read; then the core is what `act` makes of it, and
what is read at issue is checked by the banks. -/
def State.arrayIssue (s : State) (w : At) (i : Instr) (c : Cn) (ask : Core → ArrayAsk) (now : List TileRead) (act : Core → Nat → Core) : State :=
  let s := s.coreTo w.cl c (s.core w.cl c).cyc
  let k := s.core w.cl c
  let a := ask k
  if !k.arrayMay (readRegions a.reads) a.writes then s.holdFor w i .scoreboard
  else
    let t := a.issueAt k
    match (if k.schedCheck then earlyRead (k.settle t).1 t a.reads else none) with
    | some (rg, pt, o) => (s.coreTo w.cl c t).coreFault w.cl c 2 w.ia [rg, pt, o.ia, o.vis] 0
    | none =>
      let s := (s.setCore w.cl c (a.gather k t)).coreTo w.cl c t
      let k := s.core w.cl c
      let k' := (act k t).markReads t a.reads
      let s := (s.setCore w.cl c { k' with ts := tilesFix k'.ts now }).reportFound w.cl c (tilesMeet k.ts now)
      (s.coreTo w.cl c t).next1 w

/-- TPROD (R25). -/
def State.doTprod (s : State) (w : At) (i : Instr) (acc srcA srcB sclA sclB n : Nat) (add tb : Bool) (drn : Option Drain) : State :=
  match w.who with
  | .steward => s
  | .core c =>
    let vecs := match drn with
      | some d => drainVecs d
      | none => []
    s.arrayIssue w i c
      (fun k =>
        let sl := k.slicesOf 0 acc srcA srcB sclA sclB n add tb none
        { first := match sl with
            | p :: _ => (p.left, p.top)
            | [] => ([], [])
          second := match sl with
            | _ :: q :: _ => some (q.left, q.top)
            | _ => none
          vecs := vecs
          reads := (sl.flatMap fun p => p.left ++ p.top) ++ vecTiles vecs
          writes := match drn with
            | some d => drainRegions d
            | none => 0
          from_ := max k.edgeFree (max (look 0 k.accDrained acc) (if drn.isSome then k.drainFree - (32 * n + 62) else 0)) })
      (vecTiles vecs)
      (fun k t => k.tprod w.ia t acc srcA srcB sclA sclB n add tb drn)

/-- TPROD's operands in range (R25). -/
def tprodOks (k : Core) (acc srcA srcB sclA sclB n : Nat) (drn : Option Drain) : List Bool :=
  [decide (acc < 4), tsOk srcA (2048 * n) 2048, tsOk srcB (2048 * n) 2048,
   elBlocks k.fmtA = 0 || tsOk sclA (32 * n * elBlocks k.fmtA) 32, elBlocks k.fmtB = 0 || tsOk sclB (32 * n * elBlocks k.fmtB) 32,
   decide (1 ≤ n) && decide (n ≤ 32), true, true, (match drn with
    | some d => drainOk d
    | none => true)]

/-- The core of an issue, for reading its configuration. -/
def State.whoCore (s : State) (w : At) : Core :=
  match w.who with
  | .core c => s.core w.cl c
  | .steward => Core.init

/-- TEW's operands in range (R36, R37, R77). -/
def tewOks (k : Core) (op : TewOp) (srcX srcY vec : Nat) (d : Drain) : List Bool :=
  [decide (k.fmtA = k.fmtB) && (decide (k.fmtA = .bf16) || decide (k.fmtA = .fp16)), tsOk srcX 2048 2048, tsOk srcY 2048 2048,
   decide (op ≠ .mulb) || tsOk vec 128 128, true, drainOk d]

/-- TEW (R36, R37). -/
def State.doTew (s : State) (w : At) (i : Instr) (op : TewOp) (srcX srcY vec : Nat) (neg : Bool) (d : Drain) : State :=
  match w.who with
  | .steward => s
  | .core c =>
    let vecs := drainVecs d ++ (if op = .mulb then [vec] else [])
    let reads := sliceTiles srcX 0 0 0 ++ sliceTiles srcY 0 0 0 ++ vecTiles vecs
    s.arrayIssue w i c
      (fun k =>
        { first := (sliceTiles srcX 0 0 0, sliceTiles srcY 0 0 0), second := none, vecs := vecs, reads := reads, writes := drainRegions d
          from_ := max k.edgeFree (k.drainFree - 94) })
      reads
      (fun k t => k.tew w.ia t op srcX srcY vec neg d (tilesBad k.ts reads))

/-- TDRAIN (R25). -/
def State.doTdrain (s : State) (w : At) (i : Instr) (acc : Nat) (d : Drain) : State :=
  match w.who with
  | .steward => s
  | .core c =>
    s.arrayIssue w i c
      (fun k =>
        { first := ([], []), second := none, vecs := drainVecs d, reads := vecTiles (drainVecs d), writes := drainRegions d
          from_ := max k.drainFree (look 0 k.accDone acc) })
      (vecTiles (drainVecs d))
      (fun k t => k.tdrain w.ia t acc d)

/-- Cycle from which the core's scoreboard holds no array entry. -/
def Core.arrayClear (k : Core) : Nat :=
  k.areads.foldl (fun t r => max t r.point) (k.outs.foldl (fun t o => max t o.vis) 0)

/-- Waits until the scoreboard is clear of every entry (R83): moves are waited for, array entries pass with time. -/
def State.whenClear (s : State) (w : At) (i : Instr) (f : Core → Core) : State :=
  match w.who with
  | .steward => s
  | .core c =>
    let k := s.core w.cl c
    if !k.movesClear then s.holdFor w i .scoreboard
    else
      let s := s.coreTo w.cl c k.arrayClear
      (s.setCore w.cl c (f (s.core w.cl c))).next1 w

/-- CONFIG (R77). -/
def execConfig (w : At) (fmtA fmtB : Fmt) (s : State) : Out :=
  .next (s.issue w (.config w fmtA fmtB) .core [true, pairOk fmtA fmtB] fun s =>
    s.whenClear w (.config w fmtA fmtB) fun k => { k with fmtA := fmtA, fmtB := fmtB })

/-- SETMASK (R32). -/
def execSetmask (w : At) (row col : W32) (s : State) : Out :=
  .next (s.issue w (.setmask w row col) .core [] fun s =>
    match w.who with
    | .core c => (s.setCore w.cl c { s.core w.cl c with rowMask := row, colMask := col }).next1 w
    | .steward => s)

/-- SRSEED (R59): after every earlier drain has finished its write-back. -/
def execSrseed (w : At) (sa : Nat) (s : State) : Out :=
  .next (s.issue w (.srseed w sa) .core [regOk sa] fun s =>
    match w.who with
    | .core c =>
      let s := s.coreTo w.cl c (s.core w.cl c).wbDone
      let k := s.core w.cl c
      (s.setCore w.cl c { k with seed := k.reg sa, srCount := 0 }).next1 w
    | .steward => s)

/-- TPROD. -/
def execTprod (w : At) (acc srcA srcB sclA sclB n : Nat) (ad tb : Bool) (drn : Option Drain) (s : State) : Out :=
  .next (s.issue w (.tprod w acc srcA srcB sclA sclB n ad tb drn) .core (tprodOks (s.whoCore w) acc srcA srcB sclA sclB n drn) fun s =>
    s.doTprod w (.tprod w acc srcA srcB sclA sclB n ad tb drn) acc srcA srcB sclA sclB n ad tb drn)

/-- TDRAIN. -/
def execTdrain (w : At) (acc : Nat) (drn : Drain) (s : State) : Out :=
  .next (s.issue w (.tdrain w acc drn) .core [decide (acc < 4), drainOk drn] fun s => s.doTdrain w (.tdrain w acc drn) acc drn)

/-- TEW. -/
def execTew (w : At) (op : TewOp) (srcX srcY vec : Nat) (neg : Bool) (drn : Drain) (s : State) : Out :=
  .next (s.issue w (.tew w op srcX srcY vec neg drn) .core (tewOks (s.whoCore w) op srcX srcY vec drn) fun s =>
    s.doTew w (.tew w op srcX srcY vec neg drn) op srcX srcY vec neg drn)

/-- ARRAY_OUTPUT_VISIBLE (R29): the core runs on to the earliest L, and that output becomes visible. -/
def execArrayOutputVisible (cl : Cl) (c : Cn) (s : State) : Out :=
  let k := s.core cl c
  .next (match k.outs with
    | [] => s
    | o :: t => s.coreTo cl c (t.foldl (fun m x => min m x.vis) o.vis))

end Sys2Proof.Machine
end

