-- ==== Sys2Proof/Machine/Quire.lean ====
section
/-! DEFINITION. Elements in memory with their poison, and the quire pages of R101 to R104. -/

namespace Sys2Proof.Machine

open Sys2Proof

/-- An element's bits, and whether a word that holds it is poisoned or uncorrectable (R255, R256). -/
abbrev Elem := Nat × Bool

/-- n elements of w bits from a byte address on (R50). -/
def elemsAt (m : Mem) (a w n : Nat) : List Elem :=
  let row := m.read a ((n * w + 7) / 8)
  (List.range n).map fun k =>
    let b := a + k * w / 8
    (elemBits row w k, m.anyPoison b ((w + 7) / 8) || m.anyBad b ((w + 7) / 8))

/-- Writes elements of w bits from an address on: a 16-byte word that any poisoned element enters is poisoned (R255). -/
def writeElems (m : Mem) (a w : Nat) (es : List Elem) : Mem :=
  let per := 128 / w
  (List.range (cdiv es.length per)).foldl (fun m i =>
    let part := (es.drop (per * i)).take per
    m.writeP (a + 16 * i) (packBits w (part.map (·.1))) (part.any (·.2))) m

/-! ### Quire blocks (R101 to R103) -/

/-- A BF16 element's magnitude as m · 2^e; none for NaN and infinities. -/
def bfMag (n : Nat) : Option (Nat × Int) :=
  match bf16.decode n with
  | .fin _ m e => some (m, e)
  | _ => none

/-- Whether a block is escaped (R101, step 1). -/
def quireEsc (es : List Elem) : Bool := es.any fun e => (bfMag e.1).isNone

/-- E_b of a block, none for an all-zero block. -/
def quireE (es : List Elem) : Option Int := topExp (es.map fun e => bf16.decode e.1)

/-- Etop of a page over its blocks that are not escaped (R101, step 3). -/
def quireTop (bs : List (List Elem)) : Int :=
  bs.foldl (fun t b => if quireEsc b then t else match quireE b with
    | some e => max t e
    | none => t) (-126)

/-- Es_b (R101, step 4). -/
def quireEs (top : Int) (es : List Elem) : Int :=
  let f := max (-126) (top - 15)
  match quireE es with
  | some e => max e f
  | none => f

/-- Whether a block is lifted (R101, step 5). -/
def quireLifted (top : Int) (es : List Elem) : Bool :=
  match quireE es with
  | some e => decide (quireEs top es > e)
  | none => false

/-- An element's field (R101, steps 6 and 7): sign above q magnitude bits. -/
def quireField (q : Nat) (es_ : Int) (n : Nat) : Nat :=
  match bfMag n with
  | none => 0
  | some (m, e) =>
    let k := es_ + 1 - q
    let v := if e ≥ k then m * 2 ^ (e - k).toNat else rneShift m (k - e).toNat
    let v := min (2 ^ q - 1) v
    if v = 0 then 0 else (if n / 32768 % 2 = 1 then 2 ^ q else 0) + v

/-- The value of a field (R102), as BF16 bits. DESIGN CHOICE (log 90): a header whose BASE or OFF puts Es outside the range
that packing gives is decoded by the same formula, and its value rounds to BF16; the spec gives no such page. -/
def quireValue (q : Nat) (es_ : Int) (f : Nat) : Nat :=
  let m := f % 2 ^ q
  if m = 0 then 0 else bf16.encode (bf16.round (.fin (f / 2 ^ q % 2 = 1) m (es_ + 1 - q)))

/-- Bytes of a block and of a page (R103). -/
def quireBlock (q : Nat) : Nat := 4 * (q + 1)
/-- Page bytes: 400 for Quire-6, 272 for Quire-4. -/
def quirePage (q : Nat) : Nat := 16 + 16 * quireBlock q

/-- The header word of a page (R103). -/
def quireHeader (top : Int) (bs : List (List Elem)) (page scl : Nat) : Nat :=
  let esc := bs.map quireEsc
  let off := (List.range 16).foldl (fun a b =>
    let blk := bs.getD b []
    a + (if quireEsc blk then 0 else (top - quireEs top blk).toNat) * 16 ^ b) 0
  let escm := (List.range 16).foldl (fun a b => a + if esc.getD b false then 2 ^ b else 0) 0
  let lift := (bs.filter fun b => !quireEsc b && quireLifted top b).length
  pack [(8, (top + 127).toNat), (64, off), (16, escm), (5, (esc.filter (· = true)).length), (5, lift),
    (30, (((scl / 2048 : Nat) : Int) - ((page / 2048 : Nat) : Int)).emod (2 ^ 30) |>.toNat)]

/-- Packs 16 tile rows into page p of a tile at an address (R101 to R104): the page and its raw blocks laid into a store
of device addresses, and the memory segments written. -/
def quirePack (m : Mem) (q : Nat) (bs : List (List Elem)) (p page scl : Nat) : Mem × List (Nat × Nat) :=
  let top := quireTop bs
  let fields (b : Nat) : List Elem :=
    let blk := bs.getD b []
    if quireEsc blk then List.replicate 32 (0, false) else blk.map fun e => (quireField q (quireEs top blk) e.1, e.2)
  let all := (List.range 16).flatMap fields
  let n := all.foldr (fun e a => e.1 + 2 ^ (q + 1) * a) 0
  let body := leBytes (16 * quireBlock q) n
  let m := m.writeP page (leBytes 16 (quireHeader top bs page scl)) (bs.any fun b => b.any (·.2))
  let m := (List.range (quireBlock q)).foldl (fun m w =>
    let lo := 128 * w / (q + 1)
    let hi := (128 * w + 127) / (q + 1)
    m.writeP (page + 16 + 16 * w) ((body.drop (16 * w)).take 16) (((all.drop lo).take (hi + 1 - lo)).any (·.2))) m
  (List.range 16).foldl (fun r b =>
    if quireEsc (bs.getD b []) then
      let a := scl + 64 * (16 * p + b)
      (writeElems r.1 a 16 (bs.getD b []), r.2 ++ [(a, 64)])
    else r) (m, [(page, quirePage q)])

/-- The overflow area that a page's header names (R103). DESIGN CHOICE (log 90): an OVF that takes the area below address 0
gives address 0; the spec names no result there. -/
def quireArea (m : Mem) (page : Nat) : Nat :=
  let ovf := (BitVec.ofNat 30 (leNat (m.read page 16) % 2 ^ 30)).toInt
  (((page / 2048 : Nat) : Int) + ovf).toNat * 2048

/-- The raw blocks that page p of a tile names (R104): (address, bytes). -/
def quireRaw (m : Mem) (p page : Nat) : List (Nat × Nat) :=
  let h := leNat (m.read page 16)
  (List.range 16).filterMap fun b => if bits (40 + b) (40 + b) h = 1 then some (quireArea m page + 64 * (16 * p + b), 64) else none

/-- Row b of a page, unpacked (R102, R104, R256). -/
def quireRow (m : Mem) (q p page b : Nat) : List Elem :=
  let h := leNat (m.read page 16)
  let hp := m.anyPoison page 16 || m.anyBad page 16
  let ba := page + 16 + quireBlock q * b
  let bp := m.anyPoison ba (quireBlock q) || m.anyBad ba (quireBlock q)
  if bits (40 + b) (40 + b) h = 1 then
    (elemsAt m (quireArea m page + 64 * (16 * p + b)) 16 32).map fun e => (e.1, e.2 || hp || bp)
  else
    let es_ : Int := (bits 127 120 h : Nat) - 127 - (bits (59 + 4 * b) (56 + 4 * b) h : Nat)
    let n := leNat (m.read ba (quireBlock q))
    (List.range 32).map fun k => (quireValue q es_ (n / 2 ^ ((q + 1) * k) % 2 ^ (q + 1)), hp || bp)

end Sys2Proof.Machine
end

