-- ==== Sys2Proof/Machine/Moves.lean ====
section
/-! DEFINITION. Tile moves (R78 to R88): TLOAD, TSTORE and what happens to a move in flight. -/

namespace Sys2Proof.Machine

open Sys2Proof

/-! ### Shapes and conversions (R76, R79, R80) -/

/-- Bytes of a tile of a shape, which are also its alignment (R76). -/
def shapeBytes : Shape → Nat
  | .oper => 2048
  | .acc => 4096
  | .vec => 128
  | .scale => 32
/-- Rows of a tile of a shape. -/
def shapeRows : Shape → Nat
  | .oper | .acc => 32
  | .vec | .scale => 1
/-- Bytes of a row of a tile of a shape. -/
def shapeRow (sh : Shape) : Nat := shapeBytes sh / shapeRows sh

/-- q of a quire conversion (R101): 5 or 3 magnitude bits. -/
def cvtQuire : Cvt → Option Nat
  | .q6 => some 5
  | .q4 => some 3
  | _ => none
/-- The element format of an MX conversion. -/
def cvtMx : Cvt → Option Fmt
  | .mx8bf16 => some .mxfp8
  | .mx6bf16 => some .mxfp6
  | .mx4bf16 => some .mxfp4
  | _ => none

/-- Bits of an element in memory and in the tile (R79); for NONE they are the element width of R80, or bytes. -/
def cvtWidths (load : Bool) (m : MoveArgs) : Nat × Nat :=
  let swap (a b : Nat) : Nat × Nat := if load then (a, b) else (b, a)
  match m.cvt with
  | .none => if m.tr then (m.ew, m.ew) else (8, 8)
  | .f32bf16 | .f32bf16lo => swap 32 16
  | .f32e4m3 | .f32e5m2 => swap 32 8
  | .bf16e4m3 | .bf16e5m2 => swap 16 8
  | .e4m3bf16 | .e5m2bf16 => swap 8 16
  | .mx8bf16 | .mx6bf16 => (8, 16)
  | .mx4bf16 => (4, 16)
  | .q6 | .q4 => (16, 16)

/-- Whether the table of R79 offers a conversion for a direction and shape. -/
def cvtOffered (load : Bool) (m : MoveArgs) : Bool :=
  match m.cvt with
  | .none => true
  | .f32bf16 | .f32bf16lo | .f32e4m3 | .f32e5m2 => decide (m.shape = if load then .oper else .acc)
  | .bf16e4m3 | .bf16e5m2 | .e4m3bf16 | .e5m2bf16 | .q6 | .q4 => decide (m.shape = .oper)
  | .mx8bf16 | .mx6bf16 | .mx4bf16 => load && decide (m.shape = .oper)

/-- Whether TR is allowed (R79). -/
def trOffered (m : MoveArgs) : Bool :=
  match m.cvt with
  | .none => decide (m.shape = .oper) || decide (m.shape = .acc)
  | .mx8bf16 | .mx6bf16 | .mx4bf16 | .q6 | .q4 => false
  | _ => true

/-- The bits of one converted element (R61, R66). The low part of a zero keeps its sign (R62); the difference of equal nonzero values is
+0 (DEDUCED, log 77). -/
def cvtElem (c : Cvt) (x : Nat) : Nat :=
  match c with
  | .f32bf16 => bf16.encode (bf16.round (fp32.decode x))
  | .f32bf16lo =>
    let v := fp32.decode x
    let h := bf16.round v
    match v, h with
    | .nan, _ => bf16.encode .nan
    | _, .inf _ => 0
    | _, _ => if v.isZero then bf16.encode v else bf16.encode (bf16.round (v.addExact h.negate))
  | .f32e4m3 => e4m3.encode (e4m3.round (fp32.decode x))
  | .f32e5m2 => e5m2.encode (e5m2.round (fp32.decode x))
  | .bf16e4m3 => e4m3.encode (e4m3.round (bf16.decode x))
  | .bf16e5m2 => e5m2.encode (e5m2.round (bf16.decode x))
  | .e4m3bf16 => bf16.encode (bf16.round (e4m3.decode x))
  | .e5m2bf16 => bf16.encode (bf16.round (e5m2.decode x))
  | _ => x

/-! ### The memory side (R78, R80, R104) -/

/-- Elements of a row of the tile (R79). -/
def tileElems (load : Bool) (m : MoveArgs) : Nat := shapeRow m.shape * 8 / (cvtWidths load m).2

/-- Number of memory rows and bytes of each (R78 to R80). -/
def memRows (load : Bool) (m : MoveArgs) : Nat × Nat :=
  match cvtQuire m.cvt with
  | some q => (2, quirePage q)
  | none =>
    if m.tr then (tileElems load m, 4 * (cvtWidths load m).1)
    else (shapeRows m.shape, tileElems load m * (cvtWidths load m).1 / 8)

/-- Device address of memory row r; addresses wrap at 48 bits (log 22). -/
def rowAddr (addr : Nat) (stride : Int) (r : Nat) : Nat := ((addr : Int) + stride * (r : Int)).emod (2 ^ 48) |>.toNat

/-- The memory segments that a move names at its issue, in request order: the scale tile first, then the rows. -/
def moveSegs (load : Bool) (m : MoveArgs) (addr : Nat) (stride : Int) (scl : Nat) : List (Nat × Nat) :=
  (if load ∧ (cvtMx m.cvt).isSome then [(scl, 32)] else []) ++
    (List.range (memRows load m).1).map fun r => (rowAddr addr stride r, (memRows load m).2)

/-- Drops repeats of one line in a row: a move requests a line once for neighbouring bytes. -/
def squeeze : List Nat → List Nat
  | a :: b :: t => if a = b then squeeze (b :: t) else a :: squeeze (b :: t)
  | l => l

/-- The lines of segments in request order. -/
def segLines (ss : List (Nat × Nat)) : List Nat := squeeze (ss.flatMap fun e => linesAt e.1 e.2)

/-- The bytes of a line that segments cover. -/
def segMask (ss : List (Nat × Nat)) (l : Nat) : BitVec 128 :=
  ss.foldl (fun m e =>
    let lo := max e.1 (128 * l)
    let hi := min (e.1 + e.2) (128 * l + 128)
    if lo < hi then m ||| maskOf (lo - 128 * l) (hi - lo) else m) 0

/-! ### Operands (R78, R79, R104) -/

/-- Which operands of a tile move are in range, in the order of R89. -/
def State.moveOks (s : State) (w : At) (load : Bool) (m : MoveArgs) : List Bool :=
  [tsOk m.region (shapeBytes m.shape) (shapeBytes m.shape), true,
   regOk m.addr && (s.reg w m.addr).toNat % 16 = 0,
   regOk m.stride && (s.reg w m.stride).toNat % 16 = 0 && (match cvtQuire m.cvt with
     | some q => decide ((quirePage q : Int) ≤ (s.reg w m.stride).toInt)
     | none => true),
   cvtOffered load m, !m.tr || trOffered m,
   !(m.tr && decide (m.cvt = .none)) || [32, 16, 8, 4].contains m.ew,
   regOk m.scl && (if load ∧ (cvtMx m.cvt).isSome then (s.reg w m.scl).toNat % 32 = 0
     else if !load ∧ (cvtQuire m.cvt).isSome then (s.reg w m.scl).toNat % 2048 = 0 else true),
   true]

/-- A move as it stands at its issue (R78): bits [59:48] of ADDR's register are the tag (R215). -/
def State.newMove (s : State) (w : At) (load : Bool) (m : MoveArgs) (serial : Nat) : Move :=
  let v := (s.reg w m.addr).toNat
  let addr := v % 2 ^ 48
  let scl := (s.reg w m.scl).toNat % 2 ^ 48
  let stride := (s.reg w m.stride).toInt
  let ss := moveSegs load m addr stride scl
  { kind := if load then .load else .store, serial := serial, ia := w.ia, args := m, addr := addr, stride := stride, scl := scl
    tag := bits 59 48 v, regions := regionMask m.region (shapeBytes m.shape), ring := 0, segs := ss, lines := segLines ss, got := []
    rows := 0, buf := Mem.empty, retries := 0, stallSince := none, stalled := none, tripped := false }

/-! ### Loads -/

/-- Elements of tile row r of a load, from the bytes gathered (R79, R80, R102). -/
def Move.loadRow (v : Move) (r : Nat) : List Elem :=
  let m := v.args
  let wd := cvtWidths true m
  match cvtQuire m.cvt with
  | some q => quireRow v.buf q (r / 16) (rowAddr v.addr v.stride (r / 16)) (r % 16)
  | none =>
    if m.tr then
      (List.range (tileElems true m)).map fun k =>
        let es := elemsAt v.buf (rowAddr v.addr v.stride k) wd.1 32
        let e := es.getD r (0, false)
        (cvtElem m.cvt e.1, e.2)
    else
      let es := elemsAt v.buf (rowAddr v.addr v.stride r) wd.1 (tileElems true m)
      match cvtMx m.cvt with
      | some f =>
        let sc := (v.buf.byte (v.scl + r)).toNat
        let sp := v.buf.anyPoison (v.scl + r) 1 || v.buf.anyBad (v.scl + r) 1
        es.map fun e => (bf16.encode (bf16.round (scaled (elValue f e.1) sc)), e.2 || sp)
      | none => es.map fun e => (cvtElem m.cvt e.1, e.2)

/-- The segments that tile row r of a load needs before it is written (R80). -/
def Move.needs (v : Move) (r : Nat) : List (Nat × Nat) :=
  let m := v.args
  match cvtQuire m.cvt with
  | some q =>
    let page := rowAddr v.addr v.stride (r / 16)
    let raw := quireRaw v.buf (r / 16) page
    [(page, 16), (page + 16 + quireBlock q * (r % 16), quireBlock q)] ++
      raw.filter fun e => e.1 = quireArea v.buf page + 64 * (16 * (r / 16) + r % 16)
  | none =>
    if m.tr then v.segs
    else (if (cvtMx m.cvt).isSome then [(v.scl, 32)] else []) ++ [(rowAddr v.addr v.stride r, (memRows true m).2)]

/-- Whether every line of segments has been answered. -/
def Move.have_ (v : Move) (ss : List (Nat × Nat)) : Bool :=
  let mine := v.got.map fun i => v.lines.getD i 0
  ss.all fun e => (linesAt e.1 e.2).all fun l => mine.contains l

/-- Whether every line has been answered. -/
def Move.allGot (v : Move) : Bool := decide (v.got.length = v.lines.length)

/-- A quire load whose page header has arrived asks for the raw blocks it names (R104). -/
def Move.askRaw (v : Move) : Move :=
  match cvtQuire v.args.cvt with
  | some _ =>
    let more := (List.range 2).flatMap fun p =>
      let page := rowAddr v.addr v.stride p
      if v.have_ [(page, 16)] then (quireRaw v.buf p page).filter fun e => !v.segs.contains e else []
    { v with segs := v.segs ++ more, lines := v.lines ++ segLines more }
  | none => v

/-- Writes elements of w bits into the tile store for a move of serial n, emptying latches that hold the words (R75, R255); the write
takes its turns at the banks (R71). -/
def Core.tsElems (k : Core) (n a w : Nat) (es : List Elem) : Core :=
  let ws := wordsOf a ((es.length * w + 7) / 8)
  let k := k.askBanks false n ws
  { k with ts := writeElems k.ts a w es, latchA := latchDrop k.latchA (k.cyc + 1) ws, latchB := latchDrop k.latchB (k.cyc + 1) ws }

/-- Writes every tile row whose memory lines have arrived and that is not written yet; with TR, all rows once every
memory row has arrived (R80). -/
def Core.writeRows (k : Core) (v : Move) : Core × Move :=
  (List.range (shapeRows v.args.shape)).foldl (fun (a : Core × Move) r =>
    if !a.2.rows.getLsbD r && a.2.have_ (a.2.needs r) then
      (a.1.tsElems v.serial (v.args.region + shapeRow v.args.shape * r) (cvtWidths true v.args).2 (a.2.loadRow r),
        { a.2 with rows := a.2.rows ||| BitVec.ofNat 32 (2 ^ r) })
    else a) (k, v)

/-! ### Stores -/

/-- What a TSTORE writes, from the tile store as it stood at its issue (R79, R80, R83, R101): bytes by device address,
and the segments written. -/
def storeImage (ts : Mem) (m : MoveArgs) (addr : Nat) (stride : Int) (scl : Nat) : Mem × List (Nat × Nat) :=
  let wd := cvtWidths false m
  let n := tileElems false m
  let row (r : Nat) : List Elem := elemsAt ts (m.region + shapeRow m.shape * r) wd.2 n
  match cvtQuire m.cvt with
  | some q =>
    (List.range 2).foldl (fun (a : Mem × List (Nat × Nat)) p =>
      let x := quirePack a.1 q ((List.range 16).map fun b => row (16 * p + b)) p (rowAddr addr stride p) scl
      (x.1, a.2 ++ x.2)) (Mem.empty, [])
  | none =>
    let cells (r : Nat) : List Elem :=
      if m.tr then (List.range 32).map fun i => (row i).getD r (0, false) else row r
    ((List.range (memRows false m).1).foldl (fun b r =>
        writeElems b (rowAddr addr stride r) wd.1 ((cells r).map fun e => (cvtElem m.cvt e.1, e.2))) Mem.empty,
      moveSegs false m addr stride scl)

/-! ### Issue (R81, R83) -/

/-- Puts a move in a slot. -/
def Core.addMove (k : Core) (slot : Nat) (v : Move) : Core :=
  { k with moves := ins k.moves slot v, moveSerial := k.moveSerial + 1 }

/-- TLOAD: waits for a free slot and for R83, then asks for its lines. -/
def State.doTload (s : State) (w : At) (i : Instr) (m : MoveArgs) : State :=
  match w.who with
  | .steward => s
  | .core c =>
    let k := s.core w.cl c
    let v := s.newMove w true m k.moveSerial
    match k.freeSlot with
    | none => s.holdFor w i .moveSlot
    | some slot =>
      if !k.intoMay v.regions then s.holdFor w i .scoreboard
      else
        let s := s.coreTo w.cl c (max (k.readEnd v.regions) (max (k.outsClear v.regions) (k.readsClear v.regions)))
        (s.setCore w.cl c ((s.core w.cl c).addMove slot v)).next1 w

/-- TSTORE: waits for a free slot and for R83, then stores the tile as it stands at its issue. -/
def State.doTstore (s : State) (w : At) (i : Instr) (m : MoveArgs) : State :=
  match w.who with
  | .steward => s
  | .core c =>
    let k := s.core w.cl c
    let v := s.newMove w false m k.moveSerial
    let n := shapeBytes m.shape
    match k.freeSlot with
    | none => s.holdFor w i .moveSlot
    | some slot =>
      if !k.fromMay v.regions then s.holdFor w i .scoreboard
      else
        let s := s.coreTo w.cl c (k.outsClear v.regions)
        let k := s.core w.cl c
        let s := s.reportFound w.cl c (tilesMeet k.ts [⟨m.region, n, 0⟩])
        let ts := tilesFix k.ts [⟨m.region, n, 0⟩]
        let img := storeImage ts m v.addr v.stride v.scl
        let k := { k with ts := ts }.askBanks true v.serial (wordsOf m.region n)
        (s.setCore w.cl c (k.addMove slot { v with buf := img.1, segs := img.2, lines := segLines img.2 })).next1 w

/-- TLOAD. -/
def execTload (w : At) (m : MoveArgs) (s : State) : Out :=
  .next (s.issue w (.tload w m) .core (s.moveOks w true m) fun s => s.doTload w (.tload w m) m)
/-- TSTORE. -/
def execTstore (w : At) (m : MoveArgs) (s : State) : Out :=
  .next (s.issue w (.tstore w m) .core (s.moveOks w false m) fun s => s.doTstore w (.tstore w m) m)

/-! ### Moves in flight -/

/-- The tile move in a slot, if the core runs one there. -/
def State.tileMove (s : State) (cl : Cl) (c : Cn) (slot : Nat) : Option Move :=
  match find (s.core cl c).moves slot with
  | some v => if v.kind = .load ∨ v.kind = .store then some v else none
  | none => none

/-- Replaces the move in a slot. -/
def State.setMove (s : State) (cl : Cl) (c : Cn) (slot : Nat) (v : Move) : State :=
  s.setCore cl c { s.core cl c with moves := ins (s.core cl c).moves slot v }

/-- Rows completed, for the move-fault record (R69). -/
def Move.rowsDone (v : Move) : Nat :=
  if v.kind = .load then ((List.range 32).filter fun r => v.rows.getLsbD r).length
  else
    let n := (memRows false v.args).2
    (v.segs.filter fun e => e.2 = n && v.have_ [e]).length

/-- A move fault (R69, R87): the task aborts. -/
def State.moveFault (s : State) (cl : Cl) (c : Cn) (v : Move) (addr status : Nat) : State :=
  s.coreFault cl c 3 v.ia [v.rowsDone, addr, status] status

/-- A bus refusal met by a move: reported (R201, R267), then a move fault. -/
def State.moveRefused (s : State) (cl : Cl) (c : Cn) (v : Move) (addr status : Nat) : State :=
  (s.refusal (unitName cl c.val) (s.clPart cl) addr status).moveFault cl c v addr status

/-- A move meets an interruption (R86, R87): it starts again from row 0, or faults at the fourth time. The failing line is the first
that has not been answered. -/
def State.interruptMove (s : State) (cl : Cl) (c : Cn) (slot : Nat) (v : Move) : State :=
  if v.retries ≥ 3 then
    let first := (List.range v.lines.length).find? fun i => !v.got.contains i
    s.moveFault cl c v (128 * v.lines.getD (first.getD 0) 0) 7
  else if v.kind = .load then
    let ss := moveSegs true v.args v.addr v.stride v.scl
    let k := s.core cl c
    (s.setCore cl c { k with incomplete := k.incomplete ||| v.regions }).setMove cl c slot
      { v with segs := ss, lines := segLines ss, got := [], rows := 0, buf := Mem.empty, retries := v.retries + 1 }
  else s.setMove cl c slot { v with got := [], retries := v.retries + 1, stallSince := none, stalled := none, tripped := false }

/-- Line i of a load returns; a miss is one of its move slot (R220), and a line that a scrubber holds interrupts the move (R86). -/
def State.loadLine (s : State) (cl : Cl) (c : Cn) (slot i : Nat) (v : Move) : State :=
  let l := v.lines.getD i 0
  let r := s.reqStatus cl (128 * l) false
  if r.2 ≠ 0 then r.1.moveRefused cl c v (128 * l) r.2
  else if r.1.lineBusy cl l then s
  else
    let hit := r.1.readHits cl (s.slotOf cl c) (128 * l) 128
    let x := r.1.clRead cl (s.slotOf cl c) (128 * l) 128 v.args.hint v.tag 2
    if x.2.2 = retryStatus then r.1.interruptMove cl c slot v
    else if x.2.2 = 1 then x.1.moveFault cl c v (128 * l) 1
    else if x.2.2 ≠ 0 then x.1.moveRefused cl c v (128 * l) x.2.2
    else
      let s := if hit then x.1 else x.1.detect cl (.core c (Fin.ofNat 4 slot)) l v.tag (s.core cl c).cyc
      let v := { v with buf := copyLine v.buf x.2.1 l, got := v.got ++ [i] }
      let kv := (s.core cl c).writeRows v.askRaw
      (s.setCore cl c kv.1).setMove cl c slot kv.2

/-- Line i of a store is taken by the cluster cache, or by the slot's shadow. A write that would break a limit of R132 stalls the
move, and no other line of it is taken until a commit or discard frees room. -/
def State.storeLine (s : State) (cl : Cl) (c : Cn) (slot i : Nat) (v : Move) : State :=
  let l := v.lines.getD i 0
  let mask := segMask v.segs l
  let r := s.reqStatus cl (128 * l) true
  let done (s : State) : State := s.setMove cl c slot { v with got := v.got ++ [i], stallSince := none, stalled := none, tripped := false }
  if r.2 ≠ 0 then r.1.moveRefused cl c v (128 * l) r.2
  else if r.1.lineBusy cl l ∨ (v.stalled.isSome ∧ v.stalled ≠ some i) then s
  else match s.slotOf cl c with
    | none => done (r.1.clWrite cl v.buf l mask v.args.hint v.tag)
    | some k =>
      let cv := r.1.clu cl
      match cv.shadowLimit k l with
      | none =>
        let x := r.1.shadowWrite cl k v.buf l mask v.args.hint v.tag
        if x.2 = 0 then done x.1
        else if x.2 = retryStatus then x.1.interruptMove cl c slot v
        else x.1.moveRefused cl c v (128 * l) x.2
      | some lim =>
        if v.stallSince.isSome then r.1
        else
          let x := cv.slot k
          (r.1.setMove cl c slot { v with stallSince := some s.now, stalled := some i }).pushEv x.home
            (evRecord 0x03 (tTaskId x.desc) (unitName cl c.val) [k, x.written.length, lim])

/-- MOVE_LINE_RESPONSE (R80, R81, R253): the line at a place in the move's request order. -/
def execMoveLineResponse (cl : Cl) (c : Cn) (slot line : Nat) (s : State) : Out :=
  .next (match s.tileMove cl c slot with
    | none => s
    | some v =>
      if line < v.lines.length ∧ !v.got.contains line then
        (if v.kind = .load then s.loadLine cl c slot line v else s.storeLine cl c slot line v)
      else s)

/-- MOVE_INTERRUPTED (R86, R87): a line response comes back with retry status. -/
def execMoveInterrupted (cl : Cl) (c : Cn) (slot : Nat) (s : State) : Out :=
  .next (match s.tileMove cl c slot with
    | none => s
    | some v => if v.allGot then s else s.interruptMove cl c slot v)

/-- MOVE_BUS_ERROR (R87): a line meets a refusal on its way. -/
def execMoveBusError (cl : Cl) (c : Cn) (slot addr status : Nat) (s : State) : Out :=
  .next (match s.tileMove cl c slot with
    | none => s
    | some v => if v.allGot then s else s.moveRefused cl c v addr status)

/-- MOVE_COMPLETE (R81, R87): the last tile row is written, or the last write acknowledged. -/
def execMoveComplete (cl : Cl) (c : Cn) (slot : Nat) (s : State) : Out :=
  .next (match s.tileMove cl c slot with
    | none => s
    | some v =>
      if v.allGot then
        let k := s.core cl c
        s.setCore cl c { k with moves := del k.moves slot, incomplete := if v.kind = .load then k.incomplete &&& ~~~v.regions else k.incomplete }
      else s)

end Sys2Proof.Machine
end

