-- ==== Sys2Proof/Machine/Posts.lean ====
section
/-! DEFINITION. Posts onto rings (R233, R234, R236, R241). -/

namespace Sys2Proof.Machine

open Sys2Proof

/-! ### A look at memory as a cluster's reader would find it -/

/-- A byte as a reader of the cluster (with speculative slot `slot`) would find it now, with no effect. -/
def State.peekByte (s : State) (cl : Cl) (slot : Option Nat) (a : Nat) : Byte :=
  let v := s.clu cl
  let l := lineOf a
  let plain : Byte := match v.cache.line l with
    | some e => if e.mask.getLsbD (a % 128) then v.cache.mem.byte a else s.dram.mem.byte (s.phys a)
    | none => s.dram.mem.byte (s.phys a)
  match slot with
  | some k => if (find (v.slot k).written l).isSome then (v.slot k).shadow.byte a else plain
  | none => plain

/-- The 64 bytes of a descriptor at an address. -/
def State.peekDesc (s : State) (cl : Cl) (slot : Option Nat) (a : Nat) : BitVec 512 :=
  BitVec.ofNat 512 (leNat ((List.range 64).map fun i => s.peekByte cl slot (a + i)))

/-! ### Templates (R236, R241) -/

/-- Writes v into bits [hi:lo] of a descriptor. -/
def dSet (d : BitVec 512) (hi lo v : Nat) : BitVec 512 :=
  let n := d.toNat
  BitVec.ofNat 512 (n % 2 ^ lo + (v % 2 ^ (hi + 1 - lo)) * 2 ^ lo + n / 2 ^ (hi + 1) * 2 ^ (hi + 1))

/-- A descriptor as a core's RPOST with REGION writes it: TSV, TSCORE, and REGION in the side whose TS flag is set. -/
def dRegion (d : BitVec 512) (c region : Nat) : BitVec 512 :=
  let d := dSet (dSet d 498 498 1) 497 494 c
  if dSrcTs d then dSet d 365 348 region else dSet d 326 309 region

/-- Whether a template sets exactly one of SRC_TS and DST_TS. -/
def dOneSide (d : BitVec 512) : Bool := dSrcTs d != dDstTs d

/-- The span of the tile-store side. -/
def dTsSpan (d : BitVec 512) : Int × Int := if dSrcTs d then dSrcSpan d else dDstSpan d

/-- Whether a span lies in the tile store (R241). -/
def spanInTs (x : Int × Int) : Bool := decide (0 ≤ x.1) && decide (x.2 ≤ 0x3FFFF)

/-- Whether a descriptor writes device memory (R237): a speculative task may not post it (R130). -/
def dWritesMem (d : BitVec 512) : Bool :=
  (decide (dType d = 1) || decide (dType d = 4) || decide (dType d = 5) || decide (dType d = 6)) && !dDstTs d

/-! ### A core's RPOST -/

/-- What the sequencer finds at a core's RPOST: the descriptor as it would be posted, if its source can be read. -/
def State.template (s : State) (w : At) (c : Cn) (src : Nat) (region : Option Nat) : Option (BitVec 512) :=
  if (s.reqStatus w.cl src false).2 ≠ 0 then none
  else
    let d := s.peekDesc w.cl (s.slotOf w.cl c) src
    some (match region with
      | some r => if dOneSide d then dRegion d c.val r else d
      | none => d)

/-- Which operands of a core's RPOST are in range (R233, R241, R130). -/
def State.rpostOks (s : State) (w : At) (n sa : Nat) (region : Option Nat) : List Bool :=
  match w.who with
  | .steward => []
  | .core c =>
    let r := s.ring w.cl n
    let src := (s.reg w sa).toNat
    let aligned := regOk sa && decide (src % 64 = 0)
    let d := if aligned then s.template w c src region else none
    [decide (n < 16) && decide (r.kind = 0) && !r.sys,
     aligned && (match d with
       | some d => !((s.slotOf w.cl c).isSome && dWritesMem d)
       | none => true),
     (match region with
       | none => true
       | some x => decide (x < 2 ^ 18) && (match d with
         | some d => dOneSide d && spanInTs (dTsSpan d)
         | none => true))]

/-- Puts a post on its way. -/
def State.addPost (s : State) (w : At) (p : Post) : State :=
  match w.who with
  | .core c => s.setCore w.cl c { s.core w.cl c with posts := (s.core w.cl c).posts ++ [p] }
  | .steward => s.setStew w.cl { s.stew w.cl with posts := (s.stew w.cl).posts ++ [p] }

/-- A core's RPOST whose operands are in range (R81, R83, R233). A move that has no descriptor number yet carries the
address 2³². -/
def State.doRpost (s : State) (w : At) (i : Instr) (n sa : Nat) (region : Option Nat) : State :=
  match w.who with
  | .steward => s
  | .core c =>
    let k := s.core w.cl c
    let src := (s.reg w sa).toNat
    let by_ : PostBy := ⟨w.ia, k.task.getD 0, s.taskCores w.cl c, s.slotOf w.cl c, false⟩
    let post (s : State) : State := (s.addPost w ⟨n, src, region, by_⟩).next1 w
    match region, s.template w c src region with
    | some x, some d =>
      let sp := dTsSpan d
      let m := regionMask sp.1.toNat (sp.2 - sp.1 + 1).toNat
      let into := dDstTs d
      match k.freeSlot with
      | none => s.holdFor w i .moveSlot
      | some slot =>
        if !(if into then k.intoMay m else k.fromMay m) then s.holdFor w i .scoreboard
        else
          let s := s.coreTo w.cl c (if into then max (k.readEnd m) (max (k.outsClear m) (k.readsClear m)) else k.outsClear m)
          let k := s.core w.cl c
          let v : Move :=
            { kind := if into then .ringInto else .ringFrom, serial := k.moveSerial, ia := w.ia
              args := ⟨x, .oper, 0, 0, .none, false, 0, 0, .keep⟩, addr := 2 ^ 32, stride := 0, scl := 0, tag := 0, regions := m, ring := n
              segs := [], lines := [], got := [], rows := 0, buf := Mem.empty, retries := 0, stallSince := none, stalled := none, tripped := false }
          post (s.setCore w.cl c (k.addMove slot v))
    | _, _ => post s

/-- A steward core's RPOST (task = false) or TPOST (task = true) (R122, R235): a ring of the other kind is REFUSED. -/
def State.doStewPost (s : State) (w : At) (n sa : Nat) (task : Bool) : State :=
  let r := s.ring w.cl n
  if decide (r.kind = 1) = task ∧ r.kind < 2 then
    (s.addPost w ⟨n, (s.reg w sa).toNat, none, ⟨w.ia, 0, 0, none, false⟩⟩).next1 w
  else (s.setRing w.cl n { r with refused := true }).next1 w

/-- Operands of a steward core's post: the ring, and a source that is a multiple of 64. -/
def State.stewPostOks (s : State) (w : At) (n sa : Nat) : List Bool :=
  [decide (n < 16), regOk sa && decide ((s.reg w sa).toNat % 64 = 0)]

/-- RPOST of a core. A steward core that meets it runs its own RPOST (R235), which takes no REGION. -/
def execRpost (w : At) (n sa : Nat) (region : Option Nat) (s : State) : Out :=
  .next (match w.who with
    | .core _ => s.issue w (.rpost w n sa region) .core (s.rpostOks w n sa region) fun s => s.doRpost w (.rpost w n sa region) n sa region
    | .steward => s.issue w (.rpost w n sa region) .steward (s.stewPostOks w n sa ++ [region.isNone]) fun s => s.doStewPost w n sa false)

/-! ### The slot write (R233, R234) -/

/-- Device address of slot k of a ring (R228). -/
def Ring.slotAddr (r : Ring) (k : Nat) : Nat := r.rbase + 64 * (k % r.depth)

/-- Numbers the scoreboard entry of a post that has been written. -/
def Core.numberMove (k : Core) (n num : Nat) : Core :=
  let mine := k.moves.filter fun e => decide (e.2.ring = n) && decide (e.2.addr = 2 ^ 32) && (decide (e.2.kind = .ringInto) || decide (e.2.kind = .ringFrom))
  let first := mine.foldl (fun (b : Option (Nat × Nat)) e => match b with
    | none => some (e.1, e.2.serial)
    | some (x, g) => if e.2.serial < g then some (e.1, e.2.serial) else some (x, g)) none
  match first with
  | none => k
  | some (slot, _) => { k with moves := k.moves.map fun e => if e.1 = slot then (e.1, { e.2 with addr := num }) else e }

/-- A refused post (R233): logged; a core's raises a move fault, a steward core's POST_FAULT with REFUSED. `which` is 0
for the source read and 1 for the slot write. -/
def State.postRefused (s : State) (cl : Cl) (who : Who) (p : Post) (which addr status : Nat) : State :=
  let s := s.refusal (unitName cl (whoUnit who)) (s.clPart cl) addr status
  match who with
  | .core c => if (s.core cl c).task = some p.who.key then s.coreFault cl c 3 p.who.ia [0, addr, status] status else s
  | .steward =>
    (s.setRing cl p.ring { s.ring cl p.ring with refused := true }).pushEv cl
      (evRecord 0x06 0 (unitName cl (0x20 + p.ring)) [which, addr, status])

/-- A ring whose OVERRUN was set stops at its next descriptor boundary (R234, R245, R247). -/
def State.overrunStop (s : State) (cl : Cl) (n : Nat) : State :=
  let r := s.ring cl n
  if (r.st = .running ∨ r.st = .stopping) ∧ r.ph ≠ .moving then s.overrunTask cl n else s

/-- Whether a post's source or slot is a line of a commit that has begun (R134), or held by a scrubber (R259): it waits. -/
def State.postWaits (s : State) (cl : Cl) (p : Post) : Bool :=
  let a := (s.ring cl p.ring).slotAddr (s.ring cl p.ring).tail.toNat
  s.lineBusy cl (lineOf p.src) || s.lineBusy cl (lineOf a) ||
    (isDram p.src && s.lineHeld (lineOf p.src) && !s.readHits cl p.who.slot p.src 64)

/-- The post's descriptor is written into slot TAIL mod DEPTH and TAIL advances. -/
def State.postWrite (s : State) (cl : Cl) (who : Who) (p : Post) : State :=
  let r0 := s.reqStatus cl p.src false
  if r0.2 ≠ 0 then r0.1.postRefused cl who p 0 p.src r0.2
  else
    let ring := r0.1.ring cl p.ring
    let a := ring.slotAddr ring.tail.toNat
    let hs := (r0.1.clu cl).cache.ownHint (lineOf p.src)
    let x := r0.1.clRead cl p.who.slot p.src 64 hs.1 hs.2 2
    let r1 := x.1.reqStatus cl a true
    if x.2.2 = 5 then x.1.postRefused cl who p 0 p.src 5
    else if r1.2 ≠ 0 then r1.1.postRefused cl who p 1 a r1.2
    else
      let d0 : BitVec 512 := BitVec.ofNat 512 (leNat (x.2.1.read p.src 64))
      let d := if ring.isTask then d0 else match who, p.region with
        | .core c, some reg => if dOneSide d0 then dRegion d0 c.val reg else dSet d0 498 498 0
        | _, _ => dSet d0 498 498 0
      let m := (List.range 4).foldl (fun m i =>
        m.writeP (a + 16 * i) (leBytes 16 (bits (128 * i + 127) (128 * i) d.toNat))
          (x.2.1.anyPoison (p.src + 16 * i) 16 || x.2.1.anyBad (p.src + 16 * i) 16)) Mem.empty
      let hw := (r1.1.clu cl).cache.ownHint (lineOf a)
      let s := r1.1.clWrite cl m (lineOf a) (maskOf (a % 128) 64) hw.1 hw.2
      let num := ring.tail.toNat
      let full := decide (ring.depth ≤ ring.fill)
      let s := s.setRing cl p.ring { ring with
        tail := ring.tail + 1
        overrun := ring.overrun || full
        ovrcnt := if full then min 65535 (ring.ovrcnt + 1) else ring.ovrcnt
        postBy := ins ring.postBy num p.who }
      let s := match who with
        | .core c => if p.region.isSome then s.setCore cl c ((s.core cl c).numberMove p.ring num) else s
        | .steward => s
      if full then s.overrunStop cl p.ring else s

/-- POST_SLOT_WRITTEN (R233): the poster's oldest post, in its program order. -/
def execPostSlotWritten (cl : Cl) (who : Who) (s : State) : Out :=
  .next (match who with
    | .core c =>
      let k := s.core cl c
      match k.posts with
      | [] => s
      | p :: rest => if s.postWaits cl p then s else (s.setCore cl c { k with posts := rest }).postWrite cl who p
    | .steward =>
      let k := s.stew cl
      match k.posts with
      | [] => s
      | p :: rest => if s.postWaits cl p then s else (s.setStew cl { k with posts := rest }).postWrite cl who p)

end Sys2Proof.Machine
end

