-- ==== Sys2Proof/Machine/Counters.lean ====
section
/-! DEFINITION. Counter instructions (R144 to R146), the end of a task (R121, R149), fetching (R127, R128), and the sync
network (R138 to R151). -/

namespace Sys2Proof.Machine

open Sys2Proof

/-! ### Increments (R144, R133) -/

/-- Adds a counter to a core's touched set (R148). -/
def Core.touch (k : Core) (n : Nat) : Core := if k.touched.contains n then k else { k with touched := k.touched ++ [n] }

/-- Whether a counter is one of a core's own. -/
def isOwn (cl : Cl) (c : Cn) (n : Nat) : Bool := !nameIsHub n && decide (nameCl n = cl) && bits 11 8 n = c.val

/-- The slot into which a core's increment of counter n must go (R133). -/
def State.deferSlot (s : State) (cl : Cl) (c : Cn) (n : Nat) : Option Nat :=
  match (s.core cl c).task with
  | some key => match find (s.clu cl).tasks key with
    | some t => if ownCtr cl t.coreset n then none else t.slot
    | none => none
  | none => none

/-- A core's increment acts: it is sent, or enters its slot's deferral queue; the answer is false if it found the queue
full (R133). -/
def State.coreInc (s : State) (cl : Cl) (c : Cn) (n amt : Nat) : State × Bool :=
  let p : Packet := ⟨n, amt, .core cl c ((s.core cl c).task.getD 0), s.clPart cl⟩
  match s.deferSlot cl c n with
  | some k =>
    let r := s.defer cl k p
    if r.2 then r else (s.deferFull cl c k, false)
  | none =>
    let k := s.core cl c
    ((s.setCore cl c { k with unacked := k.unacked + 1 }).send p, true)

/-- CINC with its operands in range. An increment that a slot defers enters the queue at issue, in program order (R133); its
WHEN = DONE is met before the slot can commit, since END waits for it. -/
def State.doCinc (s : State) (w : At) (i : Instr) (n amt : Nat) (whenDone : Bool) : State :=
  match w.who with
  | .steward =>
    let k := s.stew w.cl
    ((s.setStew w.cl { k with unacked := k.unacked + 1 }).send ⟨n, amt, .steward w.cl, s.clPart w.cl⟩).next1 w
  | .core c =>
    let k := s.core w.cl c
    let k := if isOwn w.cl c n then k.touch n else k
    if whenDone && (s.deferSlot w.cl c n).isNone then
      let vis := k.outs.foldl (fun t o => max t o.vis) 0
      (s.setCore w.cl c { k with armed := k.armed ++ [⟨n, amt, vis, k.moveSerial⟩] }).next1 w
    else
      let r := (s.setCore w.cl c k).coreInc w.cl c n amt
      if r.2 then r.1.next1 w else r.1.holdFor w i .deferral

/-- CINC (R144, R146). -/
def execCinc (w : At) (ctr : CRef) (amt : Src) (whenDone : Bool) (s : State) : Out :=
  .next (s.issue w (.cinc w ctr amt whenDone) .both [s.crefOk w ctr, s.amtOk w amt, !whenDone || decide (w.who ≠ .steward)] fun s =>
    s.doCinc w (.cinc w ctr amt whenDone) (s.crefName w ctr) (s.amt w amt) whenDone)

/-- WHEN_DONE_INCREMENT (R89, R144): the oldest waiting CINC of a core, once every output and move before it is visible or
complete. -/
def execWhenDoneIncrement (cl : Cl) (c : Cn) (s : State) : Out :=
  .next (let k := s.core cl c
    match k.armed with
    | [] => s
    | a :: rest =>
      if k.moves.any fun e => decide (e.2.serial < a.before) then s
      else
        let s := s.coreTo cl c a.vis
        let r := (s.setCore cl c { s.core cl c with armed := rest }).coreInc cl c a.ctr a.amt
        if r.2 then r.1 else r.1.setCore cl c { r.1.core cl c with armed := a :: rest })

/-! ### Expected registers and waits (R145, R146) -/

/-- A CEXP or CWAIT on a counter. A task's clears SETTLED (R151), and the counter joins the core's touched set (R148). -/
def State.expect (s : State) (w : At) (n : Nat) (by_ : W32) : State :=
  let c := s.ctr n
  match w.who with
  | .core k => (s.setCtr n { c with expected := c.expected + by_, settled := false }).setCore w.cl k ((s.core w.cl k).touch n)
  | .steward => s.setCtr n { c with expected := c.expected + by_ }

/-- CEXP. -/
def execCexp (w : At) (ctr : CRef) (amt : Src) (s : State) : Out :=
  .next (s.issue w (.cexp w ctr amt) .both [s.crefNarrow w ctr, s.amtOk w amt] fun s =>
    let n := s.crefName w ctr
    ((s.expect w n (BitVec.ofNat 32 (s.amt w amt))).wake n).next1 w)

/-- CWAIT: one cycle when it is satisfied; otherwise it holds issue. -/
def State.doCwait (s : State) (w : At) (i : Instr) (n : Nat) : State :=
  let s := s.expect w n 0
  if reaches (s.ctr n).value (s.ctr n).expected then
    let s := match w.who with
      | .steward => s.setStew w.cl { s.stew w.cl with cwstat := 0 }
      | .core _ => s
    s.next1 w
  else s.holdFor w i (.counter n)

/-- CWAIT. -/
def execCwait (w : At) (ctr : CRef) (s : State) : Out :=
  .next (s.issue w (.cwait w ctr) .both [s.crefNarrow w ctr] fun s => s.doCwait w (.cwait w ctr) (s.crefName w ctr))

/-- CREAD: the read goes out; its result comes with CREAD_RESULT. -/
def execCread (w : At) (sd : Nat) (ctr : CRef) (expected : Bool) (s : State) : Out :=
  .next (s.issue w (.cread w sd ctr expected) .both [regOk sd, s.crefOk w ctr] fun s =>
    let r : CRead := ⟨sd, s.crefName w ctr, expected⟩
    let s := s.next1 w
    match w.who with
    | .core c => s.setCore w.cl c { s.core w.cl c with creads := (s.core w.cl c).creads ++ [r] }
    | .steward => s.setStew w.cl { s.stew w.cl with creads := (s.stew w.cl).creads ++ [r] })

/-- What a CREAD delivers. -/
def State.creadValue (s : State) (r : CRead) : Word :=
  let c := s.ctr r.ctr
  BitVec.ofNat 64 (if r.expected then c.expected.toNat else c.value.toNat)

/-- CREAD_RESULT. -/
def execCreadResult (cl : Cl) (who : Who) (s : State) : Out :=
  .next (match who with
    | .core c =>
      let k := s.core cl c
      match k.creads with
      | [] => s
      | r :: rest => s.setCore cl c ({ k with creads := rest }.setReg r.sd (s.creadValue r))
    | .steward =>
      let k := s.stew cl
      match k.creads with
      | [] => s
      | r :: rest => s.setStew cl ({ k with creads := rest }.setReg r.sd (s.creadValue r)))

/-- CWSTAT: steward cores only. -/
def execCwstat (w : At) (sd : Nat) (s : State) : Out :=
  .next (s.issue w (.cwstat w sd) .steward [regOk sd] fun s =>
    (s.setReg w sd (BitVec.ofNat 64 (s.stew w.cl).cwstat)).next1 w)

/-- FENCE (R83, R89). -/
def execFence (w : At) (s : State) : Out :=
  .next (s.issue w (.fence w) .core [] fun s => s.whenClear w (.fence w) id)

/-! ### Task end (R121, R149) -/

/-- END (R89, R149, step 1): once the scoreboard is clear the core waits, free of issue. -/
def execEndTask (w : At) (s : State) : Out :=
  .next (s.issue w (.endTask w) .core [] fun s => s.whenClear w (.endTask w) fun k => { k with phase := .ending })

/-- The hub counters of the union of a task's touched sets. -/
def State.touchedHubs (s : State) (cl : Cl) (cs : BitVec 12) : List Nat :=
  (allCn.flatMap fun c => if cs.getLsbD c.val then (s.core cl c).touched.filter nameIsHub else []).dedup

/-- Steps 3 and 4 of R149 for a core of task `key`. -/
def State.balance (s : State) (cl : Cl) (c : Cn) (key : Nat) (t : TaskRun) : State :=
  let k := s.core cl c
  let x : Slot := match t.slot with
    | some n => (s.clu cl).slot n
    | none => Slot.init
  let bad := s.unbalanced x (k.touched.filter (isOwn cl c))
  if bad ≠ [] then s.balanceFault cl c x bad
  else
    let t := { t with passed := t.passed ||| BitVec.ofNat 12 (2 ^ c.val) }
    let v := s.clu cl
    let s := (s.setClu cl { v with tasks := ins v.tasks key t }).setCore cl c { k with phase := .passed }
    if t.passed ≠ t.coreset then s
    else
      let hubBad := s.unbalanced x (s.touchedHubs cl t.coreset)
      if hubBad = [] then s.endTask cl c key t
      else
        s.balanceFault cl ((allCn.find? fun q => t.coreset.getLsbD q.val).getD c) x hubBad

/-- END_BALANCE_CHECK (R149): once every increment of the core is acknowledged. -/
def execEndBalanceCheck (cl : Cl) (c : Cn) (s : State) : Out :=
  .next (let k := s.core cl c
    match k.task with
    | some key => match find (s.clu cl).tasks key with
      | some t => if k.phase = .ending ∧ k.unacked = 0 ∧ k.armed = [] then s.balance cl c key t else s
      | none => s
    | none => s)

/-! ### Instruction fetch (R127 to R129) -/

/-- A fetch that fails: a core's task faults with kind FETCH, a steward core meets a steward fault (log 25). -/
def State.fetchFault (s : State) (w : At) : State :=
  match w.who with
  | .core c => s.coreFault w.cl c 6 w.ia [] 0
  | .steward => s.stewardFault w.cl w.ia

/-- Notes a line whose first fetch met an uncorrectable word. -/
def State.setFetchBad (s : State) (w : At) (b : Option Nat) : State :=
  match w.who with
  | .core c => s.setCore w.cl c { s.core w.cl c with fetchBad := b }
  | .steward => s.setStew w.cl { s.stew w.cl with fetchBad := b }

/-- Puts a line into the sequencer's instruction cache, and into the cluster's. -/
def State.icFill (s : State) (w : At) (l : Nat) : State :=
  let v := s.clu w.cl
  let s := s.setClu w.cl { v with icache := lruPut 256 8 l v.icache }
  match w.who with
  | .core c => s.setCore w.cl c { s.core w.cl c with icache := lruPut 64 4 l (s.core w.cl c).icache, fetchBad := none }
  | .steward => s.setFetchBad w none

/-- Whether issue has come to a line: its instruction is held on it, or issue is to go on at it. -/
def State.demand (s : State) (w : At) : Bool :=
  match s.holdOf w with
  | some h => decide (h.why = .icache) && decide (lineOf h.ia = lineOf w.ia)
  | none => decide (s.npcOf w = some w.ia)

/-- The address at which issue stands, for run-ahead. -/
def State.issueAddr (s : State) (w : At) : Nat :=
  match s.npcOf w with
  | some a => a
  | none => match w.who with
    | .core c => (s.core w.cl c).lastIa
    | .steward => (s.stew w.cl).lastIa

/-- Whether run-ahead may fetch a line (R128): within 8 lines beyond the issuing line, in its 2 MiB page. -/
def State.runAhead (s : State) (w : At) : Bool :=
  let a := lineOf (s.issueAddr w)
  let l := lineOf w.ia
  decide (a < l) && decide (l ≤ a + 8) && decide (l / 16384 = a / 16384)

/-- INSTRUCTION_FETCH_FILL (R127, R128, R213): a demanded or run-ahead line arrives; a miss in the cluster cache allocates nothing. A line with an uncorrectable or poisoned
word is discarded; a second failure of a demanded line is a FETCH fault. A line of a commit that has begun (R134), or held by a scrubber
(R259), is waited for. -/
def execInstructionFetchFill (w : At) (s : State) : Out :=
  .next (
    let l := lineOf w.ia
    let wanted := s.demand w
    if !s.seqRuns w || s.icHit w || !(wanted || s.runAhead w) then s
    else
      let dram := isDram w.ia
      let r := if dram then s.permUse w.cl (w.ia / 2 ^ 21) else (s, 0)
      if !dram || !permX r.2 then (if wanted then r.1.fetchFault w else r.1)
      else if (s.clu w.cl).icache.contains l then r.1.icFill w l
      else
        let hit := r.1.readHits w.cl none (128 * l) 128
        let hs := (r.1.clu w.cl).cache.ownHint l
        let x := r.1.cacheRead w.cl none (128 * l) 128 hs.1 hs.2 1 hit
        let bad := decide (x.2.2 = 1) || x.2.1.anyPoison (128 * l) 128
        if r.1.lineBusy w.cl l ∨ x.2.2 = retryStatus then s
        else if x.2.2 = 5 then (if wanted then x.1.fetchFault w else x.1)
        else
          if !bad then x.1.icFill w l
          else if !wanted then x.1
          else
            let fb := match w.who with
              | .core c => (s.core w.cl c).fetchBad
              | .steward => (s.stew w.cl).fetchBad
            if fb = some l then (x.1.setFetchBad w none).fetchFault w else x.1.setFetchBad w (some l))

/-! ### The sync network (R138, R139, R147) -/

/-- A packet of the sync network fails its CRC twice (R138): it is lost, which is a fatal error of the partition that owns the counter
(R264). -/
def State.packetLost (s : State) (cl : Cl) : State :=
  let p := s.clPart cl
  s.raise { source := 0x0A, cls := 3, unit := unitName cl 0x10, part := p, addr := 0, syndrome := 0, symbol := 0xFF, status := 0, taskId := 0 }
    (if h : p < 16 then .partition ⟨p, h⟩ else .none)

/-- INCREMENT_APPLIED (R138, R139): packet i of those in flight reaches its hub, sent again once if its CRC fails. A latched trip
has stopped the sync hubs (R177). -/
def execIncrementApplied (i crcFails : Nat) (s : State) : Out :=
  .next (match (if s.power.tripped then none else s.net.flight[i]?) with
    | none => s
    | some k =>
      let s := { s with net := { s.net with flight := s.net.flight.eraseIdx i } }
      if crcFails < 2 then s.applyInc k else s.packetLost (nameCl k.ctr))

/-- An acknowledgement reaches its sender: a core counts it for the task that sent the increment, or, once that task is aborted, toward
the settling of its counters (R149, R151). -/
def State.takeAck (s : State) : Sender → State
  | .core cl c key =>
    let k := s.core cl c
    s.setCore cl c (if k.task = some key then { k with unacked := k.unacked - 1 } else { k with settleWait := k.settleWait - 1 })
  | .steward cl => s.setStew cl { s.stew cl with unacked := (s.stew cl).unacked - 1 }
  | .ring _ _ | .dispatcher _ | .released _ => s

/-- The cluster to which an acknowledgement goes. -/
def Sender.cl : Sender → Cl
  | .core cl _ _ | .steward cl | .ring cl _ | .dispatcher cl | .released cl => cl

/-- INCREMENT_ACK (R138, R147): an acknowledgement reaches its sender, or is lost. -/
def execIncrementAck (k : AckSeen) (s : State) : Out :=
  .next (match (if s.power.tripped then none else s.net.acks[k.i]?) with
    | none => s
    | some x =>
      let s := { s with net := { s.net with acks := s.net.acks.eraseIdx k.i } }
      if k.crcFails < 2 then s.takeAck x else s.packetLost x.cl)

/-- MANAGEMENT_RAISE (R144): (v − value) mod 2³² is added if it is below 2³¹; never backward. -/
def execManagementRaise (ctr : Nat) (v : W32) (s : State) : Out :=
  .next (
    let c := s.ctr ctr
    if nameOk ctr ∧ (v - c.value).toNat < 2 ^ 31 ∧ !(s.part (s.clPart (nameCl ctr))).frozen then
      (s.setCtr ctr (c.add (v - c.value))).wake ctr
    else s)

/-- COUNTER_SETTLE (R151): the touched counters of aborted tasks of a core, once every increment they sent is
acknowledged. -/
def execCounterSettle (cl : Cl) (c : Cn) (s : State) : Out :=
  .next (let k := s.core cl c
    if k.settleWait = 0 ∧ k.toSettle ≠ [] then
      k.toSettle.foldl (fun s n =>
        let x := s.ctr n
        (s.setCtr n { x with expected := x.value, settled := true }).wake n) (s.setCore cl c { k with toSettle := [] })
    else s)

end Sys2Proof.Machine
end

