-- ==== Sys2Proof/Machine/Rings.lean ====
section
/-! DEFINITION. Rings (R228 to R247): registers and commands, reading slots, and running data descriptors. -/

namespace Sys2Proof.Machine

open Sys2Proof

/-! ### Registers and commands (R230, R235) -/

/-- A write or instruction that has no effect sets REFUSED (R230, R235). -/
def State.ringRefuse (s : State) (cl : Cl) (n : Nat) : State := s.setRing cl n { s.ring cl n with refused := true }

/-- Writes RBASE, RCFG or TAIL (R230, R231); another register takes no write. -/
def State.ringSet (s : State) (cl : Cl) (n : Nat) (reg : RReg) (v : Word) : State :=
  let r := s.ring cl n
  let x := v.toNat
  match reg with
  | .rbase => if r.writable then s.setRing cl n { r with rbase := bits 38 6 x * 64 } else s.ringRefuse cl n
  | .rcfg => if r.writable then s.setRing cl n { r with rcfg := bits 15 12 x * 4096 + min (x % 32) 16 } else s.ringRefuse cl n
  | .tail => if r.writable then s.setRing cl n { r with tail := BitVec.ofNat 32 x } else s.ringRefuse cl n
  | _ => s

/-- Frees the scoreboard entry and move slot of a descriptor that will make no further access to a tile store (R241). -/
def State.ringUnmark (s : State) (cl : Cl) (n : Nat) (num : Nat → Bool) : State :=
  allCn.foldl (fun s c =>
    let k := s.core cl c
    let mine (v : Move) : Bool := (decide (v.kind = .ringInto) || decide (v.kind = .ringFrom)) && decide (v.ring = n) && num v.addr
    if k.moves.any fun e => mine e.2 then s.setCore cl c { k with moves := k.moves.filter fun e => !mine e.2 } else s) s

/-- TRETRY (R122): the oldest held descriptor becomes the candidate if it passes R117 again; a ring held BAD_TASK at HEAD
has that descriptor checked again, as it is buffered (DESIGN CHOICE, log 84: a slot read that was refused or met an uncorrectable word is
not repeated). -/
def State.tRetry (s : State) (cl : Cl) (n : Nat) : State :=
  let r := s.ring cl n
  if !r.isTask then s.ringRefuse cl n
  else match r.held with
    | h :: _ =>
      let s := s.withdraw cl n
      let r := s.ring cl n
      if s.taskOk cl cl h.desc then
        (s.setRing cl n { r with cand := true, readySince := none, readyRank := 0, keptHeld := none, waitSince := none, wait2Since := none, tripped := false, tripped2 := false }).refreshRing cl n
      else
        let s := s.setRing cl n { r with cand := false, st := .halted, cause := 11, readySince := none, readyRank := 0, keptHeld := none }
        let s := s.pushEv cl (evRecord 0x01 (tTaskId h.desc) (unitName cl (0x20 + n)) [256 * n + 5, h.slotAddr])
        s.report (unitName cl (0x20 + n)) (s.clPart cl) h.slotAddr 5 0 (tTaskId h.desc)
    | [] =>
      if r.badTask then
        if r.overrun then s.overrunTask cl n
        else ((s.setRing cl n { r with badTask := false, ph := .unread, st := .running, cause := 0, readySince := none, readyRank := 0, keptAge := none }).checkHead cl n).refreshRing cl n
      else s.ringRefuse cl n

/-- TSKIP (R122): drops the oldest held descriptor, or advances HEAD past a descriptor held BAD_TASK. -/
def State.tSkip (s : State) (cl : Cl) (n : Nat) : State :=
  let r := s.ring cl n
  if !r.isTask then s.ringRefuse cl n
  else match r.held with
    | _ :: rest =>
      let s := s.withdraw cl n
      let s := s.setRing cl n { s.ring cl n with held := rest, cand := false, readySince := none, readyRank := 0, keptHeld := none }
      (if rest = [] then s.heldEmptied cl n else s).refreshRing cl n
    | [] =>
      if r.badTask then ((s.setRing cl n { r with st := .running, cause := 0 }).advanceHead cl n).refreshRing cl n
      else s.ringRefuse cl n

/-- RSTART and CMD 1 (R231, R234, R235, R247). -/
def State.ringStart (s : State) (cl : Cl) (n : Nat) : State :=
  let r := s.ring cl n
  if r.kind > 1 ∨ r.overrun then s.ringRefuse cl n
  else if r.isTask ∧ r.st = .halted ∧ (r.cause = 11 ∨ r.cause = 12) then s.tRetry cl n
  else match r.st with
    | .idle | .halted =>
      ((s.setRing cl n { r with st := .running, stopAs := 0, ph := .unread, next := 0, retries := 0, buf := r.buf.filter fun b => !b.bad }).checkHead cl n).refreshRing cl n
    | .stopping => if r.stopAs = 10 then s.ringRefuse cl n else s.setRing cl n { r with st := .running, stopAs := 0 }
    | .running => s.ringRefuse cl n

/-- RSTOP and CMD 2 (R245): a running descriptor runs to its end first; otherwise the ring halts at once. -/
def State.ringStop (s : State) (cl : Cl) (n : Nat) : State :=
  let r := s.ring cl n
  match r.st with
  | .running =>
    if r.ph = .moving then s.setRing cl n { r with st := .stopping, stopAs := 1 }
    else ((s.withdraw cl n).haltRing cl n 1 0 0).refreshRing cl n
  | .stopping => s
  | .idle | .halted => s.ringRefuse cl n

/-- RSKIP and CMD 3 (R235). -/
def State.ringSkip (s : State) (cl : Cl) (n : Nat) : State :=
  let r := s.ring cl n
  if r.isTask then s.tSkip cl n
  else if r.st = .halted then
    (s.setRing cl n { r with head := r.head + 1, buf := r.buf.filter fun b => b.num ≠ r.head.toNat }).ringUnmark cl n fun x => x = r.head.toNat
  else s.ringRefuse cl n

/-- RCLEAR and CMD 4 (R235). -/
def State.ringClear (s : State) (cl : Cl) (n : Nat) : State :=
  let r := s.ring cl n
  if r.writable then
    ((s.withdraw cl n).setRing cl n { s.ring cl n with
      head := 0, tail := 0, cause := 0, overrun := false, refused := false, ovrcnt := 0, st := .idle, buf := [], ph := .unread, badTask := false
      readySince := none, readyRank := 0, keptAge := none, posted := false, granted := false, target := none, postBy := [] }).ringUnmark cl n fun x => x < 2 ^ 32
  else s.ringRefuse cl n

/-- The effect of a value written to CMD (R230). -/
def State.ringCmd (s : State) (cl : Cl) (n v : Nat) : State :=
  if v = 1 then s.ringStart cl n
  else if v = 2 then s.ringStop cl n
  else if v = 3 then s.ringSkip cl n
  else if v = 4 then s.ringClear cl n
  else s

/-- RING_CMD_START: a write of 1 to CMD. -/
def execRingCmdStart (cl : Cl) (n : Rn) (s : State) : Out := .next (s.ringCmd cl n.val 1)
/-- RING_CMD_STOP: a write of 2 to CMD. -/
def execRingCmdStop (cl : Cl) (n : Rn) (s : State) : Out := .next (s.ringCmd cl n.val 2)
/-- RING_CMD_SKIP: a write of 3 to CMD. -/
def execRingCmdSkip (cl : Cl) (n : Rn) (s : State) : Out := .next (s.ringCmd cl n.val 3)
/-- RING_CMD_CLEAR: a write of 4 to CMD. -/
def execRingCmdClear (cl : Cl) (n : Rn) (s : State) : Out := .next (s.ringCmd cl n.val 4)
/-- TAIL_WRITE (R230, R233): declares slots that were written into ring memory beforehand. -/
def execTailWrite (cl : Cl) (n : Rn) (v : Word) (s : State) : Out := .next (s.ringSet cl n.val .tail v)

/-- A write to control space (R203, R229, R201), by a steward core (some) or the management processor (none). The router of a
fenced or gated cluster discards and counts it (R183). -/
def State.ctlWrite (s : State) (by_ : Option Cl) (addr : Nat) (v : Word) : State :=
  let unit := match by_ with
    | some c => unitName c 0x10
    | none => 0
  let part := match by_ with
    | some c => s.clPart c
    | none => 0xFF
  let off := addr - 0xFF0000000000
  let cl := clAt (bits 25 24 off) (bits 20 18 off) (bits 23 21 off)
  let n := bits 11 8 off
  let reg := off % 256
  if !isCtl addr ∨ off / 2 ^ 26 ≠ 0 ∨ bits 17 12 off ≠ 0 ∨ reg % 8 ≠ 0 ∨ 0x48 < reg then s.refusal unit part addr 3
  else if (s.clu cl).isl = .fenced ∨ (s.clu cl).isl = .gated then s.setClu cl { s.clu cl with discards := (s.clu cl).discards + 1 }
  else if by_.isSome ∧ part ≠ s.clPart cl then s.refusal unit part addr 4
  else if reg = 0x00 then s.ringSet cl n .rbase v
  else if reg = 0x08 then s.ringSet cl n .rcfg v
  else if reg = 0x18 then s.ringSet cl n .tail v
  else if reg = 0x48 then s.ringCmd cl n v.toNat
  else s

/-! ### Slots (R228, R238) -/

/-- The number of the next slot that a ring reads: the first after HEAD that is posted, within 16, and not buffered. -/
def Ring.nextSlot (r : Ring) : Option Nat :=
  ((List.range (min 16 r.fill)).map fun j => (r.head + BitVec.ofNat 32 j).toNat).find? fun k => !(r.buf.any fun b => b.num = k)

/-- RING_SLOT_READ (R228): the ring reads its next slot through its own cluster cache. A slot in a line of a commit that has begun
(R134), or one that a scrubber holds (R259), is waited for. -/
def execRingSlotRead (cl : Cl) (n : Rn) (s : State) : Out :=
  .next (
    let r := s.ring cl n.val
    match r.nextSlot with
    | none => s
    | some k =>
      if ¬(r.st = .running ∨ r.st = .stopping) ∨ (s.clu cl).isl ≠ .running then s
      else
        let a := r.slotAddr k
        let unit := unitName cl (0x20 + n.val)
        let q := s.reqStatus cl a false
        let h := (q.1.clu cl).cache.ownHint (lineOf a)
        let x := q.1.clRead cl none a 64 h.1 h.2 2
        if q.2 = 0 ∧ (q.1.lineBusy cl (lineOf a) ∨ x.2.2 = retryStatus) then s
        else
          let b : State × Buffered :=
            if q.2 ≠ 0 then (q.1.refusal unit (s.clPart cl) a q.2, ⟨k, 0, true, a⟩)
            else if x.2.2 = 5 then (x.1.refusal unit (s.clPart cl) a 5, ⟨k, 0, true, a⟩)
            else (x.1, ⟨k, BitVec.ofNat 512 (leNat (x.2.1.read a 64)), decide (x.2.2 = 1) || x.2.1.anyPoison a 64, a⟩)
          let s := b.1.setRing cl n.val { b.1.ring cl n.val with buf := (b.1.ring cl n.val).buf ++ [b.2] }
          if r.isTask ∧ k = r.head.toNat then (s.checkHead cl n.val).refreshRing cl n.val else s)

/-! ### The check at the head (R237 to R241) -/

/-- DTYPE has a source side. -/
def dHasSrc (t : Nat) : Bool := t = 1 || t = 3 || t = 4 || t = 5 || t = 6
/-- DTYPE has a destination side. -/
def dHasDst (t : Nat) : Bool := t = 1 || t = 4 || t = 5 || t = 6

/-- Whether the flags set are allowed for DTYPE (R237). -/
def dFlagsOk (d : BitVec 512) : Bool :=
  let bar := dfl d 503 503 = 1
  match dType d with
  | 1 => true
  | 3 => !bar && !dSumEn d && !dWt d && !dSrcTs d && !dDstTs d
  | 4 => !dSrcTs d
  | 5 => !dWt d && !dDstTs d
  | 6 => !dSrcTs d
  | 7 => !bar && !dSumEn d && !dWt d && !dSrcTs d && !dDstTs d && decide (dfl d 490 477 = 0)
  | _ => false

/-- Whether a base and the steps of loops that repeat are multiples of u. -/
def sideAligned (u base : Nat) (c : Nat × Nat × Nat) (a b e : Int) : Bool :=
  base % u = 0 && (c.1 = 1 || a.emod u = 0) && (c.2.1 = 1 || b.emod u = 0) && (c.2.2 = 1 || e.emod u = 0)

/-- Whether the addresses of the sides that DTYPE has meet R238. The source of a GATHER is its list, whose entries are of 8 bytes (R240;
DEDUCED, log 79). -/
def dAligned (d : BitVec 512) : Bool :=
  let u (ts : Bool) : Nat := if ts then 16 else dEsize d
  (!dHasSrc (dType d) || ((!dSrcTs d || decide (16 ≤ dEsize d)) &&
    sideAligned (if dType d = 6 then 8 else u (dSrcTs d)) (dSrcBase d) (dCounts d) (sfl d 260 229) (sfl d 228 197) (sfl d 196 165))) &&
  (!dHasDst (dType d) || ((!dDstTs d || decide (16 ≤ dEsize d)) &&
    sideAligned (u (dDstTs d)) (dDstBase d) (dCounts d) (sfl d 164 133) (sfl d 132 101) (sfl d 100 69)))

/-- Whether two spans overlap. -/
def spansMeet (a b : Int × Int) : Bool := decide (a.1 ≤ b.2) && decide (b.1 ≤ a.2)

/-- The check of R238: the cause of a bad descriptor, if it is one. -/
def State.descBad (s : State) (cl : Cl) (r : Ring) (b : Buffered) : Option Nat :=
  let d := b.desc
  let t := dType d
  let ts := dSrcTs d || dDstTs d
  let nm (n : Nat) : Bool := s.nameAllowed (s.clPart cl) r.sys n
  if b.bad then some 5
  else if !dFlagsOk d || dfl d 490 489 = 3 || dfl d 68 64 ≠ 0 then some 5
  else if ts && (!dTsv d || (dSrcTs d && dDstTs d) || dfl d 497 494 ≥ 12 || !s.coreEnabled cl (dfl d 497 494)) then some 5
  else if dElems d * dEsize d > 2 ^ 32 then some 5
  else if t = 6 && decide (dEsize d ≠ 128) then some 5
  else if !dAligned d then some 5
  else if dHasSrc t && dHasDst t && (dSrcTs d == dDstTs d) && spansMeet (dSrcSpan d) (dDstSpan d) then some 5
  else if (dSrcTs d && !spanInTs (dSrcSpan d)) || (dDstTs d && !spanInTs (dDstSpan d)) then some 5
  else if (dfl d 476 476 = 1 && !nm (dfl d 475 452)) || (dfl d 451 451 = 1 && !nm (dfl d 450 427)) then some 6
  else none

/-! ### Running a descriptor (R243) -/

/-- The serial of the move entry of a descriptor that is scoreboarded, or that of the core's next move. -/
def Core.ringSerial (k : Core) (n num : Nat) : Nat :=
  match k.moves.find? fun e => (decide (e.2.kind = .ringInto) || decide (e.2.kind = .ringFrom)) && decide (e.2.ring = n) && decide (e.2.addr = num) with
  | some e => e.2.serial
  | none => k.moveSerial

/-- Writes the bytes of a mask of one line of the tile store (R255, R256), emptying latches that hold the words (R75); the write takes its
turns at the banks (R71). -/
def Core.tsLine (k : Core) (serial line : Nat) (mask : BitVec 128) (m : Mem) : Core :=
  let ws := (List.range 8).filterMap fun i => if (mask.toNat / 2 ^ (16 * i)) % 65536 = 0 then none else some (8 * line + i)
  let k := k.askBanks false serial ws
  { k with ts := overLine k.ts m line mask, latchA := latchDrop k.latchA (k.cyc + 1) ws, latchB := latchDrop k.latchB (k.cyc + 1) ws }

/-- Whether a descriptor waits for its write responses (R244). -/
def Ring.waitsWrites (r : Ring) (d : BitVec 512) : Bool := dfl d 503 503 = 1 || r.forceWait || dSumEn d

/-- The descriptor starts: element 0 comes first. -/
def Ring.begin (r : Ring) : Ring :=
  { r with ph := .moving, next := 0, retries := 0, sum := 0, sumBytes := 0, waitSince := none, tripped := false
           wrOld := r.wrOld + r.wrOut.length, wrOut := [], wtOut := [] }

/-- The writes of a ring that are on their way belong to no descriptor that it runs from now on. -/
def State.orphanWrites (s : State) (cl : Cl) (n : Nat) : State :=
  let f (q : WReq) : WReq := match q.writer with
    | .ring c m _ => if c = cl ∧ m.val = n then { q with writer := .ring c m (2 ^ 32) } else q
    | .writeBack .. => q
  { s with dram := { s.dram with wq := s.dram.wq.map f, wacks := s.dram.wacks.map f } }

/-- Number of gathering rings of a cluster (R224). -/
def State.gathering (s : State) (cl : Cl) : Nat :=
  ((List.range 16).filter fun n => decide ((s.ring cl n).ph = .moving) && (match (s.ring cl n).headDesc with
    | some b => decide (dType b.desc = 6)
    | none => false)).length

/-- RING_DESCRIPTOR_START (R238, R243, R224): the head descriptor is checked, held on its condition, or started. -/
def execRingDescriptorStart (cl : Cl) (n : Rn) (s : State) : Out :=
  .next (
    let r := s.ring cl n.val
    match r.headDesc with
    | none => s
    | some b =>
      let d := b.desc
      if r.kind ≠ 0 ∨ r.st ≠ .running ∨ (s.clu cl).isl ≠ .running ∨ (s.clu cl).brk ≠ .none then s
      else if r.overrun then s.haltRing cl n.val 7 0 0
      else
        let go (s : State) : State :=
          let r := s.ring cl n.val
          if dType d = 6 ∧ s.gathering cl ≥ 4 then s.setRing cl n.val { r with ph := .checked } else (s.orphanWrites cl n.val).setRing cl n.val r.begin
        match r.ph with
        | .unread =>
          match s.descBad cl r b with
          | some cause =>
            let s := s.raise { source := 0x07, cls := 2, unit := unitName cl (0x20 + n.val), part := s.clPart cl, addr := b.slotAddr, syndrome := 0, symbol := 0xFF, status := 0, taskId := 0 } .none
            s.haltRing cl n.val cause (if b.bad then b.slotAddr else 0) 0
          | none =>
            if dfl d 451 451 = 1 ∧ !reaches (s.ctr (dfl d 450 427)).value (BitVec.ofNat 32 (dfl d 426 395)) then
              s.setRing cl n.val { r with ph := .waiting, waitSince := some s.now, tripped := false }
            else go s
        | .checked => go s
        | _ => s)

/-- A bus status met by a ring: the refusal is reported, and the ring halts BUS_ERROR (R245); ERRADDR is the line (R230). -/
def State.ringBusError (s : State) (cl : Cl) (n : Nat) (addr status : Nat) : State :=
  let s := if status = 1 then s else s.refusal (unitName cl (0x20 + n)) (s.clPart cl) addr status
  s.haltRing cl n 2 (addr % 2 ^ 39 / 128 * 128) status

/-- A line comes back with retry status (R86, R189) and is asked for or written again; the fourth within one descriptor halts the ring
RETRY_LIMIT (R243). -/
def State.ringRetryLine (s : State) (cl : Cl) (n : Nat) (addr : Nat) : State :=
  let r := s.ring cl n
  if r.retries < 3 then s.setRing cl n { r with retries := r.retries + 1 }
  else
    let a := addr % 2 ^ 39 / 128 * 128
    (s.refusal (unitName cl (0x20 + n)) (s.clPart cl) a 7).haltRing cl n 3 a 7

/-- Acts on the status of a line that a ring asked for: retry status, or a bus error. -/
def State.ringStatus (s : State) (cl : Cl) (n : Nat) (addr status : Nat) : State :=
  if status = retryStatus then s.ringRetryLine cl n addr else s.ringBusError cl n addr status

/-- The status of a peer access (R201, R183, R219): the router answers for a fenced or gated cluster, whoever owns it; a
cluster of another partition refuses. -/
def State.peerStatus (s : State) (cl peer : Cl) : Nat :=
  match (s.clu peer).isl with
  | .fenced => 5
  | .gated => 6
  | _ => if s.clPart peer ≠ s.clPart cl then 4 else 0

/-- The status of a request at a signed address (R239). -/
def State.intStatus (s : State) (cl : Cl) (a : Int) (write : Bool) : State × Nat :=
  if a < 0 then (s, 3) else s.reqStatus cl a.toNat write

/-- What a ring reads: a status (0 when all went well), the address of the failure, and the store that holds the bytes. -/
structure RingGot where
  s : State
  status : Nat
  addr : Nat
  mem : Mem

/-- The slot whose shadow lines a ring descriptor reads (R132): that of the task into whose tile store it moves. -/
def State.ringSlot (s : State) (cl : Cl) (d : BitVec 512) : Option Nat :=
  if dDstTs d then s.slotOf cl (Fin.ofNat 12 (dfl d 497 494)) else none

/-- A line of memory read by a ring through a cluster's cache (R215, R219): its own, where a miss trains the stream detectors (R220; the
µs stands for the island cycle, log 27), or PEER's, where nothing is allocated. -/
def State.ringLine (s : State) (cl : Cl) (n : Nat) (d : BitVec 512) (a : Nat) (peer train : Bool) : RingGot :=
  let at_ := if peer then dPeer d else cl
  let slot := if at_ = cl then s.ringSlot cl d else none
  let tag := dfl d 488 477
  let hit := s.readHits at_ slot (a / 128 * 128) 128
  let x := s.cacheRead at_ slot (a / 128 * 128) 128 (hintOf (dfl d 490 489)) tag 2 (!peer)
  let s1 := if hit || peer || !train || decide (x.2.2 > 1) then x.1 else x.1.detect cl (.ring (Fin.ofNat 16 n)) (lineOf a) tag (1024 * s.now)
  ⟨s1, x.2.2, a / 128 * 128, x.2.1⟩

/-- Reads the source line of element i (R243, R219, R240, R253). Reads of a tile store take their turns at the banks (R71). -/
def State.ringRead (s : State) (cl : Cl) (n : Nat) (d : BitVec 512) (i : Nat) : RingGot :=
  let a := dSrc d i
  if dSrcTs d then
    let c : Cn := Fin.ofNat 12 (dfl d 497 494)
    let k := s.core cl c
    let l := a.toNat / 128 * 128
    let bad := k.ts.anyBad l 128
    let s := s.wordErrors k.ts l l 128 0x04 (unitName cl (0x20 + n)) (s.clPart cl) 2
    let ts := (wordsOf l 128).foldl Mem.fixWord (k.ts.settleBad l 128)
    let k := ({ k with ts := ts } : Core).askBanks true (k.ringSerial n (s.ring cl n).head.toNat) (wordsOf l 128)
    ⟨s.setCore cl c k, if bad then 1 else 0, l, ts⟩
  else
    let q := s.intStatus cl a false
    if q.2 ≠ 0 then ⟨q.1, q.2, (a.emod (2 ^ 39)).toNat, Mem.empty⟩
    else if dType d = 4 then
      let ps := q.1.peerStatus cl (dPeer d)
      if ps ≠ 0 then ⟨q.1, ps, a.toNat, Mem.empty⟩ else q.1.ringLine cl n d a.toNat true false
    else q.1.ringLine cl n d a.toNat false true

/-- The line that a GATHER entry names (R240), read as a MOVE source is read; hardware prefetch takes no account of it (R224). -/
def State.gatherRead (s : State) (cl : Cl) (n : Nat) (d : BitVec 512) (entry : Nat) : RingGot :=
  if entry % 128 ≠ 0 ∨ entry ≥ 2 ^ 39 then ⟨s, 3, entry, Mem.empty⟩
  else
    let q := s.reqStatus cl entry false
    if q.2 ≠ 0 then ⟨q.1, q.2, entry, Mem.empty⟩ else q.1.ringLine cl n d entry false false

/-- A write that a ring makes up: a line of its destination, the bytes written, and their values (R242). -/
structure RWrite where
  line : Nat
  mask : BitVec 128
  mem : Mem

/-- Lays an element's bytes into a write (R243, R251): whole words with their poison marks; a part of a poisoned word poisons the word that it
comes to lie in. -/
def layElem (dst src : Mem) (b a n : Nat) : Mem :=
  if 16 ≤ n then dst.copyFrom src b a n else dst.writeP b (src.read a n) (src.anyPoison a n || src.anyBad a n)

/-- The status of an element's destination (R239, R219, R201). -/
def State.destStatus (s : State) (cl : Cl) (d : BitVec 512) (a : Int) : State × Nat :=
  if dDstTs d then (s, 0)
  else
    let q := s.intStatus cl a true
    if q.2 ≠ 0 then q else if dType d = 5 then (q.1, q.1.peerStatus cl (dPeer d)) else q

/-- Makes a ring's write of one line (R242, R243): the tile store, PEER's cache, the own cluster cache, or the channel with the own copy
updated. A descriptor whose task has been aborted writes nothing into the tile store (R88; DEDUCED, log 80). -/
def State.ringPut (s : State) (cl : Cl) (n : Nat) (d : BitVec 512) (w : RWrite) : State :=
  let h := hintOf (dfl d 490 489)
  let tag := dfl d 488 477
  let r := s.ring cl n
  let num := r.head.toNat
  if dDstTs d then
    let c : Cn := Fin.ofNat 12 (dfl d 497 494)
    let s := s.setRing cl n { r with wrOut := r.wrOut ++ [w.line] }
    if (look PostBy.none r.postBy num).gone then s
    else
      let k := s.core cl c
      let s := (List.range 8).foldl (fun s i =>
        let mk := (w.mask.toNat / 2 ^ (16 * i)) % 65536
        if mk = 0 ∨ mk = 65535 then s
        else s.wordErrors k.ts (128 * w.line + 16 * i) (128 * w.line + 16 * i) 16 0x04 (unitName cl (0x20 + n)) (s.clPart cl) 1) s
      s.setCore cl c (k.tsLine (k.ringSerial n num) w.line w.mask w.mem)
  else if dType d = 5 then
    (s.clWrite (dPeer d) w.mem w.line w.mask h tag).setRing cl n { r with wrOut := r.wrOut ++ [w.line] }
  else if dWt d then
    let v := s.clu cl
    let s := match v.cache.line w.line with
      | some e =>
        (s.mergeErrors cl v.cache.mem w.line (w.mask &&& e.mask)).setClu cl
          { v with cache := { v.cache with mem := overLine v.cache.mem w.mem w.line (w.mask &&& e.mask) } }
      | none => s
    let q : WReq := ⟨w.line, w.mask, w.mem, .ring cl (Fin.ofNat 16 n) num⟩
    let s := { s with dram := { s.dram with wq := s.dram.wq ++ [q] } }
    s.setRing cl n { r with wtOut := r.wtOut ++ [w.line] }
  else (s.clWrite cl w.mem w.line w.mask h tag).setRing cl n { r with wrOut := r.wrOut ++ [w.line] }

/-- Makes the write that is being put together, if there is one. -/
def State.ringFlush (s : State) (cl : Cl) (n : Nat) (d : BitVec 512) : Option RWrite → State
  | none => s
  | some w => s.ringPut cl n d w

/-- Writes elements i to i + k - 1 in loop order from the bytes read; an element in the line of the element before it shares its write
(R242). Each counts toward the transfer sum with the bytes that the destination writes (R246, R257). A refusal halts the ring at its
element (R239). -/
def State.ringPuts (s : State) (cl : Cl) (n : Nat) (d : BitVec 512) (src : Nat → Nat) (m : Mem) : Nat → Nat → Option RWrite → State
  | _, 0, w => s.ringFlush cl n d w
  | i, k + 1, w =>
    let sz := dEsize d
    let q := s.destStatus cl d (dDst d i)
    if q.2 ≠ 0 then (q.1.ringFlush cl n d w).ringBusError cl n ((dDst d i).emod (2 ^ 39)).toNat q.2
    else
      let b := (dDst d i).toNat
      let l := b / 128
      let same : Option RWrite := match w with
        | some x => if x.line = l then some x else none
        | none => none
      let s := match same with
        | some _ => q.1
        | none => q.1.ringFlush cl n d w
      let x : RWrite := same.getD ⟨l, 0, Mem.empty⟩
      let bs := (layElem Mem.empty m b (src i) sz).read b sz
      let r := s.ring cl n
      let s := s.setRing cl n { r with
        next := i + 1
        sum := if dSumEn d then (r.sum + transferSum 200 (List.replicate (r.sumBytes % 8) 0 ++ bs)) % 2 ^ 64 else r.sum
        sumBytes := r.sumBytes + sz }
      s.ringPuts cl n d src m (i + 1) k (some ⟨l, x.mask ||| maskOf (b % 128) sz, layElem x.mem m b (src i) sz⟩)

/-- Installs a prefetched line in PEER's cache (R219): a line already present is left as it is. -/
def State.ringPrefetch (s : State) (cl : Cl) (n : Nat) (d : BitVec 512) (i k : Nat) : State :=
  let p := dPeer d
  let q := s.intStatus cl (dSrc d i) false
  let a := (dSrc d i).toNat
  let st := if q.2 ≠ 0 then q.2 else q.1.peerStatus cl p
  if st ≠ 0 then q.1.ringBusError cl n ((dSrc d i).emod (2 ^ 39)).toNat st
  else
    let l := lineOf a
    let done (s : State) : State := s.setRing cl n { s.ring cl n with next := i + k }
    if ((q.1.clu p).cache.line l).isSome then done q.1
    else
      let x := q.1.chanRead (128 * l) 128 (s.clPart cl) 1
      if x.2.2 > 1 then x.1.ringStatus cl n a x.2.2
      else done (x.1.install p l x.2.1 (hintOf (dfl d 490 489)) (dfl d 488 477))

/-- How many elements from i on lie in one source line, at most 128; a GATHER takes one at a time (R242). -/
def runLen (d : BitVec 512) (i : Nat) : Nat :=
  if dType d = 6 then 1
  else
    let l := dSrc d i / 128
    ((List.range (min 128 (dElems d - i))).takeWhile fun j => decide (dSrc d (i + j) / 128 = l)).length

/-- Whether a line that the next k elements read or write is concerned by a commit that has begun (R134): the ring waits. -/
def State.ringWaits (s : State) (cl : Cl) (d : BitVec 512) (i k : Nat) : Bool :=
  (!dSrcTs d && s.lineBusy (if dType d = 3 ∨ dType d = 4 then dPeer d else cl) (lineOf (dSrc d i).toNat)) ||
    (dHasDst (dType d) && !dDstTs d && (List.range k).any fun j => s.lineBusy (if dType d = 5 then dPeer d else cl) (lineOf (dDst d (i + j)).toNat))

/-- RING_LINE_RESPONSE (R243): the next source line arrives, and the writes of its elements are issued. -/
def execRingLineResponse (cl : Cl) (n : Rn) (s : State) : Out :=
  .next (
    let r := s.ring cl n.val
    match r.headDesc with
    | none => s
    | some b =>
      let d := b.desc
      let k := runLen d r.next
      if r.ph ≠ .moving ∨ r.next ≥ dElems d ∨ dType d = 7 ∨ s.ringWaits cl d r.next k then s
      else
        let s1 :=
          if dType d = 3 then s.ringPrefetch cl n.val d r.next k
          else
            let g := s.ringRead cl n.val d r.next
            if g.status ≠ 0 then g.s.ringStatus cl n.val g.addr g.status
            else if dType d = 6 then
              let e := leNat (g.mem.read (dSrc d r.next).toNat 8)
              if g.s.lineBusy cl (lineOf e) then s
              else
                let g := g.s.gatherRead cl n.val d e
                if g.status ≠ 0 then g.s.ringStatus cl n.val g.addr g.status
                else g.s.ringPuts cl n.val d (fun _ => e) g.mem r.next 1 none
            else g.s.ringPuts cl n.val d (fun i => (dSrc d i).toNat) g.mem r.next k none
        let r1 := s1.ring cl n.val
        if r1.ph = .moving ∧ r1.next ≥ dElems d then s1.ringUnmark cl n.val fun x => x = b.num else s1)

/-- RING_WRITE_RESPONSE (R244): the ring's oldest unanswered write has been taken by a cluster cache or a tile store. -/
def execRingWriteResponse (cl : Cl) (n : Rn) (s : State) : Out :=
  .next (
    let r := s.ring cl n.val
    s.setRing cl n.val (if 0 < r.wrOld then { r with wrOld := r.wrOld - 1 } else { r with wrOut := r.wrOut.drop 1 }))

/-- RING_RETRY (R243, R189): the line that is read next, or the oldest write that has not been answered, comes back with retry status. -/
def execRingRetry (cl : Cl) (x : RingBack) (s : State) : Out :=
  .next (
    let r := s.ring cl x.n.val
    match r.ph, r.headDesc with
    | .moving, some b =>
      if x.write then match r.wrOut ++ r.wtOut with
        | l :: _ => s.ringRetryLine cl x.n.val (128 * l)
        | [] => s
      else s.ringRetryLine cl x.n.val ((dSrc b.desc r.next).emod (2 ^ 39)).toNat
    | _, _ => s)

/-- RING_BUS_ERROR (R245): a line of the running descriptor meets a bus error on its way. -/
def execRingBusError (cl : Cl) (n : Rn) (addr status : Nat) (s : State) : Out :=
  .next (if (s.ring cl n.val).ph = .moving then s.ringBusError cl n.val addr status else s)

/-- Halts that fall due at a descriptor boundary (R234, R245, R247). -/
def State.ringBoundary (s : State) (cl : Cl) (n : Nat) : State :=
  let r := s.ring cl n
  if r.st = .stopping ∧ r.stopAs = 10 then s.haltRing cl n 10 0 0
  else if r.overrun then s.haltRing cl n 7 0 0
  else if r.st = .stopping then s.haltRing cl n 1 0 0
  else s

/-- What becomes of a descriptor's pulse. -/
inductive Pulse where
  | send | drop | defer (slot : Nat)
deriving DecidableEq, Repr

/-- Where a descriptor's pulse goes (R130, R137): one of a speculative task on a counter outside its own cores enters its slot's
deferral queue, and is never sent once the slot has been discarded; every other is sent. -/
def State.pulseTo (s : State) (cl : Cl) (r : Ring) (num ctr : Nat) : Pulse :=
  let by_ := look PostBy.none r.postBy num
  match by_.slot with
  | some k =>
    let x := (s.clu cl).slot k
    if ownCtr cl by_.cores ctr then .send
    else if by_.gone then .drop
    else if x.taskKey = by_.key ∧ x.st ≠ .free then .defer k
    else .send
  | none => .send

/-- RING_DESCRIPTOR_COMPLETE (R243, R244, R246): the sum is checked, HEAD and DONECNT advance, the pulse is sent or
deferred, and a stop that is due takes effect. -/
def execRingDescriptorComplete (cl : Cl) (n : Rn) (s : State) : Out :=
  .next (
    let r := s.ring cl n.val
    match r.headDesc with
    | none => s
    | some b =>
      let d := b.desc
      let all := dType d = 7 || decide (r.next ≥ dElems d)
      if r.ph ≠ .moving ∨ !all ∨ (r.waitsWrites d ∧ (r.wrOut ≠ [] ∨ r.wtOut ≠ [])) then s
      else
        let s := if dSumEn d then s.setRing cl n.val { r with sumgot := BitVec.ofNat 64 r.sum } else s
        let r := s.ring cl n.val
        if dSumEn d ∧ r.sum ≠ dfl d 63 0 then
          (s.raise { source := 0x09, cls := 2, unit := unitName cl (0x20 + n.val), part := s.clPart cl, addr := 0, syndrome := 0, symbol := 0xFF, status := 0, taskId := 0 } .none).haltRing cl n.val 4 0 0
        else
          let p : Packet := ⟨dfl d 475 452, 1, .ring cl n, s.clPart cl⟩
          let sent : State × Bool :=
            if dfl d 476 476 = 0 then (s, true)
            else match s.pulseTo cl r b.num p.ctr with
              | .send => (s.send p, true)
              | .drop => (s, true)
              | .defer k =>
                let x := s.defer cl k p
                if x.2 then x
                else
                  let low := (allCn.find? fun c => (tCoreset ((s.clu cl).slot k).desc).getLsbD c.val).getD 0
                  (s.deferFull cl low k, false)
          if !sent.2 then sent.1
          else
            let s := sent.1
            let s := s.setRing cl n.val { r with
              head := r.head + 1, donecnt := r.donecnt + 1, buf := r.buf.filter fun x => x.num ≠ b.num, ph := .unread, next := 0, retries := 0
              postBy := del r.postBy b.num }
            s.ringBoundary cl n.val)

end Sys2Proof.Machine
end

