-- ==== Sys2Proof/Machine/Steward.lean ====
section
/-! DEFINITION. The steward core's control, cache and ring instructions (R122, R123, R217, R235). -/

namespace Sys2Proof.Machine

open Sys2Proof

/-- A ring operand. -/
def ringOk (n : Nat) : Bool := decide (n < 16)
/-- A speculative slot operand. -/
def slotOk (k : Nat) : Bool := decide (k < 4)

/-! ### Tasks and slots (R122) -/

/-- TPOST. -/
def execTpost (w : At) (n sa : Nat) (s : State) : Out :=
  .next (s.issue w (.tpost w n sa) .steward (s.stewPostOks w n sa) fun s => s.doStewPost w n sa true)

/-- TRETRY. -/
def execTretry (w : At) (n : Nat) (s : State) : Out :=
  .next (s.issue w (.tretry w n) .steward [ringOk n] fun s => (s.tRetry w.cl n).next1 w)

/-- TSKIP. -/
def execTskip (w : At) (n : Nat) (s : State) : Out :=
  .next (s.issue w (.tskip w n) .steward [ringOk n] fun s => (s.tSkip w.cl n).next1 w)

/-- Aborts the tasks that run on named cores of a cluster, as task faults of kind STEWARD. -/
def State.tAbort (s : State) (cl : Cl) (cs : Nat) : State :=
  (s.clu cl).tasks.foldl (fun s e =>
    if e.2.coreset &&& BitVec.ofNat 12 cs = 0 then s
    else s.taskFault cl e.1 7 ((allCn.find? fun c => e.2.coreset.getLsbD c.val).getD 0).val 0 [] 0) s

/-- TABORT. -/
def execTabort (w : At) (coreset : Nat) (s : State) : Out :=
  .next (s.issue w (.tabort w coreset) .steward [decide (coreset < 4096)] fun s => (s.tAbort w.cl coreset).next1 w)

/-- SCOMMIT: the slot becomes due (R134); a free or resolved slot is left (R136). -/
def execScommit (w : At) (slot : Nat) (s : State) : Out :=
  .next (s.issue w (.scommit w slot) .steward [slotOk slot] fun s =>
    let v := s.clu w.cl
    let x := v.slot slot
    (if x.st = .running ∨ x.st = .ended then s.setClu w.cl (v.setSlot slot { x with due := true, dueBy := if x.due then x.dueBy else 1 }) else s).next1 w)

/-- SDISCARD: the slot is discarded at once (R135). -/
def execSdiscard (w : At) (slot : Nat) (s : State) : Out :=
  .next (s.issue w (.sdiscard w slot) .steward [slotOk slot] fun s => (s.beginDiscard w.cl slot 1).next1 w)

/-- ICINV (R122, R129). -/
def execIcinv (w : At) (s : State) : Out :=
  .next (s.issue w (.icinv w) .steward [] fun s =>
    let s := s.setClu w.cl { s.clu w.cl with icache := [] }
    (allCn.foldl (fun s c => s.setCore w.cl c { s.core w.cl c with icache := [] }) s).next1 w)

/-! ### Events (R123, R386) -/

/-- EVWAIT. -/
def execEvwait (w : At) (s : State) : Out :=
  .next (s.issue w (.evwait w) .steward [] fun s =>
    if (s.stew w.cl).evq = [] then s.holdFor w (.evwait w) .event else s.next1 w)

/-- Word k of an event record. -/
def evWord (r : BitVec 512) (k : Nat) : Nat := bits (64 * k + 63) (64 * k) r.toNat

/-- EVREAD: word 0 carries the count of lost events in [39:24], which the read clears. -/
def execEvread (w : At) (sd : Nat) (s : State) : Out :=
  .next (s.issue w (.evread w sd) .steward [regOk sd] fun s =>
    let v := s.stew w.cl
    match v.evq with
    | [] => ((s.setStew w.cl { v with evRec := 0 }).setReg w sd 0).next1 w
    | r :: rest =>
      ((s.setStew w.cl { v with evq := rest, evRec := r, evLost := 0 }).setReg w sd (BitVec.ofNat 64 (evWord r 0 + v.evLost * 2 ^ 24))).next1 w)

/-- EVARG. -/
def execEvarg (w : At) (sd k : Nat) (s : State) : Out :=
  .next (s.issue w (.evarg w sd k) .steward [regOk sd, decide (1 ≤ k) && decide (k ≤ 7)] fun s =>
    (s.setReg w sd (BitVec.ofNat 64 (evWord (s.stew w.cl).evRec k))).next1 w)

/-! ### Cache instructions (R217) -/

/-- Start and length of a range, both multiples of 128. -/
def State.rangeOks (s : State) (w : At) (sa sb : Nat) : List Bool :=
  [regOk sa && decide ((s.reg w sa).toNat % 128 = 0), regOk sb && decide ((s.reg w sb).toNat % 128 = 0)]

/-- Whether a line lies in a range. -/
def inRange (a n l : Nat) : Bool := decide (a ≤ 128 * l) && decide (128 * l < a + n)

/-- Sends the write-back of every dirty line of a range to its channel; a line stays dirty until its write is accepted (R189), and one that
has a write-back on its way already waits for that. -/
def State.cleanStart (s : State) (cl : Cl) (a n : Nat) : State :=
  (s.clu cl).cache.lines.foldl (fun s e =>
    if inRange a n e.1 && e.2.dirty then
      if e.2.wb && !e.2.again then s.setClu cl { s.clu cl with ccLines := (s.clu cl).ccLines ++ [e.1] }
      else
        let s := s.checkLine cl e.1
        let v := s.clu cl
        let s := s.setClu cl { v with
          cache := { v.cache with lines := ins v.cache.lines e.1 { e.2 with wb := true, again := false }, writebacks := v.cache.writebacks + 1 }
          ccLines := v.ccLines ++ [e.1] }
        let q : WReq := ⟨e.1, e.2.mask, copyLine Mem.empty v.cache.mem e.1, .writeBack cl e.1⟩
        { s with dram := { s.dram with wq := s.dram.wq ++ [q] } }
    else s) s

/-- Invalidates every line of a range. -/
def State.dropRange (s : State) (cl : Cl) (a n : Nat) : State :=
  let v := s.clu cl
  s.setClu cl { v with cache := v.cache.lines.foldl (fun c e => if inRange a n e.1 then c.dropLine e.1 else c) v.cache }

/-- CCLEAN and CCFLUSH: the write-backs go out at issue; the instruction completes when the last acceptance response has
reached the cluster (R384). CCFLUSH then drops the lines; what has been written into one of them meanwhile goes to DRAM first (DESIGN
CHOICE, log 85). -/
def State.doClean (s : State) (w : At) (i : Instr) (sa sb : Nat) (flush : Bool) : State :=
  let a := (s.reg w sa).toNat
  let n := (s.reg w sb).toNat
  let began : Bool := match (s.stew w.cl).hold with
    | some h => decide (h.why = .cacheOp)
    | none => false
  let s := if began then s else s.cleanStart w.cl a n
  if (s.clu w.cl).ccLines ≠ [] then s.holdFor w i .cacheOp
  else (if flush then (s.cleanRange w.cl a n).dropRange w.cl a n else s).next1 w

/-- CCLEAN. -/
def execCclean (w : At) (sa sb : Nat) (s : State) : Out :=
  .next (s.issue w (.cclean w sa sb) .steward (s.rangeOks w sa sb) fun s => s.doClean w (.cclean w sa sb) sa sb false)

/-- CCFLUSH. -/
def execCcflush (w : At) (sa sb : Nat) (s : State) : Out :=
  .next (s.issue w (.ccflush w sa sb) .steward (s.rangeOks w sa sb) fun s => s.doClean w (.ccflush w sa sb) sa sb true)

/-- CCDISCARD. -/
def execCcdiscard (w : At) (sa sb : Nat) (s : State) : Out :=
  .next (s.issue w (.ccdiscard w sa sb) .steward (s.rangeOks w sa sb) fun s =>
    (s.dropRange w.cl (s.reg w sa).toNat (s.reg w sb).toNat).next1 w)

/-- CCMARK. -/
def execCcmark (w : At) (tag : Nat) (hint : Hint) (s : State) : Out :=
  .next (s.issue w (.ccmark w tag hint) .steward [decide (tag < 4096), true] fun s =>
    let v := s.clu w.cl
    (s.setClu w.cl { v with cache :=
      { v.cache with lines := v.cache.lines.map fun e => if e.2.tag = tag then (e.1, { e.2 with hint := hint }) else e } }).next1 w)

/-! ### Ring instructions (R235) -/

/-- RPOST of a steward core. -/
def execStewardRpost (w : At) (n sa : Nat) (s : State) : Out :=
  .next (s.issue w (.stewardRpost w n sa) .steward (s.stewPostOks w n sa) fun s => s.doStewPost w n sa false)

/-- RSET: RBASE, RCFG or TAIL; another register is out of range. -/
def execRset (w : At) (n : Nat) (reg : RReg) (sa : Nat) (s : State) : Out :=
  .next (s.issue w (.rset w n reg sa) .steward [ringOk n, decide (reg = .rbase) || decide (reg = .rcfg) || decide (reg = .tail), regOk sa] fun s =>
    (s.ringSet w.cl n reg (s.reg w sa)).next1 w)

/-- RGET: any register of R230. -/
def execRget (w : At) (sd n : Nat) (reg : RReg) (s : State) : Out :=
  .next (s.issue w (.rget w sd n reg) .steward [regOk sd, ringOk n, true] fun s =>
    (s.setReg w sd (BitVec.ofNat 64 ((s.ring w.cl n).register reg))).next1 w)

/-- RSTART. -/
def execRstart (w : At) (n : Nat) (s : State) : Out :=
  .next (s.issue w (.rstart w n) .steward [ringOk n] fun s => (s.ringStart w.cl n).next1 w)
/-- RSTOP. -/
def execRstop (w : At) (n : Nat) (s : State) : Out :=
  .next (s.issue w (.rstop w n) .steward [ringOk n] fun s => (s.ringStop w.cl n).next1 w)
/-- RSKIP. -/
def execRskip (w : At) (n : Nat) (s : State) : Out :=
  .next (s.issue w (.rskip w n) .steward [ringOk n] fun s => (s.ringSkip w.cl n).next1 w)
/-- RCLEAR. -/
def execRclear (w : At) (n : Nat) (s : State) : Out :=
  .next (s.issue w (.rclear w n) .steward [ringOk n] fun s => (s.ringClear w.cl n).next1 w)

end Sys2Proof.Machine
end

