-- ==== Sys2Proof/Machine/Spec.lean ====
section
/-! DEFINITION. Task start (R118, R120, R168) and the resolution of speculative slots (R134 to R137). -/

namespace Sys2Proof.Machine

open Sys2Proof

/-- Whether a dispatcher may start a candidate: it is not stopped, and both islands run. -/
def State.mayStart (s : State) (cl tgt : Cl) : Bool :=
  !(s.clu cl).dispStopped && !(s.clu tgt).dispStopped && decide ((s.clu cl).isl = .running) && decide ((s.clu tgt).isl = .running)
    && decide ((s.clu cl).brk = .none) && decide ((s.clu tgt).brk = .none)

/-- TASK_START (R118, R168): a granted candidate that is still ready starts; one that is not returns its grant, and one that names a core
that is not enabled where it would run fails R117 (R192). -/
def execTaskStart (cl : Cl) (n : Rn) (s : State) : Out :=
  .next (
    let r := s.ring cl n.val
    match r.candidate with
    | some d =>
      let tgt := r.runsIn cl
      if !r.isTask ∨ !r.granted ∨ r.posted then s
      else if s.coresMissing tgt d then s.failMissing cl n.val
      else if s.ready cl tgt d ∧ s.mayStart cl tgt then s.startTask cl tgt n.val d
      else (s.withdraw cl n.val).refreshRing cl n.val
    | none => if r.isTask ∧ r.granted ∧ !r.posted then s.withdraw cl n.val else s)

/-! ### Slots -/

/-- Whether the commit condition of a slot's descriptor is valid and reached (R116, R134). For a relocated task it is tested, as its start
conditions are (R126), in the home cluster (DESIGN CHOICE, log 86). -/
def State.commitMet (s : State) (x : Slot) : Bool := (tCond x.desc 335).isSome && s.condMet x.home (tCond x.desc 335)
/-- Whether the discard condition of a slot's descriptor is valid and reached (R116, R135). -/
def State.discardMet (s : State) (x : Slot) : Bool := (tCond x.desc 295).isSome && s.condMet x.home (tCond x.desc 295)

/-- SPEC_COMMIT (R134, R136): the dispatcher's evaluation of a slot for its commit; a discard condition that is met
prevails. -/
def execSpecCommit (cl : Cl) (k : Fin 4) (s : State) : Out :=
  .next (
    let v := s.clu cl
    let x := v.slot k.val
    if ¬(x.st = .running ∨ x.st = .ended) then s
    else if s.discardMet x then s.beginDiscard cl k.val 0
    else
      let x := if x.due then x else if s.commitMet x then { x with due := true, dueBy := 0 } else x
      s.setClu cl (v.setSlot k.val (if x.due ∧ x.st = .ended then { x with st := .committing, began := s.now } else x)))

/-- Lifts the stalls of the cores of a slot's task on its deferral queue (R133). -/
def State.liftStalls (s : State) (cl : Cl) (key : Nat) : State :=
  allCn.foldl (fun s c =>
    let k := s.core cl c
    if k.deferStall.isSome ∧ k.task = some key then s.setCore cl c { k with deferStall := none, deferTripped := false } else s) s

/-- A slot resolves (R123, R133, R137): SPEC_RESOLVED and the SPEC trace record go to the home cluster, and the slot is free. -/
def State.resolve (s : State) (cl : Cl) (k outcome cause : Nat) : State :=
  let v := s.clu cl
  let x := v.slot k
  let s := (s.setClu cl (v.setSlot k Slot.init)).liftStalls cl x.taskKey
  let s := s.pushEv x.home (evRecord 0x02 (tTaskId x.desc) (unitName cl 0x10) [k * 256 + outcome * 16 + cause, x.written.length])
  let s := s.trace x.home (traceRec 0x03 (unitName cl 0x30) (tTaskId x.desc) s.now
    (pack [(2, k), (1, outcome), (1, 0), (4, cause), (8, 0), (16, x.written.length), (128, 0)]))
  s.refresh cl

/-- The hint and tag of a shadow line (R212). -/
def Slot.markOf (x : Slot) (l : Nat) : Hint × Nat := (find x.marks l).getD (.keep, 0)

/-- Whether a slot's commit ends behind another slot's (R136): one that began earlier, or in the same µs in a lower slot. -/
def Cluster.commitsAfter (v : Cluster) (k : Nat) : Bool :=
  (List.range 4).any fun j => decide ((v.slot j).st = .committing) &&
    (decide ((v.slot j).began < (v.slot k).began) || (decide ((v.slot j).began = (v.slot k).began) && decide (j < k)))

/-- SPEC_COMMIT_COMPLETE (R134, R136): written bytes replace the ordinary lines' bytes, and deferred increments are released, which no
task waits for any more. The lines take the hints and tags of the slot's accesses (DEDUCED, log 72). -/
def execSpecCommitComplete (cl : Cl) (k : Fin 4) (s : State) : Out :=
  .next (
    let x := (s.clu cl).slot k.val
    if x.st ≠ .committing ∨ (s.clu cl).commitsAfter k.val then s
    else
      let s := s.setClu cl ((s.clu cl).setSlot k.val { x with shadow := Mem.empty, written := [], marks := [] })
      let s := x.written.foldl (fun s e =>
        let h := x.markOf e.1
        s.clWrite cl x.shadow e.1 e.2 h.1 h.2) s
      let s := x.deferq.foldl (fun s p => s.send { p with sender := .released cl }) s
      let s := s.setClu cl ((s.clu cl).setSlot k.val { x with deferq := [] })
      s.resolve cl k.val 0 x.dueBy)

/-- SPEC_DISCARD (R135, R136): the dispatcher's evaluation of a slot's discard condition. -/
def execSpecDiscard (cl : Cl) (k : Fin 4) (s : State) : Out :=
  .next (if s.discardMet ((s.clu cl).slot k.val) then s.beginDiscard cl k.val 0 else s)

/-- SPEC_DISCARD_COMPLETE (R135): shadow lines and deferred increments are dropped. -/
def execSpecDiscardComplete (cl : Cl) (k : Fin 4) (s : State) : Out :=
  .next (
    let x := (s.clu cl).slot k.val
    if x.st ≠ .discarding then s else s.resolve cl k.val 1 x.cause)

end Sys2Proof.Machine
end

