-- ==== Sys2Proof/Machine/Ledger.lean ====
section
/-! DEFINITION. The energy ledger, the package guard, heat and clock steps (R158 to R178). -/

namespace Sys2Proof.Machine

open Sys2Proof

/-! ### Measured energy (R160 to R162) -/

/-- Adds energy to an account's background of the period. -/
def State.addBackground (s : State) (a e : Nat) : State :=
  let v := s.acct a
  s.setAcct a { v with background := v.background + e }

/-- STATE of a core-map entry (R191). -/
def mapState (e : BitVec 16) : Nat := e.toNat / 8192

/-- The logical core that a physical core serves: its own name, or its target's while it serves a remap (R193). -/
def servedName (i : Nat) (e : BitVec 16) : Cl × Cn :=
  if mapState e = 4 then (clAt (i / 768) (bits 9 7 e.toNat) (bits 6 4 e.toNat), Fin.ofNat 12 (bits 3 0 e.toNat))
  else (Fin.ofNat 256 (i / 12), Fin.ofNat 12 (i % 12))

/-- Whether a physical core is counted in its cluster's rail (R161). -/
def State.counted (s : State) (i : Nat) : Bool :=
  mapState (s.mapEntry i) = 0 || mapState (s.mapEntry i) = 4 || (s.phy i).testing

/-- Books one core's part of a sample (R161). -/
def State.bookPart (s : State) (i part : Nat) : State :=
  let nm := servedName i (s.mapEntry i)
  if (s.phy i).testing then s.setPhy i { s.phy i with testEnergy := (s.phy i).testEnergy + part }
  else match (s.core nm.1 nm.2).task with
    | some key =>
      let v := s.clu nm.1
      match find v.tasks key with
      | some t => s.setClu nm.1 { v with tasks := ins v.tasks key { t with energy := t.energy + part } }
      | none => s.addBackground (acctOf nm.1) part
    | none => s.addBackground (acctOf nm.1) part

/-- The account of the granule that owns a channel (R16, R201). -/
def chanAcct (ch : Nat) : Nat := 4 * (ch / 16) + 2 * (ch % 16 / 4 / 2) + ch % 4 / 2

/-- MONITOR_SAMPLE (R160 to R162). Energies are whole units of 2⁻⁸ µJ; a part that does not divide evenly is rounded down
(log 12). -/
def execMonitorSample (m : Monitor) (s : State) : Out :=
  .next (match m with
    | .cluster cl arr vcl =>
      let cores := (List.range 12).map (fun c => 12 * cl.val + c) |>.filter s.counted
      let s := cores.foldl (fun s i => s.bookPart i (arr / cores.length)) s
      let s := s.addBackground (acctOf cl) vcl
      s.setClu cl { s.clu cl with vddArr := arr, vddCl := vcl }
    | .channel ch e => s.addBackground (chanAcct ch.val) e
    | .fabric d e => (List.range 4).foldl (fun s q => s.addBackground (4 * d.val + q) (e / 4)) s)

/-! ### Credit (R158, R159, R164, R165) -/

/-- The least credit: the most negative signed 48-bit count (R159). -/
def creditMin : Int := -(2 ^ 47)

/-- Adds to a credit, at most the cap and at least the minimum. -/
def Acct.addCredit (a : Acct) (n : Int) : Acct := { a with credit := max creditMin (min a.cap (a.credit + n)) }

/-- Compute dies that are not fenced (R158). -/
def State.liveDies (s : State) : Nat := ((List.range 4).filter fun d => !s.fabric.dieFenced.getLsbD d).length

/-- The share S of an account of die d at the package limit, a quarter of the die's (R158), nothing on a fenced die. Its unit is
1 / (4 · k) W: k is 250 for S in mW, 640 for S · 10 µs and 6,400 for S · 100 µs in 2⁻⁸ µJ. A fraction is rounded down (log 24). -/
def State.shareOf (s : State) (d k : Nat) : Nat :=
  if s.fabric.dieFenced.getLsbD d then 0 else (s.obj 0x2001 1 - 70) * k / s.liveDies

/-- A refill of account a (R164, R170). -/
def State.refill (s : State) (a : Nat) : State :=
  let v := s.acct a
  let net : Int := (s.shareOf (a / 4) 640 : Int) - (v.background : Int)
  let counts := s.granOwner a < 16 && s.hasRun (s.granOwner a)
  let starved := if !counts then v.starved else if net ≤ 0 then v.starved + 1 else 0
  let v := { v with
    share := s.shareOf (a / 4) 250, cap := s.shareOf (a / 4) 6400, background := 0, lastNet := net
    starved := if starved ≥ 100 then 0 else starved, starvedDue := v.starvedDue || decide (starved ≥ 100) }
  s.setAcct a (v.addCredit net)

/-- CREDIT_REFILL (R164): every account, at every whole 10 µs; a latched trip has stopped the ledger's clock (R177). -/
def execCreditRefill (s : State) : Out := .next (if s.now % 10 = 0 ∧ !s.power.tripped then (List.range 16).foldl State.refill s else s)

/-- CREDIT_STARVED (R170): 100 periods have passed without a positive net refill. -/
def execCreditStarved (a : Ac) (s : State) : Out :=
  .next (
    let v := s.acct a.val
    if !v.starvedDue ∨ s.power.tripped then s
    else
      let s := s.setAcct a.val { v with starvedDue := false }
      let s := { s with power := { s.power with creditStarved := sat32 s.power.creditStarved 1 } }
      (allCl.filter fun cl => acctOf cl = a.val).foldl (fun s cl =>
        s.pushEv cl (evRecord 0x07 0 (unitName cl 0x10) [a.val, (BitVec.ofInt 64 v.lastNet).toNat])) s)

/-! ### The request tables (R166 to R168) -/

/-- Whether two core sets share a core. -/
def csMeet (a b : BitVec 12) : Bool := a &&& b ≠ 0

/-- Whether a ring has an entry or a grant with the ledger. -/
def Ring.placed (r : Ring) : Bool := r.posted || r.granted

/-- The core set of the descriptor that a ring offers, or has placed with the ledger. -/
def Ring.candCores (r : Ring) : BitVec 12 := match (if r.placed then r.placedDesc else r.candidate) with
  | some d => tCoreset d
  | none => 0

/-- The rings of a cluster that stand with the ledger. -/
def State.placedRings (s : State) (cl : Cl) : List Nat := (List.range 16).filter fun n => (s.ring cl n).isTask && (s.ring cl n).placed

/-- The cluster to which a candidate would be posted (R126, R178). -/
def State.wouldRun (s : State) (cl : Cl) (d : BitVec 512) : Option Cl := if tReloc d then s.placement cl d else some cl

/-- Whether a ring's candidate may be posted: ready, not placed, and no overlap with an entry for the same cluster. -/
def State.postable (s : State) (cl : Cl) (n : Nat) : Bool :=
  let r := s.ring cl n
  match r.candidate.bind (s.wouldRun cl) with
  | some tgt => r.isTask && !r.placed && r.readySince.isSome &&
      !(s.placedRings cl).any fun m => csMeet (s.ring cl m).candCores r.candCores && decide ((s.ring cl m).runsIn cl = tgt)
  | none => false

/-- LEDGER_REQUEST_POST (R166, R178): the dispatcher's oldest postable candidate takes an entry; at most four a cluster. -/
def execLedgerRequestPost (cl : Cl) (n : Rn) (s : State) : Out :=
  .next (
    let s := s.refreshRing cl n.val
    let r := s.ring cl n.val
    let older (m : Nat) : Bool := match (s.ring cl m).readySince, r.readySince with
      | some a, some b => decide (a < b) || (decide (a = b) && (decide ((s.ring cl m).readyRank < r.readyRank) ||
          (decide ((s.ring cl m).readyRank = r.readyRank) && decide (m < n.val))))
      | _, _ => false
    match r.candidate, r.readySince with
    | some d, some t =>
      if s.power.tripped ∨ !s.postable cl n.val ∨ (s.placedRings cl).length ≥ 4 ∨ (s.clu cl).dispStopped then s
      else if (List.range 16).any fun m => s.postable cl m && older m then s
      else
        match s.wouldRun cl d with
        | none => s
        | some c =>
          let a := s.acct (acctOf c)
          let s := s.setAcct (acctOf c) { a with reqs := a.reqs ++ [⟨cl, n.val, tEclass d, t, r.readyRank, c⟩] }
          s.setRing cl n.val { r with posted := true, target := if tReloc d then some c else none }
    | _, _ => s)

/-- LEDGER_REQUEST_WITHDRAW (R166): an entry whose task is no longer ready. -/
def execLedgerRequestWithdraw (cl : Cl) (n : Rn) (s : State) : Out :=
  .next (
    let s := s.refreshRing cl n.val
    let r := s.ring cl n.val
    if !s.power.tripped ∧ r.posted ∧ !r.granted ∧ (r.readySince.isNone ∨ (s.clu cl).dispStopped) then s.withdraw cl n.val else s)

/-- Whether entry a comes before entry b (R167): age, then cluster 8·y + x, then ring. -/
def LReq.before (a b : LReq) : Bool :=
  decide (a.ready < b.ready) || (decide (a.ready = b.ready) && (decide (a.rank < b.rank) || (decide (a.rank = b.rank) &&
    (decide (a.cl.val % 64 < b.cl.val % 64) || (decide (a.cl.val % 64 = b.cl.val % 64) && decide (a.ring < b.ring))))))

/-- Inserts an entry in order. -/
def insReq (q : LReq) : List LReq → List LReq
  | [] => [q]
  | x :: t => if q.before x then q :: x :: t else x :: insReq q t

/-- Entries in the order of R167. -/
def sortReqs (l : List LReq) : List LReq := l.foldl (fun a q => insReq q a) []

/-- One true-up, refund or self-test debit (R165, R171). -/
def State.applyDue (s : State) (a : Nat) (u : TrueUp) : State :=
  let v := s.acct a
  if u.refund then s.setAcct a (v.addCredit u.d)
  else if u.selftest then s.setAcct a (v.addCredit (-(u.em : Int)))
  else
    let v := v.addCredit ((u.d : Int) - u.em)
    let badEnd := if u.d = 0 then decide (256 < u.em) else decide (5 * u.d < 4 * u.em)
    let score := if badEnd then v.score + 4 else v.score - 1
    if score ≥ 64 then
      let s := s.setAcct a { v with score := 0 }
      let s := { s with power := { s.power with underDeclared := sat32 s.power.underDeclared 1 } }
      s.pushEv u.home (evRecord 0x08 u.taskId (unitName u.home 0x10) [a, u.ring, u.d, u.em])
    else s.setAcct a { v with score := score }

/-- The entry that R167 admits, and whether the starvation guard admits it. -/
def State.admits (s : State) (v : Acct) : Option (LReq × Bool) :=
  let reqs := sortReqs v.reqs
  match reqs.find? fun q => decide (1000 ≤ s.now - q.ready) with
  | some q => if 0 ≤ v.credit then some (q, true) else none
  | none => (reqs.find? fun q => decide ((declared q.eclass : Int) ≤ v.credit)).map fun q => (q, false)

/-- LEDGER_CYCLE (R167): dues are applied, then at most one grant is made unless the guard holds admission. -/
def execLedgerCycle (a : Ac) (s : State) : Out :=
  .next (
    let v := s.acct a.val
    let s := if s.power.tripped then s else v.dues.foldl (fun s u => s.applyDue a.val u) (s.setAcct a.val { v with dues := [] })
    let v := s.acct a.val
    if s.power.hold ∨ s.power.tripped then s
    else match s.admits v with
      | none => s
      | some (q, guard) =>
        let v := { v with
          credit := max creditMin (v.credit - declared q.eclass)
          reqs := v.reqs.filter fun x => x ≠ q
          admissions := v.admissions + 1
          guardAdmits := if guard then v.guardAdmits + 1 else v.guardAdmits }
        let s := s.setAcct a.val v
        s.setRing q.cl q.ring { s.ring q.cl q.ring with granted := true, grantAge := s.now - q.ready })

/-- LEDGER_GRANT (R168): a grant reaches its dispatcher; if the task is no longer ready it is returned. -/
def execLedgerGrant (cl : Cl) (n : Rn) (s : State) : Out :=
  .next (
    let r := s.ring cl n.val
    if r.granted ∧ r.posted ∧ !s.power.tripped then
      match r.candidate with
      | some d =>
        if s.ready cl (r.runsIn cl) d ∧ !(s.clu cl).dispStopped then s.setRing cl n.val { r with posted := false }
        else (s.withdraw cl n.val).refreshRing cl n.val
      | none => s.withdraw cl n.val
    else s)

/-! ### The package guard (R172) -/

/-- GUARD_SAMPLE (R172): powers in W of the hub and of the four dies. -/
def execGuardSample (hub die0 die1 die2 die3 : Nat) (s : State) : Out :=
  .next (
    let w := s.power
    let lim := s.obj 0x2001 1
    let pkg := hub + die0 + die1 + die2 + die3
    let high := decide (lim < pkg)
    let w := { w with
      pkg := pkg, hub := hub, dies := [die0, die1, die2, die3]
      aboveRun := if high then w.aboveRun + 1 else 0
      goodRun := if high then 0 else w.goodRun + 1
      lastAbove2100 := decide (2100 < pkg)
      peak := if w.hold ∨ w.aboveRun ≠ 0 then max w.peak pkg else pkg }
    if w.hold ∧ high then { s with power := { w with g := min 15 (w.g + 1), stepdowns := w.stepdowns + 1 } }
    else if w.hold then ({ s with power := { w with hold := false, goodRun := 0 } }).logEvent 0x84 0xFF 0 0 w.peak w.stepdowns
    else { s with power := w })

/-- GUARD_START (R172): 80 samples above P, or one above 2,100 W. -/
def execGuardStart (s : State) : Out :=
  .next (
    let w := s.power
    if !w.hold ∧ (80 ≤ w.aboveRun ∨ w.lastAbove2100) then
      { s with power := { w with hold := true, stepdowns := 0, goodRun := 0, guardStarts := sat32 w.guardStarts 1 } }
    else s)

/-- GUARD_STEP_UP (R172): 1 ms, ten samples, at or below P. -/
def execGuardStepUp (s : State) : Out :=
  .next (
    let w := s.power
    if !w.hold ∧ 0 < w.g ∧ 10 ≤ w.goodRun then { s with power := { w with g := w.g - 1, goodRun := w.goodRun - 10 } } else s)

/-! ### Heat and clock steps (R174 to R177) -/

/-- THERMAL_SAMPLE (R175, R176), in units of 0.25 °C. -/
def execThermalSample (r : Sensor) (temp : Int) (s : State) : Out :=
  .next (match r with
    | .cluster cl =>
      let v := s.clu cl
      if 380 < temp then
        let s := s.setClu cl { v with temp := temp, therm := min 15 (v.therm + 1), coolRun := 0 }
        if v.therm < 15 then { s with power := { s.power with thermalStepdowns := sat32 s.power.thermalStepdowns 1 } } else s
      else s.setClu cl { v with temp := temp, coolRun := if temp < 368 then v.coolRun + 1 else 0 }
    | .die d => { s with power := { s.power with dieTemps := s.power.dieTemps.set d.val temp } })

/-- THERMAL_STEP_RECOVER (R176): ten consecutive samples below 92.00 °C. -/
def execThermalStepRecover (cl : Cl) (s : State) : Out :=
  .next (
    let v := s.clu cl
    if 10 ≤ v.coolRun then s.setClu cl { v with therm := v.therm - 1, coolRun := 0 } else s)

/-- The ceiling of a cluster (R174, R325). -/
def State.ceiling (s : State) (cl : Cl) : Nat :=
  min (s.obj 0x4001 1) (if s.clPart cl < 16 then s.obj 0x4010 (s.clPart cl + 1) else 15)

/-- The step of R174. -/
def State.stepOf (s : State) (cl : Cl) : Nat := min (s.ceiling cl) (15 - (s.clu cl).therm - s.power.g)

/-- CLOCK_STEP_CHANGE (R174): the island takes its step. -/
def execClockStepChange (cl : Cl) (s : State) : Out := .next (s.setClu cl { s.clu cl with step := s.stepOf cl })

/-- THERMAL_TRIP (R177): at 110 °C or more the pin falls, every compute clock stops and a trip record is written. How
DETAIL numbers the sensor is not stated (log 2). -/
def execThermalTrip (r : Sensor) (temp : Int) (s : State) : Out :=
  .next (
    if temp < 440 ∨ s.power.tripped then s
    else
      let f := s.fresh
      let unit := match r with
        | .cluster cl => unitName cl 0
        | .die d => d.val * 2 ^ 22
      let s := f.2.logEvent 0x85 0xFF unit 0 (f.1.toNat % 2 ^ 56) (temp.toNat % 2 ^ 48)
      let s := allCl.foldl (fun s cl => s.setClu cl { s.clu cl with isl := .held }) s
      { s with power := { s.power with tripped := true }, pins := { s.pins with thermtripN := false } })

end Sys2Proof.Machine
end

