-- ==== Sys2Proof/Machine/Hang.lean ====
section
/-! DEFINITION. Examination of waits, hangs and their dump (R153, R154, R377), and the drop of a micro-batch (R112). -/

namespace Sys2Proof.Machine

open Sys2Proof

/-- Whether some wait of a cluster is at or over a limit in µs. -/
def State.anyOver (s : State) (cl : Cl) (limit : Nat) : Bool := (s.waitsOf cl).any fun w => decide (limit ≤ w.age s)

/-- WAIT_EXAMINATION (R153, R154, step 1): at a whole 100 µs a sync hub sets TRIPPED on each wait at or above the timeout
and sends HANG; none while a cluster of the partition is halted at a breakpoint (R381). -/
def execWaitExamination (cl : Cl) (s : State) : Out :=
  .next (
    let p := s.clPart cl
    let v := s.part p
    if s.now % 100 ≠ 0 ∨ p ≥ 16 ∨ v.run ≠ .running ∨ s.anyHalted p then s
    else if s.anyOver cl (s.waitTimeout p) then
      (s.trip cl (s.waitTimeout p)).setPart p { v with hangDue := true }
    else s)

/-- WAIT_TIMEOUT (R154, steps 2 to 6): one hang of a partition. -/
def execWaitTimeout (p : Pn) (s : State) : Out :=
  .next (if (s.part p.val).hangDue ∧ (s.part p.val).run = .running then s.hangStop p.val 1 0 else s)

/-- The tripped wait with the greatest age of a dump: waiter and counter. -/
def Dump.worst (d : Dump) : Option (Nat × Nat) :=
  d.waits[d.tripped]?.map fun r => (bits 231 208 r.toNat, bits 207 184 r.toNat)

/-- DEVICE_FENCED goes out once no dump of a fence is due any more (R266, step 3). How it names its causes is not stated (log 2). -/
def State.fenceTold (s : State) : State :=
  if s.mgmt.fencedDue ∧ (List.range 16).all fun p => !(s.part p).dumpDue then
    let f := s.fresh
    { f.2 with mgmt := { f.2.mgmt with fencedDue := false } }.devEv 0x11 0xFF 0 (f.1.toNat % 65536) (f.1.toNat / 65536 % 2 ^ 32)
  else s

/-- DUMP_COMPLETE (R154, step 7, R266, R377, R278): HANG_DUMP_BYTES takes the length, then the host event is sent. -/
def execDumpComplete (p : Pn) (s : State) : Out :=
  .next (
    let v := s.part p.val
    match v.dump with
    | none => s
    | some d =>
      if !v.dumpDue then s
      else
        let n := (d.bytes p.val).length
        let s := s.setPart p.val { v with dumpDue := false, dumpBytes := n }
        (if d.cause = 1 ∨ d.cause = 2 then
          let w := d.worst.getD (0, 0)
          (s.hostEv p.val 0x01 (if d.worst.isSome then bits 23 22 w.1 else 0xFF) w.1 0 w.2).logEvent 0x86 p.val w.1 d.step (w.1 * 2 ^ 24 + w.2) n
        else if d.cause = 3 then s.hostEv p.val 0x02 (bits 23 22 d.unit) d.unit 0 0
        else s).fenceTold)

/-! ### A dropped micro-batch (R112 to R114, R279, R280, R286) -/

/-- The clusters of a partition on a die. -/
def State.clustersOn (s : State) (p d : Nat) : List Cl := (s.clustersOf p).filter fun cl => dieOf cl = d

/-- Stops every ring of a cluster as RSTOP does; rings that do not run are left as they are. -/
def State.stopRings (s : State) (cl : Cl) : State :=
  (List.range 16).foldl (fun s n => if (s.ring cl n).st = .running then s.ringStop cl n else s) s

/-- Hub counter 57 of cluster (d, 0, 0) (R272). -/
def State.endCounter (s : State) (d : Nat) : Nat := (s.ctr (nameHub (clAt d 0 0) 57)).value.toNat

/-- The step-end increments that have been made so far count for no later step end. -/
def State.dropMarks (s : State) (p : Nat) : State :=
  let v := s.part p
  s.setPart p { v with endSeen := ((List.range 4).filter fun d => v.runDies.getLsbD d && s.endCounter d ≠ 0).map fun d => (d, s.endCounter d) }

/-- The unit mask M of a shard whose stitch reaches step 3 of R109 now, as the receiving steward core reads it. -/
def State.unitMask (s : State) (p : Nat) : BitVec 4 := (s.part p).dieValid

/-- V, the number of valid micro-batches of a unit mask (R109). -/
def unitValid (m : BitVec 4) : Nat := (diesIn m).length

/-- The drop of die d's micro-batch begins (R112, steps 1 and 2): bit d of the step's die-valid mask clears and d's rings are
stopped. -/
def State.beginDrop (s : State) (p d : Nat) : State :=
  let v := s.part p
  let bit := BitVec.ofNat 4 (2 ^ d)
  (s.clustersOn p d).foldl State.stopRings (s.setPart p { v with dieValid := v.dieValid &&& ~~~bit, dropDies := v.dropDies ||| bit })

/-- The dies of a partition whose state has taken no write and met no error count afresh: a new step or a new attempt begins. -/
def State.clearTouched (s : State) (p : Nat) : State := { s with dram := { s.dram with touched := del s.dram.touched p } }

/-- A checkpoint event: to the host, and as a CHECKPOINT record (R295, R336). -/
def State.ckptEv (s : State) (p code die detail aux : Nat) : State :=
  (s.hostEv p code die 0 detail aux).logEvent 0x8B p 0 (s.part p).stepNow.toNat code (s.part p).stepNow.toNat

/-- A step starts again after a restart (R282): every die's micro-batch is valid, and the host is told; drops that waited for a
restore follow in the step that now begins (R286). -/
def State.stepRestarted (s : State) (p : Nat) : State :=
  let v := s.part p
  let s := (s.setPart p { v with dieValid := v.runDies, restartCause := 0, dropLater := 0 }).clearTouched p
  let s := { s with totals := { s.totals with stepRestarts := sat32 s.totals.stepRestarts 1 } }
  let s := s.ckptEv p 0x05 0xFF (Config.restartCode v.restartCause % 65536) 0
  (diesIn v.dropLater).foldl (fun s d => s.beginDrop p d) s

/-- A step restart (R279, R282, R114): the step's tasks abort, and every die whose state ranges took a write or an error in the step is
restored from its mirror; with none the step starts again at once. -/
def State.stepRestart (s : State) (p cause : Nat) : State :=
  let s := ((s.clustersOf p).foldl (fun s cl => s.abortAll cl) s).dropMarks p
  let v := s.part p
  let due := look 0 s.dram.touched p &&& v.runDies
  let s := s.setPart p { v with restoring := due, restartCause := cause, dropDies := 0, mirroring := [] }
  if due = 0 then s.stepRestarted p else s

/-- MICROBATCH_DROP (R112, R286): the drop of die d's micro-batch begins, or waits while d's shard is being restored. -/
def execMicrobatchDrop (p : Pn) (d : Dn) (s : State) : Out :=
  .next (
    let v := s.part p.val
    if v.run ≠ .running ∨ !v.dieValid.getLsbD d.val then s
    else if v.restoring.getLsbD d.val then s.setPart p.val { v with dropLater := v.dropLater ||| BitVec.ofNat 4 (2 ^ d.val) }
    else s.beginDrop p.val d.val)

/-- Raises a counter of a partition to its expected value, never backward (R112, step 3). -/
def State.raiseCounter (s : State) (p n : Nat) : State :=
  let c := s.ctr n
  if nameOk n ∧ s.clPart (nameCl n) = p ∧ (c.expected - c.value).toNat < 2 ^ 31 ∧ !(s.part p).frozen then
    (s.setCtr n (c.add (c.expected - c.value))).wake n
  else s

/-- Whether a ring of die d's clusters of a partition has not halted. -/
def State.ringsGo (s : State) (p d : Nat) : Bool :=
  (s.clustersOn p d).any fun cl => (List.range 16).any fun n =>
    decide ((s.ring cl n).st = .running) || decide ((s.ring cl n).st = .stopping)

/-- The cores of a die whose faults the step has met are to be tested on demand (R280). -/
def State.testFaulted (s : State) (p d : Nat) : State :=
  ((s.part p).faults.filter fun k => k / 768 = d).foldl (fun s k =>
    let i := s.physOf (Fin.ofNat 256 (k / 12)) (k % 12)
    s.setPhy i { s.phy i with testDue := true }) s

/-- DROP_RINGS_HALTED (R112 to R114, R279, R280): every ring of die d's clusters of the partition has halted. The counters for source d that
the command lists, those of every receiving cluster and outstanding unit, are raised to their expected values; the host is told,
with the first excluded unit. Both come with the command: they stand in the step map that the runtime loads with the program (R280). A
unit that is outstanding and would have V = 0 makes the step restart from partner memory. -/
def execDropRingsHalted (p : Pn) (x : DropDone) (s : State) : Out :=
  .next (
    let v := s.part p.val
    if !v.dropDies.getLsbD x.d.val ∨ s.ringsGo p.val x.d.val then s
    else
      let s := x.ctrs.foldl (fun s n => s.raiseCounter p.val n) s
      let s := s.setPart p.val { s.part p.val with dropDies := v.dropDies &&& ~~~BitVec.ofNat 4 (2 ^ x.d.val) }
      let s := { s with totals := { s.totals with droppedMb := sat32 s.totals.droppedMb 1 } }
      let s : State := (s.hostEv p.val 0x03 x.d.val 0 (x.unit % 65536) 0).testFaulted p.val x.d.val
      if !x.ctrs.isEmpty && decide (unitValid (s.unitMask p.val) = 0) && (s.part p.val).dropDies == 0#4 then s.stepRestart p.val 1 else s)

end Sys2Proof.Machine
end

