-- ==== Sys2Proof/Machine/Nvme.lean ====
section
/-! DEFINITION. NVMe commands of the storage ports: the copies and reads of images that issue them, and the pages that outstanding
commands name (R275, R276, R285, R301, R303, R304). -/

namespace Sys2Proof.Machine

open Sys2Proof

/-- Bytes of a stripe unit (R275, R303). -/
def unitBytes : Nat := 131072

/-- Commands that an I/O queue of 64 entries holds (R301); one entry stays free. -/
def queueRoom : Nat := 63

/-- The length of a job's ranges. -/
def NvmeJob.len (j : NvmeJob) : Nat := j.ranges.foldl (fun n r => n + r.2) 0

/-- The number of units of a job that fall to a port of the pair: the units alternate, the first to S(2a) (R275; DEDUCED, log 34). -/
def NvmeJob.units (j : NvmeJob) (k : Nat) : Nat := (cdiv j.len unitBytes + 1 - k % 2) / 2

/-- The device address at an offset of ranges that follow one another, and what is left of its range. -/
def rangeAt : List (Nat × Nat) → Nat → Nat × Nat
  | [], _ => (0, 0)
  | r :: t, o => if o < r.2 then (r.1 + o, r.2 - o) else rangeAt t (o - r.2)

/-- The pages of unit i of a port (R303): each unit is one Read or Write. -/
def NvmeJob.unit (j : NvmeJob) (k i : Nat) : Nat × Nat :=
  let x := rangeAt j.ranges ((2 * i + k % 2) * unitBytes)
  (x.1, min unitBytes x.2)

/-- Where a storage port's queues, PRP lists and image headers lie, in the system granule of its die (R301). -/
def nvmeArea (k area : Nat) : Nat := k / 2 * 2 ^ 37 + 95 * 2 ^ 30 + Config.nvmePlace k area % 2 ^ 30

/-- A command is issued. -/
def SPort.issue (v : SPort) (op : NvmeOp) (addr len : Nat) : SPort :=
  { v with cmds := v.cmds ++ [⟨v.nextCid, op, addr, len⟩], nextCid := (v.nextCid + 1) % 65536 }

/-- Replaces the job in front of those that have not finished. -/
def setActive (j : NvmeJob) : List NvmeJob → List NvmeJob
  | [] => []
  | x :: t => if x.stage = 6 then x :: setActive j t else j :: t

/-- The job in front of those that have not finished. -/
def SPort.active (v : SPort) : Option NvmeJob := v.jobs.find? fun j => decide (j.stage ≠ 6)

/-- Issues units of a job while the queue has room. -/
def SPort.fill (k : Nat) : Nat → NvmeJob → SPort → SPort
  | 0, j, v => { v with jobs := setActive j v.jobs }
  | n + 1, j, v =>
    if v.cmds.length < queueRoom ∧ j.next < j.units k then
      let u := j.unit k j.next
      SPort.fill k n { j with next := j.next + 1 } (v.issue (if j.write then .write else .read) u.1 u.2)
    else { v with jobs := setActive j v.jobs }

/-- The image header is written (R276): VALID = 0 by Write Zeroes, or by a Write of zeros where the SSD has no Write Zeroes (R303). -/
def SPort.clearHeader (v : SPort) (k : Nat) : SPort := if v.zeroes then v.issue .zeroes 0 0 else v.issue .write (nvmeArea k 5) v.lbaBytes

/-- A stage of a job begins (R276, R285). -/
def SPort.enter (k : Nat) (v : SPort) (j : NvmeJob) : SPort :=
  if j.stage = 1 then { v with jobs := setActive j v.jobs }.clearHeader k
  else if j.stage = 2 then v.fill k queueRoom j
  else if j.stage = 3 ∨ j.stage = 5 then { v with jobs := setActive j v.jobs }.issue .flush 0 0
  else if j.stage = 4 then { v with jobs := setActive j v.jobs }.issue .write (nvmeArea k 5) v.lbaBytes
  else { v with jobs := setActive j v.jobs }

/-- The stage after one whose commands have completed; a read has a body only. -/
def NvmeJob.after (j : NvmeJob) (k : Nat) : NvmeJob :=
  if j.stage = 0 then { j with stage := if j.write then 1 else if j.units k = 0 then 6 else 2 }
  else if j.stage = 1 then { j with stage := if j.units k = 0 then 3 else 2 }
  else if j.stage = 2 then { j with stage := if j.write then 3 else 6 }
  else { j with stage := j.stage + 1 }

/-- A port goes on with its job (R276, R303): more units of the body, or the next step once every command has completed; after a job
the next one begins. -/
def SPort.advance (v : SPort) (k : Nat) : SPort :=
  let step (v : SPort) : SPort := match v.active with
    | none => v
    | some j =>
      if j.stage = 2 ∧ j.next < j.units k then v.fill k queueRoom j
      else if v.cmds.isEmpty then v.enter k (j.after k)
      else v
  if v.st ≠ 2 then v else if v.cmds.isEmpty then step (step v) else step v

/-- The ports of die d take up a job. -/
def State.startJob (s : State) (d : Nat) (j : NvmeJob) : State :=
  [2 * d, 2 * d + 1].foldl (fun s k =>
    let v := s.sport k
    let v := { v with jobs := v.jobs ++ [j] }
    s.setSport k (if v.cmds.isEmpty then v.advance k else v)) s

/-- The ports of die d drop the jobs that meet a condition; the commands of one that has begun go with it. -/
def State.dropJobs (s : State) (d : Nat) (p : NvmeJob → Bool) : State :=
  [2 * d, 2 * d + 1].foldl (fun s k =>
    let v := s.sport k
    let cut := match v.active with
      | some j => p j
      | none => false
    let v := { v with jobs := v.jobs.filter fun j => !p j, cmds := if cut then [] else v.cmds }
    s.setSport k (if v.cmds.isEmpty then v.advance k else v)) s

/-- Whether both ports of die d have finished the job of a partition and an image's die (R276, R285). -/
def State.jobsDone (s : State) (d p die : Nat) (write : Bool) : Bool :=
  [2 * d, 2 * d + 1].all fun k =>
    (s.sport k).jobs.any fun j => decide (j.part = p) && decide (j.die = die) && j.write == write && decide (j.stage = 6)

/-- Whether a range lies in the pages that an outstanding command names, in the direction that the command allows (R304): an SSD reads what
a Write sends and writes what a Read asks for. -/
def NvmeCmd.allows (c : NvmeCmd) (a n : Nat) (write : Bool) : Bool :=
  let lo := c.addr / 4096 * 4096
  let hi := cdiv (c.addr + c.len) 4096 * 4096
  (match c.op with
    | .write => !write
    | .read => write
    | _ => false) && decide (lo ≤ a) && decide (a + n ≤ hi) && decide (0 < c.len)

/-- Whether an inbound request of n bytes may be accepted (R304): in the submission queues and PRP lists to read, in the completion queues
to write, or in the pages of an outstanding command. Admin queues have 16 entries, I/O queues 64 (R301), of 64 and 16 bytes; a PRP list
has 32 entries for each command. -/
def State.inboundMay (s : State) (k a n : Nat) (write : Bool) : Bool :=
  let inArea (area len : Nat) : Bool := decide (nvmeArea k area ≤ a) && decide (a + n ≤ nvmeArea k area + len)
  (if write then inArea 2 256 || inArea 3 1024 else inArea 0 1024 || inArea 1 4096 || inArea 4 16384)
    || (s.sport k).cmds.any fun c => c.allows a n write

end Sys2Proof.Machine
end

