-- ==== Sys2Proof/Machine/Failure.lean ====
section
/-! DEFINITION. Core map changes and degradation (R191 to R199), copies of training state (R268 to R286), and what a fence
does (R199, R266, R279, R283). -/

namespace Sys2Proof.Machine

open Sys2Proof

/-! ### The core map (R191 to R198) -/

/-- Gives physical core i the state st of R191, with no home. -/
def State.setMapState (s : State) (i st : Nat) : State := s.setMapEntry i (BitVec.ofNat 16 (st * 8192))

/-- STATE of physical core i (R191). -/
def State.coreState (s : State) (i : Nat) : Nat := mapState (s.mapEntry i)

/-- R193's preference of a spare of cluster c for a home cluster: same cluster, then the same granule by hops, then the
rest of the die by hops. -/
def sparePreference (home c : Cl) : Nat :=
  if c = home then 0 else if acctOf c = acctOf home then 1 + hopsBetween home c else 100 + hopsBetween home c

/-- R193's choice of a field spare for a logical core of a home cluster, by core-map index. -/
def State.chooseSpare (s : State) (home : Cl) : Option Nat :=
  let cands := (List.range 768).map (fun k => 768 * dieOf home + k) |>.filter fun i => decide (s.coreState i = 1) && !(s.phy i).busy
  (cands.foldl (fun (b : Option (Nat × Nat)) i =>
    let w := sparePreference home (Fin.ofNat 256 (i / 12))
    match b with
    | none => some (i, w)
    | some (j, v) => if w < v then some (i, w) else some (j, v)) none).map (·.1)

/-- A CORE record (R336): 0 repair, 1 retire, 2 remap, 3 degrade. -/
def State.logCore (s : State) (i what : Nat) : State :=
  s.logEvent 0x87 0xFF (unitName (Fin.ofNat 256 (i / 12)) (i % 12)) 0 (what * 65536 + i) s.fabric.mapGen.toNat

/-- The DEGRADED event (R198, R199, R295): the die, the home cluster, the logical core (0xF for a whole cluster or die), and
the new enabled count; it goes to the partition's function and to both physical functions. -/
def State.degradedEvent (s : State) (cl : Cl) (core : Nat) : State :=
  let p := s.clPart cl
  let r := hostRecord 0x0B p (if p < 16 then (s.part p).stepNow.toNat else 0) (dieOf cl) (unitName cl core) (s.enabledOf (dieOf cl)) s.fabric.mapGen.toNat s.now
  let fs : List Nat := match (if p < 16 then s.fnOf p else none) with
    | some f => if f = 0 ∨ f = 8 then [0, 8] else [f, 0, 8]
    | none => [0, 8]
  fs.foldl (fun s f => s.fnEvent f r) s

/-- The clusters whose task rings may name a logical core of a cluster: those of its partition. -/
def State.mayName (s : State) (cl : Cl) : List Cl := if s.clPart cl < 16 then s.clustersOf (s.clPart cl) else [cl]

/-- A change that lowers an enabled count (R198, R200): the map generation rises, the grade is degraded, and descriptors that name the
lost core fail R117. -/
def State.degrade (s : State) (cl : Cl) (core : Nat) : State :=
  let s := { s with fabric := { s.fabric with mapGen := s.fabric.mapGen + 1, gradeNow := 0x44 } }
  (s.mayName cl).foldl (fun s c => (List.range 16).foldl (fun s n => s.failMissing c n) s) (s.degradedEvent cl core)

/-- Logical core c of a cluster loses its physical core (R195, R198): it waits for a remap while the die has a spare, or
ceases to be enabled. -/
def State.loseCore (s : State) (cl : Cl) (c : Cn) : State :=
  if 0 < s.sparesOf (dieOf cl) then
    { s with fabric := { s.fabric with remapDue := s.fabric.remapDue ++ [coreKey cl c] } }
  else (s.degrade cl c.val).logCore (coreKey cl c) 3

/-- Spare i takes the name of logical core c of a home cluster (R193, R195): STATE 4 with the home's name, its tile store
cleared (R90), its island powered (R184). -/
def State.giveSpare (s : State) (i : Nat) (home : Cl) (c : Cn) : State :=
  let here : Cl := Fin.ofNat 256 (i / 12)
  let s := s.setMapEntry i (BitVec.ofNat 16 (4 * 8192 + xOf home * 128 + yOf home * 16 + c.val))
  let s := { s with fabric := { s.fabric with remapDue := s.fabric.remapDue.filter fun k => k ≠ coreKey home c } }
  let k := s.core home c
  let s := s.setCore home c { k with ts := Mem.empty, bankConf := 0, reuseHits := 0 }
  if (s.clu here).isl = .gated then s.setClu here { s.clu here with isl := .running } else s

/-- Adds a core's counts to those of the physical core that it leaves (R329). -/
def State.keepCounts (s : State) (i : Nat) (k : Core) : State :=
  s.setPhy i { s.phy i with conf := (s.phy i).conf + k.bankConf, reuse := (s.phy i).reuse + k.reuseHits }

/-! ### Sparse ranges of DRAM -/

/-- The device address of a channel address (R206, R207): the inverse of the address map. -/
def State.devAddr (s : State) (ph : Nat) : Nat :=
  let d := ph / 2 ^ 37
  let ch := ph / 2 ^ 33 % 16
  let off := ph % 2 ^ 33
  let j := off / 2 ^ 30
  let r := off % 2 ^ 30
  if j < 5 ∧ bits j j (s.obj 0x3012 (d + 1)) = 1 then d * 2 ^ 37 + (16 * j + ch) * 2 ^ 30 + r
  else d * 2 ^ 37 + j * 2 ^ 34 + (r / 4096) * 65536 + ch * 4096 + r % 4096

/-- What reads of a store deliver, as a store: corrected words corrected, uncorrectable ones poisoned (R252). -/
def Mem.delivered (m : Mem) : Mem :=
  m.syn.foldl (fun m e => match verdict e.2 with
    | .corrected _ _ => m.fixWord e.1
    | .uncorrectable => m.poisonWord e.1
    | _ => m) m

/-- Listed bytes of a range of device addresses, by offset, as reads deliver them. -/
def State.rangeBytes (s : State) (base len : Nat) : SMap Byte :=
  (s.dram.mem.delivered.bytes.filter fun e => inSpan base len (s.devAddr e.1)).foldl (fun m e => put 0 m (s.devAddr e.1 - base) e.2) []

/-- Offsets of the words of a range that are poisoned as delivered. -/
def State.rangePoison (s : State) (base len : Nat) : List Nat :=
  (s.dram.mem.syn.filter fun e => (decide (verdict e.2 = .poisoned) || decide (verdict e.2 = .uncorrectable)) && inSpan base len (s.devAddr (16 * e.1))).map
    fun e => s.devAddr (16 * e.1) - base

/-- Replaces a range of device addresses by the bytes given, poisoning the words listed. -/
def State.fillRange (s : State) (base len : Nat) (bs : SMap Byte) (bad : List Nat) : State :=
  let m : Mem := ⟨s.dram.mem.bytes.filter fun e => !inSpan base len (s.devAddr e.1), s.dram.mem.syn.filter fun e => !inSpan base len (s.devAddr (16 * e.1))⟩
  let m := bs.foldl (fun m e => m.setRaw (s.phys (base + e.1)) e.2) m
  s.setDram (bad.foldl (fun m o => m.poisonWord (s.phys (base + o) / 16)) m)

/-- Several ranges read one after another, without gaps: listed bytes, poisoned words, and length. -/
def State.gatherRanges (s : State) (rs : List (Nat × Nat)) : SMap Byte × List Nat × Nat :=
  rs.foldl (fun (a : SMap Byte × List Nat × Nat) r =>
    (a.1 ++ (s.rangeBytes r.1 r.2).map (fun e => (a.2.2 + e.1, e.2)), a.2.1 ++ (s.rangePoison r.1 r.2).map (fun o => a.2.2 + o), a.2.2 + r.2)) ([], [], 0)

/-- Writes one sequence of bytes into several ranges. -/
def State.scatterRanges (s : State) (rs : List (Nat × Nat)) (bs : SMap Byte) (bad : List Nat) : State :=
  (rs.foldl (fun (a : State × Nat) r =>
    let mine := (bs.filter fun e => inSpan a.2 r.2 e.1).map fun e => (e.1 - a.2, e.2)
    (a.1.fillRange r.1 r.2 mine ((bad.filter fun o => inSpan a.2 r.2 o).map fun o => o - a.2), a.2 + r.2)) (s, 0)).1

/-- The transfer sum of listed bytes (R246). -/
def sumOf (bs : SMap Byte) : Nat := bs.foldl (fun a e => (a + e.2.toNat * 256 ^ (e.1 % 8)) % 2 ^ 64) 0

/-! ### State ranges and slots (R268 to R274) -/

/-- Partner slot i of die d, 0 none (R287). -/
def State.slotNamed (s : State) (p d i : Nat) : Nat := sliceNat (s.obj 0x6013 (p + 1)) (16 * d + 8 * i) 8
/-- The local slot of die d, 0 none (R284). -/
def State.localSlot (s : State) (p d : Nat) : Nat := sliceNat (s.obj 0x6013 (p + 1)) (64 + 8 * d) 8
/-- MIRROR_MODE (R274). -/
def State.mirrorMode (s : State) (p : Nat) : Nat := s.obj 0x6011 (p + 1)

/-- The header of a slot (R271), bit 0 in the lowest byte (R315). -/
def State.slotHeader (s : State) (a : Nat) : Nat := leNat (s.dramBytes a 32)

/-- A slot header's bits. -/
def slotBits (src valid lock hold step len sum time : Nat) : Nat :=
  pack [(16, 0x4D52), (2, src), (1, valid), (1, lock), (1, hold), (11, 0), (32, step), (64, len), (64, sum), (64, time)]

/-- Writes a slot's header. -/
def State.setSlotHeader (s : State) (a h : Nat) : State := s.dramBytesWr a (leBytes 32 h)
/-- Sets or clears a bit of a slot's header. -/
def State.slotBit (s : State) (a bit : Nat) (on : Bool) : State :=
  let h := s.slotHeader a
  let clr := if bits bit bit h = 1 then h - 2 ^ bit else h
  s.setSlotHeader a (if on then clr + 2 ^ bit else clr)

/-- Whether a slot is marked VALID for die d (R271). -/
def State.slotMarked (s : State) (a d : Nat) : Bool :=
  let h := s.slotHeader a
  decide (a ≠ 0) && decide (bits 255 240 h = 0x4D52) && decide (bits 239 238 h = d) && decide (bits 237 237 h = 1)

/-- Whether die d can be restored from a slot (R279, R282): it is VALID, holds no poisoned word, and no die that holds it is fenced. -/
def State.slotValid (s : State) (a d : Nat) : Bool :=
  s.slotMarked a d && (s.rangePoison a (4096 + bits 191 128 (s.slotHeader a))).isEmpty && !s.fabric.dieFenced.getLsbD (bits 38 37 a)

/-- STEP of a slot. -/
def State.slotStep (s : State) (a : Nat) : Nat := bits 223 192 (s.slotHeader a)

/-- The partner slots that the mode uses (R274). -/
def State.slotsOf (s : State) (p d : Nat) : List Nat :=
  ((List.range (s.mirrorMode p)).map fun i => s.slotNamed p d i).filter fun a => a ≠ 0

/-- The newest of the VALID slots given. -/
def State.newestOf (s : State) (d : Nat) (slots : List Nat) : Option Nat :=
  (slots.filter fun a => s.slotMarked a d).foldl (fun (b : Option Nat) a => match b with
    | none => some a
    | some x => if s.slotStep x < s.slotStep a then some a else some x) none

/-- The slots that die d mirrors into: its local slot once it carries two shards (R284), otherwise those of its partner. -/
def State.mirrorTargets (s : State) (p d : Nat) : List Nat :=
  if s.carries p d then [s.localSlot p d].filter fun a => a ≠ 0 else s.slotsOf p d

/-- Die d's most recent VALID slot (R275, R277, R282). -/
def State.newestSlot (s : State) (p d : Nat) : Option Nat := s.newestOf d (s.mirrorTargets p d)

/-! ### Images (R276, R285) -/

/-- The image in area `a` of die d's SSD pair. -/
def State.image (s : State) (d a : Nat) : Image := look Image.init s.store.images (2 * d + a)
/-- Replaces an image. -/
def State.setImage (s : State) (d a : Nat) (v : Image) : State :=
  { s with store := { s.store with images := put Image.init s.store.images (2 * d + a) v } }

/-- Whether both storage ports of die d are up, so that its images can be read and written (R301, R304). -/
def State.portsUp (s : State) (d : Nat) : Bool := decide ((s.sport (2 * d)).st = 2) && decide ((s.sport (2 * d + 1)).st = 2)

/-- The area of die d that holds its newest complete image. -/
def State.newestArea (s : State) (d : Nat) : Option Nat :=
  let a := s.image d 0
  let b := s.image d 1
  if a.valid && b.valid then (if a.step.toNat < b.step.toNat then some 1 else some 0)
  else if a.valid then some 0 else if b.valid then some 1 else none

/-- The area of die d with a complete image of a step. -/
def State.areaOf (s : State) (d step : Nat) : Option Nat :=
  (List.range 2).find? fun a => s.portsUp d && (s.image d a).valid && decide ((s.image d a).step.toNat = step)

/-- The greatest step for which every die of a list has a complete image (R285). -/
def State.commonImage (s : State) (ds : List Nat) : Option Nat :=
  match ds with
  | [] => none
  | d :: _ => (((List.range 2).filter fun a => (s.image d a).valid).map fun a => (s.image d a).step.toNat).foldl (fun (b : Option Nat) t =>
      if ds.all fun e => (s.areaOf e t).isSome then match b with
        | none => some t
        | some x => some (max x t)
      else b) none

/-! ### Protection (R270) -/

/-- PROTECTION as R270 defines it, for the dies on which the partition has its shards. The slots of a lost die are no mirror any more, and
a slot on a fenced die is none (R283). -/
def State.protectionOf (s : State) (p : Nat) : Nat :=
  let ds := diesIn (s.diesOf p)
  let any_ (d : Nat) : Bool := !s.fabric.dieFenced.getLsbD d && (s.slotsOf p d).any fun a => s.slotValid a d
  let cur (d : Nat) : Bool := any_ d && (s.slotsOf p d).any fun a => s.slotValid a d && decide (s.slotStep a = (s.part p).stepNow.toNat)
  let img (d : Nat) : Bool := s.portsUp d && (s.newestArea d).isSome
  if ds.isEmpty then 3
  else if ds.all cur then 0
  else if ds.any fun d => !cur d && !img d then 3
  else if ds.all fun d => !any_ d then 2
  else 1

/-- Brings PROTECTION up to date; every change is sent to the host (R270). -/
def State.reprotect (s : State) (p : Nat) : State :=
  let l := s.protectionOf p
  if l = (s.part p).prot then s
  else
    let s := s.setPart p { s.part p with prot := l }
    (s.hostEv p 0x0D 0xFF 0 l 0).logEvent 0x8B p 0 (s.part p).stepNow.toNat 0x0D (s.part p).stepNow.toNat

/-- Abandons a die's flash copy (R276): its area stays invalid, and the commands of its ports are given up. -/
def State.flashFail (s : State) (p d a : Nat) : State :=
  let mine (j : NvmeJob) : Bool := decide (j.part = p) && j.write && decide (j.die = d ∨ j.die = s.partner d ∧ s.carries p d)
  let s := ((s.slotBit a 236 false).dropJobs d mine).dropJobs (s.partner d) mine
  let s := s.setPart p { s.part p with flash := del (s.part p).flash d }
  (s.ckptEv p 0x10 d 0 (s.slotStep a)).reprotect p

/-- Abandons the flash copies of a partition whose slots meet a condition. -/
def State.flashAbandon (s : State) (p : Nat) (f : Nat → Bool) : State :=
  ((s.part p).flash.filter fun e => f e.2).foldl (fun s e => s.flashFail p e.1 e.2) s

/-! ### What a fence costs a run (R279, R283) -/

/-- The ranges into which die d's image is read: its own, or those that its partner took over (R283, R285). -/
def State.imageRanges (s : State) (p d : Nat) : List (Nat × Nat) :=
  if s.shardMoved p d then match find (s.part p).liveSlot d with
    | some a => [(a + 4096, s.ownLen p d)]
    | none => []
  else s.namedRanges p d

/-- The storage ports begin to read the images of a step into the state ranges (R285). -/
def State.readImages (s : State) (p : Nat) : State :=
  (diesIn (s.diesOf p)).foldl (fun s d =>
    (s.dropJobs d fun j => decide (j.part = p) && !j.write).startJob d ⟨p, d, false, s.imageRanges p d, 0, 0⟩) s

/-- A roll back to the newest image that is complete on every die, or a lost run (R279, R285). While it lasts nothing is
dispatched. -/
def State.beginRollback (s : State) (p : Nat) : State :=
  let s := (s.clustersOf p).foldl (fun s cl => s.abortAll cl) (s.stopDispatch p)
  let v := s.part p
  let s := s.setPart p { v with mirroring := [], restoring := 0, watching := false, dropDies := 0, dropLater := 0, releaseDue := false }
  match s.commonImage (diesIn (s.diesOf p)) with
  | some t => ((s.setPart p { s.part p with rolling := some t }).readImages p).ckptEv p 0x09 0xFF 0 t
  | none => s.ckptEv p 0x0A 0xFF 0 0

/-- Whether a step is in its mirror phase (R278). -/
def Part.inMirror (v : Part) : Bool := !v.mirroring.isEmpty

/-- Whether die d's shard can live on in its partner's DRAM (R279, R283): the partner runs, carries no other shard, is not being restored
from the die, and holds a slot of the last completed step that can be restored from. -/
def State.shardStands (s : State) (p d : Nat) : Bool :=
  let v := s.part p
  let b := s.partner d
  let slot := match s.newestOf d (s.slotsOf p d) with
    | some a => s.slotValid a d && decide (s.slotStep a = v.stepNow.toNat)
    | none => false
  v.runDies.getLsbD b && !s.carries p d && !v.restoring.getLsbD b && slot

/-- Die d leaves partition p's run (R92, R283): its partner, if it runs, takes over its shard, whose live state is the newest of its
slots. Copies that read a slot on the die are abandoned (R286). -/
def State.leaveRun (s : State) (p d : Nat) : State :=
  let s := s.flashAbandon p fun a => decide (bits 38 37 a = d)
  let v := s.part p
  let b := s.partner d
  let bit := BitVec.ofNat 4 (2 ^ d)
  let slot := (s.newestOf d (s.slotsOf p d)).or (s.slotsOf p d).head?
  s.setPart p { v with
    runDies := v.runDies &&& ~~~bit, dieValid := v.dieValid &&& ~~~bit, mirroring := [], restoring := v.restoring &&& ~~~bit
    dropDies := v.dropDies &&& ~~~bit, dropLater := v.dropLater &&& ~~~bit, ackDue := true
    shardDies := if v.runDies.getLsbD b then v.shardDies ||| bit else v.shardDies
    liveSlot := match slot with
      | some a => if v.runDies.getLsbD b then ins v.liveSlot d a else v.liveSlot
      | none => v.liveSlot }

/-- What the loss of die d costs partition p's run (R279, R283). In the forward and backward part of a step its tasks abort; in the optimizer
part the other dies' work goes on. Whether the step has passed its last stitch is known to
the runtime, not to the device: a free bit (log 2). -/
def State.dieLost (s : State) (p d : Nat) : State :=
  let v := s.part p
  if v.run ≠ .running ∨ !v.runDies.getLsbD d then s
  else
    let stands := s.shardStands p d
    let s := (s.ckptEv p 0x07 d 0 0).leaveRun p d
    if v.inMirror ∨ !stands then s.beginRollback p
    else
      let f := s.fresh
      let s := f.2.stopDispatch p
      if f.1.getLsbD 0 then
        ({ s with totals := { s.totals with shardSkips := sat32 s.totals.shardSkips 1 } }).ckptEv p 0x08 d 0 0
      else (s.clustersOf p).foldl (fun s cl => s.abortAll cl) (s.setPart p { s.part p with restartCause := 2 })

/-- What the loss of a cluster costs partition p's run (R279). -/
def State.clusterLost (s : State) (p : Nat) (cl : Cl) : State :=
  let v := s.part p
  if v.run ≠ .running then s
  else
    let s := (s.hostEv p 0x06 (dieOf cl) (unitName cl 0) 0 0).logEvent 0x8B p (unitName cl 0) v.stepNow.toNat 0x06 v.stepNow.toNat
    if v.inMirror then s else s.stepRestart p 3

/-! ### Fences (R183, R199, R264, R266) -/

/-- Aborts the tasks of a home cluster that run in other clusters. -/
def State.abortAway (s : State) (home : Cl) : State :=
  (s.clustersOf (s.clPart home)).foldl (fun s cl => (s.clu cl).tasks.foldl (fun s e => if e.2.home = home then s.stopTask cl e.1 2 else s) s) s

/-- The island and the core-map entries of a fenced cluster (R183, R199). -/
def State.fenceIsland (s : State) (cl : Cl) : State :=
  let s := (s.abortAll cl).abortAway cl
  let s := s.setClu cl { s.clu cl with isl := .fenced, dispStopped := true }
  { s with fabric := { s.fabric with remapDue := s.fabric.remapDue.filter fun k => k / 12 ≠ cl.val } }

/-- A fenced cluster (R199). -/
def State.clusterFence (s : State) (cl : Cl) : State :=
  if (s.clu cl).isl = .fenced then s
  else
    let s := s.fenceIsland cl
    let mine := (List.range 12).map fun c => 12 * cl.val + c
    let serving := mine.filter fun i => s.coreState i = 4
    let names := (serving.map fun i => servedName i (s.mapEntry i)).filter fun nm => nm.1 ≠ cl
    let s := (allCn.filterMap fun c => s.servedBy cl c.val).foldl (fun s i => s.setMapState i 1) s
    let s := mine.foldl (fun s i => s.setMapState i 5) s
    let s := names.foldl (fun s nm =>
      let s := match (s.core nm.1 nm.2).task with
        | some key => s.stopTask nm.1 key 2
        | none => s
      let s := (List.range 48).foldl (fun s k => s.setCtr (nameCore nm.1 nm.2.val k) ⟨0, 0, true⟩) s
      s.loseCore nm.1 nm.2) s
    let s := s.degrade cl 0xF
    if s.clPart cl < 16 then s.clusterLost (s.clPart cl) cl else s

/-- A whole die that is fenced (R198, R279, R283). -/
def State.dieFence (s : State) (d : Nat) : State :=
  if s.fabric.dieFenced.getLsbD d then s
  else
    let cls := allCl.filter fun cl => dieOf cl = d
    let s := { s with fabric := { s.fabric with dieFenced := s.fabric.dieFenced ||| BitVec.ofNat 4 (2 ^ d) } }
    let s := cls.foldl State.fenceIsland s
    let s := (List.range 768).foldl (fun s k => s.setMapState (768 * d + k) 5) s
    let s := { s with fabric := { s.fabric with mapGen := s.fabric.mapGen + 1, gradeNow := 0x44 } }
    let leads := (List.range 4).map (fun q => granLead (4 * d + q))
    let told := leads.foldl (fun (a : List Cl) c => if a.any fun x => s.clPart x = s.clPart c then a else a ++ [c]) []
    let s := told.foldl (fun s c => s.degradedEvent c 0xF) s
    (List.range 16).foldl (fun s p => if s.hasRun p then (s.dieLost p d).reprotect p else s) s

/-- Steps 1 to 3 of R266, for the errors that caused it or for the field link (R311): dispatch stops, every partition freezes, dumps are
taken, both hosts are told once they are complete. -/
def State.deviceFence (s : State) (causes : List ErrIn) (field : Bool) : State :=
  if s.mgmt.fenced then s
  else
    let s := { s with mgmt := { s.mgmt with fenced := true, fencedDue := true, fenceField := field, fenceCauses := causes }, pins := { s.pins with devFaultN := false } }
    let s := allCl.foldl (fun s cl => s.setClu cl { s.clu cl with dispStopped := true }) s
    let s := (List.range 16).foldl (fun s p =>
      if s.hasRun p then
        let v := s.part p
        let s := s.hangStop p 4 0
        let s := s.setPart p { s.part p with run := .fenced }
        s.logEvent 0x89 p 0 v.stepNow.toNat 4 ((s.now - v.startAt) / 1000)
      else s.setPart p { s.part p with frozen := true }) s
    s.fenceTold

end Sys2Proof.Machine
end

