-- ==== Sys2Proof/Machine/Fabric.lean ====
section
/-! DEFINITION. Self-test, in-field repair and retirement (R43 to R47), coppice remap (R193 to R197), power gating (R184),
crossings (R182, R183) and links (R189, R190). -/

namespace Sys2Proof.Machine

open Sys2Proof

/-! ### The start of a step (R272, R280) -/

/-- A core's fault belongs to the step that its partition runs (R279, R280, R281). -/
def State.noteFault (s : State) (cl : Cl) (c : Cn) : State :=
  let p := s.clPart cl
  let v := s.part p
  if p < 16 ∧ v.run = .running ∧ !v.faults.contains (coreKey cl c) then s.setPart p { v with faults := v.faults ++ [coreKey cl c] } else s

/-- Whether a core whose fault the step has met is still being tested, repaired or remapped (R280). -/
def State.faultsPending (s : State) (p : Nat) : Bool :=
  (s.part p).faults.any fun k =>
    (s.phy (s.physOf (Fin.ofNat 256 (k / 12)) (k % 12))).busy || s.fabric.remapDue.contains k

/-- Increments hub counter 58 of every cluster of a partition (R272, step 5): the next step begins. -/
def State.release58 (s : State) (p : Nat) : State :=
  let s := s.setPart p { s.part p with releaseDue := false, faults := [] }
  (s.clustersOf p).foldl (fun s cl =>
    let n := nameHub cl 58
    (s.setCtr n ((s.ctr n).add 1)).wake n) s

/-- The next step begins, or is held until the tests and remaps of its faulted cores have completed (R280). -/
def State.nextStepMay (s : State) (p : Nat) : State :=
  if s.faultsPending p then s.setPart p { s.part p with releaseDue := true } else s.release58 p

/-- Every step that is held begins once nothing holds it any more. -/
def State.heldSteps (s : State) : State :=
  (List.range 16).foldl (fun s p => if (s.part p).releaseDue && !s.faultsPending p then s.release58 p else s) s

/-! ### Self-test (R45 to R47) -/

/-- The self-test interval of a partition in µs (R324). -/
def State.testInterval (s : State) (p : Nat) : Nat := s.obj 0x3024 (p + 1) * 1000

/-- SELFTEST_DUE (R46): a periodic test of the core at core-map index 12·cl + c falls due, c/12 of the interval after the
start of the run, or an interval after its previous test began. -/
def execSelftestDue (cl : Cl) (c : Cn) (s : State) : Out :=
  .next (
    let i := coreKey cl c
    let nm := servedName i (s.mapEntry i)
    let p := s.clPart nm.1
    let v := s.phy i
    let st := (s.part p).startAt
    let due := if st ≤ v.prevStart ∧ v.prevStart ≠ 0 then v.prevStart + s.testInterval p else st + nm.2.val * s.testInterval p / 12
    if p < 16 ∧ (s.part p).run = .running ∧ (s.coreState i = 0 ∨ s.coreState i = 4) ∧ !v.testing ∧ due ≤ s.now then s.setPhy i { v with testDue := true } else s)

/-- SELFTEST_START (R45, R46): at a task boundary of its core a due self-test begins. -/
def execSelftestStart (cl : Cl) (c : Cn) (s : State) : Out :=
  .next (
    let i := coreKey cl c
    let nm := servedName i (s.mapEntry i)
    let v := s.phy i
    let spare := s.coreState i = 1
    let idle_ := spare ∨ ((s.core nm.1 nm.2).task.isNone ∧ (s.core nm.1 nm.2).phase = .free)
    if v.testDue ∧ !v.testing ∧ (spare ∨ s.coreState i = 0 ∨ s.coreState i = 4) ∧ idle_ ∧ (s.clu cl).isl = .running then
      let s := s.setPhy i { v with testDue := false, testing := true, testEnergy := 0, prevStart := s.now }
      { s with fabric := { s.fabric with selftestRuns := sat32 s.fabric.selftestRuns 1 } }
    else s)

/-- Fields of the repair word (R43). -/
def testRow (w : W32) : Nat := bits 11 6 w.toNat
/-- TEST_COL. -/
def testCol (w : W32) : Nat := bits 17 12 w.toNat
/-- IFR_VALID. -/
def ifrValid (w : W32) : Bool := w.getLsbD 25
/-- The effective row skip (R43). -/
def rowSkip (w : W32) : Nat := if ifrValid w && !w.getLsbD 24 then bits 23 18 w.toNat else testRow w
/-- The effective column skip (R43). -/
def colSkip (w : W32) : Nat := if ifrValid w && w.getLsbD 24 then bits 23 18 w.toNat else testCol w
/-- Whether an index field of a repair word is above 32, which retires the core at option loading (R43). -/
def repairBad (w : W32) : Bool := decide (32 < bits 23 18 w.toNat) || decide (32 < testCol w) || decide (32 < testRow w)

/-- R44's decision on the failing cells in use that the test reports: a repair (true: a column skip) with its index, or none: retire. A
single cell takes the rows of R44 for a single cell; the flag that more cells failed does not enter, since the rule decides from the cells
that are reported (both DEDUCED, log 26). -/
def repairChoice (v : Phys) (fails : List BadCell) : Option (Bool × Nat) :=
  let rowFree := decide (testRow v.repair = 32) && !v.spareRowSpent
  let colFree := decide (testCol v.repair = 32) && !v.spareColSpent
  match fails with
  | [] => none
  | f :: rest =>
    let oneRow := rest.all fun g => g.row = f.row
    let oneCol := rest.all fun g => g.col = f.col
    if ifrValid v.repair then none
    else if oneRow && oneCol then (if colFree then some (true, f.col) else if rowFree then some (false, f.row) else none)
    else if oneRow then (if rowFree then some (false, f.row) else none)
    else if oneCol then (if colFree then some (true, f.col) else none)
    else none

/-- A self-test failure is told to the host of the home cluster (R281), and the core's fault belongs to the step that runs. How the record
gives the time of the last passing test and the first step after it is not stated (log 2). -/
def State.selftestFailed (s : State) (nm : Cl × Cn) (v : Phys) : State :=
  let w := Config.selftestWords v.lastPass v.passStep
  (s.hostEv (s.clPart nm.1) 0x0C (dieOf nm.1) (unitName nm.1 nm.2.val) (w % 65536) (w / 65536 % 2 ^ 32)).noteFault nm.1 nm.2

/-- The first step of a partition that begins after now (R281): the one after the step that runs, or the next one between steps. -/
def State.nextStep (s : State) (p : Nat) : Nat :=
  let v := s.part p
  if p < 16 ∧ v.run = .running ∧ !v.inMirror then v.stepNow.toNat + 2 else v.stepNow.toNat + 1

/-- SELFTEST_END (R44, R45, R47, R196): the result of the test of physical core 12·cl + c. Failing cells in a line that the
array skips are not in use: they mark a spare line spent (DEDUCED, log 26). The test leaves the accumulators at +0, and takes their
poison marks with their contents, which R45 does not name (DESIGN CHOICE, log 87). -/
def execSelftestEnd (cl : Cl) (c : Cn) (fails : List BadCell) (more : Bool) (s : State) : Out :=
  .next (
    let i := coreKey cl c
    let v := s.phy i
    if !v.testing then s
    else
      let w := v.repair
      let spare := s.coreState i = 1
      let used := fails.filter fun f => f.row ≠ rowSkip w ∧ f.col ≠ colSkip w
      let v := { v with
        testing := false
        spareRowSpent := v.spareRowSpent || (decide (rowSkip w = 32) && fails.any fun f => f.row = 32)
        spareColSpent := v.spareColSpent || (decide (colSkip w = 32) && fails.any fun f => f.col = 32) }
      let nm := servedName i (s.mapEntry i)
      let s := if spare then s
        else
          let k := s.core nm.1 nm.2
          let s := s.setCore nm.1 nm.2 { k with acc := [], accPoison := 0, rowMask := 0xFFFFFFFF#32, colMask := 0xFFFFFFFF#32 }
          let a := s.acct (acctOf nm.1)
          s.setAcct (acctOf nm.1) { a with dues := a.dues ++ [⟨v.testEnergy, 0, true, false, nm.1, 0, 0⟩] }
      if used = [] ∧ !more then (s.setPhy i { v with lastPass := s.now, passStep := s.nextStep (s.clPart nm.1) }).heldSteps
      else
        let s := { s with fabric := { s.fabric with selftestFails := sat32 s.fabric.selftestFails 1 } }
        if spare then (s.setPhy i v).setMapState i 2
        else
          let s := s.selftestFailed nm v
          match repairChoice v used with
          | some r => s.setPhy i { v with fuseWait := some r }
          | none => s.setPhy i { v with retireDue := true })

/-- IFR_FUSE_PROGRAMMED (R43, R44): the repair fuse reads back and the self-test is run again, or the core is retired. -/
def execIfrFuseProgrammed (cl : Cl) (c : Cn) (readbackOk : Bool) (s : State) : Out :=
  .next (
    let i := coreKey cl c
    let v := s.phy i
    match v.fuseWait with
    | none => s
    | some (col, idx) =>
      if readbackOk then
        let w : W32 := (v.repair &&& 0xF803FFFF#32) ||| BitVec.ofNat 32 (2 ^ 25 + (if col then 2 ^ 24 else 0) + idx * 2 ^ 18)
        let s := s.setPhy i { v with repair := w, fuseWait := none, testDue := true }
        let s := { s with
          fabric := { s.fabric with repairsBlown := min 65535 (s.fabric.repairsBlown + 1) }
          fw := { s.fw with fuses := { s.fw.fuses with repair := put Phys.init.repair s.fw.fuses.repair i w } } }
        s.logCore i 0
      else s.setPhy i { v with fuseWait := none, retireDue := true })

/-- CORE_RETIRE (R195, R197, R198): a core that runs no task is retired: fenced, STATE 3, its RETIRED fuse blown. -/
def execCoreRetire (cl : Cl) (c : Cn) (s : State) : Out :=
  .next (
    let i := coreKey cl c
    let nm := servedName i (s.mapEntry i)
    let k := s.core nm.1 nm.2
    if ¬(s.coreState i = 0 ∨ s.coreState i = 4) ∨ k.task.isSome then s
    else
      let v := s.phy i
      let w : W32 := v.repair ||| 0x80000000#32
      let s := (s.setPhy i { v with repair := w, testDue := false, testing := false, fuseWait := none, retireDue := false }).keepCounts i k
      let s := { s with fw := { s.fw with fuses := { s.fw.fuses with repair := put Phys.init.repair s.fw.fuses.repair i w } } }
      let s := s.setCore nm.1 nm.2 { Core.init with toSettle := k.toSettle, settleWait := k.settleWait }
      let s := (s.setMapState i 3).logCore i 1
      (s.loseCore nm.1 nm.2).heldSteps)

/-- COPPICE_REMAP (R193, R195): the management processor gives the logical name to the spare it chooses; with none left the
core ceases to be enabled (R198). -/
def execCoppiceRemap (cl : Cl) (c : Cn) (s : State) : Out :=
  .next (
    let k := coreKey cl c
    if !s.fabric.remapDue.contains k then s
    else match s.chooseSpare cl with
      | some i => (((s.giveSpare i cl c).logCore k 2).refresh cl).heldSteps
      | none =>
        if 0 < s.sparesOf (dieOf cl) then s
        else
          let s := { s with fabric := { s.fabric with remapDue := s.fabric.remapDue.filter fun x => x ≠ k } }
          ((s.degrade cl c.val).logCore k 3).heldSteps)

/-- Whether every cluster island of a die has been released (R356). -/
def State.dieReleased (s : State) (d : Nat) : Bool := (allCl.filter fun cl => dieOf cl = d).all fun cl => (s.clu cl).isl ≠ .held

/-- SPARE_SELFTEST_DUE (R196): the tests of a cluster's field spares that are due, 600 s after their last; a gated island is
powered up for them. -/
def execSpareSelftestDue (cl : Cl) (s : State) : Out :=
  .next (
    let due := ((List.range 12).map fun c => 12 * cl.val + c).filter fun i =>
      decide (s.coreState i = 1) && !(s.phy i).testing && decide ((s.phy i).prevStart + 600000000 ≤ s.now)
    if due = [] ∨ ¬((s.clu cl).isl = .running ∨ (s.clu cl).isl = .gated) then s
    else
      let s := s.setClu cl { s.clu cl with isl := .running }
      due.foldl (fun s i => s.setPhy i { s.phy i with testDue := true }) s)

/-! ### Power gating (R184) -/

/-- Whether cores, rings, slots and the cache of a cluster are idle, and no core of it is in a self-test or serves a remap (R184). -/
def State.clusterIdle (s : State) (cl : Cl) : Bool :=
  (s.clu cl).cache.fillWaits.isEmpty && (s.clu cl).cache.permWaits.isEmpty &&
  (s.clu cl).tasks.isEmpty && (s.clu cl).slots.isEmpty && (s.clu cl).ccLines.isEmpty &&
    (allCn.all fun c => (s.core cl c).task.isNone && !(s.phy (coreKey cl c)).busy && decide (s.coreState (coreKey cl c) ≠ 4)) &&
    (List.range 16).all fun n => decide ((s.ring cl n).st = .idle) || decide ((s.ring cl n).st = .halted)

/-- CLUSTER_POWER_GATE (R184, R218): the island of a cluster that no partition owns is gated once it is idle, its lines
written back. -/
def execClusterPowerGate (cl : Cl) (s : State) : Out :=
  .next (
    if (s.clu cl).isl = .running ∧ s.clPart cl = 0xFF ∧ s.clusterIdle cl then
      let s := s.emptyCache cl
      s.setClu cl { s.clu cl with isl := .gated }
    else s)

/-! ### Crossings (R182, R183, R185, R201) -/

/-- Whether release step n of R356 has been reached and its clocks run: a latched trip leaves only the hub's clocks (R177). -/
def State.releasedTo (s : State) (n : Nat) : Bool := (!s.power.tripped || decide (n ≤ 1)) && match s.boot.phase with
  | .up => true
  | .release k => decide (n ≤ k)
  | _ => false

/-- The verdict of a word of a flit (R250): its data and check bits as they arrive. -/
def wordVerdict (x : FlitWord) : Verdict := verdict (checkBits x.data.toNat ^^^ x.check)

/-- What the destination's crossing finds in word i of a flit (R252, R253): a corrected error, or a deferred one. -/
def State.flitWord (s : State) (f : Flit) (v : Verdict) (syn : BitVec 16) (addr : Nat) : State :=
  let err (cls sym : Nat) : State := s.raise
    { source := 0x06, cls := cls, unit := unitName f.dst 0x10, part := s.clPart f.dst, addr := addr, syndrome := syn.toNat, symbol := sym, status := 0, taskId := 0 } .none
  match v with
  | .corrected sym _ => err 0 sym
  | .uncorrectable => err 1 0xFF
  | _ => s

/-- The data words of a flit as the destination takes them, at the addresses of its line: corrected, or the poison word (R252). -/
def flitData (f : Flit) : Mem :=
  f.words.zipIdx.foldl (fun m e =>
    let a := 128 * f.line + 16 * e.2
    let m := (m.setRaws a (leBytes 16 e.1.data.toNat)).setSyn (a / 16) (checkBits e.1.data.toNat ^^^ e.1.check)
    (m.fixWord (a / 16)).settleBad a 16) Mem.empty

/-- The answer that a cluster's requester has received for its last flit, or that a flit from the hub has met at its destination. -/
def State.flitAnswer (s : State) (f : Flit) (n : Nat) : State :=
  let c := f.src.getD f.dst
  s.setClu c { s.clu c with flit := n }

/-- A flit that is refused at a router (R183): a request is answered with a status, a response or write is discarded and counted. -/
def State.flitRefuse (s : State) (f : Flit) (n : Nat) : State :=
  if f.kind = .request then s.flitAnswer f n
  else s.setClu f.dst { s.clu f.dst with discards := (s.clu f.dst).discards + 1 }

/-- A flit is delivered to a running island (R182, R201, R252): a request or write of another partition is refused UNOWNED; the words are
checked, and those of a write go into the cluster cache. -/
def State.flitDeliver (s : State) (f : Flit) : State :=
  if f.kind ≠ .response ∧ f.part ≠ s.clPart f.dst then (s.flitAnswer f 4).refusal (unitName f.dst 0x10) f.part (128 * f.line) 4
  else
    let s := s.flitWord f (verdict f.header) f.header 0
    let s := f.words.zipIdx.foldl (fun s e =>
      s.flitWord f (wordVerdict e.1) (checkBits e.1.data.toNat ^^^ e.1.check) (128 * f.line + 16 * e.2)) s
    let s := if f.kind = .write then
        let own := (s.clu f.dst).cache.ownHint f.line
        s.clWrite f.dst (flitData f) f.line (maskOf 0 (16 * f.words.length)) own.1 own.2
      else s
    s.flitAnswer f 0

/-- A flit meets the crossing of its island (R182, R183): delivered while the island runs, refused while it is fenced or gated; before the
island's release it fills the crossing's FIFO of 8 flits, and then waits in the router's link buffer. -/
def State.flitCross (s : State) (f : Flit) : State :=
  let v := s.clu f.dst
  match v.isl with
  | .fenced => s.flitRefuse f 5
  | .gated => s.flitRefuse f 6
  | .running => s.flitDeliver f
  | .held =>
    if v.xing.length < 8 then s.setClu f.dst { v with xing := v.xing ++ [f] }
    else s.waitAt ⟨dieOf f.dst, xOf f.dst, yOf f.dst, .island, .inbound⟩ f

/-- A flit goes its way (R183, R186, R189, R190): the router drops what a fenced island sends; a failed link end on the way refuses it; it waits at
an edge router whose link trains, or meets its island's crossing. -/
def State.flitGo (s : State) (f : Flit) : State :=
  let sent : Bool := match f.src with
    | some c => decide ((s.clu c).isl = .fenced) || s.pathFenced (dieOf c) (dieOf f.dst)
    | none => false
  if sent ∨ s.flitRoute f = [] then s.flitRefuse f 5
  else match s.flitStops f with
    | some h => s.waitAt h f
    | none => s.flitCross f

/-- FLIT_ARRIVES (R182, R183, R185, R201, R252): a flit takes its route to the crossing of a cluster island. Its answer's status is the `flit` of the
cluster that sent it. -/
def execFlitArrives (dst : Cl) (fr : FlitFrom) (kind : FlitKind) (b : FlitBody) (s : State) : Out :=
  .next (if s.power.tripped then s else s.flitGo (Flit.of dst fr kind b))

/-- The flits that wait at a cluster's crossing are delivered as its island is released, the oldest first (R182). -/
def State.flitsRelease (s : State) (cl : Cl) : State :=
  let fs := (s.clu cl).xing
  let s := fs.foldl State.flitCross (s.setClu cl { s.clu cl with xing := [] })
  let r := s.takeWaiting fun h => h.into cl
  r.2.foldl State.flitCross r.1

/-! ### Links (R189, R190) -/

/-- A link's bandwidth per direction in GB/s (R189). -/
def linkRate (l : Nat) (half : Bool) : Nat := (if l < 6 then 1500 else 256) / (if half then 2 else 1)

/-- A LINK record (R336): 1 retrain, 2 retrain at half width, 3 link down. -/
def State.logLink (s : State) (l ev : Nat) : State := s.logEvent 0x88 0xFF (linkUnit l) 0 (ev * 256 + l) (s.link l).retrains

/-- A fatal error of a die that cannot be reached (R190, R264), unless it is on its way. -/
def State.dieUnreachable (s : State) (d : Nat) (l : Nat) : State :=
  if s.fabric.dieFenced.getLsbD d ∨ s.mgmt.inbox.any fun e => decide (e.2 = .die (Fin.ofNat 4 d)) then s
  else s.raise { source := 0x0D, cls := 3, unit := linkUnit l, part := 0xFF, addr := 0, syndrome := 0, symbol := 0xFF, status := 0, taskId := 0 } (.die (Fin.ofNat 4 d))

/-- A die that a link which is down has cut off (R190): of two dies that cannot reach each other the higher-numbered one, unless one is
fenced. -/
def State.cutOff (s : State) (l : Nat) : Option Nat :=
  if (s.link l).st ≠ .down then none
  else match linkEnds l with
    | some (a, b) => if s.fabric.dieFenced.getLsbD a || s.fabric.dieFenced.getLsbD b || (s.viaDie a b).isSome then none else some b
    | none => if s.fabric.dieFenced.getLsbD (l - 6) || (s.hubVia (l - 6)).isSome then none else some (l - 6)

/-- A flit that has waited at a link that is now down (R189): a request or write returns to its requester with retry status, a response takes
the new route. -/
def State.flitReturn (s : State) (f : Flit) : State := if f.kind = .response then s.flitGo f else s.flitAnswer f retryStatus

/-- A link is declared down (R189, R190): LINK_DOWN; what waits for it returns, and every die that can be reached no more is a fatal error of
die scope. -/
def State.linkDown (s : State) (l : Nat) : State :=
  let s := (s.setLink l { s.link l with st := .down }).logLink l 3
  let s := s.devEv 0x12 0xFF (linkUnit l) l 0
  let r := s.takeWaiting fun h => h.onLink l
  let s := r.2.foldl State.flitReturn r.1
  (List.range 10).foldl (fun s k => match s.cutOff k with
    | some d => s.dieUnreachable d k
    | none => s) s

/-- Whether a write on its way crosses a link between its cluster and its channel. -/
def State.crosses (s : State) (l : Nat) (q : WReq) : Bool :=
  let a := match q.writer with
    | .writeBack cl _ | .ring cl _ _ => dieOf cl
  (s.pathLinks a (s.lineChan q.line / 16)).contains l

/-- A write or its acknowledgement that is in flight on a retraining link returns to the writer with retry status (R189): a ring counts a
retry (R243); the write is repeated with the same bytes. -/
def State.writeReturns (s : State) (q : WReq) : State := match q.writer with
  | .ring cl n num => if num = (s.ring cl n.val).head.toNat then s.ringRetryLine cl n.val (128 * q.line) else s
  | .writeBack .. => s

/-- A retrain begins (R189): the writes and acknowledgements that cross the link return and are repeated before any later write. Reads in
flight on it are told by MOVE_INTERRUPTED and RING_RETRY. -/
def State.retrain (s : State) (l : Nat) : State :=
  let v := s.link l
  let back := s.dram.wacks.filter fun q => s.crosses l q
  let cut := s.dram.wq.filter fun q => s.crosses l q
  let s := { s with dram := { s.dram with wq := back ++ s.dram.wq, wacks := s.dram.wacks.filter fun q => !s.crosses l q } }
  let s := (back ++ cut).foldl State.writeReturns s
  s.setLink l { v with st := .retraining, retrains := v.retrains + 1, winReplays := [], recent := (v.recent.filter fun t => s.now < t + 1000000) ++ [s.now] }

/-- LINK_CRC_FAIL (R189, R263): a flit is replayed from the sender's buffer; a corrected error. -/
def execLinkCrcFail (l : Ln) (s : State) : Out :=
  .next (
    let v := s.link l.val
    if v.st ≠ .up ∨ s.power.tripped then s
    else
      let s := s.setLink l.val { v with replays := v.replays + 1, winReplays := (v.winReplays.filter fun t => s.now < t + 1000) ++ [s.now] }
      s.raise { source := 0x0D, cls := 0, unit := linkUnit l.val, part := 0xFF, addr := 0, syndrome := 0, symbol := 0xFF, status := 0, taskId := 0 } .none)

/-- LINK_REPLAY_LIMIT (R189): more than 16 replays in 1 ms. -/
def execLinkReplayLimit (l : Ln) (s : State) : Out :=
  .next (if (s.link l.val).st = .up ∧ !s.power.tripped ∧ 16 < ((s.link l.val).winReplays.filter fun t => s.now < t + 1000).length then s.retrain l.val else s)

/-- A lane of a link fails (R189): a spare lane of its direction replaces it, or the link goes to half width. -/
def Link.laneFails (v : Link) (back : Bool) : Link :=
  if back then (if 0 < v.sparesBack then { v with sparesBack := v.sparesBack - 1 } else { v with toHalf := true })
  else if 0 < v.spares then { v with spares := v.spares - 1 } else { v with toHalf := true }

/-- LANE_FAIL (R189): a lane toward the higher-numbered die or the hub, or back; the link retrains. -/
def execLaneFail (l : LaneOf) (s : State) : Out :=
  .next (
    let v := s.link l.l.val
    if v.st ≠ .up ∨ s.power.tripped then s else (s.setLink l.l.val (v.laneFails l.back)).retrain l.l.val)

/-- LINK_RETRAIN_COMPLETE (R189, R190, R356): a training ends, and what waits for the link crosses. A retrain that fails, and the third
within 1 s, declare the link down; so does a failed first training. -/
def execLinkRetrainComplete (l : Ln) (ok : Bool) (s : State) : Out :=
  .next (
    let v := s.link l.val
    let open_ (s : State) : State :=
      let r := s.takeWaiting fun h => h.onLink l.val
      r.2.foldl State.flitGo r.1
    match v.st with
    | .untrained =>
      if !s.releasedTo (if l.val < 6 then 4 else 3) then s
      else if ok then open_ (s.setLink l.val { v with st := .up }) else s.linkDown l.val
    | .retraining =>
      if s.power.tripped then s
      else if !ok ∨ 3 ≤ (v.recent.filter fun t => s.now < t + 1000000).length then s.linkDown l.val
      else
        let half := v.half || v.toHalf
        let s := s.setLink l.val { v with st := .up, half := half, toHalf := false }
        open_ (if v.toHalf ∧ !v.half then (s.logLink l.val 2).devEv 0x17 0xFF (linkUnit l.val) l.val (linkRate l.val true)
          else s.logLink l.val (if half then 2 else 1))
    | _ => s)

end Sys2Proof.Machine
end

