-- ==== Sys2Proof/Machine/Caches.lean ====
section
/-! DEFINITION. Cluster requests and fills (R209 to R220), DRAM channels (R252, R384). -/

namespace Sys2Proof.Machine

open Sys2Proof

/-! ### Requests -/

/-- The slot of the speculative task of a requester, if it is a core's. -/
def State.requesterSlot (s : State) (cl : Cl) : Requester → Option Nat
  | .core c _ => s.slotOf cl c
  | _ => none

/-- The answer that the cache last gave: bytes and status (MODEL output). -/
def State.answer (s : State) (cl : Cl) (bs : List Byte) (status : Nat) : State :=
  let v := s.clu cl
  s.setClu cl { v with cache := { v.cache with lastData := bs, lastStatus := status } }

/-- The unit of a requester (R267). -/
def requesterUnit (cl : Cl) : Requester → Nat
  | .core c _ => unitName cl c.val
  | .steward => unitName cl 0x10
  | .ring n => unitName cl (0x20 + n.val)
  | .peer c n => unitName c (0x20 + n.val)

/-- A refused request: bus error, reported (R201, R254). -/
def State.refuseReq (s : State) (cl : Cl) (r : CReq) (status : Nat) : State :=
  (s.refusal (requesterUnit cl r.who) (s.clPart cl) r.addr status).answer cl [] status

/-- A requester reads a whole line (R214, R215); a peer access installs nothing (R219). A status that is not 0 is a bus error, or retry
status (R86). -/
def State.serveRead (s : State) (cl : Cl) (r : CReq) : State :=
  let own : Bool := match r.who with
    | .peer .. => false
    | _ => true
  let x := s.cacheRead cl (s.requesterSlot cl r.who) (r.addr / 128 * 128) 128 r.hint r.tag 2 own
  if x.2.2 = 5 then x.1.refuseReq cl r 5
  else if x.2.2 ≠ 0 then x.1.answer cl [] x.2.2
  else x.1.answer cl (x.2.1.read (r.addr / 128 * 128) 128) 0

/-- A request waits: for its line, for the end of a commit (R134), or for room among the shadow lines (R132). -/
def State.parkReq (s : State) (cl : Cl) (r : CReq) : State :=
  let v := s.clu cl
  s.setClu cl { v with cache := { v.cache with fillWaits := v.cache.fillWaits ++ [r] } }

/-- A requester writes bytes of one line (R132, R214); a speculative write beyond a limit of R132 waits, with SHADOW_FULL raised when
its wait begins (`first`). -/
def State.serveWrite (s : State) (cl : Cl) (r : CReq) (bytes : List Byte) (first : Bool) : State :=
  let bs := bytes.take (128 - r.addr % 128)
  let l := lineOf r.addr
  let m := Mem.empty.write r.addr bs
  let mask := maskOf (r.addr % 128) bs.length
  match s.requesterSlot cl r.who with
  | none => (s.clWrite cl m l mask r.hint r.tag).answer cl [] 0
  | some k =>
    let v := s.clu cl
    match v.shadowLimit k l with
    | none =>
      let x := s.shadowWrite cl k m l mask r.hint r.tag
      x.1.answer cl [] x.2
    | some lim =>
      let s := s.parkReq cl r
      if first then s.pushEv (v.slot k).home (evRecord 0x03 (tTaskId (v.slot k).desc) (requesterUnit cl r.who) [k, (v.slot k).written.length, lim])
      else s

/-- An instruction line that is served without a requester's hint (R213): a hit as it stands, a miss from DRAM with the cluster's
written bytes laid over and nothing allocated (R214). -/
def State.fetchLine (s : State) (cl : Cl) (l : Nat) : State × Mem × Nat :=
  let own := (s.clu cl).cache.ownHint l
  s.cacheRead cl none (128 * l) 128 own.1 own.2 2 (s.readHits cl none (128 * l) 128)

/-- The answer to an instruction fetch. -/
def State.serveFetch (s : State) (cl : Cl) (r : CReq) : State :=
  let x := s.fetchLine cl (lineOf r.addr)
  if x.2.2 ≠ 0 then x.1.answer cl [] x.2.2 else x.1.answer cl (x.2.1.read (r.addr / 128 * 128) 128) 0

/-- A request whose permission entry is known (R210): refused, served from the cache, or sent to DRAM. -/
def State.serve (s : State) (cl : Cl) (e : BitVec 4) (r : CReq) : State :=
  let l := lineOf r.addr
  match r.kind with
  | .read =>
    if !permR e then s.refuseReq cl r 2
    else if s.lineBusy cl l then s.parkReq cl r
    else if s.readHits cl (s.requesterSlot cl r.who) (128 * l) 128 then s.serveRead cl r
    else (s.parkReq cl r).detect cl r.who l r.tag r.cyc
  | .write bytes =>
    if !permW e then s.refuseReq cl r 2 else if s.lineBusy cl l then s.parkReq cl r else s.serveWrite cl r bytes true
  | .ifetch => if !permX e then s.answer cl [] 2 else if s.readHits cl none (128 * l) 128 && !s.lineBusy cl l then s.serveFetch cl r else s.parkReq cl r
  | .runahead => if !permX e then s else if s.readHits cl none (128 * l) 128 && !s.lineBusy cl l then s.serveFetch cl r else s.parkReq cl r
  | .prefetch =>
    if !permR e then s.refuseReq cl r 2 else if ((s.clu cl).cache.line l).isSome then s.answer cl [] 0 else s.parkReq cl r

/-- CACHE_REQUEST (R203, R210 to R216): a request that needs a permission entry waits for it. A ring of another partition is refused
UNOWNED (R201, R213). -/
def execCacheRequest (cl : Cl) (r : CReq) (s : State) : Out :=
  .next (
    let v := s.clu cl
    let foreign : Bool := match r.who with
      | .peer c _ => decide (s.clPart c ≠ s.clPart cl)
      | _ => false
    if v.isl ≠ .running then s
    else if !isDram r.addr then (match r.kind with
      | .runahead => s
      | _ => s.refuseReq cl r 3)
    else if foreign then (match r.who with
      | .peer c _ => (s.refusal (unitName cl 0x10) (s.clPart c) r.addr 4).answer cl [] 4
      | _ => s)
    else match v.cache.perm.find? fun e => e.1 = r.addr / 2 ^ 21 with
      | some e => s.serve cl e.2 r
      | none => s.setClu cl { v with cache := { v.cache with permWaits := v.cache.permWaits ++ [r] } })

/-- PERMISSION_CACHE_FILL (R210): an entry arrives from the die's table, and the requests that wait for it go on. -/
def execPermissionCacheFill (cl : Cl) (page : Nat) (s : State) : Out :=
  .next (
    let v := s.clu cl
    let mine := v.cache.permWaits.filter fun r => r.addr / 2 ^ 21 = page
    if mine = [] ∨ v.isl ≠ .running then s
    else
      let s := s.setClu cl { v with cache := { v.cache with permWaits := v.cache.permWaits.filter fun r => r.addr / 2 ^ 21 ≠ page } }
      let q := s.permUse cl page
      mine.foldl (fun s r => s.serve cl q.2 r) q.1)

/-- A waiting request is served as its line arrives: a demand read or write, a fetch that allocates nothing (R213), or a prefetch
that installs the line (R253); a prefetch of a line that a scrubber holds waits on (R259). -/
def State.serveFill (s : State) (cl : Cl) (r : CReq) : State :=
  let l := lineOf r.addr
  if s.lineBusy cl l then s.parkReq cl r
  else match r.kind with
  | .prefetch =>
    if ((s.clu cl).cache.line l).isSome then s.answer cl [] 0
    else
      let x := s.chanRead (128 * l) 128 (s.clPart cl) 1
      if x.2.2 = retryStatus then s.parkReq cl r
      else if x.2.2 ≠ 0 ∧ x.2.2 ≠ 1 then x.1.refuseReq cl r x.2.2
      else (x.1.install cl l x.2.1 r.hint r.tag).answer cl [] 0
  | .ifetch | .runahead => s.serveFetch cl r
  | .write bytes => s.serveWrite cl r bytes false
  | .read => s.serveRead cl r

/-- CACHE_FILL (R214 to R216): a line arrives, is merged and installed, and those who wait for it are served. -/
def execCacheFill (cl : Cl) (line : Nat) (s : State) : Out :=
  .next (
    let v := s.clu cl
    let mine := v.cache.fillWaits.filter fun r => lineOf r.addr = line
    if mine = [] ∨ v.isl ≠ .running then s
    else
      let s := s.setClu cl { v with cache := { v.cache with fillWaits := v.cache.fillWaits.filter fun r => lineOf r.addr ≠ line } }
      mine.foldl (fun s r => s.serveFill cl r) s)

/-- STREAM_DETECTOR_TIMEOUT (R220): the command reports that 256 cycles have passed without a further miss; the detector stops. -/
def execStreamDetectorTimeout (cl : Cl) (i : Fin 8) (s : State) : Out :=
  .next (if s.power.tripped then s else s.setClu cl { s.clu cl with cache := (s.clu cl).cache.setDetector i.val none })

/-- Removes a page from a cluster's permission cache (R211). -/
def State.permDrop (s : State) (cl : Cl) (page : Nat) : State :=
  let v := s.clu cl
  s.setClu cl { v with cache := { v.cache with perm := v.cache.perm.filter fun e => e.1 ≠ page } }

/-- PERMISSION_INVALIDATE (R211). -/
def execPermissionInvalidate (cl : Cl) (page : Nat) (s : State) : Out := .next (if s.power.tripped then s else s.permDrop cl page)

/-! ### Channels (R252, R258, R259, R384) -/

/-- The links that a write crosses on its way, none of them retraining (R189). -/
def State.writeMay (s : State) (q : WReq) : Bool :=
  let a := match q.writer with
    | .writeBack cl _ | .ring cl _ _ => dieOf cl
  (s.pathLinks a (s.lineChan q.line / 16)).all fun l => decide ((s.link l).st = .up)

/-- A write for a channel that has been declared failed (R183): discarded and counted; a ring's descriptor meets a bus error FENCED, and a
write-back counts as answered (log 78). -/
def State.discardWrite (s : State) (q : WReq) : State := match q.writer with
  | .writeBack .. => s.takeWrite q
  | .ring cl n num =>
    let s := { s with dram := { s.dram with discards := s.dram.discards + 1 } }
    if num = (s.ring cl n.val).head.toNat then s.ringBusError cl n.val (128 * q.line) 5 else s

/-- DRAM_WRITE_ACCEPT (R384, R259): the oldest write on its way whose links are up is accepted; a write to a line that the scrubber
holds waits for the correction write. -/
def execDramWriteAccept (s : State) : Out :=
  .next (if s.power.tripped then s else match s.dram.wq.find? s.writeMay with
    | none => s
    | some q =>
      let s := { s with dram := { s.dram with wq := s.dram.wq.erase q } }
      if s.chanDown q.line then s.discardWrite q
      else if s.lineHeld q.line then
        let v := s.scrubber (s.lineChan q.line)
        s.setScrubber (s.lineChan q.line) { v with pendWrites := v.pendWrites ++ [q] }
      else s.takeWrite q)

/-- WRITE_ACCEPT_RESPONSE (R384): the oldest acceptance reaches its writer. -/
def execWriteAcceptResponse (s : State) : Out :=
  .next (if s.power.tripped then s else match s.dram.wacks with
    | [] => s
    | q :: rest => { s with dram := { s.dram with wacks := rest } }.ackWrite q.writer)

/-- The verdict of a read as a number (R261). -/
def verdictCode (syn : BitVec 16) : Nat := match verdict syn with
  | .clean => 0
  | .corrected _ _ => 1
  | .poisoned => 2
  | .uncorrectable => 3

/-- DRAM_READ (R252, R259): a channel serves a read of the word at an address; one of a held line returns retry status
(4), one of a failed channel FENCED (5). An uncorrectable word becomes poison and is logged as deferred, no requester being named (DESIGN CHOICE, log 27). -/
def execDramRead (addr : Nat) (s : State) : Out :=
  .next (
    if !isDram addr ∨ s.power.tripped then s
    else
      let a := addr / 16 * 16
      if s.lineHeld (lineOf a) then { s with dram := { s.dram with lastVerdict := 4 } }
      else
        let code := verdictCode (s.dram.mem.synAt (s.phys a / 16))
        let x := s.chanRead a 16 (s.ownerOf a) 1
        if x.2.2 = 5 then { s with dram := { s.dram with lastVerdict := 5 } }
        else { x.1 with dram := { x.1.dram with lastRead := BitVec.ofNat 128 (leNat (x.2.1.read a 16)), lastVerdict := code } })

end Sys2Proof.Machine
end

