-- ==== Sys2Proof/Machine/Errors.lean ====
section
/-! DEFINITION. Scrubbing (R258, R259), errors and their handlers (R260, R263 to R267), the test window (R261, R262). -/

namespace Sys2Proof.Machine

open Sys2Proof

/-! ### Scrubbing -/

/-- Bytes of a channel (R206, R258): 6 GiB. -/
def chanBytes : Nat := 6 * 2 ^ 30

/-- An error that a scrubber reports. -/
def scrubErr (s : State) (ph cls syn sym : Nat) : ErrIn :=
  { source := 0x02, cls := cls, unit := chanUnit ph, part := s.ownerOf (s.devAddr ph), addr := s.devAddr ph, syndrome := syn, symbol := sym, status := 0, taskId := 0 }

/-- SCRUB_LINE (R258, R259, R279): the channel's scrubber reads its next line and acts on the verdict of each word; poison that it finds
in a mirror slot changes PROTECTION. -/
def execScrubLine (ch : Ch) (s : State) : Out :=
  .next (
    let v := s.scrubber ch.val
    if v.held.isSome ∨ s.power.tripped then s
    else
      let base := ch.val * 2 ^ 33 + v.pos
      let m := s.dram.mem
      let words := (List.range 8).map fun i => base / 16 + i
      let s := words.foldl (fun s w =>
        let syn := m.synAt w
        match verdict syn with
        | .corrected sym _ => s.raise (scrubErr s (16 * w) 0 syn.toNat sym) .none
        | .uncorrectable => (s.setDram (s.dram.mem.poisonWord w)).raise (scrubErr s (16 * w) 1 syn.toNat 0xFF) .none
        | .poisoned => { s with dram := { s.dram with poisonSeen := s.dram.poisonSeen + 1 } }
        | .clean => s) s
      let fix := words.any fun w => verdictCode (m.synAt w) = 1
      let last := decide (chanBytes ≤ v.pos + 128)
      let s := s.setScrubber ch.val { v with pos := if last then 0 else v.pos + 128, held := if fix then some (lineOf (s.devAddr base)) else none }
      let p := s.ownerOf (s.devAddr base)
      let s := if p < 16 ∧ words.any fun w => decide (2 ≤ verdictCode (m.synAt w)) then s.reprotect p else s
      if last then { s with dram := { s.dram with scrubPasses := sat32 s.dram.scrubPasses 1 } } else s)

/-- SCRUB_CORRECTION_WRITE (R259): the corrected words of the held line are written; writes that waited are applied after. -/
def execScrubCorrectionWrite (ch : Ch) (s : State) : Out := .next (if s.power.tripped then s else s.correctHeld ch.val)

/-! ### Errors (R263 to R267) -/

/-- Writes an error record (R267). -/
def State.logError (s : State) (e : ErrIn) (preempted : Bool) : State :=
  s.logRec (pack [(8, e.source), (2, e.cls), (1, if preempted then 1 else 0), (5, 0), (24, e.unit), (8, e.part), (48, e.addr), (16, e.syndrome),
    (8, e.symbol), (8, e.status), (64, s.now), (16, e.taskId), (32, s.mgmt.lostCe + s.mgmt.lostDe + s.mgmt.lostUr), (16, 0)])

/-- The unit of R264's escalation: a cluster as a whole, a channel, or a link end. -/
def urKey (u : Nat) : Nat := if bits 15 8 u < 0x40 then u / 65536 * 65536 else u

/-- Notes an error's unit: corrected errors of the second (R260), and times of uncorrected-recoverable ones (R264). -/
def State.noteUnit (s : State) (e : ErrIn) : State :=
  let m := s.mgmt
  if e.cls = 0 then { s with mgmt := { m with ceUnits := ins m.ceUnits e.unit (look 0 m.ceUnits e.unit + 1) } }
  else if e.cls = 2 then
    let k := urKey e.unit
    { s with mgmt := { m with urUnits := ins m.urUnits k ((look [] m.urUnits k).filter (fun t => s.now < t + 1000000) ++ [s.now]) } }
  else s

/-- A program fault stops its partition with cause PROGRAM (R278). -/
def State.programFault (s : State) (p unit : Nat) : State := if p < 16 ∧ (s.part p).run = .running then s.hangStop p 3 unit else s

/-- Whether a report of a task, descriptor or steward fault is a program fault (R278): kinds of R386; a MOVE or FETCH fault
by its status. -/
def programKind (kind status : Nat) : Bool :=
  kind = 1 || kind = 2 || kind = 4 || kind = 5 || kind = 8 || ((kind = 3 || kind = 6) && (status = 2 || status = 3 || status = 4))

/-- The scope of a unit (R264): its cluster, its channel, or its link end on a die. -/
def unitScope (u : Nat) : Scope :=
  let d := bits 23 22 u
  let b := bits 15 8 u
  if b < 0x40 then .cluster (nameCl u)
  else if b < 0x60 then .channel (Fin.ofNat 64 (16 * d + (b - 0x40) % 16))
  else .linkEnd (Fin.ofNat 10 (b - 0x60)) (Fin.ofNat 4 d)

/-- The scope that an error of a source fences (R264): none for one that is not fatal; the partition for the sync network, the die for a
hub-link end, the device for the management and security SRAM, otherwise the unit's own. -/
def scopeOf (e : ErrIn) : Scope :=
  if e.cls < 3 then .none
  else if e.source = 0x0A then (if e.part < 16 then .partition (Fin.ofNat 16 e.part) else .none)
  else if e.source = 0x0B then .device
  else if e.source = 0x0D then .die (Fin.ofNat 4 (bits 23 22 e.unit))
  else unitScope e.unit

/-- Fences the scope of a fatal error (R183, R264). -/
def State.fenceScope (s : State) (e : ErrIn) : Scope → State
  | .none => s
  | .cluster c => s.clusterFence c
  | .channel c => if s.dram.fenced.contains c.val then s else { s with dram := { s.dram with fenced := s.dram.fenced ++ [c.val] } }
  | .linkEnd l d =>
    if s.fabric.endsFenced.contains (l.val, d.val) then s
    else { s with fabric := { s.fabric with endsFenced := s.fabric.endsFenced ++ [(l.val, d.val)] } }
  | .partition p => if (s.part p.val).run = .running then s.hangStop p.val 2 e.unit else s
  | .die d => s.dieFence d.val
  | .device => s.deviceFence [e] false

/-- The queue of handlers, its highest class first and in arrival order (R265): the next one to run and the rest. -/
def takeNext (q : List Handler) : Option (Handler × List Handler) :=
  let top := q.foldl (fun a h => max a h.err.cls) 0
  match q.find? fun h => h.err.cls = top with
  | some h => some (h, q.erase h)
  | none => none

/-- An error reaches the management processor (R265, R266): handled, queued, lost, or suspending the running handler. -/
def State.takeError (s : State) (e : ErrIn) (sc : Scope) : State :=
  let s := s.noteUnit e
  let h : Handler := ⟨e, sc, false⟩
  let m := s.mgmt
  if e.cls ≥ 3 then
    let nested := m.running.find? fun x => decide (3 ≤ x.err.cls)
    let held := m.running.map fun x => { x with preempted := true }
    let s := { s with mgmt := { m with running := h :: held } }
    match nested with
    | some x => s.deviceFence [x.err, e] false
    | none => s.fenceScope e sc
  else match m.running with
    | [] => { s with mgmt := { m with running := [h] } }
    | cur :: rest =>
      if cur.err.cls < e.cls then { s with mgmt := { m with running := h :: { cur with preempted := true } :: rest } }
      else if m.queue.length < 64 then { s with mgmt := { m with queue := m.queue ++ [h] } }
      else if e.cls = 0 then { s with mgmt := { m with lostCe := sat32 m.lostCe 1 } }
      else if e.cls = 1 then { s with mgmt := { m with lostDe := sat32 m.lostDe 1 } }
      else { s with mgmt := { m with lostUr := sat32 m.lostUr 1 } }

/-- Decides on a fault report (source 0) of a task, descriptor or steward (R278): a program fault stops the partition; a hardware fault of
a core belongs to the step that runs. -/
def State.decideFault (s : State) (e : ErrIn) : State :=
  if programKind e.syndrome e.status then s.programFault e.part e.unit
  else if bits 15 8 e.unit < 12 then s.noteFault (nameCl e.unit) (Fin.ofNat 12 (bits 15 8 e.unit))
  else s

/-- ERROR_REPORTED (R263 to R266, R278): an error on its way, or one that the command brings, reaches the management
processor; its scope is the one with which it was sent, or that of its source. A bus refusal is a program fault too. -/
def execErrorReported (x : ErrWhat) (pl : ErrPlace) (s : State) : Out :=
  .next (
    let e := ErrIn.of x pl
    let found := s.mgmt.inbox.find? fun y => decide (y.1 = e)
    let s := { s with mgmt := { s.mgmt with inbox := match found with
      | some x => s.mgmt.inbox.erase x
      | none => s.mgmt.inbox } }
    if e.source = 0 then s.decideFault e
    else
      let s := s.takeError e (match found with
        | some x => x.2
        | none => scopeOf e)
      if e.source = 8 ∧ 2 ≤ e.status ∧ e.status ≤ 4 then s.programFault e.part e.unit else s)

/-- Counts a handled error (R260). -/
def State.countError (s : State) (cls : Nat) : State :=
  let m := s.mgmt
  if cls = 0 then { s with mgmt := { m with ce := sat32 m.ce 1 } }
  else if cls = 1 then { s with mgmt := { m with de := sat32 m.de 1 } }
  else if cls = 2 then { s with mgmt := { m with ur := sat32 m.ur 1 } }
  else { s with mgmt := { m with fatal := sat32 m.fatal 1 } }

/-- ERROR_HANDLER_COMPLETE (R263, R265): the handler counts its error and closes its record; a suspended handler resumes
before any queued entry. Corrected errors of a unit in a storm are not logged (R260). -/
def execErrorHandlerComplete (s : State) : Out :=
  .next (match s.mgmt.running with
    | [] => s
    | h :: rest =>
      let s := s.countError h.err.cls
      let s := if h.err.cls = 0 ∧ s.mgmt.storms.contains h.err.unit then s else s.logError h.err h.preempted
      match rest with
      | _ :: _ => { s with mgmt := { s.mgmt with running := rest } }
      | [] => match takeNext s.mgmt.queue with
        | some (n, q) => { s with mgmt := { s.mgmt with running := [n], queue := q } }
        | none => { s with mgmt := { s.mgmt with running := [] } })

/-- UR_ESCALATION (R264): more than 8 uncorrected-recoverable errors of a cluster, channel or link end within 1 s are a fatal error of its
own scope. Its unit name is that of unit n at the place of cl. -/
def execUrEscalation (cl : Cl) (n : Nat) (s : State) : Out :=
  .next (
    let unit := unitName cl n
    let k := urKey unit
    if 8 < ((look [] s.mgmt.urUnits k).filter fun t => s.now < t + 1000000).length then
      let s := { s with mgmt := { s.mgmt with urUnits := del s.mgmt.urUnits k } }
      s.takeError { source := 0x0F, cls := 3, unit := unit, part := 0xFF, addr := 0, syndrome := 0, symbol := 0xFF, status := 0, taskId := 0 } (unitScope k)
    else s)

/-- CE_STORM (R260): a unit's corrected errors of this second exceed CE_STORM_LIMIT. -/
def execCeStorm (unit : UnitName) (s : State) : Out :=
  .next (
    let m := s.mgmt
    if s.obj 0x5012 1 < look 0 m.ceUnits unit ∧ !m.storms.contains unit then
      ({ s with mgmt := { m with storms := m.storms ++ [unit] } }).logError
        { source := 0x0E, cls := 0, unit := unit, part := 0xFF, addr := 0, syndrome := 0, symbol := 0xFF, status := 0, taskId := 0 } false
    else s)

/-- STORM_WINDOW_END (R260): at a whole second every unit's count starts afresh. -/
def execStormWindowEnd (s : State) : Out :=
  .next (if s.now % 1000000 = 0 then { s with mgmt := { s.mgmt with ceUnits := [], storms := [] } } else s)

/-! ### The test window (R261, R262) -/

/-- A word that the test window names. -/
inductive TwTarget where
  | refused
  | dram (word : Nat)
  | tile (cl : Cl) (c : Cn) (word : Nat)
deriving DecidableEq, Repr

/-- The target of TW_TARGET, or its refusal (R262). -/
def State.twTarget (s : State) : TwTarget :=
  let t := s.obj 0x9010 1
  let a := t % 2 ^ 48
  if a % 16 ≠ 0 then .refused
  else if t / 2 ^ 62 = 0 then
    if !isDram a ∨ bits 36 30 a = 95 ∨ (s.ownerOf a < 16 ∧ s.hasRun (s.ownerOf a)) then .refused else .dram (s.phys a / 16)
  else if t / 2 ^ 62 = 1 then
    let cl := clAt (bits 47 46 a) (bits 45 43 a) (bits 42 40 a)
    let c := bits 35 32 a
    if c ≥ 12 ∨ (s.clPart cl < 16 ∧ s.hasRun (s.clPart cl)) ∨ (s.core cl (Fin.ofNat 12 c)).task.isSome then .refused
    else .tile cl (Fin.ofNat 12 c) (a % 2 ^ 18 / 16)
  else .refused

/-- The test window acts on a line that no scrubber holds: it is atomic with respect to the scrubber (R262). -/
def State.twFree (s : State) : TwTarget → State
  | .dram w => s.freeLine (lineOf (s.devAddr (16 * w)))
  | _ => s

/-- The store of a target. -/
def State.twMem (s : State) : TwTarget → Mem
  | .tile cl c _ => (s.core cl c).ts
  | _ => s.dram.mem
/-- Replaces the store of a target. -/
def State.setTwMem (s : State) (m : Mem) : TwTarget → State
  | .tile cl c _ => s.setCore cl c { s.core cl c with ts := m }
  | .dram _ => s.setDram m
  | .refused => s
/-- The word of a target. -/
def twWord : TwTarget → Nat
  | .refused => 0
  | .dram w => w
  | .tile _ _ w => w

/-- The command ends (R261, R262): STATUS of TW_RESULT, and a TEST record. -/
def State.twEnd (s : State) (refused : Bool) : State :=
  let r := s.obj 0x9010 5
  let s := s.setObj 0x9010 5 (r % 2 ^ 28 + if refused then 2 ^ 28 else 0)
  let t := s.obj 0x9010 1
  ({ s with dict := { s.dict with twDue := 0 } }).logError
    { source := 0x10, cls := 0, unit := 0, part := 0xFF, addr := t % 2 ^ 48, syndrome := s.obj 0x9010 5 % 65536, symbol := 0xFF, status := 0, taskId := 0 } false

/-- A write command of the test window: the word's stored data and check bits become those given. -/
def State.twWrite (s : State) (which : Nat) (data check : Option Nat) : State :=
  if s.dict.twDue ≠ which then s
  else
    let t := s.twTarget
    if t = .refused then s.twEnd true
    else
      let s := s.twFree t
      let m := s.twMem t
      let w := twWord t
      let d := data.getD (leNat (m.word w))
      let c : BitVec 16 := match check with
        | some x => BitVec.ofNat 16 x
        | none => m.checkAt w
      (s.setTwMem ((m.setRaws (16 * w) (leBytes 16 d)).setSyn w (checkBits d ^^^ c)) t).twEnd false

/-- TW_READ_RAW (R262): the word exactly as stored, with its verdict. -/
def execTwReadRaw (s : State) : Out :=
  .next (
    if s.dict.twDue ≠ 1 then s
    else
      let t := s.twTarget
      if t = .refused then s.twEnd true
      else
        let s := s.twFree t
        let m := s.twMem t
        let w := twWord t
        let syn := m.synAt w
        let sym := match verdict syn with
          | .corrected i _ => i
          | _ => 63
        let s := (s.setObj 0x9010 2 (leNat (m.word w))).setObj 0x9010 3 (m.checkAt w).toNat
        (s.setObj 0x9010 5 (pack [(4, 0), (2, verdictCode syn), (6, sym), (4, 0), (16, syn.toNat)])).twEnd false)

/-- TW_WRITE_DATA (R262). -/
def execTwWriteData (s : State) : Out := .next (s.twWrite 2 (some (s.obj 0x9010 2)) none)
/-- TW_WRITE_CHECK (R262). -/
def execTwWriteCheck (s : State) : Out := .next (s.twWrite 3 none (some (s.obj 0x9010 3)))
/-- TW_WRITE_BOTH (R262). -/
def execTwWriteBoth (s : State) : Out := .next (s.twWrite 4 (some (s.obj 0x9010 2)) (some (s.obj 0x9010 3)))

end Sys2Proof.Machine
end

