-- ==== Sys2Proof/Machine/Checkpoint.lean ====
section
/-! DEFINITION. The mirror, flash copies, restores, rollbacks and held checkpoints (R272 to R287), and the tensor watch (R382,
R383). -/

namespace Sys2Proof.Machine

open Sys2Proof

/-! ### Step end and mirror (R272, R274) -/

/-- Reads of a range at the channels find and settle bad words: corrected errors are reported, uncorrectable words become
poison and deferred errors (R252, R253). -/
def State.sweep (s : State) (rs : List (Nat × Nat)) : State :=
  (s.dram.mem.syn.filter fun e => rs.any fun r => inSpan r.1 r.2 (s.devAddr (16 * e.1))).foldl (fun s e =>
    match verdict e.2 with
    | .corrected sym _ => s.raise { scrubErr s (16 * e.1) 0 e.2.toNat sym with source := 0x01 } .none
    | .uncorrectable => (s.setDram (s.dram.mem.poisonWord e.1)).raise { scrubErr s (16 * e.1) 1 e.2.toNat 0xFF with source := 0x01 } .none
    | _ => s) s

/-- MIRROR_STEP (R287): the oldest, over the dies, of the newest VALID steps; 0 where a die has none. In a run the dies are those that
take part in it. -/
def State.mirrorStepOf (s : State) (p : Nat) : Nat :=
  let ds := diesIn (if s.hasRun p then (s.part p).runDies else s.diesOf p)
  let st (d : Nat) : Nat := match s.newestSlot p d with
    | some a => s.slotStep a
    | none => 0
  match ds with
  | [] => 0
  | d :: rest => rest.foldl (fun m e => min m (st e)) (st d)

/-- Whether a slot is large enough for the state that die d carries, and clear of it (R269, R284). -/
def State.slotFits (s : State) (p d a : Nat) : Bool :=
  let n := 4096 + s.liveLen p d
  !(s.carries p d) || (s.ownsRange p a n && (s.liveRanges p d).all fun r => decide (a + n ≤ r.1) || decide (r.1 + r.2 ≤ a))

/-- Whether a die of the run carries a lost partner's shard and has no slot for both, so that FLASH_STEP stops (R284). -/
def State.noLocalSlot (s : State) (p : Nat) : Bool :=
  (diesIn (s.part p).runDies).any fun d => s.carries p d && !(s.mirrorTargets p d).any fun a => s.slotFits p d a

/-- R274's slot for a die's next mirror: not locked, not held; in mode 2 not the one of the previous mirror if it can be
helped. -/
def State.mirrorSlot (s : State) (p d : Nat) : Option Nat :=
  let can (a : Nat) : Bool := bits 236 235 (s.slotHeader a) = 0
  let ts := s.mirrorTargets p d
  let fits := s.slotFits p d
  let last := find (s.part p).lastSlot d
  ((ts.filter fun a => can a && fits a && decide (some a ≠ last)) ++ ts.filter fun a => can a && fits a).head?

/-- Whether every die of the run has made its step-end increment (R272). -/
def State.stepEnded (s : State) (p : Nat) : Bool :=
  let v := s.part p
  decide (v.runDies ≠ 0) && (diesIn v.runDies).all fun d => reaches (BitVec.ofNat 32 (s.endCounter d)) (BitVec.ofNat 32 (look 0 v.endSeen d) + 1)

/-- Fields of TENSOR_WATCH (R382). -/
def State.watch (s : State) (p hi lo : Nat) : Nat := bits hi lo (s.obj 0x8022 (p + 1))

/-- Ends the step's mirror once nothing is left to wait for: hub counter 58 is incremented (R272, R280, R383). -/
def State.mirrorDone (s : State) (p : Nat) : State :=
  let v := s.part p
  if v.mirroring = [] ∧ !v.watching then s.nextStepMay p else s

/-- Clears a die's image area that a flash copy will write (R276, step 1). -/
def State.invalidateArea (s : State) (d : Nat) : State :=
  let a := match s.newestArea d with
    | some 0 => 1
    | _ => 0
  s.setImage d a { s.image d a with valid := false }

/-- A flash copy of die d reads slot a (R275, R276, R284): the slot is locked, and the ports of the die, and those of the lost die whose shard
it carries, begin with the area that does not hold the newest image. -/
def State.beginCopy (s : State) (p d a : Nat) : State :=
  let b := s.partner d
  let len := bits 191 128 (s.slotHeader a)
  let own := s.ownLen p d
  let s := (s.slotBit a 236 true).invalidateArea d
  let s := if s.carries p d then
      ((s.invalidateArea b).startJob d ⟨p, d, true, [(a + 4096, own)], 0, 0⟩).startJob b ⟨p, b, true, [(a + 4096 + own, len - own)], 0, 0⟩
    else s.startJob d ⟨p, d, true, [(a + 4096, len)], 0, 0⟩
  s.setPart p { s.part p with flash := ins (s.part p).flash d a }

/-- Every k-th step starts a flash copy of each die's newest VALID slot (R275), once the mirrors of the step have ended. -/
def State.startFlash (s : State) (p : Nat) : State :=
  let v := s.part p
  let k := s.obj 0x6014 (p + 1)
  if k = 0 ∨ v.stepNow.toNat % k ≠ 0 ∨ v.mirroring ≠ [] then s
  else (diesIn v.runDies).foldl (fun s d =>
    match s.newestSlot p d, find (s.part p).flash d with
    | some a, none => s.beginCopy p d a
    | _, _ => s) s

/-- MIRROR_START (R92, R272, steps 1 to 3, R274, R383): the step has ended on every die; the next one begins with every die that runs valid,
and with no state range touched. -/
def execMirrorStart (p : Pn) (s : State) : Out :=
  .next (
    let v := s.part p.val
    if v.run ≠ .running ∨ v.mirroring ≠ [] ∨ v.watching ∨ v.restoring ≠ 0 ∨ v.rolling.isSome ∨ !s.stepEnded p.val then s
    else
      let seen := (diesIn v.runDies).foldl (fun m d => ins m d (look 0 m d + 1)) v.endSeen
      let s := s.setPart p.val { v with stepNow := v.stepNow + 1, endSeen := seen, dieValid := v.runDies }
      let fires := s.watch p.val 367 367 = 1 ∧ s.watch p.val 431 400 = (v.stepNow + 1).toNat
      let ranges := (diesIn v.runDies).flatMap fun d => s.liveRanges p.val d
      let ranges := if fires then ranges ++ [(s.watch p.val 511 464, s.watch p.val 463 432)] else ranges
      let s := if s.mirrorMode p.val = 0 ∧ ¬fires then s
        else (s.clustersOf p.val).foldl (fun s cl => ranges.foldl (fun s r => s.cleanRange cl r.1 r.2) s) s
      let s := (s.setPart p.val { s.part p.val with watching := fires }).clearTouched p.val
      let s := if s.mirrorMode p.val = 0 then s
        else (diesIn v.runDies).foldl (fun s d =>
          match s.mirrorSlot p.val d with
          | some a =>
            let s := s.slotBit a 237 false
            let v := s.part p.val
            s.setPart p.val { v with mirroring := ins v.mirroring d a, lastSlot := ins v.lastSlot d a }
          | none =>
            ({ s with totals := { s.totals with mirrorsSkipped := sat32 s.totals.mirrorsSkipped 1 } }).ckptEv p.val 0x0E d 0 0) s
      let none_ := (s.part p.val).mirroring = []
      let s := (s.mirrorDone p.val).reprotect p.val
      if none_ then s.startFlash p.val else s)

/-- MIRROR_COMPLETE (R272, steps 4 and 5): the copy of die d's ranges is accepted; header and VALID are written. -/
def execMirrorComplete (p : Pn) (d : Dn) (s : State) : Out :=
  .next (
    let v := s.part p.val
    match find v.mirroring d.val with
    | none => s
    | some a =>
      let rs := s.liveRanges p.val d.val
      let s := s.sweep rs
      let g := s.gatherRanges rs
      let s := s.fillRange a (4096 + g.2.2) (g.1.map fun e => (4096 + e.1, e.2)) (g.2.1.map fun o => 4096 + o)
      let s := s.setSlotHeader a (slotBits d.val 1 0 0 v.stepNow.toNat g.2.2 (sumOf g.1) s.now)
      let s := s.setPart p.val { s.part p.val with mirroring := del v.mirroring d.val }
      if (s.part p.val).mirroring = [] then ((s.mirrorDone p.val).reprotect p.val).startFlash p.val else s)

/-! ### Flash copies (R275, R276) -/

/-- The image of die d is complete (R276, R284): part of a slot's body with the slot's STEP and a sum. -/
def State.writeImage (s : State) (d a off len sum : Nat) : State :=
  let h := s.slotHeader a
  let area := match s.newestArea d with
    | some 0 => 1
    | _ => 0
  s.setImage d area ⟨true, BitVec.ofNat 32 (bits 223 192 h), len, BitVec.ofNat 64 sum, ⟨s.rangeBytes (a + 4096 + off) len, []⟩⟩

/-- Whether the ports have finished a die's flash copy (R276, R284). -/
def State.copyDone (s : State) (p d : Nat) : Bool :=
  s.jobsDone d p d true && (!(s.carries p d) || s.jobsDone (s.partner d) p (s.partner d) true)

/-- The ports of a die's flash copy are done with it. -/
def State.endCopy (s : State) (p d : Nat) : State :=
  let mine (e : Nat) (j : NvmeJob) : Bool := decide (j.part = p) && j.write && decide (j.die = e)
  let s := s.dropJobs d (mine d)
  if s.carries p d then s.dropJobs (s.partner d) (mine (s.partner d)) else s

/-- FLASH_COPY_COMPLETE (R276, R284): the SSDs have finished every step of the copy, or a poisoned word in the slot abandons it. The image takes the
slot's STEP, BYTES and SUM; of two shards in one slot each takes the sum of its part (DEDUCED, log 88). -/
def execFlashCopyComplete (p : Pn) (d : Dn) (s : State) : Out :=
  .next (
    let v := s.part p.val
    match find v.flash d.val with
    | none => s
    | some a =>
      let len := bits 191 128 (s.slotHeader a)
      let s := s.sweep [(a, 4096 + len)]
      if s.rangePoison a (4096 + len) ≠ [] then s.flashFail p.val d.val a
      else if !s.copyDone p.val d.val then s
      else
        let own := s.ownLen p.val d.val
        let part (off n : Nat) : Nat := sumOf (s.rangeBytes (a + 4096 + off) n)
        let s := if s.carries p.val d.val then (s.writeImage d.val a 0 own (part 0 own)).writeImage (s.partner d.val) a own (len - own) (part own (len - own))
          else s.writeImage d.val a 0 len (bits 127 64 (s.slotHeader a))
        let st := s.slotStep a
        let s := (s.slotBit a 236 false).endCopy p.val d.val
        let w := s.part p.val
        let s := s.setPart p.val { w with
          flash := del v.flash d.val, flashStep := if s.noLocalSlot p.val then w.flashStep else BitVec.ofNat 32 st }
        (s.ckptEv p.val 0x0F d.val 0 st).reprotect p.val)

/-- FLASH_COPY_FAIL (R276, R304). -/
def execFlashCopyFail (p : Pn) (d : Dn) (s : State) : Out :=
  .next (match find (s.part p.val).flash d.val with
    | none => s
    | some a => s.flashFail p.val d.val a)

/-! ### Tensor watch (R383) -/

/-- TENSOR_WATCH_COMPLETE (R383). The header's fields stand in the order in which R383 names them (DESIGN CHOICE, log 29). -/
def execTensorWatchComplete (p : Pn) (s : State) : Out :=
  .next (
    let v := s.part p.val
    if !v.watching then s
    else
      let base := s.watch p.val 511 464
      let len := s.watch p.val 463 432
      let area := v.trace.watchLen
      let room := if v.trace.on then area - 4096 else 0
      let n := min len room
      let s := if n = 0 then s
        else
          let dst := v.trace.base + 65536
          let s := s.sweep [(base, n)]
          let g := s.gatherRanges [(base, n)]
          let s := s.fillRange (dst + 4096) n g.1 g.2.1
          s.dramBytesWr dst ([0x47, 0x4C, 0x54, 0x57].map (BitVec.ofNat 8) ++ leBytes 4 (s.watch p.val 431 400) ++ leBytes 4 (s.watch p.val 399 388)
            ++ leBytes 8 base ++ leBytes 8 n ++ leBytes 8 (sumOf g.1) ++ leBytes 8 s.now ++ List.replicate (4096 - 44) 0)
      let w := s.obj 0x8022 (p.val + 1)
      let w := w - (if bits 367 367 w = 1 then 2 ^ 367 else 0) - (if bits 366 366 w = 1 then 2 ^ 366 else 0) - (if bits 365 365 w = 1 then 2 ^ 365 else 0)
      let s := s.setObj 0x8022 (p.val + 1) (w + 2 ^ 366 + (if n < len then 2 ^ 365 else 0))
      (s.setPart p.val { s.part p.val with watching := false }).mirrorDone p.val)

/-! ### Restore and rollback (R282, R285) -/

/-- Dispatch of a partition goes on: nothing holds it any more. -/
def State.resumeDispatch (s : State) (p : Nat) : State :=
  let v := s.part p
  if v.ackDue ∨ v.rolling.isSome ∨ v.run ≠ .running then s
  else (s.clustersOf p).foldl (fun s cl =>
    let c := s.clu cl
    if c.isl = .fenced ∨ c.brk ≠ .none then s else (s.setClu cl { c with dispStopped := false }).refresh cl) s

/-- The newest slot of die d if it can be restored from (R282): VALID for the last completed step, without poison, its sum right. -/
def State.restorable (s : State) (p d : Nat) : Option Nat :=
  match s.newestSlot p d with
  | some a =>
    let h := s.slotHeader a
    if s.slotValid a d ∧ s.slotStep a = (s.part p).stepNow.toNat ∧ sumOf (s.rangeBytes (a + 4096) (bits 191 128 h)) = bits 127 64 h then some a else none
  | none => none

/-- RESTORE_COMPLETE (R282): die d's ranges are its mirror's again, or the restore fails into a rollback. -/
def execRestoreComplete (p : Pn) (d : Dn) (s : State) : Out :=
  .next (
    let v := s.part p.val
    if v.run ≠ .running ∨ !v.runDies.getLsbD d.val ∨ v.inMirror ∨ v.rolling.isSome then s
    else match s.restorable p.val d.val with
      | none => s.beginRollback p.val
      | some a =>
        let len := bits 191 128 (s.slotHeader a)
        let s := s.sweep [(a, 4096 + len)]
        let s := s.scatterRanges (s.liveRanges p.val d.val) (s.rangeBytes (a + 4096) len) []
        if v.restoring.getLsbD d.val then
          let left := v.restoring &&& ~~~BitVec.ofNat 4 (2 ^ d.val)
          let s := s.setPart p.val { s.part p.val with restoring := left }
          if left = 0 then s.stepRestarted p.val else s
        else ({ s with totals := { s.totals with optRepeats := sat32 s.totals.optRepeats 1 } }).ckptEv p.val 0x04 d.val 0 0)

/-- ROLLBACK (R285, R304): the reads of a rollback take the newest image that is complete on every die now. -/
def execRollback (p : Pn) (s : State) : Out :=
  .next (
    let v := s.part p.val
    match v.rolling with
    | none => s
    | some t => match s.commonImage (diesIn (s.diesOf p.val)) with
      | some u => if u = t then s else ((s.setPart p.val { v with rolling := some u }).readImages p.val).ckptEv p.val 0x09 0xFF 0 u
      | none => (s.setPart p.val { v with rolling := none }).ckptEv p.val 0x0A 0xFF 0 0)

/-- ROLLBACK_COMPLETE (R285): the ports have read the images into the state ranges, and the step number is the image's. -/
def execRollbackComplete (p : Pn) (s : State) : Out :=
  .next (
    let v := s.part p.val
    match v.rolling with
    | none => s
    | some t =>
      let ds := diesIn (s.diesOf p.val)
      if ds.any fun d => (s.areaOf d t).isNone || !s.jobsDone d p.val d false then s
      else
        let s := ds.foldl (fun s d => match s.areaOf d t with
          | some a => (s.scatterRanges (s.imageRanges p.val d) (s.image d a).body.bytes []).dropJobs d fun j => decide (j.part = p.val) && !j.write
          | none => s) s
        let s := s.setPart p.val { s.part p.val with rolling := none, stepNow := BitVec.ofNat 32 t, dieValid := v.runDies }
        (((s.clearTouched p.val).dropMarks p.val).reprotect p.val).resumeDispatch p.val)

/-! ### Held checkpoints (R277) and the acknowledgement of a core map (R283) -/

/-- A hold ends (R277): HOST_HOLD clears, and CKPT_HOLD reads 0. -/
def State.endHold (s : State) (p : Nat) : State :=
  let v := s.part p
  match v.ckptSince with
  | none => s
  | some _ =>
    let s := v.ckptSlots.foldl (fun s e => s.slotBit e.2 235 false) s
    let s := s.setPart p { s.part p with ckptSince := none, ckptSlots := [] }
    (s.setObj 0x6019 (p + 1) 0).ckptEv p 0x16 0xFF 0 v.ckptStep.toNat

/-- A write of CKPT_HOLD takes effect (R277): 1 holds each die's newest valid slot, 0 ends the hold. -/
def State.holdCkpt (s : State) (p v : Nat) : State :=
  if v = 0 then s.endHold p
  else if (s.part p).ckptSince.isSome then s
  else
    let slots := (diesIn (s.diesOf p)).filterMap fun d => (s.newestSlot p d).map fun a => (d, a)
    let step := match slots with
      | [] => 0
      | e :: rest => rest.foldl (fun m x => min m (s.slotStep x.2)) (s.slotStep e.2)
    let s := slots.foldl (fun s e => s.slotBit e.2 235 true) s
    (s.setPart p { s.part p with ckptSince := some s.now, ckptSlots := slots, ckptStep := BitVec.ofNat 32 step }).setObj 0x6019 (p + 1) 1

/-- CKPT_HOLD (R277): the host's write of CKPT_HOLD of its partition; values above 1 act as 1. -/
def execCkptHold (p : Pn) (v : Nat) (s : State) : Out := .next (s.holdCkpt p.val v)

/-- CKPT_HOLD_EXPIRE (R277): CKPT_HOLD_LIMIT seconds after it began. -/
def execCkptHoldExpire (p : Pn) (s : State) : Out :=
  .next (match (s.part p.val).ckptSince with
    | some t => if t + s.obj 0x601D 1 * 1000000 ≤ s.now then s.endHold p.val else s
    | none => s)

/-- A write of CORE_MAP_ACK takes effect (R283): equal to CORE_MAP_GEN it releases held dispatch, and a step that was
abandoned starts again. -/
def State.ackCoreMap (s : State) (p : Nat) (v : W32) : State :=
  let s := s.setObj 0x601E (p + 1) v.toNat
  let w := s.part p
  if w.ackDue ∧ v = s.fabric.mapGen then
    let s := s.setPart p { w with ackDue := false }
    let s := if w.restartCause = 2 ∧ w.rolling.isNone then (s.dropMarks p).stepRestarted p else s
    s.resumeDispatch p
  else s

/-- CORE_MAP_ACK (R283). -/
def execCoreMapAck (p : Pn) (v : W32) (s : State) : Out := .next (s.ackCoreMap p.val v)

end Sys2Proof.Machine
end

