-- ==== Sys2Proof/Machine/Runs.lean ====
section
/-! DEFINITION. Runs (R125, R156, R157, R324), ownership (R201, R205, R209), permissions (R211), and the supervisory acts
(R311). -/

namespace Sys2Proof.Machine

open Sys2Proof

/-- A RUN record (R336): the RUN_CTRL value, and the milliseconds run. -/
def State.logRun (s : State) (p v : Nat) : State :=
  s.logEvent 0x89 p 0 (s.part p).stepNow.toNat v (if s.hasRun p then (s.now - (s.part p).startAt) / 1000 else 0)

/-! ### Start (R8, R92, R141, R157, R164, R230, R346, R371) -/

/-- The executable pages of a partition, in ascending order (R346). -/
def State.execPages (s : State) (p : Nat) : List Nat :=
  (s.dram.permTable.filter fun e => permX e.2 && decide (s.permEntry p e.1 = e.2)).map (·.1)

/-- TRACE_REGION: base and size in MiB (R329). -/
def State.traceRegion (s : State) (p : Nat) : Nat × Nat := (s.obj 0x8020 (p + 1) % 2 ^ 64, bits 95 64 (s.obj 0x8020 (p + 1)))

/-- The trace layout of a run that starts now (R371). -/
def State.traceLayout (s : State) (p : Nat) : TraceLay :=
  let r := s.traceRegion p
  let size := r.2 * 2 ^ 20
  let n := (s.clustersOf p).length
  let watch := s.watch p 383 368 * 2 ^ 20
  let on := decide (0 < size) && decide (r.1 % 2 ^ 21 = 0) && s.ownsRange p r.1 size && decide (0 < n)
  ⟨on, r.1, size, n, if on then (size - 65536 - watch) / (n * 4096) * 4096 else 0, watch, s.now⟩

/-- Index of a cluster among its partition's clusters (R371). -/
def State.clusterIndex (s : State) (cl : Cl) : Nat := ((s.clustersOf (s.clPart cl)).filter fun c => decide (c.val < cl.val)).length

/-- Offset of a cluster's segment (R371). -/
def TraceLay.segment (t : TraceLay) (i : Nat) : Nat := 65536 + t.watchLen + i * t.segLen

/-- Writes the headers of a trace region (R371). -/
def State.traceHeaders (s : State) (p : Nat) : State :=
  let t := (s.part p).trace
  if !t.on then s
  else
    let s := s.dramBytesWr t.base ([0x47, 0x4C, 0x54, 0x52].map (BitVec.ofNat 8) ++ leBytes 2 1 ++ [BitVec.ofNat 8 p, 0] ++ leBytes 2 t.nClusters
      ++ [0, 0] ++ leBytes 4 t.segLen ++ leBytes 4 t.watchLen ++ leBytes 4 0 ++ leBytes 8 t.start ++ List.replicate 224 0)
    (s.clustersOf p).foldl (fun s cl => s.dramBytesWr (t.base + 256 + 128 * s.clusterIndex cl)
      (leBytes 8 0 ++ leBytes 8 0 ++ leBytes 8 (t.segment (s.clusterIndex cl)) ++ List.replicate 104 0)) s

/-- A cluster at the start of its partition's run: powered, its rings and counters at their reset values (R141, R157, R184,
R230), its dispatcher running. -/
def State.startCluster (s : State) (cl : Cl) : State :=
  let v := s.clu cl
  let fenced := v.isl = .fenced
  let s := s.setClu cl { v with
    isl := if v.isl = .gated then .running else v.isl
    dispStopped := fenced, brk := .none, brkRings := 0, trace := ⟨[], [], 0, 0, 0⟩ }
  let s := (List.range 16).foldl (fun s n => s.setRing cl n Ring.init) s
  let s := s.setStew cl { s.stew cl with stopped := false, hold := none, npc := none, fetchBad := none, passBreak := none }
  allCn.foldl (fun s c =>
    let k := s.core cl c
    s.setCore cl c { k with touched := [], toSettle := [], settleWait := 0 }) s

/-- A run starts (R324). -/
def State.startRun (s : State) (p : Nat) : State :=
  let dies := s.diesOf p &&& ~~~s.fabric.dieFenced
  let cls := s.clustersOf p
  let s := cls.foldl State.startCluster (s.clearTouched p)
  let s := { s with counters := s.counters.filter fun e => s.clPart (nameCl e.1) ≠ p }
  let s := (List.range 16).foldl (fun s a => if s.granOwner a = p then
      let v := s.acct a
      s.setAcct a { v with credit := v.cap, starved := 0 }
    else s) s
  let v := s.part p
  let s := s.setPart p { v with
    run := .running, startReq := false, startAt := s.now, dropped := 0, frozen := false, stopCause := 0, dieValid := dies, runDies := dies, shardDies := 0
    endSeen := [], mirroring := [], lastSlot := [], watching := false, restoring := 0, restartCause := 0, rolling := none, ackDue := false
    dropDies := 0, dropLater := 0, liveSlot := [], faults := [], releaseDue := false, pm := 0, pages := s.execPages p, hangDue := false, haltSince := none, trace := s.traceLayout p }
  ((s.traceHeaders p).reprotect p).logRun p 1

/-- Whether the remaps of every die that is not fenced have been re-established (R197). -/
def State.remapsDone (s : State) : Bool := (List.range 4).all fun d => s.fabric.remapped.getLsbD d || s.fabric.dieFenced.getLsbD d

/-- START (R197, R324): acts in RUN_STATE 0, and waits for the remaps. -/
def State.runStart (s : State) (p : Nat) : State :=
  let v := s.part p
  if v.run ≠ .noRun ∨ s.mgmt.fenced then s
  else if s.remapsDone then s.startRun p
  else s.setPart p { v with startReq := true }

/-- REMAP_REESTABLISH (R197): once die d's clusters are released and its spares have been tested, its retired cores are
remapped in ascending core-map index; one without a spare degrades the grade. A START that waited
for the remaps then begins its run. -/
def execRemapReestablish (d : Dn) (s : State) : Out :=
  .next (
    let ix := (List.range 768).map fun k => 768 * d.val + k
    if s.fabric.remapped.getLsbD d.val ∨ !s.dieReleased d.val ∨ ix.any (fun i => s.coreState i = 1 && (s.phy i).busy) then s
    else
      let s := (ix.filter fun i => decide (s.coreState i = 3) && decide (mapState (look 0 s.fw.fuses.coreMap i) = 0)).foldl (fun s i =>
        let home : Cl := Fin.ofNat 256 (i / 12)
        match s.chooseSpare home with
        | some j => s.giveSpare j home (Fin.ofNat 12 (i % 12))
        | none => { s with fabric := { s.fabric with gradeNow := 0x44 } }) s
      let s := { s with fabric := { s.fabric with remapped := s.fabric.remapped ||| BitVec.ofNat 4 (2 ^ d.val) } }
      if s.remapsDone then (List.range 16).foldl (fun s p => if (s.part p).startReq then s.startRun p else s) s else s)

/-- RUN_START (R324). -/
def execRunStart (p : Pn) (s : State) : Out := .next (s.runStart p.val)

/-! ### Stop (R125, R156, R218) -/

/-- STOP and PREEMPT (R125, R276, R324): act in RUN_STATE 1 and 2; flash copies that are under way are abandoned. -/
def State.runStop (s : State) (p v : Nat) : State :=
  let w := s.part p
  if w.run = .running ∨ w.run = .hung then ((s.logRun p v).flashAbandon p fun _ => true).beginStop p else s

/-- RUN_STOP (R125, R156). -/
def execRunStop (p : Pn) (s : State) : Out := .next (s.runStop p.val 2)
/-- RUN_PREEMPT (R125, R156). -/
def execRunPreempt (p : Pn) (s : State) : Out := .next (s.runStop p.val 3)

/-- PARTITION_STOP (R125, step 5, R156, R218): no commit is left; waiters are released, increments in flight dropped, shadow
lines dropped, caches written back and emptied, and RUN_STATE becomes NO_RUN. -/
def execPartitionStop (p : Pn) (s : State) : Out :=
  .next (
    if (s.part p.val).run ≠ .stopping ∨ s.committing p.val then s
    else
      let s := s.landAll p.val
      let s := (s.clustersOf p.val).foldl (fun s cl =>
        let s := (s.endStewWait cl 1).abandonRings cl
        let s := (List.range 4).foldl (fun s k => let x := (s.clu cl).slot k
          if x.st = .discarding then s.resolve cl k 1 x.cause else s) s
        (s.emptyCache cl).traceFlush cl) s
      let b := s.obj 0x8023 (p.val + 1)
      let s := s.setObj 0x8023 (p.val + 1) ((List.range 256).foldl (fun b e => if bits (128 * e + 124) (128 * e + 124) b = 1 then b - 2 ^ (128 * e + 124) else b) b)
      let v := s.part p.val
      s.setPart p.val { v with run := .noRun, pm := 0, pages := [], trace := { v.trace with on := false } })

/-! ### Permissions and ownership (R201, R205, R209, R211) -/

/-- DRAM granules of a partition, as die and granule (R205). -/
def State.dramOf (s : State) (p : Nat) : List (Nat × Nat) :=
  (List.range 4).flatMap fun d => ((List.range 95).filter fun g => s.dramOwner d g = p).map fun g => (d, g)

/-- A permission change (R211, step 1): the entry of every page of a range that the partition owns; pages that become
executable in a run wait to be measured (R346). -/
def State.permWrite (s : State) (p addr count entry : Nat) : State :=
  let first := addr / 2 ^ 21
  let e := BitVec.ofNat 4 entry
  let pages := (s.dramOf p).flatMap fun dg =>
    let base := dg.1 * 65536 + dg.2 * 512
    (List.range 512).map (fun i => base + i) |>.filter fun k => decide (first ≤ k) && decide (k < first + count)
  let s := { s with dram := { s.dram with permTable := pages.foldl (fun m k => put 3 m k e) s.dram.permTable } }
  if permX e && s.hasRun p then s.setPart p { s.part p with pages := (s.part p).pages ++ pages } else s

/-- PERM_WRITE (R209, R211): the low 21 bits of the address act as 0. -/
def execPermWrite (p : Pn) (addr count entry : Nat) (s : State) : Out := .next (s.permWrite p.val addr count (entry % 16))

/-- The cores of a granule whose owner changes (R90): tile stores zeroed, instruction caches empty. -/
def State.clearGranule (s : State) (g : Nat) : State :=
  (allCl.filter fun cl => acctOf cl = g).foldl (fun s cl =>
    let s := s.emptyCache cl
    let s := s.setClu cl { s.clu cl with icache := [], cache := { (s.clu cl).cache with perm := [] } }
    let s := s.setStew cl { s.stew cl with icache := [] }
    allCn.foldl (fun s c => s.setCore cl c { s.core cl c with ts := Mem.empty, icache := [] }) s) s

/-- A new owner of granule g (R184, R201, R218): caches are written back and emptied, and the islands powered up for an
owner. A granule whose present owner has a run keeps it. -/
def State.setGranule (s : State) (g owner : Nat) : State :=
  let old := s.granOwner g
  if (old < 16 ∧ s.hasRun old) ∨ old = owner ∨ ¬(owner < 16 ∨ owner = 0xFF) then s
  else
    let s := (s.clearGranule g).setObj 0x3010 (1 + g) owner
    if owner = 0xFF then s
    else (allCl.filter fun cl => acctOf cl = g).foldl (fun s cl => if (s.clu cl).isl = .gated then s.setClu cl { s.clu cl with isl := .running } else s) s

/-- GRANULE_OWNER (R201). -/
def execGranuleOwner (d : Dn) (q : Fin 4) (owner : Nat) (s : State) : Out := .next (s.setGranule (4 * d.val + q.val) owner)

/-- Permission entries of a DRAM granule that changes owner return to 0b0011, and no permission cache keeps one (R209). -/
def State.dramPassed (s : State) (d g : Nat) : State :=
  let mine (k : Nat) : Bool := decide (k / 512 = d * 128 + g)
  let s := { s with dram := { s.dram with permTable := s.dram.permTable.filter fun e => !mine e.1 } }
  { s with clusters := mapS Cluster.init (fun _ v => { v with cache := { v.cache with perm := v.cache.perm.filter fun e => !mine e.1 } }) s.clusters }

/-- SELFTEST_REQ (R46): on-demand tests of the named cores inside the partition's granules become due at once. -/
def State.selftestReq (s : State) (p mask : Nat) : State :=
  (List.range 3072).foldl (fun s i =>
    if bits i i mask = 1 ∧ s.clPart (Fin.ofNat 256 (i / 12)) = p ∧ (s.coreState i = 0 ∨ s.coreState i = 1 ∨ s.coreState i = 4) then
      s.setPhy i { s.phy i with testDue := true }
    else s) s

/-- SELFTEST_REQ. -/
def execSelftestReq (p : Pn) (mask : Nat) (s : State) : Out := .next (s.selftestReq p.val mask)

/-! ### Supervisory acts (R311) and LEDGER_COUNTS_CLEAR (R331) -/

/-- SUP_FENCE (R311, R266): the device is fenced. -/
def execSupFence (s : State) : Out := .next (s.deviceFence [] true)

/-- SUP_PART_RESET (R311): each set bit resets its partition. -/
def State.partResets (s : State) (mask : Nat) : State := (List.range 16).foldl (fun s p => if bits p p mask = 1 then s.runStop p 2 else s) s

/-- SUP_PART_RESET. -/
def execSupPartReset (mask : BitVec 16) (s : State) : Out := .next (s.partResets mask.toNat)

/-- Clears ADMISSIONS and GUARD_ADMITS (R331). -/
def State.clearLedger (s : State) : State :=
  { s with accts := mapS Acct.init (fun _ a => { a with admissions := 0, guardAdmits := 0 }) s.accts }

/-- LEDGER_COUNTS_CLEAR (R331): any value but 0 acts as 1. -/
def execLedgerCountsClear (v : Nat) (s : State) : Out := .next (if v = 0 then s else s.clearLedger)

end Sys2Proof.Machine
end

