-- ==== Sys2Proof/Machine/Observe.lean ====
section
/-! DEFINITION. Observing a run: breakpoints (R379 to R381), samples (R374) and trace lines (R372). -/

namespace Sys2Proof.Machine

open Sys2Proof

/-- A field changed by a clamp (R320): byte offset, width, reason (1 bound, 2 kept, 3 zeroed, 4 forced), value written,
value applied. -/
structure Clamped where
  off : Nat
  width : Nat
  reason : Nat
  written : Nat
  applied : Nat
deriving DecidableEq, Repr

/-! ### Breakpoints -/

/-- The cluster that a breakpoint entry names (R379). -/
def bpCluster (v : Nat) : Cl := clAt (bits 121 120 v) (bits 119 117 v) (bits 116 114 v)

/-- The entry that a write gives (R379): ZEROED outside the partition or where a valid earlier entry has its cluster and
SLOT; HIT may only be cleared, HITS keeps its value, reserved bits are 0. -/
def State.bpCheck (s : State) (p e : Nat) (old new : Nat) (earlier : List Nat) : Nat × List Clamped :=
  let dup := earlier.any fun w => bits 127 127 w = 1 && bits 126 125 w = bits 126 125 new && decide (bpCluster w = bpCluster new)
  if bits 127 127 new = 1 && (decide (s.clPart (bpCluster new) ≠ p) || dup) then
    (0, [⟨16 * e, 8, 3, new % 2 ^ 64, 0⟩, ⟨16 * e + 8, 8, 3, new / 2 ^ 64, 0⟩])
  else
    let hit := if bits 124 124 new = 1 ∧ bits 124 124 old = 0 then 0 else bits 124 124 new
    let v := pack [(1, bits 127 127 new), (2, bits 126 125 new), (1, hit), (2, 0), (2, bits 121 120 new), (3, bits 119 117 new), (3, bits 116 114 new),
      (2, 0), (48, bits 111 64 new), (32, bits 63 32 new), (32, old % 2 ^ 32)]
    let byte (o : Nat) (reason : Nat) : List Clamped :=
      if sliceNat v o 1 = sliceNat new o 1 then [] else [⟨16 * e + o, 1, reason, sliceNat new o 1, sliceNat v o 1⟩]
    (v, (if v % 2 ^ 32 = new % 2 ^ 32 then [] else [⟨16 * e, 4, 2, new % 2 ^ 32, v % 2 ^ 32⟩]) ++ byte 14 4
      ++ byte 15 (if bits 123 122 new = 0 then 2 else 4))

/-- BREAKPOINTS after a write (R379): each entry checked in order. -/
def State.bpMerge (s : State) (p new : Nat) : Nat × List Clamped :=
  let r := (List.range 256).foldl (fun (a : List Nat × List Clamped) e =>
    let c := s.bpCheck p e (s.bpEntry p e) (sliceNat new (16 * e) 16) a.1
    (a.1 ++ [c.1], a.2 ++ c.2)) ([], [])
  ((r.1.zipIdx.map fun x => x.1 * 2 ^ (128 * x.2)).foldl (· + ·) 0, r.2)

/-- BREAKPOINT_WRITE (R379): the entries, as they are clamped, act. -/
def execBreakpointWrite (p : Pn) (v : Nat) (s : State) : Out := .next (s.setObj 0x8023 (p.val + 1) (s.bpMerge p.val v).1)

/-- BREAKPOINT_HALT (R380, steps 1 and 2): the steward core halts before an instruction that an entry stops; HIT is set, a
BREAK record written, the dispatcher stops, every ring is stopped. -/
def execBreakpointHalt (cl : Cl) (ia : Nat) (s : State) : Out :=
  .next (
    let p := s.clPart cl
    let w : At := ⟨cl, .steward, ia⟩
    match s.bpFor cl ia with
    | some e =>
      let v := s.bpEntry p e
      if !s.seqRuns w ∨ !s.bpStops w ∨ ¬((s.stew cl).npc = none ∨ (s.stew cl).npc = some ia) ∨ (s.stew cl).hold.isSome then s
      else
        let v := bpCount v + (if bits 124 124 v = 1 then 0 else 2 ^ 124)
        let slot := bits 126 125 v
        let s := s.setBp p e v
        let s := (s.trace cl (traceRec 0x04 (unitName cl 0x10) 0 s.now (pack [(2, slot), (48, ia), (14, 0), (32, v % 2 ^ 32), (64, 0)]))).traceFlush cl
        let running := (List.range 16).filter fun n => (s.ring cl n).st = .running
        let s := s.setClu cl { s.clu cl with
          dispStopped := true, brk := .halting slot, brkRings := BitVec.ofNat 16 (running.foldl (fun m n => m + 2 ^ n) 0) }
        let s := s.setStew cl { s.stew cl with passBreak := some ia }
        let s := s.setPart p { s.part p with haltSince := some ((s.part p).haltSince.getD s.now) }
        s.stopRings cl
    | none => s)

/-- The address at which a cluster's steward core has halted. -/
def State.haltIa (s : State) (cl : Cl) : Nat := (s.stew cl).passBreak.getD 0

/-- BREAKPOINT_CLUSTER_HALTED (R380, step 3): rings have halted, scoreboards are clear, begun commits are done; the other
steward cores are told, and a dump of every halted cluster begins. -/
def execBreakpointClusterHalted (cl : Cl) (s : State) : Out :=
  .next (match (s.clu cl).brk with
    | .halting slot =>
      let busy := ((List.range 16).any fun n => decide ((s.ring cl n).st = .running) || decide ((s.ring cl n).st = .stopping))
        || (allCn.any fun c => !(s.core cl c).movesClear || !(s.core cl c).outs.isEmpty) || (s.clu cl).slots.any fun e => decide (e.2.st = .committing)
      if busy then s
      else
        let p := s.clPart cl
        let s := s.setClu cl { s.clu cl with brk := .halted slot }
        let s := ((s.clustersOf p).filter fun c => c ≠ cl).foldl (fun s c => s.pushEv c (evRecord 0x09 0 (unitName cl 0x10) [slot, s.haltIa cl])) s
        s.takeDump p 5 0 ((s.clustersOf p).filter fun c => match (s.clu c).brk with
          | .halted _ => true
          | _ => false)
    | _ => s)

/-- The start of a wait moves by the time for which the partition was halted since h, so that its age has not advanced
(R381). -/
def shiftSince (now h t : Nat) : Nat := now - (max h t - t)

/-- Ages go on in a cluster whose partition is halted no more (R381). -/
def State.shiftWaits (s : State) (cl : Cl) (h : Nat) : State :=
  let f := shiftSince s.now h
  let on (x : Option Hold) : Option Hold := x.map fun x => { x with since := f x.since }
  let s := allCn.foldl (fun s c =>
    let k := s.core cl c
    s.setCore cl c { k with hold := on k.hold, deferStall := k.deferStall.map f, moves := k.moves.map fun e => (e.1, { e.2 with stallSince := e.2.stallSince.map f }) }) s
  let s := s.setStew cl { s.stew cl with hold := on (s.stew cl).hold }
  (List.range 16).foldl (fun s n =>
    let r := s.ring cl n
    s.setRing cl n { r with waitSince := r.waitSince.map f, wait2Since := r.wait2Since.map f }) s

/-- BREAKPOINT_RESUME (R381): once no valid entry of the cluster's slot has HIT = 1, the cluster goes on: its stopped rings
restart, its dispatcher resumes, and its steward core executes the matched instruction. -/
def execBreakpointResume (cl : Cl) (s : State) : Out :=
  .next (
    let p := s.clPart cl
    let stays (slot : Nat) : Bool := (List.range 256).any fun e =>
      let v := s.bpEntry p e
      bits 127 127 v = 1 && bits 124 124 v = 1 && bits 126 125 v = slot && decide (bpCluster v = cl)
    let go (slot : Nat) : State :=
      if stays slot then s
      else
        let v := s.clu cl
        let s := s.setClu cl { v with brk := .none, brkRings := 0 }
        let s := (List.range 16).foldl (fun s n => if v.brkRings.getLsbD n then s.ringStart cl n else s) s
        let s := if s.anyHalted p then s
          else match (s.part p).haltSince with
            | some h => ((s.clustersOf p).foldl (fun s c => s.shiftWaits c h) s).setPart p { s.part p with haltSince := none }
            | none => s
        if (s.part p).ackDue ∨ (s.part p).rolling.isSome then s else (s.setClu cl { s.clu cl with dispStopped := false }).refresh cl
    match (s.clu cl).brk with
    | .halting slot => go slot
    | .halted slot => go slot
    | .none => s)

/-! ### Samples and trace lines -/

/-- PC_SAMPLE (R374, R375): a sample of a logical core, with its stall class in the sampled cycle. The island cycles since
the task's start are not kept by the model (log 2). -/
def execPcSample (cl : Cl) (c : Cn) (stall : Nat) (s : State) : Out :=
  .next (
    if !s.coreEnabled cl c.val ∨ !s.tracing cl then s
    else
      let f := s.fresh
      let k := s.core cl c
      let step := (s.clu (Fin.ofNat 256 (s.physOf cl c.val / 12))).step
      let cyc := if k.task.isSome then f.1.toNat else 0
      f.2.trace cl (traceRec 0x01 (unitName cl c.val) (s.taskIdOf cl c) s.now
        (pack [(48, k.lastIa), (4, s.sampleClass cl c stall), (4, step), (3, s.slotCode cl c), (5, 0), (32, cyc), (64, 0)])))

/-- TRACE_LINE_ACCEPTED (R372): the oldest line reaches its place in the segment, and WRITTEN and DROPPED are updated. -/
def execTraceLineAccepted (cl : Cl) (s : State) : Out :=
  .next (
    let v := s.clu cl
    let t := (s.part (s.clPart cl)).trace
    match v.trace.lines with
    | [] => s
    | l :: rest =>
      let v' := { v with trace := { v.trace with lines := rest, written := v.trace.written + 4 } }
      let s := s.setClu cl v'
      if t.segLen = 0 then s
      else
        let i := s.clusterIndex cl
        let s := s.dramBytesWr (t.base + t.segment i + 32 * (v.trace.written % (t.segLen / 32))) (l.flatMap fun r => leBytes 32 r.toNat)
        s.dramBytesWr (t.base + 256 + 128 * i) (leBytes 8 v'.trace.written ++ leBytes 8 v.trace.dropped))

end Sys2Proof.Machine
end

