-- ==== Sys2Proof/Machine/Trust.lean ====
section
/-! DEFINITION. Firmware images, boot and update (R337 to R344), measurement and quotes (R345 to R348), service access (R349,
R350). -/

namespace Sys2Proof.Machine

open Sys2Proof

/-! ### Bytes for the security unit -/

/-- The bytes of a list that are not zero, by offset from o. -/
def nonZero : Nat → List Byte → SMap Byte
  | _, [] => []
  | o, b :: t => if b = 0 then nonZero (o + 1) t else (o, b) :: nonZero (o + 1) t

/-- The listed bytes of a store in a range, by offset in it. -/
def Mem.span (m : Mem) (base len : Nat) : SMap Byte := (m.bytes.filter fun e => inSpan base len e.1).map fun e => (e.1 - base, e.2)

/-! ### Images (R339) -/

/-- A little-endian field of an image header. -/
def Mem.field (m : Mem) (off n : Nat) : Nat := leNat ((List.range n).map fun i => m.raw (off + i))

/-- Bytes up to which the flash holds an image: its top 64 KiB are the sealed store. -/
def sealedBase : Nat := 0x1FF0000

/-- The FW_STATUS cause for which an image is not valid, 0 if it is (R339, R342). -/
def imageCause (z : Fuses) (m : Mem) (room : Nat) : Nat :=
  let body := m.field 12 4
  if m.field 0 4 ≠ 0x57464C47 ∨ m.field 4 2 ≠ 1 ∨ m.span 84 684 ≠ [] ∨ m.span 2048 2048 ≠ [] then 2
  else if m.field 6 1 > 1 ∨ (m.field 6 1 = 0 ∧ z.key0Revoked) then 3
  else if !Config.falconVerify (m.field 6 1) (m.field 0 768) (m.field 768 1280) then 4
  else if m.field 7 1 < z.svn ∨ m.field 7 1 > 32 then 6
  else if body % 4096 ≠ 0 ∨ body < 4096 ∨ body > 33484800 ∨ m.field 16 4 > 786432 ∨ room < 4096 + body then 10
  else if (Config.shake256 body (m.span 4096 body)).toNat ≠ m.field 20 64 then 5
  else 0

/-- FW_MEASURE (R348): SHAKE256 of header bytes 0 to 2,047 and the body. -/
def imageMeasure (m : Mem) : BitVec 512 :=
  let body := m.field 12 4
  Config.shake256 (2048 + body) (m.span 0 2048 ++ (m.span 4096 body).map fun e => (2048 + e.1, e.2))

/-- The processor jumps to the image in the hold area (R337, step 6): the watchdog runs from here (R351). An image that
a port sent is recorded under that port, not under the straps (R336, BOOT). -/
def State.jump (s : State) (recovery : Bool) : State :=
  let m := s.fw.hold
  let source := match s.fw.recOwner with
    | some k => if recovery then k + 1 else s.fw.bootSource
    | none => s.fw.bootSource
  { s with
    fw := { s.fw with recovery := recovery, inRecovery := false, version := BitVec.ofNat 32 (m.field 8 4), svn := m.field 7 1, measure := imageMeasure m, up := false, bootSource := source }
    boot := { s.boot with watchdog := true } }

/-! ### Boot (R337, R343) -/

/-- BOOT_IMAGE_LOADED (R337, steps 2 to 6): once a die is calibrated the image is read from flash into the hold area and
verified; straps that name another source, or an image that is not valid, lead to recovery. -/
def execBootImageLoaded (s : State) : Out :=
  .next (
    let b := s.boot
    if s.fw.inRecovery ∨ b.watchdog ∨ b.calStopped ∨ b.calOk = 0 ∨ !s.releasedTo 1 then s
    else
      let stale := match s.trust.sealedAt with
        | some n => decide (n ≠ s.fw.fuses.openings)
        | none => false
      let s := if stale then { s with trust := { s.trust with sealedAt := none } } else s
      let die := (List.range 4).find? fun d => b.calOk.getLsbD d
      let s := { s with fw := { s.fw with holdDie := die, bootSource := b.bootSrc, state := 0, cause := 0, progress := 0, cmd := 0 } }
      if b.bootSrc ≠ 0 then { s with fw := { s.fw with inRecovery := true } }
      else
        let img : Mem := ⟨s.fw.flash.span 0 sealedBase, []⟩
        let c := imageCause s.fw.fuses img sealedBase
        if c = 0 then ({ s with fw := { s.fw with hold := img } }).jump false
        else { s with fw := { s.fw with inRecovery := true, cause := c } })

/-- FW_STATUS (R342). -/
def State.fwStatus (s : State) : Nat :=
  let f := s.fw
  pack [(4, f.state), (4, f.cause), (8, f.progress), (15, 0), (1, if f.recovery then 1 else 0)]

/-- The mirror's records return to their slots by record number (R335). -/
def State.restoreLog (s : State) : State :=
  let m := s.mgmt
  let first := m.logCount + 2 ^ 32 - m.mirror.length
  { s with mgmt := { m with slots := m.mirror.zipIdx.foldl (fun (t : SMap Rec) e => ins t ((first + e.2) % 2 ^ 32 % 4096) e.1) [] } }

/-- FIRMWARE_UP (R335, R337, step 7): the log is restored, RESET and BOOT are recorded, and the firmware serves. -/
def execFirmwareUp (s : State) : Out :=
  .next (
    if !s.boot.watchdog ∨ s.fw.up then s
    else
      let n := s.mgmt.logCount
      let lost := min n 4096 - s.mgmt.mirror.length
      let s := s.restoreLog
      let s := if s.boot.recorded then s else s.logEvent 0x81 0xFF 0 0 s.boot.source lost
      let s := s.logEvent 0x80 0xFF 0 0 (s.fw.cause * 256 + s.fw.bootSource) s.fw.version.toNat
      { s with boot := { s.boot with recorded := true }, fw := { s.fw with up := true, upSince := s.now } })

/-! ### Service access (R349, R350) -/

/-- An UNLOCK record (R336). -/
def State.logUnlock (s : State) (verdict : Nat) : State := s.logEvent 0x83 0xFF 0 0 verdict s.fw.fuses.openings

/-- The verdict of R350 on a token, in the order of its table; 0 passes. -/
def State.tokenVerdict (s : State) (t : Nat) : Nat :=
  let z := s.fw.fuses
  if sliceNat t 0 4 ≠ 0x54554C47 ∨ sliceNat t 4 2 ≠ 1 ∨ sliceNat t 48 720 ≠ 0 ∨ sliceNat t 8 8 ≠ z.serial.toNat ∨ sliceNat t 16 32 ≠ s.trust.challenge.toNat then 1
  else if !Config.falconVerify 2 (sliceNat t 0 768) (sliceNat t 768 1280) then 2
  else if z.openings < 8 ∧ sliceNat t 6 1 ≠ z.openings + 1 then 3
  else if z.openings ≥ 8 then 4
  else if (List.range 16).any fun p => s.hasRun p then 5
  else 0

/-- Evaluates the token that is stored (R350): an opening begins, or the verdict is recorded. -/
def State.evalToken (s : State) : State :=
  let s := { s with trust := { s.trust with tokenWaiting := false } }
  if s.trust.opening.isSome then s
  else
    let t := s.obj 0x9002 2
    let v := s.tokenVerdict t
    if v = 0 then { s with trust := { s.trust with opening := some (sliceNat t 7 1), erased := false } } else s.logUnlock v

/-- A token is written (R344, R350): stored as written, evaluated now or when a firmware command ends. -/
def State.writeToken (s : State) (v : Nat) : State :=
  let s := s.setObj 0x9002 2 (v % 2 ^ 16384)
  if 1 ≤ s.fw.state ∧ s.fw.state ≤ 5 then { s with trust := { s.trust with tokenWaiting := true } } else s.evalToken

/-- UNLOCK_TOKEN (R350). -/
def execUnlockToken (v : Nat) (s : State) : Out := .next (s.writeToken v)

/-- UNLOCK_ERASE_COMPLETE (R350, step 2): sealed store, secrets and identity are gone. -/
def execUnlockEraseComplete (s : State) : Out :=
  .next (
    if s.trust.opening.isNone ∨ s.trust.erased then s
    else { s with trust := { s.trust with erased := true, sealedAt := none, hasIdentity := false } })

/-- OPENING_FUSE_BLOWN (R350, steps 3 and 4). -/
def execOpeningFuseBlown (readbackOk : Bool) (s : State) : Out :=
  .next (match s.trust.opening with
    | some sc =>
      if !s.trust.erased then s
      else if readbackOk then
        ({ s with
          fw := { s.fw with fuses := { s.fw.fuses with openings := min 8 (s.fw.fuses.openings + 1) } }
          trust := { s.trust with service := true, scope := sc % 4, opening := none } }).logUnlock 0
      else ({ s with trust := { s.trust with opening := none } }).logUnlock 6
    | none => s)

/-! ### Update (R341, R344) -/

/-- A firmware command ends in a state with a cause: recorded, and a token that waits is evaluated (R336, R344). -/
def State.fwEnd (s : State) (st cause : Nat) : State :=
  let s := { s with fw := { s.fw with state := st, cause := cause, progress := if st = 7 then s.fw.progress else 100 } }
  let s := s.logEvent 0x82 0xFF 0 0 s.fwStatus (s.fw.hold.field 7 1)
  if s.trust.tokenWaiting then s.evalToken else s

/-- Whether a staging range lies in DRAM whose owners have no run (R341). -/
def State.stageOk (s : State) (a n : Nat) : Bool :=
  decide (8192 ≤ n) && decide (a + n ≤ 2 ^ 39) && (List.range ((a + n - 1) / 2 ^ 30 + 1 - a / 2 ^ 30)).all fun i =>
    let o := s.ownerOf ((a / 2 ^ 30 + i) * 2 ^ 30)
    decide (o < 16) && !s.hasRun o

/-- FW_CMD 1 or 2 takes effect (R341, R343, R344): kept during a command; in recovery the image is already in the hold
area. -/
def State.fwStart (s : State) (cmd : Nat) : State :=
  if 1 ≤ s.fw.state ∧ s.fw.state ≤ 5 then s
  else
    let s := { s with fw := { s.fw with cmd := cmd, cause := 0, progress := 0 } }
    if s.fw.inRecovery then { s with fw := { s.fw with state := 2 } }
    else if s.stageOk (s.obj 0x9003 1) (s.obj 0x9003 2) then { s with fw := { s.fw with state := 1 } }
    else s.fwEnd 7 1

/-- FW_VERIFY (R341). -/
def execFwVerify (s : State) : Out := .next (s.fwStart 1)
/-- FW_VERIFY_AND_WRITE (R341). -/
def execFwVerifyAndWrite (s : State) : Out := .next (s.fwStart 2)

/-- FW_COPY_COMPLETE (R341, step 3): the staged bytes are in the hold area; a poisoned word ends the command. -/
def execFwCopyComplete (s : State) : Out :=
  .next (
    if s.fw.state ≠ 1 then s
    else
      let a := s.obj 0x9003 1
      let n := s.obj 0x9003 2
      let s := s.sweep [(a, n)]
      if s.rangePoison a n ≠ [] then s.fwEnd 7 9
      else { s with fw := { s.fw with hold := ⟨s.rangeBytes a n, []⟩, state := 2, progress := 0 } })

/-- Erases the header in flash (R341, step 6, R342): no valid MAGIC is left. What erased bytes read as is not stated
(DESIGN CHOICE, log 31). -/
def eraseHeader (m : Mem) : Mem := ⟨m.bytes.filter fun e => decide (4096 ≤ e.1), []⟩

/-- FW_VERIFY_COMPLETE (R339, R341, R343): VERIFIED, FAILED, or on to erasing; in recovery a verified image boots. -/
def execFwVerifyComplete (s : State) : Out :=
  .next (
    if s.fw.state ≠ 2 then s
    else
      let c := imageCause s.fw.fuses s.fw.hold (s.obj 0x9003 2)
      if c ≠ 0 then s.fwEnd 7 c
      else if s.fw.cmd = 2 then { s with fw := { s.fw with state := 4, progress := 0, flash := eraseHeader s.fw.flash } }
      else
        let rec_ := s.fw.inRecovery
        let s := s.fwEnd 3 0
        if rec_ then s.jump true else s)

/-- FW_FLASH_PROGRAM_COMPLETE (R341, step 6): body and header are programmed; the sealed store is not touched. -/
def execFwFlashProgramComplete (ok : Bool) (s : State) : Out :=
  .next (
    if s.fw.state ≠ 4 then s
    else if !ok then s.fwEnd 7 7
    else
      let n := 4096 + s.fw.hold.field 12 4
      let f := s.fw.flash.bytes.filter fun e => decide (n ≤ e.1)
      { s with fw := { s.fw with state := 5, progress := 0, flash := ⟨s.fw.hold.span 0 n ++ f, []⟩ } })

/-- FW_READBACK_COMPLETE (R341, step 7): the flash is compared with the hold area's digest; in recovery the image boots. -/
def execFwReadbackComplete (s : State) : Out :=
  .next (
    if s.fw.state ≠ 5 then s
    else
      let n := 4096 + s.fw.hold.field 12 4
      if Config.shake256 n (s.fw.flash.span 0 n) = Config.shake256 n (s.fw.hold.span 0 n) then
        let rec_ := s.fw.inRecovery
        let s := s.fwEnd 6 0
        if rec_ then s.jump true else s
      else s.fwEnd 7 8)

/-- SVN_FUSE_RAISE (R340): after 60 s of running, the fused count rises to the image's. -/
def execSvnFuseRaise (s : State) : Out :=
  .next (
    if s.fw.up ∧ s.fw.upSince + 60000000 ≤ s.now then
      { s with fw := { s.fw with fuses := { s.fw.fuses with svn := max s.fw.fuses.svn (min 32 s.fw.svn) } } }
    else s)

/-! ### Measurement and quotes (R346, R348) -/

/-- PAGE_MEASURED (R346): the oldest page that waits extends PM. -/
def execPageMeasured (p : Pn) (s : State) : Out :=
  .next (
    let v := s.part p.val
    match v.pages with
    | [] => s
    | k :: rest =>
      let d := Config.shake256 (2 ^ 21) (s.rangeBytes (k * 2 ^ 21) (2 ^ 21))
      let pm := Config.shake256 136 (nonZero 0 (leBytes 64 v.pm.toNat ++ leBytes 8 (k * 2 ^ 21) ++ leBytes 64 d.toNat))
      let wx := permW (s.permEntry p.val k)
      s.setPart p.val { v with pages := rest, pm := pm, progCount := v.progCount + 1, wxPages := if wx then v.wxPages + 1 else v.wxPages })

/-- QUOTE_NONCE is written (R348): QUOTE reads zeros until the new quote is ready. -/
def State.writeNonce (s : State) (f : Nat) (v : Rec) : State := s.setFn f { s.fn f with nonce := v, quote := 0, quoteDue := true }

/-- QUOTE_NONCE. -/
def execQuoteNonce (f : Fx) (v : Rec) (s : State) : Out := .next (s.writeNonce f.val v)

/-- A number of several little-endian fields: (bytes, value), lowest first. -/
def packLE : List (Nat × Nat) → Nat
  | [] => 0
  | (n, v) :: t => v % 256 ^ n + 256 ^ n * packLE t

/-- The quote record of a function (R348), as a little-endian number. -/
def State.quoteOf (s : State) (f : Nat) : Nat :=
  let p := s.bound f
  let v := s.part p
  let run := p < 16 && s.hasRun p
  let body := packLE [(4, 0x54514C47), (2, 1), (1, s.fw.fuses.openings), (1, if s.trust.service then 1 else 0), (8, s.fw.fuses.serial.toNat),
    (4, s.fw.version.toNat), (4, Config.romVersion.toNat), (1, s.fw.svn), (1, s.fw.fuses.svn), (1, f / 8 * 16 + f % 8), (1, p), (32, (s.fn f).nonce.toNat),
    (4, v.wxPages), (64, s.fw.measure.toNat), (64, Config.romMeasure.toNat), (64, if run then v.pm.toNat else 0), (8, v.progCount), (8, s.now)]
  body + 256 ^ 272 * (if s.trust.hasIdentity then Config.falconSign body % 256 ^ 1280 else 0)

/-- QUOTE_READY (R348): the quote over the latest nonce, once no measurement of the function's partition is pending. -/
def execQuoteReady (f : Fx) (s : State) : Out :=
  .next (
    let v := s.fn f.val
    if !v.quoteDue ∨ (s.part (s.bound f.val)).pages ≠ [] then s else s.setFn f.val { v with quote := s.quoteOf f.val, quoteDue := false })

end Sys2Proof.Machine
end

