-- ==== Sys2Proof/Machine/Resets.lean ====
section
/-! DEFINITION. Resets, phases and straps (R351 to R360) and the JTAG port (R369, R370). -/

namespace Sys2Proof.Machine

open Sys2Proof

/-! ### Device resets (R351, R352, R355) -/

/-- R351's order of the sources, first to last. -/
def resetRank (src : Nat) : Nat := ([1, 2, 7, 3, 4, 8, 6, 5].findIdx? fun x => x == src).getD 8

/-- Whether a reset of a source keeps the links of the field ports (R352). -/
def keepsField (src : Nat) : Bool := !(src = 1 || src = 2 || src = 7)

/-- The management state that a reset of a source leaves (R352): the log mirror after all but power-on and brown-out, the
counts of R260 after all but power-on. -/
def Mgmt.afterReset (m : Mgmt) (src : Nat) : Mgmt :=
  let r := State.reset.mgmt
  let r := if src = 1 ∨ src = 2 then r else { r with mirror := m.mirror, logCount := m.logCount }
  if src = 1 then r
  else { r with ce := m.ce, de := m.de, ur := m.ur, fatal := m.fatal, lostCe := m.lostCe, lostDe := m.lostDe, lostUr := m.lostUr }

/-- An interrupted flash write leaves no valid image (R344). -/
def Fw.afterReset (f : Fw) : Fw :=
  { State.reset.fw with fuses := f.fuses, flash := if f.state = 4 ∨ f.state = 5 then eraseHeader f.flash else f.flash }

/-- Everything that a reset of a source clears is cleared (R352). `low` tells that VDD_IO has fallen below 1.62 V. What is
outside the device (host memory, pins, references, SSDs) stays. -/
def State.cleared (s : State) (src : Nat) (low : Bool) : State :=
  let r := State.reset
  let f := s.fresh
  let tripped := s.power.tripped && !low
  { r with
    freeCtr := f.2.freeCtr
    power := { r.power with tripped := tripped }
    dram := { r.dram with scrubPasses := if src = 1 then 0 else s.dram.scrubPasses }
    mgmt := s.mgmt.afterReset src
    ports := { r.ports with
      hostMem := s.ports.hostMem, sysclk := s.ports.sysclk
      portA := { r.ports.portA with refPresent := s.ports.portA.refPresent }
      portB := { r.ports.portB with refPresent := s.ports.portB.refPresent } }
    store := { r.store with images := s.store.images }
    field := if keepsField src then { r.field with outLink := s.field.outLink, turned := s.field.turned } else r.field
    fw := s.fw.afterReset
    trust := { r.trust with challenge := f.1, hasIdentity := s.trust.hasIdentity, sealedAt := s.trust.sealedAt }
    jtag := if low then r.jtag else { s.jtag with debug := false }
    pins := { r.pins with thermtripN := !tripped }
    boot := { r.boot with
      pwrgd := s.boot.pwrgd, resetLow := s.boot.resetLow, holdOff := s.boot.holdOff, base := s.boot.base + s.now, edges := s.boot.edges
      jtagHold := s.boot.jtagHold && !low, vddIoLow := s.boot.vddIoLow }
    pending := s.pending }

/-- A device reset (R351, R355): in Hold it goes on with the source that ranks first; option loading starts again with no new
hold or record, but for a hold-off or a latched trip; from any other phase a new sequence starts. -/
def State.resetBy (s : State) (src : Nat) (low : Bool) : State :=
  let was := s.boot
  let s := s.cleared src low
  let b := s.boot
  let hold (source : Nat) : State := { s with boot := { b with phase := .hold, source := source, recorded := false } }
  match was.phase with
  | .hold => hold (if resetRank src < resetRank was.source then src else was.source)
  | .optionLoading =>
    if b.holdOff ∨ s.power.tripped then hold was.source
    else { s with boot := { b with phase := .optionLoading, source := was.source, recorded := false } }
  | _ => hold src

/-- A device reset that leaves VDD_IO up. -/
def State.deviceReset (s : State) (src : Nat) : State := s.resetBy src false

/-- POWER_ON_RESET (R351): PWRGD low, or VDD_IO below 1.62 V. -/
def execPowerOnReset (vddIoLow : Bool) (s : State) : Out :=
  .next (({ s with boot := { s.boot with pwrgd := false, vddIoLow := vddIoLow } }).resetBy 1 vddIoLow)

/-- BROWN_OUT (R351, R364): only with PWRGD high. -/
def execBrownOut (s : State) : Out := .next (if s.boot.pwrgd then s.deviceReset 2 else s)

/-- PIN_RESET (R351, R358): a filtered falling edge of RESET_N; more than 8 within 1 s begin a hold-off. -/
def execPinReset (s : State) : Out :=
  .next (
    let b := s.boot
    let t := b.base + s.now
    let edges := (b.edges.filter fun e => decide (t < e + 1000000)) ++ [t]
    ({ s with boot := { b with resetLow := true, edges := edges, holdOff := b.holdOff || decide (8 < edges.length) } }).deviceReset 3)

/-- RESET_HOLDOFF_END (R358): 100 ms without a filtered falling edge. -/
def execResetHoldoffEnd (s : State) : Out :=
  .next (
    let b := s.boot
    if b.holdOff ∧ (b.edges.getLastD 0) + 100000 ≤ b.base + s.now then { s with boot := { b with holdOff := false } } else s)

/-- PWRGD_RISE (R358): a rise that has been stable for 10 µs. -/
def execPwrgdRise (s : State) : Out := .next { s with boot := { s.boot with pwrgd := true, vddIoLow := false } }

/-- WATCHDOG_EXPIRE (R332, R351): the watchdog runs from the jump to resident firmware. -/
def execWatchdogExpire (s : State) : Out := .next (if s.boot.watchdog then s.deviceReset 4 else s)

/-- SUP_DEVICE_RESET takes effect (R311, R351): 0x5A requests a software reset. -/
def State.supReset (s : State) (v : Nat) : State := if v = 0x5A then s.deviceReset 5 else s

/-- SUP_DEVICE_RESET. -/
def execSupDeviceReset (v : Byte) (s : State) : Out := .next (s.supReset v.toNat)

/-- CLOCK_FAILURE (R351, R362): SYSCLK counts as absent until Hold has seen it for 1,024 cycles. -/
def execClockFailure (s : State) : Out := .next (({ s with ports := { s.ports with sysclk := false } }).deviceReset 7)

/-- LOCK_UP (R351). -/
def execLockUp (s : State) : Out := .next (s.deviceReset 8)

/-! ### Phases (R354, R356, R357) -/

/-- HOLD_END (R352, R354, R358, R369): the rails and SYSCLK have been as step 1 asks, and RESET_N is high. -/
def execHoldEnd (s : State) : Out :=
  .next (
    let b := s.boot
    if b.phase ≠ .hold ∨ !b.pwrgd ∨ b.holdOff ∨ b.jtagHold ∨ s.power.tripped then s
    else { s with boot := { b with phase := .optionLoading, resetLow := false }, ports := { s.ports with sysclk := true } })

/-- Bit i of three samples by majority (R358). -/
def majBit (l : List Nat) (i : Nat) : Nat := if 2 ≤ (l.filter fun x => decide (bits i i x = 1)).length then 1 else 0

/-- A two-bit strap by majority. -/
def majStrap (l : List Nat) : Nat := 2 * majBit l 1 + majBit l 0

/-- Inserts a code in rising order. -/
def insNat (x : Nat) : List Nat → List Nat
  | [] => [x]
  | y :: t => if x ≤ y then x :: y :: t else y :: insNat x t

/-- The 4th lowest of the codes (R360). -/
def median8 (l : List Nat) : Nat := (l.foldl (fun a x => insNat (x % 16) a) []).getD 3 0

/-- The straps in use (R359, R360): (BOOT_SRC, CLK_MODE, CFG_RES_CODE). -/
def strapsOf (st : StrapSamples) : Nat × Nat × Nat :=
  if majBit st.strapSelN 0 = 1 then (majStrap st.bootSrc, majStrap st.clkMode, 0xFF)
  else
    let k := median8 st.cfgRes
    (3 - k / 4, k % 4, k)

/-- The repair fuses after option loading: an index above 32 retires the core and blows RETIRED (R43, R197). -/
def Fuses.retireBad (z : Fuses) : Fuses :=
  { z with repair := z.repair.map fun e => if repairBad e.2 then (e.1, e.2 ||| 0x80000000#32) else e }

/-- The core map that option loading makes (R43, R191, R197): a fused enabled core or spare whose RETIRED fuse is blown has
STATE 3. -/
def Fuses.loadedMap (z : Fuses) : SMap (BitVec 16) :=
  z.repair.foldl (fun m e => if e.2.getLsbD 31 && decide (mapState (look 0 m e.1) < 2) then put 0 m e.1 (BitVec.ofNat 16 (3 * 8192)) else m) z.coreMap

/-- OPTION_LOADING_COMPLETE (R43, R197, R198, R354, R358 to R360): fuses, straps and CFG_RES are loaded, the grade is examined,
and release begins. A reset source that still acts keeps it from ending (R355). -/
def execOptionLoadingComplete (st : StrapSamples) (s : State) : Out :=
  .next (
    let b := s.boot
    if b.phase ≠ .optionLoading ∨ !b.pwrgd ∨ b.jtagHold ∨ s.power.tripped then s
    else
      let v := strapsOf st
      let z := s.fw.fuses.retireBad
      let phys : SMap Phys := (z.repair.filter fun e => decide (e.2 ≠ Phys.init.repair)).map fun e => (e.1, { Phys.init with repair := e.2 })
      { s with
        fw := { s.fw with fuses := z }
        fabric := { s.fabric with
          coreMap := z.loadedMap, phys := phys, gradeFused := z.grade, gradeNow := z.grade
          repairsBlown := (z.repair.filter fun e => ifrValid e.2).length }
        ports := { s.ports with sysclk := true }
        boot := { b with phase := .release 0, resetLow := false, bootSrc := v.1, clkMode := v.2.1, cfgRes := v.2.2 } })

/-- The islands of granule g are released (R196, R356), and take the flits that waited for them (R182); those of a die that failed its
calibration stay fenced. Field spares run their self-test. -/
def State.releaseGranule (s : State) (g : Nat) : State :=
  (allCl.filter fun cl => acctOf cl = g).foldl (fun s cl =>
    if s.fabric.dieFenced.getLsbD (g / 4) then s.setClu cl { s.clu cl with isl := .fenced }
    else
      let s := (s.setClu cl { s.clu cl with isl := .running }).flitsRelease cl
      ((List.range 12).map fun c => 12 * cl.val + c).foldl (fun s i =>
        if s.coreState i = 1 then s.setPhy i { s.phy i with testDue := true } else s) s) s

/-- The storage ports leave reset (R301, R356). S_PERST_N stays low for 100 ms more (R353). -/
def State.releaseStorage (s : State) : State :=
  (List.range 8).foldl (fun s k => s.setSport k { s.sport k with st := 1 }) s

/-- DOMAIN_RELEASE (R356): the next of the 26 steps. -/
def execDomainRelease (s : State) : Out :=
  .next (match s.boot.phase with
    | .release k =>
      if s.power.tripped then s else
      let n := k + 1
      let s := if 9 ≤ n ∧ n ≤ 24 then s.releaseGranule (n - 9) else if n = 26 then s.releaseStorage else s
      { s with boot := { s.boot with phase := if n < 26 then .release n else .up } }
    | _ => s)

/-- DRAM_CALIBRATION_DONE (R357): a die whose calibration fails is fenced as a whole-die failure. -/
def execDramCalibrationDone (d : Dn) (ok : Bool) (s : State) : Out :=
  .next (
    let b := s.boot
    let bit : BitVec 4 := BitVec.ofNat 4 (2 ^ d.val)
    if !s.releasedTo (5 + d.val) ∨ b.calStopped ∨ b.calOk.getLsbD d.val ∨ b.calBad.getLsbD d.val then s
    else if ok then { s with boot := { b with calOk := b.calOk ||| bit } }
    else ({ s with boot := { b with calBad := b.calBad ||| bit } }).dieFence d.val)

/-- CALIBRATION_TIMEOUT (R357, R366): 40 ms after step 8 no die has passed. -/
def execCalibrationTimeout (s : State) : Out :=
  .next (
    if s.releasedTo 8 ∧ s.boot.calOk = 0 then
      { s with boot := { s.boot with calStopped := true }, pins := { s.pins with devFaultN := false } }
    else s)

/-! ### JTAG (R369, R370) -/

/-- Loads an instruction that does not drive the pins: a hold that a boundary-scan instruction made ends. -/
def State.loadIr (s : State) (i : JInstr) (tdr : Nat) (debug : Bool) : State :=
  if !s.boot.pwrgd then s
  else { s with jtag := { s.jtag with ir := i, tdr := tdr, debug := debug }, boot := { s.boot with jtagHold := false } }

/-- Loads an instruction that drives the pins: the device is held in Hold as a pin reset. -/
def State.loadDriver (s : State) (i : JInstr) : State :=
  if !s.boot.pwrgd then s
  else
    let s := { s with jtag := { s.jtag with ir := i }, boot := { s.boot with jtagHold := true } }
    match s.boot.phase with
    | .optionLoading => ({ s with boot := { s.boot with phase := .hold } }).deviceReset 3
    | _ => s.deviceReset 3

/-- Whether the debug instructions are available (R349, R350). -/
def State.debugOpen (s : State) : Bool := s.trust.service && decide (s.trust.scope % 2 = 1)

/-- IDCODE's value (R370). -/
def State.idcode (s : State) : Nat := pack [(4, s.fw.fuses.rev.toNat % 16), (16, 0x3072), (11, 0x4B9), (1, 1)]

/-- TRST (R369): the test logic is reset, and IDCODE is its instruction (as IEEE 1149.1 defines). -/
def execTrst (s : State) : Out := .next (s.loadIr .idcode 0 false)
/-- BYPASS: the bypass register captures 0 (IEEE 1149.1). -/
def execBypass (s : State) : Out := .next (s.loadIr .bypass 0 false)
/-- IDCODE (R370). -/
def execIdcode (s : State) : Out := .next (s.loadIr .idcode s.idcode false)
/-- SAMPLE/PRELOAD: the boundary register takes what is shifted in; which cell samples which pin is not stated (log 2). -/
def execSamplePreload (shiftIn : Nat) (s : State) : Out :=
  .next (
    if !s.boot.pwrgd then s
    else
      let f := s.fresh
      let s := f.2.loadIr .sample f.1.toNat false
      { s with jtag := { s.jtag with boundary := shiftIn } })
/-- EXTEST. -/
def execExtest (s : State) : Out := .next (s.loadDriver .extest)
/-- CLAMP. -/
def execClamp (s : State) : Out := .next (s.loadDriver .clamp)
/-- HIGHZ. -/
def execHighz (s : State) : Out := .next (s.loadDriver .highz)
/-- DBG_ACCESS: debug access, or BYPASS where it is not available. -/
def execDbgAccess (s : State) : Out := .next (if s.debugOpen then s.loadIr .dbgAccess 0 true else s.loadIr .bypass 0 false)
/-- DBG_RESET: a debug request reset, or BYPASS where it is not available. -/
def execDbgReset (s : State) : Out :=
  .next (if s.debugOpen && s.boot.pwrgd then (s.loadIr .dbgReset 0 false).deviceReset 6 else s.loadIr .bypass 0 false)

end Sys2Proof.Machine
end

