-- ==== Sys2Proof/Machine/Objects.lean ====
section
/-! DEFINITION. The objects of the dictionary: which exist, what they read as, and who may read and write them (R200, R260,
R261, R287, R299, R300, R311, R314 to R317, R320 to R331). -/

namespace Sys2Proof.Machine

open Sys2Proof

/-- Access classes (R316). -/
inductive Acc where
  | ro | rw | wo | rws | sup
deriving DecidableEq, Repr

/-- A row of the object tables: index, lowest and highest subindex, bytes, access, and whether subindex p + 1 belongs to
partition p (R314). -/
structure ObjRow where
  idx : Nat
  lo : Nat
  hi : Nat
  size : Nat
  acc : Acc
  per : Bool
deriving DecidableEq, Repr

/-- Identity, power, partitions (R200, R300, R311, R322 to R324). -/
def objRowsA : List ObjRow :=
  [⟨0x1000, 1, 2, 16, .ro, false⟩, ⟨0x1000, 3, 3, 8, .ro, false⟩, ⟨0x1000, 4, 4, 1, .ro, false⟩, ⟨0x1001, 1, 2, 4, .ro, false⟩,
   ⟨0x1002, 1, 1, 1, .ro, false⟩, ⟨0x1002, 2, 2, 1793, .ro, false⟩, ⟨0x1003, 1, 1, 32, .rw, false⟩, ⟨0x1003, 2, 2, 4096, .ro, false⟩,
   ⟨0x1004, 1, 1, 32, .rws, false⟩, ⟨0x1005, 1, 2, 1, .ro, false⟩, ⟨0x1010, 1, 2, 1, .ro, false⟩, ⟨0x1010, 3, 3, 4, .ro, false⟩,
   ⟨0x1011, 1, 4, 2, .ro, false⟩, ⟨0x1012, 1, 4, 2, .ro, false⟩, ⟨0x2001, 1, 1, 2, .sup, false⟩, ⟨0x2002, 1, 6, 2, .ro, false⟩,
   ⟨0x2003, 1, 1, 4, .ro, false⟩, ⟨0x2004, 1, 4, 4, .ro, false⟩, ⟨0x2004, 5, 5, 512, .ro, false⟩, ⟨0x2005, 1, 1, 4, .ro, false⟩,
   ⟨0x2005, 2, 2, 256, .ro, false⟩, ⟨0x3010, 1, 16, 1, .rws, false⟩, ⟨0x3011, 1, 4, 96, .rws, false⟩, ⟨0x3012, 1, 4, 1, .rws, false⟩,
   ⟨0x3013, 1, 16, 16, .wo, true⟩, ⟨0x3014, 1, 64, 24320, .ro, false⟩, ⟨0x3020, 1, 16, 1, .wo, true⟩, ⟨0x3021, 1, 16, 1, .ro, true⟩,
   ⟨0x3022, 1, 16, 2, .rw, true⟩, ⟨0x3023, 1, 16, 1, .rw, true⟩, ⟨0x3024, 1, 16, 4, .rw, true⟩, ⟨0x3025, 1, 16, 1, .rw, true⟩,
   ⟨0x3026, 1, 16, 8, .ro, true⟩, ⟨0x3027, 1, 16, 4, .ro, true⟩, ⟨0x3030, 1, 8, 1, .rws, false⟩, ⟨0x3031, 1, 8, 1, .rws, false⟩]

/-- Clocks, errors, reliability and checkpoint (R260, R287, R320, R325 to R327). -/
def objRowsB : List ObjRow :=
  [⟨0x4001, 1, 1, 1, .sup, false⟩, ⟨0x4010, 1, 16, 1, .rw, true⟩, ⟨0x4011, 1, 1, 256, .ro, false⟩, ⟨0x4011, 2, 2, 1, .ro, false⟩,
   ⟨0x4012, 1, 1, 16, .ro, false⟩, ⟨0x4013, 1, 1, 4, .ro, false⟩, ⟨0x4013, 2, 2, 1, .ro, false⟩, ⟨0x5010, 1, 4, 4, .ro, false⟩,
   ⟨0x5011, 1, 3, 4, .ro, false⟩, ⟨0x5012, 1, 1, 2, .rw, false⟩, ⟨0x5020, 1, 1, 4, .ro, false⟩, ⟨0x5021, 1, 1, 8192, .ro, false⟩,
   ⟨0x5021, 2, 5, 32768, .ro, false⟩, ⟨0x5F00, 1, 1, 4, .ro, false⟩, ⟨0x5F00, 2, 2, 2048, .ro, false⟩, ⟨0x6001, 1, 1, 6144, .ro, false⟩,
   ⟨0x6002, 1, 1, 12288, .ro, false⟩, ⟨0x6003, 1, 16, 384, .wo, true⟩, ⟨0x6004, 1, 2, 4, .ro, false⟩, ⟨0x6004, 3, 3, 2, .ro, false⟩,
   ⟨0x6010, 1, 1, 1, .rws, false⟩, ⟨0x6011, 1, 16, 1, .rws, true⟩, ⟨0x6012, 1, 16, 1024, .rws, true⟩, ⟨0x6013, 1, 16, 96, .rws, true⟩,
   ⟨0x6014, 1, 16, 2, .rws, true⟩, ⟨0x6015, 1, 16, 4, .ro, true⟩, ⟨0x6016, 1, 16, 4, .ro, true⟩, ⟨0x6017, 1, 16, 4, .ro, true⟩,
   ⟨0x6018, 1, 16, 1, .ro, true⟩, ⟨0x6019, 1, 16, 1, .rw, true⟩, ⟨0x601A, 1, 16, 1, .rw, true⟩, ⟨0x601B, 1, 16, 4, .ro, true⟩,
   ⟨0x601C, 1, 16, 32, .ro, true⟩, ⟨0x601D, 1, 1, 2, .rws, false⟩, ⟨0x601E, 1, 16, 4, .rw, true⟩, ⟨0x601F, 1, 5, 4, .ro, false⟩,
   ⟨0x6020, 1, 1, 1, .rw, false⟩, ⟨0x6020, 2, 2, 4, .ro, false⟩]

/-- Ports, privileged counters and debug, service, ledger (R261, R299, R311, R328 to R331). -/
def objRowsC : List ObjRow :=
  [⟨0x7001, 1, 2, 2, .ro, false⟩, ⟨0x7002, 1, 8, 1, .ro, false⟩, ⟨0x7003, 1, 8, 1, .ro, false⟩, ⟨0x7004, 1, 8, 1, .ro, false⟩,
   ⟨0x7010, 1, 1, 2, .rws, false⟩, ⟨0x7010, 2, 4, 4, .ro, false⟩, ⟨0x7030, 1, 1, 1, .sup, false⟩, ⟨0x7030, 2, 2, 2, .sup, false⟩,
   ⟨0x7030, 3, 3, 1, .sup, false⟩, ⟨0x7040, 1, 1, 1, .rws, false⟩, ⟨0x7040, 2, 2, 4, .rws, false⟩, ⟨0x7040, 3, 3, 2, .rws, false⟩,
   ⟨0x7040, 4, 4, 4, .ro, false⟩, ⟨0x7040, 5, 5, 2, .ro, false⟩, ⟨0x7040, 6, 6, 4, .ro, false⟩, ⟨0x8010, 1, 1, 16384, .ro, false⟩,
   ⟨0x8011, 1, 1, 49152, .ro, false⟩, ⟨0x8012, 1, 1, 160, .ro, false⟩, ⟨0x8020, 1, 16, 16, .rw, true⟩, ⟨0x8021, 1, 16, 4, .rw, true⟩,
   ⟨0x8022, 1, 16, 64, .rw, true⟩, ⟨0x8023, 1, 16, 4096, .rw, true⟩, ⟨0x8030, 1, 16, 4, .ro, true⟩, ⟨0x8031, 1, 16, 4, .rw, true⟩,
   ⟨0x8032, 1, 16, 32768, .ro, true⟩, ⟨0x9001, 1, 1, 1, .ro, false⟩, ⟨0x9002, 1, 1, 32, .ro, false⟩, ⟨0x9002, 2, 2, 2048, .rws, false⟩,
   ⟨0x9003, 1, 1, 8, .rws, false⟩, ⟨0x9003, 2, 2, 4, .rws, false⟩, ⟨0x9003, 3, 3, 1, .rws, false⟩, ⟨0x9003, 4, 4, 4, .ro, false⟩,
   ⟨0x9010, 1, 1, 8, .rws, false⟩, ⟨0x9010, 2, 2, 16, .rws, false⟩, ⟨0x9010, 3, 3, 2, .rws, false⟩, ⟨0x9010, 4, 4, 1, .rws, false⟩,
   ⟨0x9010, 5, 5, 4, .ro, false⟩, ⟨0xA001, 1, 1, 1, .rws, false⟩, ⟨0xA010, 1, 1, 128, .ro, false⟩, ⟨0xA010, 2, 2, 64, .ro, false⟩,
   ⟨0xA010, 3, 3, 128, .ro, false⟩, ⟨0xA011, 1, 2, 4, .ro, false⟩, ⟨0xA012, 1, 2, 128, .ro, false⟩, ⟨0xA013, 1, 1, 16, .ro, false⟩]

/-- Every object but the subindices 0. -/
def objRows : List ObjRow := objRowsA ++ objRowsB ++ objRowsC

/-- The highest subindex of an index, 0 if the index does not exist (R314). -/
def subMax (idx : Nat) : Nat := objRows.foldl (fun m r => if r.idx = idx then max m r.hi else m) 0

/-- The row of an object (R314); subindex 0 of an index that exists is a U8 that may only be read. -/
def objRow (idx sub : Nat) : Option ObjRow :=
  if sub = 0 then (if subMax idx = 0 then none else some ⟨idx, 0, 0, 1, .ro, false⟩)
  else objRows.find? fun r => decide (r.idx = idx) && decide (r.lo ≤ sub) && decide (sub ≤ r.hi)

/-! ### Values -/

/-- Numbers of n bytes each, lowest first (R315). -/
def leArr (n : Nat) (l : List Nat) : Nat := l.foldr (fun v a => v % 256 ^ n + 256 ^ n * a) 0

/-- ASCII, zero-padded. -/
def asciiLE (t : String) : Nat := leArr 1 (t.toList.map fun c => c.toNat)

/-- An integer in two's complement of n bits. -/
def twos (n : Nat) (i : Int) : Nat := (BitVec.ofInt n i).toNat

/-- The nibbles of a list, lowest first. -/
def nibbles : List Nat → Nat
  | [] => 0
  | x :: t => x % 16 + 16 * nibbles t

/-- M of each clock step (R173). -/
def stepM : List Nat := [28, 34, 39, 45, 50, 56, 62, 67, 73, 78, 84, 90, 95, 101, 106, 112]

/-- RUN_STATE's code (R324). -/
def runCode : RunSt → Nat
  | .noRun => 0
  | .running => 1
  | .hung => 2
  | .stopping => 3
  | .fenced => 4

/-- PERM_TABLE of partition p and die d (R324): the pages of the owned granules, in ascending address. -/
def State.permTable (s : State) (p d : Nat) : Nat :=
  nibbles (((List.range 95).filter fun g => s.dramOwner d g = p).flatMap fun g =>
    (List.range 512).map fun i => (s.permEntry p (65536 * d + 512 * g + i)).toNat)

/-- The held slots and their window offsets, in die order (R277): (die, slot, bytes, offset); only CKPT_DIE's slot when they
exceed the window. -/
def State.ckptWindow (s : State) (p : Nat) : List (Nat × Nat × Nat × Nat) :=
  let v := s.part p
  let l : List (Nat × Nat × Nat) := v.ckptSlots.map fun e => (e.1, e.2, 4096 + bits 191 128 (s.slotHeader e.2))
  if l.foldl (fun (a : Nat) (x : Nat × Nat × Nat) => a + x.2.2) 0 ≤ 2 ^ 36 then
    (l.foldl (fun (a : List (Nat × Nat × Nat × Nat) × Nat) x => (a.1 ++ [(x.1, x.2.1, x.2.2, a.2)], a.2 + x.2.2)) ([], 0)).1
  else (l.filter fun x => x.1 = s.obj 0x601A (p + 1)).map fun x => (x.1, x.2.1, x.2.2, 0)

/-- CKPT_MAP (R277, R287). -/
def State.ckptMap (s : State) (p : Nat) : Nat :=
  if (s.part p).ckptSince.isNone then 0
  else
    let w := s.ckptWindow p
    leArr 8 ((List.range 4).map fun d => match w.find? fun x => x.1 = d with
      | some x => x.2.2.2
      | none => 2 ^ 64 - 1)

/-- SOURCE of a clamp entry for a function (R320). -/
def fnSource (f : Nat) : Nat := f / 8 * 64 + f % 8 * 8

/-- CLAMP_REPORT as a function reads it (R317, R320); 16 is the field link. -/
def State.clampReport (s : State) (f : Nat) : Nat :=
  leArr 32 ((List.range 64).map fun i =>
    let r := (look (0 : Rec) s.dict.clamps i).toNat
    if f < 16 ∧ f % 8 ≠ 0 ∧ bits 231 224 r ≠ fnSource f then 0 else r)

/-- Counts of a cluster cache, 64 bytes (R227, R329). -/
def Cache.countsLE (c : Cache) : List Nat := [c.fills, c.writebacks, c.evKeep, c.evStream, c.evDead, c.prefetches, c.pageLimits, 0]

/-- Counts of physical core i (R329): those kept, and those of the name it serves now. -/
def State.coreCounts (s : State) (i : Nat) : List Nat :=
  let v := s.phy i
  if s.coreState i = 0 ∨ s.coreState i = 4 then
    let nm := servedName i (s.mapEntry i)
    let k := s.core nm.1 nm.2
    [v.conf + k.bankConf, v.reuse + k.reuseHits]
  else [v.conf, v.reuse]

/-- CTRL_LINK_A and CTRL_LINK_B (R328). -/
def CtrlPort.linkWord (c : CtrlPort) : Nat := if c.down ∨ c.gen = 0 then 0 else c.gen * 256 + c.width * 16 + if c.flit then 1 else 0

/-- Page HANG_DUMP_SEL of a partition's dump (R329). -/
def State.dumpPage (s : State) (p : Nat) : Nat :=
  match (s.part p).dump with
  | some d => if (s.part p).dumpDue then 0 else leNat (((d.bytes p).drop (32768 * s.obj 0x8031 (p + 1))).take 32768)
  | none => 0

/-- Objects of the sections 0x1000 to 0x4000 that are not stored (R200, R322 to R325). -/
def State.objLow (s : State) (f idx sub : Nat) : Option Nat :=
  let p := sub - 1
  if idx = 0x1000 then some ([asciiLE "ROSOLMASH", asciiLE "GL-3072", s.fw.fuses.serial.toNat, s.fw.fuses.rev.toNat].getD p 0)
  else if idx = 0x1001 then some (if sub = 1 then s.fw.version.toNat else Config.romVersion.toNat)
  else if idx = 0x1002 then some (if sub = 1 then s.fw.fuses.openings else if s.trust.hasIdentity then Config.identityKey % 256 ^ 1793 else 0)
  else if idx = 0x1003 then some (if f < 16 then (if sub = 1 then (s.fn f).nonce.toNat else (s.fn f).quote) else 0)
  else if idx = 0x1005 then some (if sub = 1 then 4 * s.boot.bootSrc + s.boot.clkMode else s.boot.cfgRes)
  else if idx = 0x1010 then some ([s.fabric.gradeFused, s.fabric.gradeNow, s.fabric.mapGen.toNat].getD p 0)
  else if idx = 0x1011 then some (s.enabledOf p)
  else if idx = 0x1012 then some (s.sparesOf p)
  else if idx = 0x2002 then some (([s.power.pkg, s.power.hub] ++ s.power.dies).getD p 0)
  else if idx = 0x2003 then some s.power.guardStarts
  else if idx = 0x2004 then some (if sub = 5 then leArr 2 (allCl.map fun cl => twos 16 (s.clu cl).temp) else twos 32 (s.power.dieTemps.getD p 0))
  else if idx = 0x2005 then some (if sub = 1 then s.power.thermalStepdowns else leArr 1 (allCl.map fun cl => (s.clu cl).therm))
  else if idx = 0x3014 then some (s.permTable (p / 4) (p % 4))
  else if idx = 0x3021 then some (runCode (s.part p).run)
  else if idx = 0x3026 then some (if s.hasRun p then s.now - (s.part p).startAt else 0)
  else if idx = 0x3027 then some (s.part p).dropped
  else if idx = 0x4011 then some (if sub = 1 then leArr 1 (allCl.map fun cl => (s.clu cl).step) else s.power.g)
  else if idx = 0x4012 then some (leArr 1 stepM)
  else if idx = 0x4013 then some (if sub = 1 then s.ports.clockFails
    else pack [(1, if s.ports.sysclk then 1 else 0), (1, if s.ports.portB.refPresent then 1 else 0), (1, if s.ports.portA.refPresent then 1 else 0)])
  else none

/-- Objects of the sections 0x5000 and 0x6000 that are not stored (R260, R287, R320, R326, R327). -/
def State.objMid (s : State) (f idx sub : Nat) : Option Nat :=
  let p := sub - 1
  let v := s.part p
  let m := s.mgmt
  if idx = 0x5010 then some ([m.ce, m.de, m.ur, m.fatal].getD p 0)
  else if idx = 0x5011 then some ([m.lostCe, m.lostDe, m.lostUr].getD p 0)
  else if idx = 0x5020 then some m.logCount
  else if idx = 0x5021 then some (if sub = 1 then leArr 32 (m.mirror.map fun r => r.toNat)
    else leArr 32 ((List.range 1024).map fun i => (look (0 : Rec) m.slots (1024 * (sub - 2) + i)).toNat))
  else if idx = 0x5F00 then some (if sub = 1 then s.dict.clampCount else s.clampReport f)
  else if idx = 0x6001 then some (leArr 2 ((List.range 3072).map fun i => (s.mapEntry i).toNat))
  else if idx = 0x6002 then some (leArr 4 ((List.range 3072).map fun i => (s.phy i).repair.toNat))
  else if idx = 0x6004 then some ([s.fabric.selftestRuns, s.fabric.selftestFails, s.fabric.repairsBlown].getD p 0)
  else if idx = 0x6015 then some v.stepNow.toNat
  else if idx = 0x6016 then some (s.mirrorStepOf p)
  else if idx = 0x6017 then some v.flashStep.toNat
  else if idx = 0x6018 then some v.prot
  else if idx = 0x601B then some v.ckptStep.toNat
  else if idx = 0x601C then some (s.ckptMap p)
  else if idx = 0x601F then some ([s.totals.droppedMb, s.totals.stepRestarts, s.totals.optRepeats, s.totals.shardSkips, s.totals.mirrorsSkipped].getD p 0)
  else if idx = 0x6020 ∧ sub = 2 then some s.dram.scrubPasses
  else none

/-- Objects of the sections 0x7000 to 0xA000 that are not stored (R299, R311, R328 to R331). -/
def State.objHigh (s : State) (idx sub : Nat) : Option Nat :=
  let p := sub - 1
  let accts := (List.range 16).map fun a => s.acct a
  if idx = 0x7001 then some (if sub = 1 then s.ports.portA.linkWord else s.ports.portB.linkWord)
  else if idx = 0x7002 then some (s.sport p).st
  else if idx = 0x7003 then some (s.sport p).cause
  else if idx = 0x7004 then some (s.sport p).smart.toNat
  else if idx = 0x7010 ∧ 2 ≤ sub then some ([s.ports.staleReleases, s.ports.ignoredWrites, s.ports.winDrops].getD (sub - 2) 0)
  else if idx = 0x7030 then some 0
  else if idx = 0x7040 ∧ 4 ≤ sub then some ([s.field.badFrames, s.field.lastCycle, s.field.earlyFrames].getD (sub - 4) 0)
  else if idx = 0x8010 then some (leArr 8 (allCl.flatMap fun cl => (s.clu cl).cache.countsLE))
  else if idx = 0x8011 then some (leArr 8 ((List.range 3072).flatMap s.coreCounts))
  else if idx = 0x8012 then some (leArr 8 ((List.range 10).flatMap fun l => [(s.link l).replays, (s.link l).retrains]))
  else if idx = 0x8030 then some (s.part p).dumpBytes
  else if idx = 0x8032 then some (s.dumpPage p)
  else if idx = 0x9001 then some (if s.trust.service then 1 else 0)
  else if idx = 0x9002 ∧ sub = 1 then some s.trust.challenge.toNat
  else if idx = 0x9003 ∧ sub = 3 then some s.fw.cmd
  else if idx = 0x9003 ∧ sub = 4 then some s.fwStatus
  else if idx = 0xA001 then some 0
  else if idx = 0xA010 then some (if sub = 1 then leArr 8 (accts.map fun a => twos 64 a.credit)
    else if sub = 2 then leArr 4 (accts.map fun a => a.share) else leArr 8 (accts.map fun a => twos 64 a.cap))
  else if idx = 0xA011 then some (if sub = 1 then s.power.underDeclared else s.power.creditStarved)
  else if idx = 0xA012 then some (leArr 8 (accts.map fun a => if sub = 1 then a.admissions else a.guardAdmits))
  else if idx = 0xA013 then some (leArr 1 (accts.map fun a => min 255 a.score))
  else none

/-- What an object that exists reads as, to function f (16: the field link), as a little-endian number (R314 to R317). -/
def State.objValue (s : State) (f idx sub : Nat) : Nat :=
  match objRow idx sub with
  | none => 0
  | some r =>
    if sub = 0 then subMax idx
    else if r.acc = .wo then 0
    else (match (s.objLow f idx sub).or ((s.objMid f idx sub).or (s.objHigh idx sub)) with
      | some v => v
      | none => s.obj idx sub) % 256 ^ r.size

/-! ### Access -/

/-- Indices that carry privileged counts (R317). -/
def privileged (idx : Nat) : Bool :=
  (decide (0x8000 ≤ idx) && decide (idx < 0x9000) && !(decide (0x8020 ≤ idx) && decide (idx ≤ 0x8032)))
    || (decide (0x2002 ≤ idx) && decide (idx ≤ 0x2005)) || idx == 0x4011 || idx == 0x4013
    || (decide (0x5010 ≤ idx) && decide (idx ≤ 0x5021)) || idx == 0x6004 || (decide (0xA010 ≤ idx) && decide (idx ≤ 0xA013))

/-- Whether the mailbox serves an index in the present phase (R343): in recovery only the identity section and 0x9003. -/
def State.served (s : State) (idx : Nat) : Bool :=
  !s.fw.inRecovery || (decide (0x1000 ≤ idx) && decide (idx < 0x2000)) || idx == 0x9003

/-- The section of an index, for its semaphore (R298, R316). -/
def sectionOf (idx : Nat) : Nat := idx / 0x1000 - 1

/-- Whether function f holds the semaphore of a section: a physical function only (R298). -/
def State.holds (s : State) (f sec : Nat) : Bool := decide (f % 8 = 0) && decide ((s.sema sec).holder = some (decide (8 ≤ f)))

/-- The cause for which a read is refused, 0 if it is not (R290, R291, R314, R317). -/
def State.readCause (s : State) (f idx sub : Nat) : Nat :=
  match objRow idx sub with
  | none => 1
  | some r =>
    if !s.served idx then 1
    else if f % 8 = 0 then 0
    else if r.per then (if s.bound f + 1 = sub then 0 else 2)
    else if idx = 0x1003 then 0
    else if r.acc = .ro ∧ !privileged idx then 0
    else 2

/-- The cause for which a host write is refused, 0 if it is not (R290, R291, R316). -/
def State.writeCause (s : State) (f idx sub : Nat) : Nat :=
  match objRow idx sub with
  | none => 1
  | some r =>
    let mine := s.bound f + 1 = sub
    if !s.served idx then 1
    else if s.fw.inRecovery ∧ idx = 0x9003 ∧ s.fw.recOwner ≠ none ∧ s.fw.recOwner ≠ some (f / 8) then 2
    else match r.acc with
    | .ro => 2
    | .rw => if r.per then (if mine then 0 else 5) else if f % 8 = 0 ∨ idx = 0x1003 then 0 else 2
    | .wo => if mine then 0 else 5
    | _ => if f % 8 ≠ 0 then 2 else if s.holds f (sectionOf idx) then 0 else 3

end Sys2Proof.Machine
end

