-- ==== Sys2Proof/Machine/Dictionary.lean ====
section
/-! DEFINITION. Writes to objects: checks and clamps (R201, R205 to R208, R260 to R262, R269, R287, R300, R311, R315, R319 to
R331, R371, R379, R382), and the commit of a dictionary cycle (R318, R321). -/

namespace Sys2Proof.Machine

open Sys2Proof

/-! ### Checks of scalar objects -/

/-- A value with its clamp entries. -/
abbrev Merged := Nat × List Clamped

/-- One entry for a field that a clamp changed (R320). -/
def chg (off width reason written applied : Nat) : List Clamped :=
  if written = applied then [] else [⟨off, width, reason, written, applied⟩]

/-- A value held to the nearer bound (R315). -/
def bounded (lo hi width v : Nat) : Merged :=
  let a := max lo (min hi v)
  (a, chg 0 width 1 v a)

/-- The objects that are held to the nearer bound: lowest value, highest value, bytes (R260, R287, R299, R311, R324, R325, R329,
R330). HANG_DUMP_SEL goes to the last page. -/
def State.objBounds (s : State) (idx sub : Nat) : Option (Nat × Nat × Nat) :=
  if idx = 0x2001 then some (900, 2000, 2)
  else if idx = 0x3022 then some (1, 60000, 2)
  else if idx = 0x3024 then some (10, 600000, 4)
  else if idx = 0x4001 ∨ idx = 0x4010 then some (0, 15, 1)
  else if idx = 0x5012 then some (16, 65535, 2)
  else if idx = 0x6011 then some (0, 2, 1)
  else if idx = 0x6019 then some (0, 1, 1)
  else if idx = 0x601A then some (0, 3, 1)
  else if idx = 0x601D then some (1, 3600, 2)
  else if idx = 0x6020 then some (1, 168, 1)
  else if idx = 0x7010 then some (1, 600, 2)
  else if idx = 0x7040 ∧ sub = 3 then some (1, 60000, 2)
  else if idx = 0x8021 then some (256, 16777216, 4)
  else if idx = 0x8031 then some (0, cdiv (s.part (sub - 1)).dumpBytes 32768 - 1, 4)
  else if idx = 0x9003 ∧ sub = 2 then some (0, 33554432, 4)
  else none

/-- Objects of type BOOL (R311, R324, R331). -/
def isBool (idx sub : Nat) : Bool := idx == 0x3023 || idx == 0x3025 || idx == 0xA001 || (idx == 0x7030 && sub == 1)

/-- Whether a number names an owner: a partition, or 0xFF for none. -/
def isOwner (v : Nat) : Bool := decide (v < 16) || v == 0xFF
/-- Whether an owner has a run. -/
def State.ownerRuns (s : State) (v : Nat) : Bool := decide (v < 16) && s.hasRun v

/-- GRANULE_OWNER (R201, R324). -/
def State.mergeGranule (s : State) (sub v : Nat) : Merged :=
  let cur := s.obj 0x3010 sub
  let a := if isOwner v && !s.ownerRuns cur then v else cur
  (a, chg 0 1 2 v a)

/-- Whether DRAM granule g of die d may go from one owner to another (R205, R207, R324). -/
def State.dramMay (s : State) (d g cur v : Nat) : Bool :=
  let near := decide (g / 16 < 5) && decide (bits (g / 16) (g / 16) (s.obj 0x3012 (d + 1)) = 1)
  decide (g < 95) && isOwner v && !s.ownerRuns cur && !s.ownerRuns v
    && (!near || v == 0xFF || decide (s.granOwner (chanAcct (16 * d + g % 16)) = v))

/-- DRAM_OWNER: each entry on its own (R205, R324). -/
def State.mergeDram (s : State) (sub v : Nat) : Merged :=
  let old := s.obj 0x3011 sub
  let r := (List.range 96).map fun g =>
    let c := sliceNat old g 1
    let w := sliceNat v g 1
    let a := if w = c ∨ s.dramMay (sub - 1) g c w then w else c
    (a, chg g 1 2 w a)
  (leArr 1 (r.map (·.1)), r.flatMap (·.2))

/-- GROUP_MODE (R208, R324). -/
def State.mergeGroup (s : State) (sub v : Nat) : Merged :=
  let c := s.obj 0x3012 sub
  let stays (j : Nat) : Bool := (List.range 16).any fun i => s.ownerRuns (s.dramOwner (sub - 1) (16 * j + i))
  let a := (List.range 5).foldl (fun a j => a + (if stays j then bits j j c else bits j j v) * 2 ^ j) 0
  (a, chg 0 1 (if a = v % 32 then 4 else 2) v a)

/-- Pages of a range that the partition owns. -/
def State.ownedPages (s : State) (p first count : Nat) : Nat :=
  (s.dramOf p).foldl (fun n dg =>
    let b := dg.1 * 65536 + dg.2 * 512
    n + (min (first + count) (b + 512) - max first b)) 0

/-- PERM_WRITE (R209, R324): the low bits of the address and the reserved bits are forced; pages that are not owned are skipped
with one entry. -/
def State.mergePerm (s : State) (p v : Nat) : Merged :=
  let addr := v % 2 ^ 64
  let count := sliceNat v 8 4
  let rest := sliceNat v 12 4
  let a := addr / 2 ^ 21 * 2 ^ 21
  (a + 2 ^ 64 * count + 2 ^ 96 * (rest % 16),
    chg 0 8 4 addr a ++ (if s.ownedPages p (a / 2 ^ 21) count < count then [⟨0, 8, 2, a, a⟩] else []) ++ chg 12 4 4 rest (rest % 16))

/-- RUN_CTRL (R324). -/
def State.mergeRunCtrl (s : State) (p v : Nat) : Merged :=
  let st := runCode (s.part p).run
  if v < 1 ∨ 3 < v then (0, chg 0 1 4 v 0)
  else if (v = 1 ∧ st = 0) ∨ (v ≠ 1 ∧ (st = 1 ∨ st = 2)) then (v, [])
  else (0, chg 0 1 2 v 0)

/-- Function binding (R300). -/
def State.mergeBind (s : State) (idx sub v : Nat) : Merged :=
  let f := 8 * (idx - 0x3030) + (sub - 1)
  let cur := s.bound f
  let taken := decide (v < 16) && (List.range 16).any fun g => g != f && decide (s.bound g = v)
  let a := if v = cur then v else if isOwner v && !taken && !s.ownerRuns cur && !s.ownerRuns v then v else cur
  (a, chg 0 1 2 v a)

/-- PAIRING (R268, R287). -/
def State.mergePairing (s : State) (v : Nat) : Merged :=
  let cur := s.obj 0x6010 1
  let a := if v ≤ 1 ∧ !((List.range 16).any fun p => s.hasRun p) then v else cur
  (a, chg 0 1 2 v a)

/-- FW_CMD (R330, R344). -/
def State.mergeFwCmd (s : State) (v : Nat) : Merged :=
  if 1 ≤ s.fw.state ∧ s.fw.state ≤ 5 then (s.fw.cmd, chg 0 1 2 v s.fw.cmd)
  else
    let a := if v ≤ 2 then v else 0
    (a, chg 0 1 4 v a)

/-! ### Checks of blobs -/

/-- SELFTEST_REQ (R327): the bits of cores outside the partition's granules are ignored, with one entry for the lowest byte
that holds one. -/
def State.mergeSelftest (s : State) (p v : Nat) : Merged :=
  let a := (List.range 3072).foldl (fun a i => if bits i i v = 1 ∧ s.clPart (Fin.ofNat 256 (i / 12)) = p then a + 2 ^ i else a) 0
  (a, match (List.range 384).find? fun o => sliceNat v o 1 ≠ sliceNat a o 1 with
    | some o => [⟨o, 1, 2, sliceNat v o 1, sliceNat a o 1⟩]
    | none => [])

/-- Whether a range lies on die d, wholly in DRAM that the partition owns there. -/
def State.onDie (s : State) (p d base len : Nat) : Bool :=
  s.ownsRange p base len && decide (base / 2 ^ 37 = d) && decide ((base + len - 1) / 2 ^ 37 = d)

/-- STATE_RANGES (R269): an entry that is misaligned or not owned becomes zero. -/
def State.mergeRanges (s : State) (p v : Nat) : Merged :=
  let r := (List.range 64).map fun k =>
    let b := sliceNat v (16 * k) 8
    let n := sliceNat v (16 * k + 8) 8
    let ok := decide (b % 2 ^ 21 = 0) && decide (n % 2 ^ 21 = 0) && (decide (n = 0) || s.onDie p (k / 16) b n)
    let e := if ok then (b, n) else (0, 0)
    ([e.1, e.2], chg (16 * k) 8 3 b e.1 ++ chg (16 * k + 8) 8 3 n e.2)
  (leArr 8 (r.flatMap (·.1)), r.flatMap (·.2))

/-- Whether an address may be slot k of MIRROR_SLOTS (R269, R287): 0 to 7 partner slots, 8 to 11 local slots; a die whose partner holds no
granule of the partition has no partner slot. The alignment of a slot is that of its 4 KiB header (PRESUMED, log 32). -/
def State.slotOk (s : State) (p k a : Nat) : Bool :=
  let d := if k < 8 then k / 2 else k - 8
  let n := 4096 + s.ownLen p d
  decide (a % 4096 = 0) && (decide (8 ≤ k) || (s.diesOf p).getLsbD (s.partner d)) && s.onDie p (if k < 8 then s.partner d else d) a n
    && (decide (k < 8) || (s.namedRanges p d).all fun r => decide (a + n ≤ r.1) || decide (r.1 + r.2 ≤ a))

/-- MIRROR_SLOTS (R269, R287): a slot that is misaligned, not owned or too small becomes zero. -/
def State.mergeSlots (s : State) (p v : Nat) : Merged :=
  let r := (List.range 12).map fun k =>
    let a := sliceNat v (8 * k) 8
    let b := if a = 0 ∨ s.slotOk p k a then a else 0
    (b, chg (8 * k) 8 3 a b)
  (leArr 8 (r.map (·.1)), r.flatMap (·.2))

/-- TRACE_REGION (R329, R371): kept during a run; the size to its bound first, then the base. -/
def State.mergeTrace (s : State) (p v : Nat) : Merged :=
  let base := v % 2 ^ 64
  let size := sliceNat v 8 4
  let rest := sliceNat v 12 4
  let cur := s.traceRegion p
  let a : (Nat × Nat) × Nat × Nat :=
    if s.hasRun p then (cur, 2, 2)
    else
      let n := min 4096 size
      (if base % 2 ^ 21 = 0 ∧ s.ownsRange p base (n * 2 ^ 20) then (base, n) else (0, n), 3, 1)
  (a.1.1 + 2 ^ 64 * a.1.2, chg 0 8 a.2.1 base a.1.1 ++ chg 8 4 a.2.2 size a.1.2 ++ chg 12 4 4 rest 0)

/-- TENSOR_WATCH (R329, R382): reserved bits and the low bits of BASE and LENGTH are forced (log 30), AREA_MIB is bounded or
kept, DONE and TRUNC keep their values, and ARMED is zeroed where the range is not owned. Reserved bytes are reported eight at
a time (log 33). -/
def State.mergeWatch (s : State) (p v : Nat) : Merged :=
  let base := bits 511 464 v / 128 * 128
  let len := bits 463 432 v / 128 * 128
  let area := if s.hasRun p then s.watch p 383 368 else min 4096 (bits 383 368 v)
  let armed := if bits 367 367 v = 1 ∧ s.ownsRange p base len then 1 else 0
  let a := pack [(48, base), (32, len), (32, bits 431 400 v), (12, bits 399 388 v), (4, 0), (16, area), (1, armed), (1, s.watch p 366 366), (1, s.watch p 365 365), (365, 0)]
  let at_ (o w reason : Nat) : List Clamped := chg o w reason (sliceNat v o w) (sliceNat a o w)
  let flags := sliceNat v 45 1
  (a, at_ 0 8 4 ++ at_ 8 8 4 ++ at_ 16 8 4 ++ at_ 24 8 4 ++ at_ 32 8 4 ++ at_ 40 5 4
    ++ at_ 45 1 (if flags % 32 ≠ 0 then 4 else if flags / 32 % 4 ≠ sliceNat a 45 1 / 32 % 4 then 2 else 3)
    ++ at_ 46 2 (if s.hasRun p then 2 else 1) ++ at_ 48 1 4 ++ at_ 54 4 4 ++ at_ 58 6 4)

/-- The merged value of an object, checked and clamped field by field (R319). -/
def State.mergeObj (s : State) (idx sub v : Nat) : Merged :=
  match s.objBounds idx sub with
  | some b => bounded b.1 b.2.1 b.2.2 v
  | none =>
    let p := sub - 1
    let forced (w a : Nat) : Merged := (a, chg 0 w 4 v a)
    if isBool idx sub then forced 1 (if v = 0 then 0 else 1)
    else if idx = 0x3010 then s.mergeGranule sub v
    else if idx = 0x3011 then s.mergeDram sub v
    else if idx = 0x3012 then s.mergeGroup sub v
    else if idx = 0x3013 then s.mergePerm p v
    else if idx = 0x3020 then s.mergeRunCtrl p v
    else if idx = 0x3030 ∨ idx = 0x3031 then s.mergeBind idx sub v
    else if idx = 0x6003 then s.mergeSelftest p v
    else if idx = 0x6010 then s.mergePairing v
    else if idx = 0x6012 then s.mergeRanges p v
    else if idx = 0x6013 then s.mergeSlots p v
    else if idx = 0x7030 ∧ sub = 3 then forced 1 (if v = 0x5A then v else 0)
    else if idx = 0x8020 then s.mergeTrace p v
    else if idx = 0x8022 then s.mergeWatch p v
    else if idx = 0x8023 then s.bpMerge p v
    else if idx = 0x9003 ∧ sub = 1 then forced 8 (v / 4096 * 4096)
    else if idx = 0x9003 ∧ sub = 3 then s.mergeFwCmd v
    else if idx = 0x9010 ∧ sub = 1 then
      let a := v - bits 61 48 v * 2 ^ 48
      (a, chg 6 2 4 (sliceNat v 6 2) (sliceNat a 6 2))
    else if idx = 0x9010 ∧ sub = 4 then forced 1 (if v ≤ 4 then v else 0)
    else (v, [])

/-! ### Effects -/

/-- DRAM_OWNER takes effect (R205, R209). -/
def State.setDramOwners (s : State) (sub v : Nat) : State :=
  let old := s.obj 0x3011 sub
  ((List.range 95).filter fun g => sliceNat old g 1 ≠ sliceNat v g 1).foldl (fun s g => s.dramPassed (sub - 1) g) (s.setObj 0x3011 sub v)

/-- TW_CMD takes effect (R261, R262): the command waits to act, and STATUS of TW_RESULT is busy. -/
def State.twStart (s : State) (v : Nat) : State :=
  let s := s.setObj 0x9010 4 v
  if v = 0 then s
  else
    let s := s.setObj 0x9010 5 (s.obj 0x9010 5 % 2 ^ 28 + 2 * 2 ^ 28)
    { s with dict := { s.dict with twDue := v } }

/-- What the applied value of an object does, for a write of function f (R319). -/
def State.applyObj (s : State) (f idx sub v : Nat) : State :=
  let p := sub - 1
  if idx = 0x1003 then s.writeNonce f (BitVec.ofNat 256 v)
  else if idx = 0x3010 then s.setGranule p v
  else if idx = 0x3011 then s.setDramOwners sub v
  else if idx = 0x3013 then s.permWrite p (v % 2 ^ 64) (sliceNat v 8 4) (sliceNat v 12 4 % 16)
  else if idx = 0x3020 then (if v = 1 then s.runStart p else if v = 0 then s else s.runStop p v)
  else if idx = 0x6003 then s.selftestReq p v
  else if 0x6011 ≤ idx ∧ idx ≤ 0x6013 then (let s := s.setObj idx sub v; if s.hasRun p then s.reprotect p else s)
  else if idx = 0x6019 then s.holdCkpt p v
  else if idx = 0x601E then s.ackCoreMap p (BitVec.ofNat 32 v)
  else if idx = 0x7030 then (if sub = 1 then (if v = 1 then s.deviceFence [] true else s) else if sub = 2 then s.partResets v else s.supReset v)
  else if idx = 0x9002 then s.writeToken v
  else if idx = 0x9003 ∧ sub = 3 then (if v = 0 then (if 1 ≤ s.fw.state ∧ s.fw.state ≤ 5 then s else { s with fw := { s.fw with cmd := 0 } }) else s.fwStart v)
  else if idx = 0x9010 ∧ sub = 4 then s.twStart v
  else if idx = 0xA001 then (if v = 0 then s else s.clearLedger)
  else s.setObj idx sub v

/-! ### Commits (R318 to R321) -/

/-- Enters a clamp in the report (R320). -/
def State.reportClamp (s : State) (idx sub src : Nat) (c : Clamped) : State :=
  let n := s.dict.clampCount
  let r : Rec := BitVec.ofNat 256 (pack [(16, idx), (8, sub), (8, src), (16, c.off), (8, c.width), (4, c.reason), (4, 0), (64, c.written), (64, c.applied), (48, s.now), (16, n)])
  { s with dict := { s.dict with clampCount := sat32 n 1, clamps := ins s.dict.clamps (n % 64) r } }

/-- The value that a write gives: its bytes in the current value, checked (R319). A WO object has nothing to merge with. -/
def State.mergedWrite (s : State) (w : DWrite) (r : ObjRow) : Merged :=
  let cur := if r.acc = .wo then 0 else s.objValue w.fn w.idx w.sub
  s.mergeObj w.idx w.sub (spliceNat cur w.off w.len w.val % 256 ^ r.size)

/-- Marks the end of a host's write for OBJ_STATUS (R290), or FIELD_WROTE in the token of a held section (R299). -/
def State.wrote (s : State) (w : DWrite) (clamps size : Nat) : State :=
  if w.field then
    let sec := sectionOf w.idx
    let m := s.sema sec
    if m.holder.isSome then s.setSema sec { m with fieldWrote := true } else s
  else
    let v := s.fn w.fn
    if v.objBusy = 2 then s.setFn w.fn { v with objBusy := 3, objClamps := min 255 clamps, objLen := size } else s

/-- Commits one write as a single change. -/
def State.commitOne (s : State) (w : DWrite) : State :=
  match objRow w.idx w.sub with
  | none => s
  | some r =>
    let m := s.mergedWrite w r
    let s := m.2.foldl (fun s c => s.reportClamp w.idx w.sub w.src c) s
    (s.wrote w m.2.length r.size).applyObj w.fn w.idx w.sub m.1

/-- Commits writes in order; a device reset among them ends the cycle. -/
def State.commitAll : List DWrite → State → State
  | [], s => s
  | w :: t, s =>
    let s' := s.commitOne w
    if s'.boot.phase = .hold ∧ s.boot.phase ≠ .hold then s' else State.commitAll t s'

/-- Places a host write in arrival order, port A before port B within one hub cycle (R318, R387). -/
def insWrite (w : DWrite) : List DWrite → List DWrite
  | [] => [w]
  | x :: t => if !x.field && decide (x.hub = w.hub) && decide (8 ≤ x.fn) && decide (w.fn < 8) then w :: x :: t else x :: insWrite w t

/-- Whether the dictionary is served: the firmware is up, or the ROM waits in recovery (R337, R343). -/
def State.dictUp (s : State) : Bool := s.fw.up || s.fw.inRecovery

/-- The holder of a semaphore loses it (R299). -/
def State.semaDrop (s : State) (sec : Nat) : State :=
  let m := s.sema sec
  s.setSema sec { m with holder := none, gen := m.gen + 1, ownerLost := true, lossDue := false }

/-- The semaphores whose loss waited for a write of their holder are lost (R299). -/
def State.semaDropsDue (s : State) : State :=
  (List.range 10).foldl (fun s k => if (s.sema k).lossDue then s.semaDrop k else s) s

/-- DICTIONARY_COMMIT (R299, R318): at every whole 5 µs, host writes first, then field writes; then the losses of semaphores that waited for
them. -/
def execDictionaryCommit (s : State) : Out :=
  .next (
    if s.now % 5 ≠ 0 ∨ !s.dictUp then s
    else
      let l := s.dict.waiting
      (State.commitAll (l.filter (fun w => !w.field) ++ l.filter (fun w => w.field)) { s with dict := { s.dict with waiting := [] } }).semaDropsDue)

end Sys2Proof.Machine
end

