-- ==== Sys2Proof/Machine/Ports.lean ====
section
/-! DEFINITION. The control ports: registers, object requests, semaphores, doorbells, event queues, the BAR4 window, and what
resets a function (R229, R289 to R300, R353, R361, R362). -/

namespace Sys2Proof.Machine

open Sys2Proof

/-! ### Ports and functions -/

/-- The port of a function: false A, true B. -/
def portB (f : Nat) : Bool := decide (8 ≤ f)
/-- A control port. -/
def State.cport (s : State) (b : Bool) : CtrlPort := if b then s.ports.portB else s.ports.portA
/-- Replaces a control port. -/
def State.setCport (s : State) (b : Bool) (c : CtrlPort) : State :=
  { s with ports := if b then { s.ports with portB := c } else { s.ports with portA := c } }
/-- Whether a port's link is up (R328). -/
def CtrlPort.up (c : CtrlPort) : Bool := !c.down && decide (c.gen ≠ 0)

/-- Whether a function's accesses arrive and are served (R288, R337, R343, R356): its port is released and its link up, its host has enabled
the virtual function, and the firmware is up, or the ROM waits in recovery, where a port has its physical function only. -/
def State.reach (s : State) (f : Nat) : Bool :=
  s.releasedTo 25 && (s.cport (portB f)).up && decide (f % 8 ≤ (s.cport (portB f)).vfs) && s.dictUp && (!s.fw.inRecovery || decide (f % 8 = 0))

/-- Counts a write that is ignored (R289). -/
def State.ignoredWrite (s : State) : State := { s with ports := { s.ports with ignoredWrites := sat32 s.ports.ignoredWrites 1 } }

/-- A completion for a function. -/
def State.respond (s : State) (f : Nat) (r : Resp) : State := s.setFn f { s.fn f with resp := r }

/-- Sends MSI-X vector k, or leaves it pending while it is masked (R288, R292). -/
def Fn.vector (v : Fn) (k : Nat) : Fn :=
  if v.msixTab.getLsbD (128 * k + 96) then { v with msixPending := v.msixPending ||| BitVec.ofNat 2 (2 ^ k) }
  else
    let v := { v with msixPending := v.msixPending &&& ~~~BitVec.ofNat 2 (2 ^ k) }
    if k = 0 then { v with msixSent0 := v.msixSent0 + 1 } else { v with msixSent1 := v.msixSent1 + 1 }

/-! ### Object requests (R290, R291) -/

/-- The first n bytes of OBJ_BUF, as a number. -/
def Fn.bufNat (v : Fn) (n : Nat) : Nat := leNat ((List.range n).map fun i => look 0 v.objBuf i)

/-- Fills OBJ_BUF from its start. -/
def Fn.fillBuf (v : Fn) (bs : List Byte) : Fn := { v with objBuf := bs.zipIdx.foldl (fun m e => put 0 m e.2 e.1) v.objBuf }

/-- An object request begins: busy, or on its way to a refusal with a cause. -/
def Fn.request (v : Fn) (kind cause len : Nat) : Fn :=
  { v with
    objState := 1, objCause := 0, objClamps := 0, objLen := len, objBusy := if cause = 0 then kind else 16 + cause
    reqIndex := v.objIndex, reqSub := v.objSub, reqOff := v.objOff }

/-- The length of an object, 0 if there is none. -/
def objSize (idx sub : Nat) : Nat := match objRow idx sub with
  | some r => r.size
  | none => 0

/-- A write of OBJ_CTRL while busy is ignored and sets cause 4 (R291). -/
def State.ctrlBusy (s : State) (f : Nat) : State := s.setFn f { s.fn f with objCause := 4 }

/-- A read of the object that OBJ_SEL names begins (R291, R317). -/
def State.objRead (s : State) (f : Nat) : State :=
  let v := s.fn f
  if v.objBusy ≠ 0 then s.ctrlBusy f
  else s.setFn f (v.request 1 (s.readCause f v.objIndex v.objSub) (objSize v.objIndex v.objSub))

/-- OBJ_READ. -/
def execObjRead (f : Fx) (s : State) : Out := .next (if s.reach f.val then s.objRead f.val else s)

/-- A write of OBJ_BUF to the object that OBJ_SEL names is submitted, at a hub cycle (R291, R318): it covers the whole object. -/
def State.objWrite (s : State) (f hub : Nat) : State :=
  let v := s.fn f
  if v.objBusy ≠ 0 then s.ctrlBusy f
  else
    let n := objSize v.objIndex v.objSub
    let c := s.writeCause f v.objIndex v.objSub
    let s := s.setFn f (v.request 2 c n)
    if c ≠ 0 then s
    else
      let w : DWrite := { field := false, src := fnSource f, fn := f, hub := hub, idx := v.objIndex, sub := v.objSub, off := 0, len := n, val := v.bufNat n }
      { s with dict := { s.dict with waiting := insWrite w s.dict.waiting } }

/-- OBJ_WRITE. -/
def execObjWrite (f : Fx) (hubCycle : Nat) (s : State) : Out := .next (if s.reach f.val then s.objWrite f.val hubCycle else s)

/-- Whether every cluster of a partition has received the invalidations of its changed permission entries (R211): its cached entries
are the table's. -/
def State.permSettled (s : State) (p : Nat) : Bool :=
  (s.clustersOf p).all fun cl => (s.clu cl).cache.perm.all fun e => decide (e.2 = s.permEntry p e.1)

/-- OBJ_REQUEST_COMPLETE (R211, R290, R291): a read fills OBJ_BUF, OBJ_STATUS reads done or refused, and vector 1 is sent. A write
completes after its commit; one of PERM_WRITE once every cluster of the partition has received the invalidations. -/
def execObjRequestComplete (f : Fx) (s : State) : Out :=
  .next (
    let v := s.fn f.val
    if v.objBusy = 0 ∨ v.objBusy = 2 ∨ (v.objBusy = 3 ∧ v.reqIndex = 0x3013 ∧ !s.permSettled (v.reqSub - 1)) then s
    else
      let done (v : Fn) : State := s.setFn f.val (({ v with objBusy := 0 }).vector 1)
      if 16 ≤ v.objBusy then done { v with objState := 3, objCause := v.objBusy - 16 }
      else
        let v := { v with objState := 2, objCause := 0 }
        if v.objBusy = 1 then
          let n := min 4096 (v.objLen - v.reqOff)
          done (v.fillBuf (leBytes n (sliceNat (s.objValue f.val v.reqIndex v.reqSub) v.reqOff n)))
        else done v)

/-! ### Semaphores (R298, R299) -/

/-- The token that a read of a semaphore returns (R298). -/
def Sema.token (m : Sema) (sec : Nat) (granted : Bool) : Nat :=
  pack [(1, if granted then 1 else 0), (1, if m.ownerLost then 1 else 0), (1, if m.fieldWrote then 1 else 0), (12, 0),
    (1, if m.holder = some true then 1 else 0), (5, 0), (3, 0), (4, 0), (4, sec), (16, 0), (16, m.gen.toNat)]

/-- What a physical function's read makes of a semaphore (R299): a free one is granted, in a tie to the port that lost the
previous tie. -/
def Sema.readBy (m : Sema) (port tie : Bool) (now : Nat) : Sema :=
  match m.holder with
  | some _ => m
  | none =>
    let w := if tie then m.tieLoser else port
    { m with holder := some w, fieldWrote := false, since := now, tieLoser := if tie then !w else m.tieLoser }

/-- A Completer Abort (R289). -/
def State.abort (s : State) (f : Nat) : State := s.respond f ⟨[], [], true⟩

/-- Whether an access is 4 or 8 bytes long and naturally aligned (R289). -/
def accessOk (off size : Nat) : Bool := (size == 4 || size == 8) && off % size == 0

/-- The half or the whole of a register that a read of 4 or 8 bytes returns (R289). -/
def halfRead (reg off size : Nat) : Nat := if size = 8 then reg else reg / 2 ^ (8 * (off % 8)) % 2 ^ 32

/-- SEMA_READ (R289, R298, R299, R387): a read of SEMA_s or of a half of it. A virtual function reads 0. -/
def execSemaRead (f : Fx) (sec : Fin 10) (r : SemaAccess) (s : State) : Out :=
  .next (
    if !s.reach f.val then s
    else if !accessOk r.off r.size then s.abort f.val
    else if f.val % 8 ≠ 0 then s.respond f.val ⟨leBytes r.size 0, [], false⟩
    else
      let m := (s.sema sec.val).readBy (portB f.val) r.tie s.now
      let t := m.token sec.val (decide (m.holder = some (portB f.val)))
      (s.setSema sec.val m).respond f.val ⟨leBytes r.size (halfRead t r.off r.size), [], false⟩)

/-- Whether a token written by a function releases a semaphore (R298). -/
def State.tokenFits (s : State) (f sec : Nat) (t : Nat) : Bool :=
  s.holds f sec && decide (bits 48 48 t = f / 8) && decide (bits 42 40 t = 0) && decide (bits 35 32 t = sec) && decide (bits 15 0 t = (s.sema sec).gen.toNat)

/-- A token is written back to SEMA_s (R298, R299). -/
def State.semaWrite (s : State) (f sec t : Nat) : State :=
  let m := s.sema sec
  if s.tokenFits f sec t then s.setSema sec { m with holder := none, gen := m.gen + 1, ownerLost := false, lossDue := false }
  else { s with ports := { s.ports with staleReleases := sat32 s.ports.staleReleases 1 } }

/-- SEMA_RELEASE (R289, R298, R299): only an 8-byte write acts. -/
def execSemaRelease (f : Fx) (sec : Fin 10) (size : Nat) (token : Word) (s : State) : Out :=
  .next (
    if !s.reach f.val then s
    else if size = 8 then s.semaWrite f.val sec.val token.toNat
    else if size = 4 then s.ignoredWrite
    else s.abort f.val)

/-- Whether an object write of a semaphore's holder in its section waits for its commit (R299). -/
def State.heldWrite (s : State) (sec : Nat) : Bool :=
  s.dict.waiting.any fun w => !w.field && decide (w.fn % 8 = 0) && decide ((s.sema sec).holder = some (portB w.fn)) && sectionOf w.idx == sec

/-- The holder loses a semaphore without release (R299): at once, or after the write that it still has waiting for its commit. -/
def State.semaLost (s : State) (sec : Nat) : State :=
  if s.heldWrite sec then s.setSema sec { s.sema sec with lossDue := true } else s.semaDrop sec

/-- SEMA_HOLD_EXPIRE (R299): the hold has lasted SEMA_HOLD_LIMIT. -/
def execSemaHoldExpire (sec : Fin 10) (s : State) : Out :=
  .next (
    let m := s.sema sec.val
    if m.holder.isSome ∧ m.since + s.obj 0x7010 1 * 1000000 ≤ s.now then s.semaLost sec.val else s)

/-- A function is reset (R277, R294, R299, R353): its registers, the semaphores that it holds, a checkpoint hold of its
partition. Objects keep their values. -/
def State.fnReset (s : State) (f : Nat) : State :=
  let v := s.fn f
  let s := s.setFn f { Fn.init with nonce := v.nonce, quote := v.quote, quoteDue := v.quoteDue, msixSent0 := v.msixSent0, msixSent1 := v.msixSent1 }
  let s := (List.range 10).foldl (fun s k => if s.holds f k then s.semaLost k else s) s
  if s.bound f < 16 then s.endHold (s.bound f) else s

/-- A control port is reset: its eight functions, and its link until it has trained again (R299, R353). -/
def State.portReset (s : State) (b : Bool) : State :=
  let s := s.setCport b { s.cport b with gen := 0, width := 0, flit := false, vfs := 0 }
  (List.range 8).foldl (fun s i => s.fnReset ((if b then 8 else 0) + i)) s

/-- FUNCTION_LEVEL_RESET (R353). -/
def execFunctionLevelReset (f : Fx) (s : State) : Out := .next (if s.reach f.val then s.fnReset f.val else s)
/-- HOT_RESET (R299, R353): also DL_Down. -/
def execHotReset (b : RefPort) (s : State) : Out := .next (s.portReset b)
/-- PERST (R299, R353). -/
def execPerst (b : RefPort) (s : State) : Out := .next (s.portReset b)

/-! ### References and links (R328, R361, R362) -/

/-- Whether a port uses the reference of a port (R361): both use A in the common-clock arrangement. -/
def State.uses (s : State) (port ref : Bool) : Bool := if s.boot.clkMode % 2 = 0 then !ref else port == ref

/-- A clock is lost: CLOCK_FAILS advances (R362). -/
def State.clockFail (s : State) : State := { s with ports := { s.ports with clockFails := sat32 s.ports.clockFails 1 } }

/-- REFCLK_LOSS (R362): the ports that use the reference go link-down, with the losses of R299. -/
def execRefclkLoss (b : RefPort) (s : State) : Out :=
  .next (
    let s := (s.setCport b { s.cport b with refPresent := false }).clockFail
    [false, true].foldl (fun s port => if s.uses port b then s.portReset port else s) s)

/-- REFCLK_RETURN (R362): the ports that use it train again; CONTROL_LINK_UP tells when they are up. -/
def execRefclkReturn (b : RefPort) (s : State) : Out := .next (s.setCport b { s.cport b with refPresent := true })

/-- CONTROL_LINK_UP (R288, R328, R356): a released port with its reference has trained, always in FLIT mode at 64 GT/s; its host enables
virtual functions (log 92). -/
def execControlLinkUp (b : RefPort) (gen width : Nat) (mode : LinkMode) (s : State) : Out :=
  .next (
    let c := s.cport b
    let ref := if s.uses b false then s.ports.portA.refPresent else s.ports.portB.refPresent
    if !s.releasedTo 25 ∨ c.down ∨ !ref ∨ gen < 1 ∨ 6 < gen ∨ ¬(width = 1 ∨ width = 2 ∨ width = 4) ∨ (gen = 6 ∧ !mode.flit) then s
    else s.setCport b { c with gen := gen, width := width, flit := mode.flit, vfs := mode.vfs.val })

/-! ### Doorbells (R293) -/

/-- A doorbell arrives, for the partition to which the function is bound; one of a function that is not bound is ignored (R293), and a fenced
device serves none (R266). -/
def State.doorbell (s : State) (f n : Nat) (v : W32) : State :=
  if s.bound f < 16 ∧ !s.mgmt.fenced then s.setFn f { s.fn f with bells := (s.fn f).bells ++ [⟨n, v, 0, s.now, s.bound f⟩] } else s

/-- DB_WRITE. -/
def execDbWrite (f : Fx) (n : Rn) (v : W32) (s : State) : Out := .next (if s.reach f.val then s.doorbell f.val n.val v else s)

/-- The HOST_DOORBELL event of a doorbell (R386). -/
def bellRecord (cl : Cl) (f : Nat) (b : Bell) : BitVec 512 :=
  evRecord 0x0A 0 (unitName cl 0x10) [b.n, b.v.toNat, b.merges, f / 8 * 256 + f % 8 * 32]

/-- Replaces the last record equal to r. -/
def swapLast (r r' : BitVec 512) (l : List (BitVec 512)) : List (BitVec 512) :=
  let rec go : List (BitVec 512) → List (BitVec 512)
    | [] => []
    | x :: t => if x = r then r' :: t else x :: go t
  (go l.reverse).reverse

/-- DOORBELL_EVENT_QUEUED (R293): the function's earlier posted writes have been accepted, and its oldest doorbell reaches the
lead cluster's steward core, or merges into the previous event if that was queued less than 1 µs before it arrived and has not been
taken. -/
def execDoorbellEventQueued (f : Fx) (s : State) : Out :=
  .next (
    let v := s.fn f.val
    match v.bells with
    | [] => s
    | b :: rest =>
      let s := s.setFn f.val { v with bells := rest }
      match s.lowGran b.part with
      | none => s
      | some g =>
        let cl := granLead g
        let fresh (s : State) : State :=
          let taken := decide ((s.stew cl).evq.length < 32)
          let s := s.pushEv cl (bellRecord cl f.val b)
          s.setFn f.val { s.fn f.val with lastBell := if taken then some { b with at_ := s.now } else none }
        match v.lastBell with
        | some o =>
          if b.at_ < o.at_ + 1 ∧ (s.stew cl).evq.contains (bellRecord cl f.val o) then
            let m : Bell := { o with v := b.v, merges := o.merges + 1 }
            let s := s.setStew cl { s.stew cl with evq := swapLast (bellRecord cl f.val o) (bellRecord cl f.val m) (s.stew cl).evq }
            s.setFn f.val { s.fn f.val with lastBell := some m }
          else fresh s
        | none => fresh s)

/-! ### Event queues (R294) -/

/-- A write of EVQ_HEAD (R294): the queue is armed, and sends vector 0 at once if records are left. -/
def State.headWrite (s : State) (f : Nat) (v : W32) : State :=
  let w := { s.fn f with evHead := v, armed := true }
  s.setFn f (if w.evTail = v then w else ({ w with armed := false }).vector 0)

/-- EVQ_HEAD_WRITE. -/
def execEvqHeadWrite (f : Fx) (v : W32) (s : State) : Out := .next (if s.reach f.val then s.headWrite f.val v else s)

/-- Where a host's memory holds the record at an address (the hosts of the two ports have memories of their own). -/
def hostKey (f addr : Nat) : Nat := f / 8 * 2 ^ 64 + addr % 2 ^ 64

/-- A host event record with LOST and SEQ filled in (R294). -/
def Fn.record (v : Fn) (r : Rec) : Rec := (r >>> 64 <<< 64) ||| BitVec.ofNat 256 (v.evLost % 2 ^ 32 * 2 ^ 32 + v.evTail.toNat)

/-- HOST_EVENT_RECORD_WRITE (R294): the oldest record that waits is written while there is room, and EVQ_TAIL advances. -/
def execHostEventRecordWrite (f : Fx) (s : State) : Out :=
  .next (
    let v := s.fn f.val
    match v.evWait with
    | [] => s
    | r :: rest =>
      if !(s.cport (portB f.val)).up ∨ v.evSize = 0 ∨ 2 ^ v.evSize ≤ (v.evTail - v.evHead).toNat then s
      else
        let a := v.evBase.toNat + 32 * (v.evTail.toNat % 2 ^ v.evSize)
        let s := { s with ports := { s.ports with hostMem := ins s.ports.hostMem (hostKey f.val a) (v.record r) } }
        let w := { v with evWait := rest, evTail := v.evTail + 1 }
        s.setFn f.val (if w.armed then ({ w with armed := false }).vector 0 else w))

/-! ### Registers of BAR0 and BAR2 (R289, R290, R292) -/

/-- A 4-byte or 8-byte write to a plain 8-byte register: its half, or all of it (R289). -/
def halfWrite (old : Nat) (hi : Bool) (size v : Nat) : Nat := if size = 8 then v else spliceNat old (if hi then 4 else 0) 4 v

/-- The value of OBJ_SEL (R290). -/
def Fn.objSel (v : Fn) : Nat := v.objIndex * 2 ^ 24 + v.objSub * 2 ^ 16 + v.objOff

/-- EVQ_SIZE as it is kept (R292). -/
def evqSize (v : Nat) : Nat := if v % 32 = 0 then 0 else max 6 (min 16 (v % 32))

/-- A write to BAR0 that is 4 or 8 bytes long and aligned (R290). -/
def State.bar0Write (s : State) (f off size v : Nat) : State :=
  let base := off / 8 * 8
  let hi := decide (off % 8 = 4)
  let w := s.fn f
  if 0x1000 ≤ off ∧ off < 0x2000 then s.setFn f { w with objBuf := (leBytes size v).zipIdx.foldl (fun m e => put 0 m (off - 0x1000 + e.2) e.1) w.objBuf }
  else if base = 0x400 then
    let x := halfWrite w.objSel hi size v
    s.setFn f { w with objIndex := bits 39 24 x, objSub := bits 23 16 x, objOff := bits 15 12 x * 4096 }
  else if base = 0x408 then
    if hi then s.ignoredWrite
    else if v % 2 ^ 32 = 1 then s.objRead f
    else if v % 2 ^ 32 = 2 then s.objWrite f (s.dict.waiting.foldl (fun m x => max m x.hub) 0 + 1)
    else s
  else if 0x100 ≤ base ∧ base ≤ 0x148 then (if size = 8 then s.semaWrite f ((base - 0x100) / 8) v else s.ignoredWrite)
  else if base = 0 ∨ base = 0x410 then s
  else s.ignoredWrite

/-- A write to the MSI-X table: a vector that is pending is sent when its mask clears. -/
def Fn.tableWrite (v : Fn) (o size val : Nat) : Fn :=
  let v := { v with msixTab := BitVec.ofNat 256 (spliceNat v.msixTab.toNat o size val) }
  [0, 1].foldl (fun (v : Fn) k => if v.msixPending.getLsbD k && !v.msixTab.getLsbD (128 * k + 96) then v.vector k else v) v

/-- A write to BAR2 that is 4 or 8 bytes long and aligned (R292). -/
def State.bar2Write (s : State) (f off size v : Nat) : State :=
  let base := off / 8 * 8
  let hi := decide (off % 8 = 4)
  let w := s.fn f
  if base < 0x80 then (if hi then s.ignoredWrite else s.doorbell f (base / 8) (BitVec.ofNat 32 v))
  else if base = 0x1000 then s.setFn f { w with evBase := BitVec.ofNat 64 (halfWrite w.evBase.toNat hi size v / 4096 * 4096) }
  else if base = 0x1008 then (if hi then s else s.setFn f { w with evSize := evqSize v })
  else if base = 0x1010 then (if hi then s.ignoredWrite else s.headWrite f (BitVec.ofNat 32 v))
  else if base = 0x1800 then s.setFn f { w with winBase := bits 38 30 (halfWrite w.winBase hi size v) * 2 ^ 30 }
  else if 0x2000 ≤ off ∧ off < 0x2020 then s.setFn f (w.tableWrite (off - 0x2000) size v)
  else if base = 0x1018 ∨ base = 0x1020 ∨ base = 0x3000 then s
  else s.ignoredWrite

/-- FUNC_INFO (R290). -/
def State.funcInfo (s : State) (f : Nat) : Nat := f / 8 * 2 ^ 8 + f % 8 * 2 ^ 5 + s.bound f % 32

/-- OBJ_STATUS (R290). -/
def Fn.objStatus (v : Fn) : Nat := v.objState * 2 ^ 28 + v.objCause * 2 ^ 24 + min 255 v.objClamps * 2 ^ 16 + v.objLen % 2 ^ 16

/-- What an 8-byte register of BAR0 or OBJ_BUF reads as (R289, R290); a semaphore is read by SEMA_READ. -/
def State.bar0Reg (s : State) (f off : Nat) : Nat :=
  let v := s.fn f
  if 0x1000 ≤ off ∧ off < 0x2000 then leNat ((List.range 8).map fun i => look 0 v.objBuf (off - 0x1000 + i))
  else if off = 0 then s.funcInfo f
  else if off = 0x400 then v.objSel
  else if off = 0x410 then v.objStatus
  else 0

/-- What an 8-byte register of BAR2 reads as (R292). -/
def State.bar2Reg (s : State) (f off : Nat) : Nat :=
  let v := s.fn f
  if off = 0x1000 then v.evBase.toNat
  else if off = 0x1008 then v.evSize
  else if off = 0x1010 then v.evHead.toNat
  else if off = 0x1018 then v.evTail.toNat
  else if off = 0x1020 then v.evLost
  else if off = 0x1800 then v.winBase
  else if 0x2000 ≤ off ∧ off < 0x2020 then sliceNat v.msixTab.toNat (off - 0x2000) 8
  else if off = 0x3000 then v.msixPending.toNat
  else 0

/-- REGISTER_WRITE (R229, R230, R289): a write to control space, to BAR0 or to BAR2. -/
def execRegisterWrite (t : RegTarget) (v : Word) (s : State) : Out :=
  .next (match t with
    | .ctl b addr => s.ctlWrite b addr v
    | .bar0 f off size => if !s.reach f.val then s else if accessOk off size then s.bar0Write f.val off size (v.toNat % 256 ^ size) else s.abort f.val
    | .bar2 f off size => if !s.reach f.val then s else if accessOk off size then s.bar2Write f.val off size (v.toNat % 256 ^ size) else s.abort f.val)

/-! ### The BAR4 window (R277, R296, R297, R343) -/

/-- Bytes of the hold area (R337). -/
def holdBytes : Nat := 2 ^ 25

/-- The device address behind an offset of a function's window (R277, R296), if its partition owns it. A fenced device serves no window
(R266): like an address that is not owned, it reads as zeros (DESIGN CHOICE, log 92). -/
def State.windowAddr (s : State) (f off : Nat) : Option Nat :=
  let p := s.bound f
  if p ≥ 16 ∨ 2 ^ 36 ≤ off ∨ s.mgmt.fenced then none
  else if (s.part p).ckptSince.isSome then
    ((s.ckptWindow p).find? fun x => decide (x.2.2.2 ≤ off) && decide (off < x.2.2.2 + x.2.2.1)).map fun x => x.2.1 + (off - x.2.2.2)
  else
    let a := (s.fn f).winBase + off
    if s.ownerOf a = p then some a else none

/-- A read through the window of bytes that lie in one 16-byte word (R297): state, bytes, and whether the word is poisoned. An
uncorrectable word is poisoned at the channel. A read of a line that a scrubber holds comes after the correction write (R259, log 76). -/
def State.windowWord (s : State) (f off n : Nat) : State × List Byte × Bool :=
  match s.windowAddr f off with
  | none => (s, List.replicate n 0, false)
  | some a =>
    let s := s.freeLine (a / 128)
    let k := s.phys a
    let bad := s.dram.mem.anyPoison k n || s.dram.mem.anyBad k n
    let bs := if bad then List.replicate n 0 else s.dram.mem.read k n
    let s := s.wordErrors s.dram.mem k a n 0x01 (chanUnit k) (s.bound f) 1
    let s := s.setDram (s.dram.mem.settleBad k n)
    (if bad then s.setFn f { s.fn f with aer := (s.fn f).aer + 1 } else s, bs, bad)

/-- The pieces of a range that lie in one 16-byte word each: (offset, length). -/
def wordPieces (off len : Nat) : List (Nat × Nat) :=
  (wordsOf off len).map fun w => (max off (16 * w), min (off + len) (16 * w + 16) - max off (16 * w))

/-- BAR4_READ (R296, R297); in recovery the hold area, and zeros beyond it (R343). -/
def execBar4Read (f : Fx) (off len : Nat) (s : State) : Out :=
  .next (
    if !s.reach f.val then s
    else if s.fw.inRecovery then
      s.respond f.val ⟨(List.range len).map fun i => if off + i < holdBytes then s.fw.hold.raw (off + i) else 0, [], false⟩
    else
      let r := (wordPieces off len).foldl (fun (a : State × List Byte × List Nat) w =>
        let x := a.1.windowWord f.val w.1 w.2
        (x.1, a.2.1 ++ x.2.1, if x.2.2 then a.2.2 ++ [w.1 / 16] else a.2.2)) (s, [], [])
      r.1.respond f.val ⟨r.2.1, r.2.2, false⟩)

/-- A source writes bytes of the hold area in recovery (R343): the first source owns recovery, and others are refused. -/
def State.holdWrite (s : State) (source off : Nat) (bs : List Byte) : State :=
  if s.fw.recOwner = none ∨ s.fw.recOwner = some source then
    let h := bs.zipIdx.foldl (fun (m : Mem) e => if off + e.2 < holdBytes then m.setRaw (off + e.2) e.1 else m) s.fw.hold
    { s with fw := { s.fw with hold := h, recOwner := some source } }
  else s

/-- BAR4_WRITE (R296): at the channel, after the correction write of a line that a scrubber holds (R259, log 76); in checkpoint mode
discarded; outside owned granules discarded and counted; a fenced device drops it (R266, log 92). -/
def execBar4Write (f : Fx) (off : Nat) (bytes : List Byte) (s : State) : Out :=
  .next (
    if !s.reach f.val then s
    else if s.fw.inRecovery then s.holdWrite (f.val / 8) off bytes
    else if s.mgmt.fenced || (decide (s.bound f.val < 16) && (s.part (s.bound f.val)).ckptSince.isSome) then s
    else
      let ps := wordPieces off bytes.length
      let s := ps.foldl (fun s w => match s.windowAddr f.val w.1 with
        | some a => (s.freeLine (a / 128)).chanWrite (Mem.empty.write a ((bytes.drop (w.1 - off)).take w.2)) (a / 128) (BitVec.ofNat 128 ((2 ^ w.2 - 1) * 2 ^ (a % 128)))
        | none => s) s
      if ps.any fun w => (s.windowAddr f.val w.1).isNone then { s with ports := { s.ports with winDrops := sat32 s.ports.winDrops 1 } } else s)

end Sys2Proof.Machine
end

