-- ==== Sys2Proof/Machine/Storage.lean ====
section
/-! DEFINITION. Storage ports (R301 to R304): bring-up, completions, time-outs, SMART warnings, inbound requests, and ports that
go down. The commands that copies and rollbacks issue are those of `SPort.advance`. -/

namespace Sys2Proof.Machine

open Sys2Proof

/-- A STORAGE record (R336): how DETAIL holds the port and the code is not stated (DESIGN CHOICE, log 34). -/
def State.logStorage (s : State) (k code : Nat) : State := s.logEvent 0x8A 0xFF 0 0 (k * 256 + code) 0

/-- Whether the storage ports are served: a tripped device has no clock for them, and a fenced one serves none (R177, R266, log 92). -/
def State.storageServed (s : State) : Bool := !s.power.tripped && !s.mgmt.fenced

/-- A port's outstanding commands and jobs are given up. -/
def SPort.quit (v : SPort) : SPort := { v with jobs := [], cmds := [] }

/-- PROTECTION of every run is recomputed (R270). -/
def State.reprotectAll (s : State) : State := (List.range 16).foldl (fun s p => if s.hasRun p then s.reprotect p else s) s

/-- The copies and reads of a die's storage ports in progress fail (R276, R285, R304). -/
def State.storageFail (s : State) (d : Nat) : State :=
  (List.range 16).foldl (fun s p =>
    let s := (s.part p).flash.foldl (fun s e => if e.1 = d ∨ (s.carries p e.1 ∧ s.partner e.1 = d) then s.flashFail p e.1 e.2 else s) s
    match (s.part p).rolling with
    | some t => match s.areaOf d t with
      | some a =>
        if (s.diesOf p).getLsbD d then
          (s.setImage d a { s.image d a with valid := false }).dropJobs d fun j => decide (j.part = p) && !j.write
        else s
      | none => s
    | none => s) s

/-- A storage port is put down until the next reset (R302, R304): the copies that use it fail, STORAGE_DOWN names the cause, and
PROTECTION is recomputed. -/
def State.storageDown (s : State) (k cause : Nat) : State :=
  let s := s.storageFail (k / 2)
  let s := s.setSport k { (s.sport k).quit with st := 0, cause := cause }
  ((s.logStorage k cause).devEv 0x14 (k / 2) 0 cause k).reprotectAll

/-- An NVMe command has failed (R304): its copy or read fails, and the controller is reset by CC.EN = 0; the port then brings
it up again (DEDUCED, log 34). -/
def State.nvmeFail (s : State) (k : Nat) : State :=
  let s := s.storageFail (k / 2)
  let v := s.sport k
  s.setSport k { v.quit with st := 1, resets := (v.resets.filter fun t => s.now < t + 60000000) ++ [s.now] }

/-- Capacity that a die's SSD must offer (R302), for the largest S_die of a partition there. -/
def State.needCapacity (s : State) (d : Nat) : Nat :=
  2 * (cdiv ((List.range 16).foldl (fun m p => max m (s.ownLen p d)) 0 + 4096) 2 + 262144)

/-- The cause for which a bring-up puts port k down, 0 if none (R301, R302, R328): rows 1 to 6 of R302 in their order, once the controller
is ready to tell, and 7 for a bring-up that fails. -/
def State.bringUpCause (s : State) (k : Nat) (r : BringUp) : Nat :=
  if !r.trained ∨ !r.ready then 7
  else if r.version < 0x104 ∨ !r.nvmSet then 1
  else if !r.nsActive then 2
  else if ¬(r.lbaBytes = 512 ∨ r.lbaBytes = 4096) ∨ r.metadata ≠ 0 then 3
  else if r.mdts ≠ 0 ∧ r.mdts < unitBytes then 4
  else if r.mpsMin ≠ 4096 then 5
  else if r.capacity < s.needCapacity (k / 2) then 6
  else if !r.queues then 7
  else 0

/-- STORAGE_PORT_BRINGUP (R301, R302): the first requirement that is not met, or a failed bring-up, puts the port down; otherwise the
queues exist, and the port takes up its jobs. -/
def execStoragePortBringup (k : Sp) (r : BringUp) (s : State) : Out :=
  .next (
    if (s.sport k.val).st ≠ 1 ∨ !s.storageServed then s
    else
      let s := s.setSport k.val { s.sport k.val with perst := false }
      let c := s.bringUpCause k.val r
      if c = 0 then
        (s.setSport k.val ({ s.sport k.val with st := 2, lbaBytes := r.lbaBytes, zeroes := r.zeroes }.advance k.val)).reprotectAll
      else s.storageDown k.val c)

/-- NVME_COMPLETION_POLL (R303, R304): commands complete, and the port goes on with its job; a completion with an error status fails the copy
or read in progress. -/
def execNvmeCompletionPoll (k : Sp) (cs : List NvmeCompletion) (s : State) : Out :=
  .next (
    let v := s.sport k.val
    if v.st ≠ 2 ∨ !s.storageServed then s
    else if cs.any fun c => c.error then s.nvmeFail k.val
    else s.setSport k.val ({ v with cmds := v.cmds.filter fun q => !(cs.any fun c => c.cid == q.cid) }.advance k.val))

/-- NVME_COMMAND_TIMEOUT (R304): a command has not completed within 10 s. -/
def execNvmeCommandTimeout (k : Sp) (s : State) : Out := .next (if (s.sport k.val).st = 2 ∧ s.storageServed then s.nvmeFail k.val else s)

/-- SMART_POLL (R303): a critical warning other than 0 raises STORAGE_WARN and is kept. -/
def execSmartPoll (k : Sp) (warning : Byte) (s : State) : Out :=
  .next (
    if (s.sport k.val).st ≠ 2 ∨ !s.storageServed ∨ warning = 0 then s
    else
      let s := s.setSport k.val { s.sport k.val with smart := warning }
      (s.logStorage k.val warning.toNat).devEv 0x15 (k.val / 2) 0 warning.toNat k.val)

/-- SSD_INBOUND_REQUEST (R304): a request outside the port's queues and the pages of its outstanding commands, or against the direction that
they allow, receives Unsupported Request and is logged. -/
def execSsdInboundRequest (k : Sp) (addr len : Nat) (write : Bool) (s : State) : Out :=
  .next (
    let v := s.sport k.val
    if v.st = 0 ∨ !s.storageServed then s
    else if s.inboundMay k.val addr len write then s.setSport k.val { v with lastUr := false }
    else (s.setSport k.val { v with violations := v.violations + 1, lastUr := true }).logStorage k.val 10)

/-- STORAGE_PORT_DOWN (R304): cause 8 a link down for 100 ms, 9 three controller resets within 60 s, 10 three inbound
violations. -/
def execStoragePortDown (k : Sp) (cause : Nat) (s : State) : Out :=
  .next (
    let v := s.sport k.val
    let go := decide (v.st ≠ 0) && s.storageServed && (cause == 8 || (cause == 9 && decide (3 ≤ (v.resets.filter fun t => s.now < t + 60000000).length))
      || (cause == 10 && decide (3 ≤ v.violations)))
    if go then s.storageDown k.val cause else s)

end Sys2Proof.Machine
end

