-- ==== Sys2Proof/Machine/FieldLink.lean ====
section
/-! DEFINITION. The field link (R305 to R312) and recovery over it (R343). -/

namespace Sys2Proof.Machine

open Sys2Proof

/-! ### Frames (R307, R308) -/

/-- One bit of a CRC with polynomial 0x1021. -/
def crcBit (c : Nat) : Nat := if c / 32768 % 2 = 1 then (2 * c) % 65536 ^^^ 0x1021 else (2 * c) % 65536

/-- CRC-16/CCITT-FALSE (R307, R308): the named code, initial value 0xFFFF (PRESUMED, log 35). -/
def crc16 (bs : List Byte) : Nat :=
  bs.foldl (fun c b => (List.range 8).foldl (fun c _ => crcBit c) (c ^^^ (b.toNat * 256))) 0xFFFF

/-- Bytes of a big-endian field as a number. -/
def beNat (bs : List Byte) : Nat := bs.foldl (fun a b => 256 * a + b.toNat) 0
/-- A field of n bytes at offset o. -/
def fieldAt (bs : List Byte) (o n : Nat) : List Byte := (bs.drop o).take n
/-- A byte at an offset. -/
def byteAt (bs : List Byte) (o : Nat) : Nat := (bs.getD o 0).toNat
/-- Replaces bytes from offset o. -/
def putAt (bs : List Byte) (o : Nat) (new : List Byte) : List Byte := bs.take o ++ new ++ bs.drop (o + new.length)
/-- Two bytes, big-endian. -/
def be2 (n : Nat) : List Byte := [BitVec.ofNat 8 (n / 256), BitVec.ofNat 8 n]

/-- HDR_CRC as the header asks for it: byte 6 and bit 0 of byte 1 count as 0 (R307). -/
def hdrCrc (p : List Byte) : Nat :=
  crc16 (putAt (putAt (p.take 14) 6 [0]) 1 [(p.getD 1 0) &&& 0xFE#8])

/-- Whether the binder may execute a frame (R307, R312, R313, R343). VERSION 0x02 is executed in recovery only. -/
def State.frameOk (s : State) (fr : Frame) : Bool :=
  let p := fr.payload
  let n := beNat (fieldAt p 4 2)
  let len := p.length + 18
  fr.etherType == 0x88B5 && (byteAt p 0 == 1 || (s.fw.inRecovery && byteAt p 0 == 2)) && decide (beNat (fieldAt p 8 4) = s.obj 0x7040 2)
    && decide (beNat (fieldAt p 14 2) = hdrCrc p) && decide (1 ≤ n) && decide (n ≤ 46) && decide (p.length = 16 + 32 * n)
    && decide (64 ≤ len) && decide (len ≤ 1518)

/-- Whether a slot names this device (R308): by its HOPS on arrival, by FIELD_STATION, or as a broadcast WRITE. -/
def State.slotMine (s : State) (hops : Nat) (sl : List Byte) : Bool :=
  let t := beNat (fieldAt sl 2 2)
  let st := s.obj 0x7040 1
  (decide (t ≤ 0xFE) && t == hops) || (decide (st ≤ 254) && t == 0x8000 + st) || (t == 0xFFFF && byteAt sl 0 == 2)

/-- REQ_CRC as a slot asks for it (R308). -/
def reqCrc (sl : List Byte) : Nat := crc16 (sl.take 10 ++ if byteAt sl 0 = 2 then fieldAt sl 12 16 else [])

/-! ### Slots (R309, R310, R343) -/

/-- What a slot does: state, STATUS code (0 none), and bytes that replace DATA. -/
structure SlotDone where
  s : State
  code : Nat
  data : List Byte

/-- The size of an object for the field link; in recovery only the identity objects and FW_STATUS can be read (R343). -/
def State.fieldSize (s : State) (idx sub : Nat) : Option ObjRow :=
  if s.fw.inRecovery && !((decide (0x1000 ≤ idx) && decide (idx < 0x2000)) || (idx == 0x9003 && sub == 4)) then none else objRow idx sub

/-- READ (R309, R310): the value, as the field mirror holds it. The mirror is brought up to date at once (DESIGN CHOICE, log 91): R309 allows a
value up to 10 µs old. -/
def State.slotRead (s : State) (sl : List Byte) : SlotDone :=
  let idx := beNat (fieldAt sl 4 2)
  let sub := byteAt sl 6
  let len := byteAt sl 7
  let off := beNat (fieldAt sl 8 2)
  match s.fieldSize idx sub with
  | none => ⟨s, 4, []⟩
  | some r =>
    if len = 0 ∨ 16 < len ∨ r.size < off + len then ⟨s, 6, []⟩
    else ⟨s, 1, leBytes len (sliceNat (s.objValue 16 idx sub) off len)⟩

/-- WRITE (R309, R310, R311): a SUP object only, at most four in a frame; the write waits for its commit. -/
def State.slotWrite (s : State) (i done : Nat) (sl : List Byte) : SlotDone :=
  let idx := beNat (fieldAt sl 4 2)
  let sub := byteAt sl 6
  let len := byteAt sl 7
  let off := beNat (fieldAt sl 8 2)
  match s.fieldSize idx sub with
  | none => ⟨s, 4, []⟩
  | some r =>
    if r.acc ≠ .sup then ⟨s, 5, []⟩
    else if len = 0 ∨ 16 < len ∨ r.size < off + len then ⟨s, 6, []⟩
    else if 4 ≤ done then ⟨s, 3, []⟩
    else
      let w : DWrite := { field := true, src := 128 + i, fn := 16, hub := 0, idx := idx, sub := sub, off := off, len := len, val := leNat (fieldAt sl 12 len) }
      let m := s.mergedWrite w r
      ⟨{ s with dict := { s.dict with waiting := s.dict.waiting ++ [w] } }, if m.2 = [] then 1 else 2, []⟩

/-- RDATA (R343): 16 image bytes into the hold area. A source that does not own recovery is refused as NOT_WRITABLE (DEDUCED,
log 35). -/
def State.slotRdata (s : State) (sl : List Byte) : SlotDone :=
  let off := beNat (fieldAt sl 4 4)
  if ¬(s.fw.recOwner = none ∨ s.fw.recOwner = some 2) then ⟨s, 5, []⟩
  else if off % 16 ≠ 0 ∨ holdBytes < off + 16 then ⟨s, 6, []⟩
  else ⟨s.holdWrite 2 off (fieldAt sl 12 16), 1, []⟩

/-- RBOOT (R343): the image length, and a FW_CMD value. -/
def State.slotRboot (s : State) (sl : List Byte) : SlotDone :=
  if ¬(s.fw.recOwner = none ∨ s.fw.recOwner = some 2) then ⟨s, 5, []⟩
  else
    let cmd := (s.mergeFwCmd (byteAt sl 8)).1
    let s := s.setObj 0x9003 2 (min 33554432 (beNat (fieldAt sl 4 4)))
    ⟨if cmd = 0 then s else s.fwStart cmd, 1, []⟩

/-- A slot that names this device (R308 to R310, R343). -/
def State.slotRun (s : State) (version i done : Nat) (sl : List Byte) : SlotDone :=
  let cmd := byteAt sl 0
  let rec_ := s.fw.inRecovery && version == 2
  if ¬(cmd = 1 ∨ cmd = 2 ∨ (rec_ ∧ (cmd = 0x10 ∨ cmd = 0x11))) then ⟨s, 0, []⟩
  else if beNat (fieldAt sl 10 2) ≠ reqCrc sl then ⟨s, 7, []⟩
  else if cmd = 1 then s.slotRead sl
  else if cmd = 2 then s.slotWrite i (if rec_ then 0 else done) sl
  else if cmd = 0x10 then s.slotRdata sl
  else s.slotRboot sl

/-- A slot as it leaves the binder (R308 to R310): DATA of a READ, STATUS the greater of the two, LAST_HOP, and REPLY_CRC. -/
def slotOut (hops : Nat) (sl : List Byte) (code : Nat) (data : List Byte) : List Byte :=
  let sl := putAt sl 12 data
  let sl := putAt sl 28 [BitVec.ofNat 8 (max (byteAt sl 28) code)]
  let sl := if code = 1 ∨ code = 2 then putAt sl 29 [BitVec.ofNat 8 hops] else sl
  putAt sl 30 (be2 (crc16 (fieldAt sl 12 18)))

/-- The slots of a frame, in order: state, writes done so far, and bytes that leave. -/
def State.runSlots (s : State) (version hops : Nat) (p : List Byte) (n : Nat) : State × List Byte :=
  let r := (List.range n).foldl (fun (a : State × Nat × List Byte) i =>
    let sl := fieldAt p (16 + 32 * i) 32
    if a.1.slotMine hops sl then
      let d := a.1.slotRun version i a.2.1 sl
      (d.s, if byteAt sl 0 = 2 ∧ (d.code = 1 ∨ d.code = 2) then a.2.1 + 1 else a.2.1, a.2.2 ++ slotOut hops sl d.code d.data)
    else (a.1, a.2.1, a.2.2 ++ slotOut hops sl 0 [])) (s, 0, [])
  (r.1, r.2.2)

/-! ### Ports (R305, R306, R312) -/

/-- A frame leaves: at F-out, unless that port is down (R362), or turned round at F-in with RETURNING set by the device that turns it (R305,
R307). -/
def State.forward (s : State) (fr : Frame) (mark : Bool) : State :=
  if s.field.turned then
    let p := if mark then putAt fr.payload 1 [(fr.payload.getD 1 0) ||| 1#8] else fr.payload
    { s with field := { s.field with returned := some { fr with payload := p } } }
  else if s.field.outDown then s
  else { s with field := { s.field with forwarded := some fr } }

/-- Counts a bad frame (R312). -/
def State.badFrame (s : State) : State := { s with field := { s.field with badFrames := sat32 s.field.badFrames 1 } }

/-- Whether a frame comes less than 60 µs after the last one executed; not asked in recovery (R306). -/
def State.tooEarly (s : State) : Bool :=
  !s.fw.inRecovery && match s.field.lastExec with
    | some t => decide (s.now < t + 60)
    | none => false

/-- The binder executes a frame (R306, R309, R312). A frame whose FCS fails at its end keeps its writes, is counted, and leaves
with its FCS inverted. -/
def State.runFrame (s : State) (fr : Frame) : State :=
  let p := fr.payload
  let hops := byteAt p 6
  let r := s.runSlots (byteAt p 0) hops p (beNat (fieldAt p 4 2))
  let out : Frame := { fr with payload := putAt (p.take 16) 6 [BitVec.ofNat 8 (hops + 1)] ++ r.2 }
  let s := r.1
  let f := s.field
  let s := { s with field := { f with
    lastExec := some s.now, lastCycle := beNat (fieldAt p 2 2), lastGood := if fr.fcsOk then s.now else f.lastGood, lost := f.lost && !fr.fcsOk } }
  (if fr.fcsOk then s else s.badFrame).forward out true

/-- FIELD_FRAME (R305, R306, R312, R352): a frame arrives at F-in. Before its release step, and before the firmware or the ROM
serves it, the binder executes nothing. -/
def execFieldFrame (fr : Frame) (s : State) : Out :=
  .next (
    if s.field.down ∨ s.power.tripped ∨ (!s.releasedTo 2 ∧ !keepsField s.boot.source) then s
    else if !s.releasedTo 2 ∨ !s.dictUp then s.forward fr false
    else if s.tooEarly then ({ s with field := { s.field with earlyFrames := sat32 s.field.earlyFrames 1 } }).forward fr false
    else if s.frameOk fr then s.runFrame fr
    else s.badFrame.forward fr false)

/-- FIELD_RETURN_FRAME (R305): bytes that arrive at F-out leave at F-in unchanged. -/
def execFieldReturnFrame (fr : Frame) (s : State) : Out :=
  .next (
    if s.field.down ∨ s.field.outDown ∨ s.power.tripped ∨ s.field.turned ∨ (!s.releasedTo 2 ∧ !keepsField s.boot.source) then s
    else { s with field := { s.field with returned := some fr } })

/-- FIELD_TURN_ROUND (R305): F-out has had no link for 10 ms. -/
def execFieldTurnRound (s : State) : Out := .next { s with field := { s.field with outLink := false, turned := true } }

/-- FIELD_OUT_LINK_UP (R305); a port whose generator has lost lock stays down until a reset (R362). -/
def execFieldOutLinkUp (s : State) : Out :=
  .next (if s.field.outDown then s else { s with field := { s.field with outLink := true, turned := false } })

/-- The FIELD_LOST event (R295, R312). -/
def State.fieldGone (s : State) : State := ({ s with field := { s.field with lost := true } }).devEv 0x13 0xFF 0 0 0

/-- FIELD_LOST (R312): no acceptable frame for FIELD_TIMEOUT. -/
def execFieldLost (s : State) : Out :=
  .next (if s.releasedTo 2 ∧ !s.field.lost ∧ s.field.lastGood + s.obj 0x7040 3 * 1000 ≤ s.now then s.fieldGone else s)

end Sys2Proof.Machine
end

