-- ==== Sys2Proof/Machine/Clocks.lean ====
section
/-! DEFINITION. Generators that lose lock (R190, R264, R295, R362). -/

namespace Sys2Proof.Machine

open Sys2Proof

/-- A fatal error for a lost clock reaches the management processor, which fences its scope (R264): R267 gives it no source, so
its source is free (log 2). -/
def State.clockFatal (s : State) (unit part : Nat) (sc : Scope) : State :=
  let f := s.fresh
  f.2.takeError { source := 1 + f.1.toNat % 16, cls := 3, unit := unit, part := part, addr := 0, syndrome := 0, symbol := 0xFF, status := 0, taskId := 0 } sc

/-- CLOCK_LOCK_LOSS (R362): the cluster, die, link or port behind the generator is fenced or goes down; CLOCK_FAILS advances. How
LINK_DOWN names a control port is not stated (log 2). -/
def execClockLockLoss (d : Domain) (s : State) : Out :=
  .next (
    let s := s.clockFail
    match d with
    | .island c => s.clockFatal (unitName c 0x10) (s.clPart c) (.cluster c)
    | .channel c => s.clockFatal (pack [(2, c.val / 16), (6, 0), (8, 0x40 + c.val % 16), (8, 0)]) 0xFF (.die (Fin.ofNat 4 (c.val / 16)))
    | .dieLinkEnd l _ => if (s.link l.val).st = .down then s else s.linkDown l.val
    | .hubLinkHubEnd k => if (s.link (hubLink k.val)).st = .down then s else s.linkDown (hubLink k.val)
    | .hubLinkDieEnd k => s.clockFatal (linkUnit (hubLink k.val)) 0xFF (.die k)
    | .ctrlPort b =>
      let s := s.portReset b
      let f := s.fresh
      (f.2.setCport b { f.2.cport b with down := true }).devEv 0x12 0xFF 0 (f.1.toNat % 65536) 0
    | .storagePort k => s.storageDown k.val 8
    | .fieldPort out =>
      (if out then { s with field := { s.field with outDown := true, outLink := false } }
        else { s with field := { s.field with down := true } }).fieldGone)

end Sys2Proof.Machine
end

