-- ==== Sys2Proof/Machine/Scalar.lean ====
section
/-! DEFINITION. The scalar instructions of cores and steward cores (R68, R89, R122). -/

namespace Sys2Proof.Machine

open Sys2Proof

/-- A scalar result (R68): written to sd, usable by the next instruction. -/
def State.result (s : State) (w : At) (sd : Nat) (v : Word) : State := (s.setReg w sd v).next1 w

/-- A two-operand scalar instruction. -/
def State.alu (s : State) (w : At) (i : Instr) (sd sa : Nat) (b : Src) (f : Word → Word → Word) : State :=
  s.issue w i .both [regOk sd, regOk sa, srcOk b] fun s => s.result w sd (f (s.reg w sa) (s.src w b))

/-- The shift amount: the low 6 bits (R89). -/
def shamt (b : Word) : Nat := b.toNat % 64

/-- A branch: taken to its target with one cycle more (R68), or on to the next instruction. -/
def State.branch (s : State) (w : At) (taken : Bool) (target : Nat) : State :=
  if taken then s.advance w (some target) 2 else s.next1 w

/-- Whether a branch target is an instruction address. -/
def targetOk (t : Nat) : Bool := decide (t < 2 ^ 48)

/-- A comparing branch. -/
def State.cmpBranch (s : State) (w : At) (i : Instr) (sa sb target : Nat) (f : Int → Int → Bool) : State :=
  s.issue w i .both [regOk sa, regOk sb, targetOk target] fun s => s.branch w (f (s.reg w sa).toInt (s.reg w sb).toInt) target

/-- MOVI. -/
def execMovi (w : At) (sd : Nat) (imm : Int) (s : State) : Out :=
  .next (s.issue w (.movi w sd imm) .both [regOk sd, immOk imm] fun s => s.result w sd (imm64 imm))
/-- ADD. -/
def execAdd (w : At) (sd sa : Nat) (b : Src) (s : State) : Out := .next (s.alu w (.add w sd sa b) sd sa b fun x y => x + y)
/-- SUB. -/
def execSub (w : At) (sd sa : Nat) (b : Src) (s : State) : Out := .next (s.alu w (.sub w sd sa b) sd sa b fun x y => x - y)
/-- AND. -/
def execAnd (w : At) (sd sa : Nat) (b : Src) (s : State) : Out := .next (s.alu w (.and w sd sa b) sd sa b fun x y => x &&& y)
/-- OR. -/
def execOr (w : At) (sd sa : Nat) (b : Src) (s : State) : Out := .next (s.alu w (.or w sd sa b) sd sa b fun x y => x ||| y)
/-- XOR. -/
def execXor (w : At) (sd sa : Nat) (b : Src) (s : State) : Out := .next (s.alu w (.xor w sd sa b) sd sa b fun x y => x ^^^ y)
/-- SHL. -/
def execShl (w : At) (sd sa : Nat) (b : Src) (s : State) : Out :=
  .next (s.alu w (.shl w sd sa b) sd sa b fun x y => x <<< shamt y)
/-- SHR. -/
def execShr (w : At) (sd sa : Nat) (b : Src) (s : State) : Out :=
  .next (s.alu w (.shr w sd sa b) sd sa b fun x y => x >>> shamt y)
/-- SRA. -/
def execSra (w : At) (sd sa : Nat) (b : Src) (s : State) : Out :=
  .next (s.alu w (.sra w sd sa b) sd sa b fun x y => x.sshiftRight (shamt y))
/-- MUL. -/
def execMul (w : At) (sd sa sb : Nat) (s : State) : Out :=
  .next (s.issue w (.mul w sd sa sb) .both [regOk sd, regOk sa, regOk sb] fun s => s.result w sd (s.reg w sa * s.reg w sb))
/-- BEQ. -/
def execBeq (w : At) (sa sb target : Nat) (s : State) : Out :=
  .next (s.cmpBranch w (.beq w sa sb target) sa sb target fun x y => decide (x = y))
/-- BNE. -/
def execBne (w : At) (sa sb target : Nat) (s : State) : Out :=
  .next (s.cmpBranch w (.bne w sa sb target) sa sb target fun x y => decide (x ≠ y))
/-- BLT. -/
def execBlt (w : At) (sa sb target : Nat) (s : State) : Out :=
  .next (s.cmpBranch w (.blt w sa sb target) sa sb target fun x y => decide (x < y))
/-- BGE. -/
def execBge (w : At) (sa sb target : Nat) (s : State) : Out :=
  .next (s.cmpBranch w (.bge w sa sb target) sa sb target fun x y => decide (x ≥ y))
/-- JMP. -/
def execJmp (w : At) (target : Nat) (s : State) : Out :=
  .next (s.issue w (.jmp w target) .both [targetOk target] fun s => s.branch w true target)
/-- NOP. -/
def execNop (w : At) (s : State) : Out := .next (s.issue w (.nop w) .both [] fun s => s.next1 w)

end Sys2Proof.Machine
end

