-- ==== Sys2Proof/Machine/Dispatch.lean ====
section
/-! DEFINITION. The meaning of every command: one arm for each constructor of Instr. -/

namespace Sys2Proof.Machine

open Sys2Proof

def exec (i : Instr) (s : State) : Host.Outcome State Fault Refusal :=
  match i with
  | .movi w sd imm => Sys2Proof.Machine.execMovi w sd imm s
  | .add w sd sa b => Sys2Proof.Machine.execAdd w sd sa b s
  | .sub w sd sa b => Sys2Proof.Machine.execSub w sd sa b s
  | .and w sd sa b => Sys2Proof.Machine.execAnd w sd sa b s
  | .or w sd sa b => Sys2Proof.Machine.execOr w sd sa b s
  | .xor w sd sa b => Sys2Proof.Machine.execXor w sd sa b s
  | .shl w sd sa b => Sys2Proof.Machine.execShl w sd sa b s
  | .shr w sd sa b => Sys2Proof.Machine.execShr w sd sa b s
  | .sra w sd sa b => Sys2Proof.Machine.execSra w sd sa b s
  | .mul w sd sa sb => Sys2Proof.Machine.execMul w sd sa sb s
  | .beq w sa sb target => Sys2Proof.Machine.execBeq w sa sb target s
  | .bne w sa sb target => Sys2Proof.Machine.execBne w sa sb target s
  | .blt w sa sb target => Sys2Proof.Machine.execBlt w sa sb target s
  | .bge w sa sb target => Sys2Proof.Machine.execBge w sa sb target s
  | .jmp w target => Sys2Proof.Machine.execJmp w target s
  | .nop w => Sys2Proof.Machine.execNop w s
  | .config w fmtA fmtB => Sys2Proof.Machine.execConfig w fmtA fmtB s
  | .setmask w row col => Sys2Proof.Machine.execSetmask w row col s
  | .srseed w sa => Sys2Proof.Machine.execSrseed w sa s
  | .tprod w acc srcA srcB sclA sclB n ad tb drn => Sys2Proof.Machine.execTprod w acc srcA srcB sclA sclB n ad tb drn s
  | .tdrain w acc drn => Sys2Proof.Machine.execTdrain w acc drn s
  | .tew w op srcX srcY vec neg drn => Sys2Proof.Machine.execTew w op srcX srcY vec neg drn s
  | .arrayOutputVisible cl c => Sys2Proof.Machine.execArrayOutputVisible cl c s
  | .tload w m => Sys2Proof.Machine.execTload w m s
  | .tstore w m => Sys2Proof.Machine.execTstore w m s
  | .moveLineResponse cl c slot line => Sys2Proof.Machine.execMoveLineResponse cl c slot line s
  | .moveInterrupted cl c slot => Sys2Proof.Machine.execMoveInterrupted cl c slot s
  | .moveBusError cl c slot addr status => Sys2Proof.Machine.execMoveBusError cl c slot addr status s
  | .moveComplete cl c slot => Sys2Proof.Machine.execMoveComplete cl c slot s
  | .rpost w n sa region => Sys2Proof.Machine.execRpost w n sa region s
  | .postSlotWritten cl who => Sys2Proof.Machine.execPostSlotWritten cl who s
  | .cinc w ctr amt whenDone => Sys2Proof.Machine.execCinc w ctr amt whenDone s
  | .whenDoneIncrement cl c => Sys2Proof.Machine.execWhenDoneIncrement cl c s
  | .cexp w ctr amt => Sys2Proof.Machine.execCexp w ctr amt s
  | .cwait w ctr => Sys2Proof.Machine.execCwait w ctr s
  | .cread w sd ctr expected => Sys2Proof.Machine.execCread w sd ctr expected s
  | .creadResult cl who => Sys2Proof.Machine.execCreadResult cl who s
  | .cwstat w sd => Sys2Proof.Machine.execCwstat w sd s
  | .fence w => Sys2Proof.Machine.execFence w s
  | .endTask w => Sys2Proof.Machine.execEndTask w s
  | .endBalanceCheck cl c => Sys2Proof.Machine.execEndBalanceCheck cl c s
  | .instructionFetchFill w => Sys2Proof.Machine.execInstructionFetchFill w s
  | .tpost w n sa => Sys2Proof.Machine.execTpost w n sa s
  | .tretry w n => Sys2Proof.Machine.execTretry w n s
  | .tskip w n => Sys2Proof.Machine.execTskip w n s
  | .tabort w coreset => Sys2Proof.Machine.execTabort w coreset s
  | .scommit w slot => Sys2Proof.Machine.execScommit w slot s
  | .sdiscard w slot => Sys2Proof.Machine.execSdiscard w slot s
  | .icinv w => Sys2Proof.Machine.execIcinv w s
  | .evwait w => Sys2Proof.Machine.execEvwait w s
  | .evread w sd => Sys2Proof.Machine.execEvread w sd s
  | .evarg w sd k => Sys2Proof.Machine.execEvarg w sd k s
  | .cclean w sa sb => Sys2Proof.Machine.execCclean w sa sb s
  | .ccflush w sa sb => Sys2Proof.Machine.execCcflush w sa sb s
  | .ccdiscard w sa sb => Sys2Proof.Machine.execCcdiscard w sa sb s
  | .ccmark w tag hint => Sys2Proof.Machine.execCcmark w tag hint s
  | .stewardRpost w n sa => Sys2Proof.Machine.execStewardRpost w n sa s
  | .rset w n reg sa => Sys2Proof.Machine.execRset w n reg sa s
  | .rget w sd n reg => Sys2Proof.Machine.execRget w sd n reg s
  | .rstart w n => Sys2Proof.Machine.execRstart w n s
  | .rstop w n => Sys2Proof.Machine.execRstop w n s
  | .rskip w n => Sys2Proof.Machine.execRskip w n s
  | .rclear w n => Sys2Proof.Machine.execRclear w n s
  | .ringCmdStart cl n => Sys2Proof.Machine.execRingCmdStart cl n s
  | .ringCmdStop cl n => Sys2Proof.Machine.execRingCmdStop cl n s
  | .ringCmdSkip cl n => Sys2Proof.Machine.execRingCmdSkip cl n s
  | .ringCmdClear cl n => Sys2Proof.Machine.execRingCmdClear cl n s
  | .tailWrite cl n v => Sys2Proof.Machine.execTailWrite cl n v s
  | .registerWrite t v => Sys2Proof.Machine.execRegisterWrite t v s
  | .ringSlotRead cl n => Sys2Proof.Machine.execRingSlotRead cl n s
  | .ringDescriptorStart cl n => Sys2Proof.Machine.execRingDescriptorStart cl n s
  | .ringLineResponse cl n => Sys2Proof.Machine.execRingLineResponse cl n s
  | .ringWriteResponse cl n => Sys2Proof.Machine.execRingWriteResponse cl n s
  | .ringRetry cl n => Sys2Proof.Machine.execRingRetry cl n s
  | .ringBusError cl n addr status => Sys2Proof.Machine.execRingBusError cl n addr status s
  | .ringDescriptorComplete cl n => Sys2Proof.Machine.execRingDescriptorComplete cl n s
  | .taskStart cl n => Sys2Proof.Machine.execTaskStart cl n s
  | .specCommit cl k => Sys2Proof.Machine.execSpecCommit cl k s
  | .specCommitComplete cl k => Sys2Proof.Machine.execSpecCommitComplete cl k s
  | .specDiscard cl k => Sys2Proof.Machine.execSpecDiscard cl k s
  | .specDiscardComplete cl k => Sys2Proof.Machine.execSpecDiscardComplete cl k s
  | .incrementApplied k crcFails => Sys2Proof.Machine.execIncrementApplied k crcFails s
  | .incrementAck k => Sys2Proof.Machine.execIncrementAck k s
  | .managementRaise ctr v => Sys2Proof.Machine.execManagementRaise ctr v s
  | .counterSettle cl c => Sys2Proof.Machine.execCounterSettle cl c s
  | .waitExamination cl => Sys2Proof.Machine.execWaitExamination cl s
  | .waitTimeout p => Sys2Proof.Machine.execWaitTimeout p s
  | .dumpComplete p => Sys2Proof.Machine.execDumpComplete p s
  | .microbatchDrop p d => Sys2Proof.Machine.execMicrobatchDrop p d s
  | .dropRingsHalted p d => Sys2Proof.Machine.execDropRingsHalted p d s
  | .ledgerRequestPost cl n => Sys2Proof.Machine.execLedgerRequestPost cl n s
  | .ledgerRequestWithdraw cl n => Sys2Proof.Machine.execLedgerRequestWithdraw cl n s
  | .ledgerCycle a => Sys2Proof.Machine.execLedgerCycle a s
  | .creditRefill => Sys2Proof.Machine.execCreditRefill s
  | .ledgerGrant cl n => Sys2Proof.Machine.execLedgerGrant cl n s
  | .creditStarved a => Sys2Proof.Machine.execCreditStarved a s
  | .guardSample hub die0 die1 die2 die3 => Sys2Proof.Machine.execGuardSample hub die0 die1 die2 die3 s
  | .guardStart => Sys2Proof.Machine.execGuardStart s
  | .guardStepUp => Sys2Proof.Machine.execGuardStepUp s
  | .thermalSample r temp => Sys2Proof.Machine.execThermalSample r temp s
  | .thermalStepRecover cl => Sys2Proof.Machine.execThermalStepRecover cl s
  | .clockStepChange cl => Sys2Proof.Machine.execClockStepChange cl s
  | .thermalTrip r temp => Sys2Proof.Machine.execThermalTrip r temp s
  | .selftestDue cl c => Sys2Proof.Machine.execSelftestDue cl c s
  | .selftestStart cl c => Sys2Proof.Machine.execSelftestStart cl c s
  | .selftestEnd cl c fails more => Sys2Proof.Machine.execSelftestEnd cl c fails more s
  | .ifrFuseProgrammed cl c readbackOk => Sys2Proof.Machine.execIfrFuseProgrammed cl c readbackOk s
  | .coreRetire cl c => Sys2Proof.Machine.execCoreRetire cl c s
  | .coppiceRemap cl c => Sys2Proof.Machine.execCoppiceRemap cl c s
  | .remapReestablish d => Sys2Proof.Machine.execRemapReestablish d s
  | .spareSelftestDue cl => Sys2Proof.Machine.execSpareSelftestDue cl s
  | .clusterPowerGate cl => Sys2Proof.Machine.execClusterPowerGate cl s
  | .flitArrives dst fr kind b => Sys2Proof.Machine.execFlitArrives dst fr kind b s
  | .linkCrcFail l => Sys2Proof.Machine.execLinkCrcFail l s
  | .linkReplayLimit l => Sys2Proof.Machine.execLinkReplayLimit l s
  | .laneFail l => Sys2Proof.Machine.execLaneFail l s
  | .linkRetrainComplete l ok => Sys2Proof.Machine.execLinkRetrainComplete l ok s
  | .cacheRequest cl r => Sys2Proof.Machine.execCacheRequest cl r s
  | .permissionCacheFill cl page => Sys2Proof.Machine.execPermissionCacheFill cl page s
  | .cacheFill cl line => Sys2Proof.Machine.execCacheFill cl line s
  | .dramWriteAccept => Sys2Proof.Machine.execDramWriteAccept s
  | .writeAcceptResponse => Sys2Proof.Machine.execWriteAcceptResponse s
  | .dramRead addr => Sys2Proof.Machine.execDramRead addr s
  | .streamDetectorTimeout cl k => Sys2Proof.Machine.execStreamDetectorTimeout cl k s
  | .permissionInvalidate cl page => Sys2Proof.Machine.execPermissionInvalidate cl page s
  | .scrubLine ch => Sys2Proof.Machine.execScrubLine ch s
  | .scrubCorrectionWrite ch => Sys2Proof.Machine.execScrubCorrectionWrite ch s
  | .errorReported x pl => Sys2Proof.Machine.execErrorReported x pl s
  | .errorHandlerComplete => Sys2Proof.Machine.execErrorHandlerComplete s
  | .urEscalation cl n => Sys2Proof.Machine.execUrEscalation cl n s
  | .ceStorm unit => Sys2Proof.Machine.execCeStorm unit s
  | .stormWindowEnd => Sys2Proof.Machine.execStormWindowEnd s
  | .twReadRaw => Sys2Proof.Machine.execTwReadRaw s
  | .twWriteData => Sys2Proof.Machine.execTwWriteData s
  | .twWriteCheck => Sys2Proof.Machine.execTwWriteCheck s
  | .twWriteBoth => Sys2Proof.Machine.execTwWriteBoth s
  | .mirrorStart p => Sys2Proof.Machine.execMirrorStart p s
  | .mirrorComplete p d => Sys2Proof.Machine.execMirrorComplete p d s
  | .flashCopyComplete p d => Sys2Proof.Machine.execFlashCopyComplete p d s
  | .flashCopyFail p d => Sys2Proof.Machine.execFlashCopyFail p d s
  | .tensorWatchComplete p => Sys2Proof.Machine.execTensorWatchComplete p s
  | .restoreComplete p d => Sys2Proof.Machine.execRestoreComplete p d s
  | .rollback p => Sys2Proof.Machine.execRollback p s
  | .rollbackComplete p => Sys2Proof.Machine.execRollbackComplete p s
  | .ckptHold p v => Sys2Proof.Machine.execCkptHold p v s
  | .ckptHoldExpire p => Sys2Proof.Machine.execCkptHoldExpire p s
  | .coreMapAck p v => Sys2Proof.Machine.execCoreMapAck p v s
  | .semaRead f sec r => Sys2Proof.Machine.execSemaRead f sec r s
  | .semaRelease f sec size token => Sys2Proof.Machine.execSemaRelease f sec size token s
  | .semaHoldExpire sec => Sys2Proof.Machine.execSemaHoldExpire sec s
  | .objRead f => Sys2Proof.Machine.execObjRead f s
  | .objWrite f hubCycle => Sys2Proof.Machine.execObjWrite f hubCycle s
  | .objRequestComplete f => Sys2Proof.Machine.execObjRequestComplete f s
  | .dbWrite f n v => Sys2Proof.Machine.execDbWrite f n v s
  | .doorbellEventQueued f => Sys2Proof.Machine.execDoorbellEventQueued f s
  | .evqHeadWrite f v => Sys2Proof.Machine.execEvqHeadWrite f v s
  | .hostEventRecordWrite f => Sys2Proof.Machine.execHostEventRecordWrite f s
  | .bar4Read f off len => Sys2Proof.Machine.execBar4Read f off len s
  | .bar4Write f off bytes => Sys2Proof.Machine.execBar4Write f off bytes s
  | .functionLevelReset f => Sys2Proof.Machine.execFunctionLevelReset f s
  | .hotReset b => Sys2Proof.Machine.execHotReset b s
  | .perst b => Sys2Proof.Machine.execPerst b s
  | .refclkLoss b => Sys2Proof.Machine.execRefclkLoss b s
  | .storagePortBringup k result => Sys2Proof.Machine.execStoragePortBringup k result s
  | .nvmeCompletionPoll k cs => Sys2Proof.Machine.execNvmeCompletionPoll k cs s
  | .nvmeCommandTimeout k => Sys2Proof.Machine.execNvmeCommandTimeout k s
  | .smartPoll k warning => Sys2Proof.Machine.execSmartPoll k warning s
  | .ssdInboundRequest k addr len write => Sys2Proof.Machine.execSsdInboundRequest k addr len write s
  | .storagePortDown k cause => Sys2Proof.Machine.execStoragePortDown k cause s
  | .fieldFrame fr => Sys2Proof.Machine.execFieldFrame fr s
  | .fieldReturnFrame fr => Sys2Proof.Machine.execFieldReturnFrame fr s
  | .fieldTurnRound => Sys2Proof.Machine.execFieldTurnRound s
  | .fieldLost => Sys2Proof.Machine.execFieldLost s
  | .dictionaryCommit => Sys2Proof.Machine.execDictionaryCommit s
  | .runStart p => Sys2Proof.Machine.execRunStart p s
  | .runStop p => Sys2Proof.Machine.execRunStop p s
  | .runPreempt p => Sys2Proof.Machine.execRunPreempt p s
  | .partitionStop p => Sys2Proof.Machine.execPartitionStop p s
  | .permWrite p addr count entry => Sys2Proof.Machine.execPermWrite p addr count entry s
  | .granuleOwner d q owner => Sys2Proof.Machine.execGranuleOwner d q owner s
  | .selftestReq p mask => Sys2Proof.Machine.execSelftestReq p mask s
  | .supFence => Sys2Proof.Machine.execSupFence s
  | .supPartReset mask => Sys2Proof.Machine.execSupPartReset mask s
  | .supDeviceReset v => Sys2Proof.Machine.execSupDeviceReset v s
  | .ledgerCountsClear v => Sys2Proof.Machine.execLedgerCountsClear v s
  | .breakpointWrite p v => Sys2Proof.Machine.execBreakpointWrite p v s
  | .breakpointHalt cl ia => Sys2Proof.Machine.execBreakpointHalt cl ia s
  | .breakpointClusterHalted cl => Sys2Proof.Machine.execBreakpointClusterHalted cl s
  | .breakpointResume cl => Sys2Proof.Machine.execBreakpointResume cl s
  | .pcSample cl c stall => Sys2Proof.Machine.execPcSample cl c stall s
  | .traceLineAccepted cl => Sys2Proof.Machine.execTraceLineAccepted cl s
  | .quoteNonce f v => Sys2Proof.Machine.execQuoteNonce f v s
  | .quoteReady f => Sys2Proof.Machine.execQuoteReady f s
  | .pageMeasured p => Sys2Proof.Machine.execPageMeasured p s
  | .fwVerify => Sys2Proof.Machine.execFwVerify s
  | .fwVerifyAndWrite => Sys2Proof.Machine.execFwVerifyAndWrite s
  | .fwCopyComplete => Sys2Proof.Machine.execFwCopyComplete s
  | .fwVerifyComplete => Sys2Proof.Machine.execFwVerifyComplete s
  | .fwFlashProgramComplete ok => Sys2Proof.Machine.execFwFlashProgramComplete ok s
  | .fwReadbackComplete => Sys2Proof.Machine.execFwReadbackComplete s
  | .svnFuseRaise => Sys2Proof.Machine.execSvnFuseRaise s
  | .unlockToken v => Sys2Proof.Machine.execUnlockToken v s
  | .unlockEraseComplete => Sys2Proof.Machine.execUnlockEraseComplete s
  | .openingFuseBlown readbackOk => Sys2Proof.Machine.execOpeningFuseBlown readbackOk s
  | .bootImageLoaded => Sys2Proof.Machine.execBootImageLoaded s
  | .firmwareUp => Sys2Proof.Machine.execFirmwareUp s
  | .powerOnReset vddIoLow => Sys2Proof.Machine.execPowerOnReset vddIoLow s
  | .brownOut => Sys2Proof.Machine.execBrownOut s
  | .pinReset => Sys2Proof.Machine.execPinReset s
  | .resetHoldoffEnd => Sys2Proof.Machine.execResetHoldoffEnd s
  | .pwrgdRise => Sys2Proof.Machine.execPwrgdRise s
  | .watchdogExpire => Sys2Proof.Machine.execWatchdogExpire s
  | .clockFailure => Sys2Proof.Machine.execClockFailure s
  | .clockLockLoss d => Sys2Proof.Machine.execClockLockLoss d s
  | .lockUp => Sys2Proof.Machine.execLockUp s
  | .holdEnd => Sys2Proof.Machine.execHoldEnd s
  | .optionLoadingComplete st => Sys2Proof.Machine.execOptionLoadingComplete st s
  | .domainRelease => Sys2Proof.Machine.execDomainRelease s
  | .dramCalibrationDone d ok => Sys2Proof.Machine.execDramCalibrationDone d ok s
  | .calibrationTimeout => Sys2Proof.Machine.execCalibrationTimeout s
  | .trst => Sys2Proof.Machine.execTrst s
  | .bypass => Sys2Proof.Machine.execBypass s
  | .idcode => Sys2Proof.Machine.execIdcode s
  | .samplePreload shiftIn => Sys2Proof.Machine.execSamplePreload shiftIn s
  | .extest => Sys2Proof.Machine.execExtest s
  | .clamp => Sys2Proof.Machine.execClamp s
  | .highz => Sys2Proof.Machine.execHighz s
  | .dbgAccess => Sys2Proof.Machine.execDbgAccess s
  | .dbgReset => Sys2Proof.Machine.execDbgReset s
  | .monitorSample m => Sys2Proof.Machine.execMonitorSample m s
  | .refclkReturn b => Sys2Proof.Machine.execRefclkReturn b s
  | .controlLinkUp b gen width mode => Sys2Proof.Machine.execControlLinkUp b gen width mode s
  | .fieldOutLinkUp => Sys2Proof.Machine.execFieldOutLinkUp s

end Sys2Proof.Machine
end

