-- ==== Sys2Proof/Machine/Idle.lean ====
section
/-! DEFINITION. What the block does when no command waits. -/

namespace Sys2Proof.Machine

open Sys2Proof

/-- One microsecond passes on the time base of R153 (DESIGN CHOICE, log 1). -/
def idle (s : State) : State := { s with now := s.now + 1 }

end Sys2Proof.Machine
end

