-- ==== Sys2Proof/WellFormed.lean ====
section
/-! DEFINITION. Which terms of Instr are commands that can occur: every operand lies in the range of the field or unit that the
spec gives it. An operand that lies in its range and is still illegal (R69, R73, R78) is well formed: issue answers it with the
fault of R69. -/

namespace Sys2Proof

/-- A device address: 48 bits (R203). -/
def addrOk (a : Nat) : Bool := decide (a < 2 ^ 48)
/-- A scalar register s0 to s31 (R68). -/
def regNum (r : Nat) : Bool := decide (r < 32)
/-- An address of the tile store: 18 bits (R70). -/
def tileOk (a : Nat) : Bool := decide (a < 2 ^ 18)

/-- A source operand (R89). -/
def Src.wf : Src → Bool
  | .reg r => regNum r
  | .imm v => immOk v

/-- A counter operand: k below 48, h below 64 (R141, R142, R146). -/
def CRef.wf : CRef → Bool
  | .own k => decide (k < 48)
  | .hub h => decide (h < 64)
  | .full r => regNum r

/-- A drain specification (R38). -/
def Drain.wf (d : Drain) : Bool :=
  tileOk d.svec && tileOk d.bvec && tileOk d.rvec && tileOk d.dst && tileOk d.sdst && decide (d.part < 4)

/-- The operands of a move (R78). -/
def MoveArgs.wf (m : MoveArgs) : Bool := tileOk m.region && regNum m.addr && regNum m.stride && regNum m.scl && decide (m.ew ≤ 32)

/-- The target of a register write (R203, R289). -/
def RegTarget.wf : RegTarget → Bool
  | .ctl _ a => addrOk a
  | .bar0 _ off size => decide (off + size ≤ 2 ^ 16)
  | .bar2 _ off size => decide (off + size ≤ 2 ^ 24)

/-- A request to a cluster cache (R210). -/
def CReq.wf (r : CReq) : Bool := addrOk r.addr && decide (r.tag < 4096)

/-- An error as it is reported (R267). -/
def ErrIn.wf (e : ErrIn) : Bool :=
  decide (e.source < 256) && decide (e.cls < 4) && decide (e.unit < 2 ^ 24) && decide (e.part < 256) && addrOk e.addr && decide (e.syndrome < 65536)
    && decide (e.symbol < 256) && decide (e.status < 256) && decide (e.taskId < 65536)

/-- A frame on the wire (R307). -/
def Frame.wf (f : Frame) : Bool := decide (f.etherType < 65536) && decide (f.payload.length ≤ 1500)

/-- Three samples of each strap, eight codes (R358, R360). -/
def StrapSamples.wf (t : StrapSamples) : Bool :=
  t.bootSrc.length == 3 && t.clkMode.length == 3 && t.strapSelN.length == 3 && t.cfgRes.length == 8

/-- A physical cell of an array: 33 rows and columns (R43). -/
def BadCell.wf (b : BadCell) : Bool := decide (b.row ≤ 32) && decide (b.col ≤ 32)

/-- A flit (R185): at most eight data words. -/
def Flit.wf (f : Flit) : Bool := decide (f.part < 256) && decide (f.line < 2 ^ 41) && decide (f.words.length ≤ 8)

/-- Three-register and two-register forms. -/
def regs3 (a b c : Nat) : Bool := regNum a && regNum b && regNum c

/-- Whether a command can occur. -/
def Instr.wf : Instr → Bool
  | .movi w sd imm => addrOk w.ia && regNum sd && immOk imm
  | .add w sd sa b | .sub w sd sa b | .and w sd sa b | .or w sd sa b | .xor w sd sa b | .shl w sd sa b | .shr w sd sa b | .sra w sd sa b =>
    addrOk w.ia && regNum sd && regNum sa && b.wf
  | .mul w sd sa sb => addrOk w.ia && regs3 sd sa sb
  | .beq w sa sb t | .bne w sa sb t | .blt w sa sb t | .bge w sa sb t => addrOk w.ia && regNum sa && regNum sb && addrOk t
  | .jmp w t => addrOk w.ia && addrOk t
  | .nop w | .fence w | .endTask w | .instructionFetchFill w | .icinv w | .evwait w => addrOk w.ia
  | .config w _ _ | .setmask w _ _ => addrOk w.ia
  | .srseed w sa | .evread w sa | .cwstat w sa => addrOk w.ia && regNum sa
  | .tprod w acc a b ca cb n _ _ d =>
    addrOk w.ia && decide (acc < 4) && tileOk a && tileOk b && tileOk ca && tileOk cb && decide (n < 65536) && (d.map Drain.wf).getD true
  | .tdrain w acc d => addrOk w.ia && decide (acc < 4) && d.wf
  | .tew w _ x y v _ d => addrOk w.ia && tileOk x && tileOk y && tileOk v && d.wf
  | .tload w m | .tstore w m => addrOk w.ia && m.wf
  | .moveLineResponse _ _ slot line => decide (slot < 4) && decide (line < 2 ^ 41)
  | .moveInterrupted _ _ slot | .moveComplete _ _ slot => decide (slot < 4)
  | .moveBusError _ _ slot a st => decide (slot < 4) && addrOk a && decide (st < 256)
  | .rpost w n sa region => addrOk w.ia && decide (n < 16) && regNum sa && (region.map tileOk).getD true
  | .cinc w c b _ => addrOk w.ia && c.wf && b.wf
  | .cexp w c b => addrOk w.ia && c.wf && b.wf
  | .cwait w c => addrOk w.ia && c.wf
  | .cread w sd c _ => addrOk w.ia && regNum sd && c.wf
  | .tpost w n sa | .stewardRpost w n sa => addrOk w.ia && decide (n < 16) && regNum sa
  | .tretry w n | .tskip w n | .rstart w n | .rstop w n | .rskip w n | .rclear w n => addrOk w.ia && decide (n < 16)
  | .tabort w m => addrOk w.ia && decide (m < 4096)
  | .scommit w k | .sdiscard w k => addrOk w.ia && decide (k < 4)
  | .evarg w sd k => addrOk w.ia && regNum sd && decide (k < 8)
  | .cclean w a b | .ccflush w a b | .ccdiscard w a b => addrOk w.ia && regNum a && regNum b
  | .ccmark w tag _ => addrOk w.ia && decide (tag < 4096)
  | .rset w n _ sa | .rget w sa n _ => addrOk w.ia && decide (n < 16) && regNum sa
  | .registerWrite t _ => t.wf
  | .ringBusError _ _ a st => addrOk a && decide (st < 256)
  | .managementRaise c _ => decide (c < 2 ^ 24)
  | .selftestEnd _ _ fs more => decide (fs.length ≤ 8) && fs.all BadCell.wf && (!more || decide (fs.length = 8))
  | .flitArrives dst fr kind b => (Flit.of dst fr kind b).wf
  | .cacheRequest _ r => r.wf
  | .permissionCacheFill _ k | .permissionInvalidate _ k => decide (k < 2 ^ 27)
  | .cacheFill _ l => decide (l < 2 ^ 41)
  | .dramRead a => addrOk a
  | .errorReported x pl => (ErrIn.of x pl).wf
  | .urEscalation _ n => decide (n < 256)
  | .ceStorm u => decide (u < 2 ^ 24)
  | .permWrite _ a n e => decide (a < 2 ^ 64) && decide (n < 2 ^ 32) && decide (e < 16)
  | .granuleOwner _ _ o => decide (o < 256)
  | .selftestReq _ m => decide (m < 2 ^ 3072)
  | .semaRelease _ _ n _ => decide (n ≤ 8)
  | .bar4Read _ off n => decide (off + n ≤ 2 ^ 36)
  | .bar4Write _ off bs => decide (off + bs.length ≤ 2 ^ 36)
  | .controlLinkUp _ g n m => decide (1 ≤ g) && decide (g ≤ 6) && (n == 1 || n == 2 || n == 4) && (m.flit || decide (g ≠ 6))
  | .storagePortBringup _ r => decide (r.version < 65536)
  | .dropRingsHalted _ x => decide (x.unit < 65536) && x.ctrs.all fun c => decide (c < 2 ^ 24)
  | .semaRead _ _ r => decide (r.off < 8) && decide (r.size ≤ 8)
  | .ssdInboundRequest _ a n _ => decide (a + n ≤ 2 ^ 64)
  | .storagePortDown _ c => decide (8 ≤ c) && decide (c ≤ 10)
  | .fieldFrame f | .fieldReturnFrame f => f.wf
  | .breakpointWrite _ v => decide (v < 2 ^ 32768)
  | .breakpointHalt _ a => addrOk a
  | .pcSample _ _ k => decide (k < 16)
  | .unlockToken v => decide (v < 2 ^ 16384)
  | .ckptHold _ v => decide (v < 256)
  | .ledgerCountsClear v => decide (v < 256)
  | .guardSample h a b c d => decide (h < 65536) && decide (a < 65536) && decide (b < 65536) && decide (c < 65536) && decide (d < 65536)
  | .optionLoadingComplete t => t.wf
  | .arrayOutputVisible .. | .postSlotWritten .. | .whenDoneIncrement .. | .creadResult .. | .endBalanceCheck .. | .ringCmdStart .. | .ringCmdStop ..
  | .ringCmdSkip .. | .ringCmdClear .. | .tailWrite .. | .ringSlotRead .. | .ringDescriptorStart .. | .ringLineResponse .. | .ringWriteResponse ..
  | .ringRetry .. | .ringDescriptorComplete .. | .taskStart .. | .specCommit .. | .specCommitComplete .. | .specDiscard .. | .specDiscardComplete ..
  | .incrementApplied .. | .incrementAck .. | .counterSettle .. | .waitExamination .. | .waitTimeout .. | .dumpComplete .. | .microbatchDrop ..
  | .ledgerRequestPost .. | .ledgerRequestWithdraw .. | .ledgerCycle .. | .creditRefill | .ledgerGrant .. | .creditStarved ..
  | .guardStart | .guardStepUp | .thermalSample .. | .thermalStepRecover .. | .clockStepChange .. | .thermalTrip .. | .selftestDue .. | .selftestStart ..
  | .ifrFuseProgrammed .. | .coreRetire .. | .coppiceRemap .. | .remapReestablish .. | .spareSelftestDue .. | .clusterPowerGate .. | .linkCrcFail ..
  | .linkReplayLimit .. | .laneFail .. | .linkRetrainComplete .. | .dramWriteAccept | .writeAcceptResponse | .streamDetectorTimeout .. | .scrubLine ..
  | .scrubCorrectionWrite .. | .errorHandlerComplete | .stormWindowEnd | .twReadRaw | .twWriteData | .twWriteCheck | .twWriteBoth | .mirrorStart ..
  | .mirrorComplete .. | .flashCopyComplete .. | .flashCopyFail .. | .tensorWatchComplete .. | .restoreComplete .. | .rollback .. | .rollbackComplete ..
  | .ckptHoldExpire .. | .coreMapAck .. | .semaHoldExpire .. | .objRead .. | .objWrite .. | .objRequestComplete .. | .dbWrite ..
  | .doorbellEventQueued .. | .evqHeadWrite .. | .hostEventRecordWrite .. | .functionLevelReset .. | .hotReset .. | .perst .. | .refclkLoss ..
  | .nvmeCompletionPoll .. | .nvmeCommandTimeout .. | .smartPoll .. | .fieldTurnRound | .fieldLost | .dictionaryCommit | .runStart .. | .runStop ..
  | .runPreempt .. | .partitionStop .. | .supFence | .supPartReset .. | .supDeviceReset .. | .breakpointClusterHalted .. | .breakpointResume ..
  | .traceLineAccepted .. | .quoteNonce .. | .quoteReady .. | .pageMeasured .. | .fwVerify | .fwVerifyAndWrite | .fwCopyComplete | .fwVerifyComplete
  | .fwFlashProgramComplete .. | .fwReadbackComplete | .svnFuseRaise | .unlockEraseComplete | .openingFuseBlown .. | .bootImageLoaded | .firmwareUp
  | .powerOnReset .. | .brownOut | .pinReset | .resetHoldoffEnd | .pwrgdRise | .watchdogExpire | .clockFailure | .clockLockLoss .. | .lockUp | .holdEnd
  | .domainRelease | .dramCalibrationDone .. | .calibrationTimeout | .trst | .bypass | .idcode | .samplePreload .. | .extest | .clamp | .highz
  | .dbgAccess | .dbgReset | .monitorSample .. | .refclkReturn .. | .fieldOutLinkUp => true

end Sys2Proof
end

