-- ==== Sys2Proof/Safety.lean ====
section
/-! DEFINITION. What counts as a safe state and a safe run, and the frames in whose terms the statements are made. -/

namespace Sys2Proof.Machine

open Sys2Proof

/-- What holds in every state that a step can lead to from one in which it holds: DRAM in its canonical form (R248), a log mirror
of at most 256 records (R335), and fuses within their number (R340, R350). -/
def State.Inv (s : State) : Prop :=
  s.dram.mem.wf = true ∧ s.mgmt.mirror.length ≤ 256 ∧ s.fw.fuses.openings ≤ 8 ∧ s.fw.fuses.svn ≤ 32

/-- A command that is done: exec answers a next state, and the next state is as said. -/
def Done (c : Instr) (s : State) (post : State → Prop) : Prop :=
  ∃ t, exec c s = .next t ∧ post t

/-- The command ERROR_REPORTED for an error. -/
def reported (e : ErrIn) : Instr := .errorReported ⟨e.source, e.cls, e.syndrome, e.symbol, e.status⟩ ⟨e.unit, e.part, e.addr, e.taskId⟩

/-- The command FLIT_ARRIVES for a flit. -/
def arrives (f : Flit) : Instr := .flitArrives f.dst ⟨f.part, f.src⟩ f.kind ⟨f.line, f.header, f.words⟩

/-- Nothing of the state but cores, steward cores and clusters differs. -/
def OnlyClusters (s t : State) : Prop :=
  t = { s with cores := t.cores, stewards := t.stewards, clusters := t.clusters }

/-- Two clusters that differ at most in their instruction cache. -/
def sameButIcache (a b : Cluster) : Prop := b = { a with icache := b.icache }

/-- What of a pending output stands from its issue on: its L, the instruction, and the regions that it marks (R29, R82). -/
def PendOut.key (o : PendOut) : Nat × Nat × BitVec 64 := (o.vis, o.ia, o.regions)

/-- Two cores that differ at most in what an issue always touches: the scalar registers, the place of the next
instruction, what is held, the cycle, and the instruction cache (R68, R127). -/
def sameButIssue (a b : Core) : Prop :=
  b = { a with regs := b.regs, npc := b.npc, hold := b.hold, lastIa := b.lastIa, cyc := b.cyc, icache := b.icache }

/-- Two steward cores that differ at most in what an issue always touches. -/
def sameButIssueSt (a b : Steward) : Prop :=
  b = { a with regs := b.regs, npc := b.npc, hold := b.hold, lastIa := b.lastIa, passBreak := b.passBreak }

/-- Of all units only the sequencer of an issue has moved, and of it only what an issue touches. -/
def OnlySequencer (w : At) (s t : State) : Prop :=
  OnlyClusters s t ∧
  (∀ cl c, (w.cl = cl ∧ w.who = .core c → sameButIssue (s.core cl c) (t.core cl c)) ∧
    (¬(w.cl = cl ∧ w.who = .core c) → t.core cl c = s.core cl c)) ∧
  (∀ cl, (w.cl = cl ∧ w.who = .steward → sameButIssueSt (s.stew cl) (t.stew cl)) ∧
    (¬(w.cl = cl ∧ w.who = .steward) → t.stew cl = s.stew cl)) ∧
  (∀ cl, sameButIcache (s.clu cl) (t.clu cl))

/-- The registers after one that was written: a write to s0 is discarded, and s0 reads as zero (R68). -/
def RegsAfter (w : At) (s t : State) (sd : Nat) (v : Word) : Prop :=
  ∀ n, t.reg w n = if n = sd ∧ sd ≠ 0 then v else s.reg w n

/-- An instruction has issued: nothing is held, and the next instruction lies at `npc`, or follows (none). -/
def Issued (w : At) (t : State) (npc : Option Nat) : Prop := t.npcOf w = npc ∧ t.holdOf w = none

/-- A scalar result: the register written, the instruction issued, nothing else touched. -/
def Result (w : At) (s t : State) (sd : Nat) (v : Word) : Prop :=
  RegsAfter w s t sd v ∧ Issued w t none ∧ OnlySequencer w s t

/-- An instruction that writes no register has issued, and nothing else is touched. -/
def Passed (w : At) (s t : State) (npc : Option Nat) : Prop :=
  (∀ n, t.reg w n = s.reg w n) ∧ Issued w t npc ∧ OnlySequencer w s t

/-- Only one core has moved and nothing else. -/
def OnlyCore (cl : Cl) (c : Cn) (s t : State) : Prop :=
  t = { s with cores := t.cores } ∧ ∀ cl' c', ¬(cl' = cl ∧ c' = c) → t.core cl' c' = s.core cl' c'

/-- Only one core has moved, and at most errors that its banks met have been told to the management processor (R253). -/
def OnlyCoreM (cl : Cl) (c : Cn) (s t : State) : Prop :=
  t = { s with cores := t.cores, mgmt := t.mgmt } ∧ ∀ cl' c', ¬(cl' = cl ∧ c' = c) → t.core cl' c' = s.core cl' c'

/-- A core has issued an array or control instruction: nothing is held, and the next one follows. -/
def CoreIssued (k : Core) (ia : Nat) : Prop := k.hold = none ∧ k.npc = none ∧ k.lastIa = ia

/-- A cluster's permission cache agrees with the permission table of its partition (R210). -/
def PermCoherent (s : State) (cl : Cl) : Prop :=
  ∀ e ∈ (s.clu cl).cache.perm, e.2 = s.permEntry (s.clPart cl) e.1

/-- The table lets a cluster's partition read, or write, an address of DRAM (R203, R209), and no link end that has been declared failed lies
on the way (R183). -/
def Allowed (s : State) (cl : Cl) (a : Nat) (write : Bool) : Prop :=
  isDram a = true ∧ (if write then permW (s.permEntry (s.clPart cl) (a / 2 ^ 21)) else permR (s.permEntry (s.clPart cl) (a / 2 ^ 21))) = true ∧
  s.pathFenced (dieOf cl) (s.phys a / 2 ^ 37) = false

/-- Nothing of the state but clusters, DRAM, the management processor's inbox, and the rings' counts of writes that wait for their
acceptance differs: what a request to memory touches. -/
def OnlyMemory (s t : State) : Prop :=
  t = { s with clusters := t.clusters, rings := t.rings, dram := t.dram, mgmt := t.mgmt } ∧
  ∀ cl (n : Rn), t.ring cl n.val = { s.ring cl n.val with wtOut := (t.ring cl n.val).wtOut }

/-- A task has been stopped and its descriptor is held FAULTED (R69, R124): its cores are free with nothing in flight,
and its ring is halted with the descriptor at the end of its held list. -/
def TaskHeld (s t : State) (cl : Cl) (key : Nat) (r : TaskRun) : Prop :=
  find (t.clu cl).tasks key = none ∧
  (∀ c : Cn, r.coreset.getLsbD c.val = true → (t.core cl c).task = none ∧ (t.core cl c).phase = .free ∧
    (t.core cl c).moves = [] ∧ (t.core cl c).outs = [] ∧ (t.core cl c).hold = none ∧ (t.core cl c).incomplete = 0) ∧
  (t.ring r.home r.ring).held = (s.ring r.home r.ring).held ++ [⟨r.desc, r.slotAddr⟩] ∧
  (t.ring r.home r.ring).st = .halted ∧ (t.ring r.home r.ring).cause = 12

/-- The pairings of R23. -/
def acceptedPairs : List (Fmt × Fmt) :=
  [(.bf16, .bf16), (.fp16, .fp16), (.e4m3, .e4m3), (.e4m3, .e5m2), (.e5m2, .e4m3), (.e5m2, .e5m2), (.int8, .int8),
   (.mxfp8, .mxfp8), (.mxfp6, .mxfp6), (.mxfp4, .mxfp4)]

/-- The control-space address of a writable ring register (R229, R230). -/
def ctlAddr (cl : Cl) (n : Rn) (reg : RReg) : Nat :=
  0xFF0000000000 + 2 ^ 24 * dieOf cl + 2 ^ 18 * (8 * yOf cl + xOf cl) + 2 ^ 8 * n.val +
    (match reg with
      | .rbase => 0x00
      | .rcfg => 0x08
      | .tail => 0x18
      | .head => 0x10
      | .fill => 0x20
      | .status => 0x28
      | .erraddr => 0x30
      | .sumgot => 0x38
      | .donecnt => 0x40)

/-- A ring command and the steward instruction of the same name both answer a next state in which the ring is as said;
every other ring, memory and the counters are as before, and of the cores at most move slots of the ring are freed. -/
def RingDoes (s : State) (cl : Cl) (n : Rn) (cmd : Cl → Rn → Instr) (instr : At → Instr) (post : Ring → Prop) : Prop :=
  Done (cmd cl n) s (fun t => post (t.ring cl n.val) ∧
    (∀ cl' (n' : Rn), ¬(cl' = cl ∧ n' = n) → t.ring cl' n'.val = s.ring cl' n'.val) ∧
    (∀ cl' c, t.core cl' c = { s.core cl' c with moves := (t.core cl' c).moves }) ∧ t = { s with cores := t.cores, rings := t.rings }) ∧
  ∀ w, w.who = .steward → w.cl = cl → s.readyFor w (instr w) .steward = true → Done (instr w) s (fun t =>
    post (t.ring cl n.val) ∧ (∀ cl' (n' : Rn), ¬(cl' = cl ∧ n' = n) → t.ring cl' n'.val = s.ring cl' n'.val) ∧
    Issued w t none ∧ (∀ m, t.reg w m = s.reg w m) ∧
    t = { s with cores := t.cores, stewards := t.stewards, clusters := t.clusters, rings := t.rings })

/-- Two storage ports that differ at most in their jobs and commands. -/
def sameButJobs (a b : SPort) : Prop := b = { a with jobs := b.jobs, cmds := b.cmds, nextCid := b.nextCid }

/-- A function is told of an event: with room in its port (R294) the record waits there. -/
def Told (s t : State) (f : Nat) (r : Rec) : Prop :=
  (s.fn f).evWait.length < 64 → (t.fn f).evWait = (s.fn f).evWait ++ [r]

/-- The host event of a partition (R294, R295), as its bound function is told of it at the time of the command. -/
def Event (s t : State) (p code die unit detail aux : Nat) : Prop :=
  ∀ f, s.fnOf p = some f → Told s t f (hostRecord code p (s.part p).stepNow.toNat die unit detail aux s.now)

/-- A function after its reset (R353): its registers are those of reset; its trust record and the vectors that it has sent stay,
and events may wait. -/
def FnReset (a b : Fn) : Prop :=
  b = { Fn.init with
    evWait := b.evWait
    evLost := b.evLost
    nonce := a.nonce
    quote := a.quote
    quoteDue := a.quoteDue
    msixSent0 := a.msixSent0
    msixSent1 := a.msixSent1 }

/-- A semaphore that its holder has lost without a release (R299): free, of the next generation, marked OWNER_LOST. -/
def SemaLost (a b : Sema) : Prop := b = { a with holder := none, gen := a.gen + 1, ownerLost := true, lossDue := false }

/-- Semaphore k after its holder's loss (R299): lost, or to be lost once the holder's waiting object write has been committed. -/
def SemaLeft (s : State) (k : Nat) (b : Sema) : Prop :=
  if s.heldWrite k then b = { s.sema k with lossDue := true } else SemaLost (s.sema k) b

/-- The syndrome that an error e in symbol i of a word leaves: data symbols 0 to 31, check symbols 32 to 35 (R249, R250). -/
def errorSyn (i e : Nat) : BitVec 16 := if i < 32 then checkBits (e * 16 ^ i) else BitVec.ofNat 16 (e * 16 ^ (i - 32))

end Sys2Proof.Machine
end

