-- ==== Sys2Proof/Certificates/Slice0/Obligations.lean ====
section
/-! DEFINITION. The statements for the provers: what each family of commands does, and what every step keeps. -/

open Sys2Proof Sys2Proof.Machine

/-- A step takes the command at the front of the queue and is exec of it on the state with the queue's rest; with no command
waiting one microsecond passes on the time base and nothing else changes (the model's choice, assumption log 1). -/
def Obligations.StepRunsTheFrontCommand : Prop :=
  ∀ (s : State) (c : Instr) (q : List Instr), (s.pending = c :: q → step s = exec c { s with pending := q }) ∧
    (s.pending = [] → ∃ t, step s = .next t ∧ t.now = s.now + 1 ∧ t = { s with now := t.now })

/-- Right after reset: every partition has no run, every semaphore is free with generation 0, every dictionary object has its
default, the log and the error counts are empty, credit stands at its cap, service access is closed, no trip is latched, DRAM
is in its canonical form and the device is in Hold after power-on. No command waits (assumption log 1). -/
def Obligations.ResetLeavesTheSpecifiedState : Prop :=
  (∀ p, (State.reset.part p).run = .noRun ∧ (State.reset.part p).pages = []) ∧
  (∀ k, (State.reset.sema k).holder = none ∧ (State.reset.sema k).gen = 0) ∧
  (∀ i j, State.reset.obj i j = dictDefault i j) ∧ State.reset.dict.clampCount = 0 ∧
  State.reset.mgmt.logCount = 0 ∧ State.reset.mgmt.mirror = [] ∧ State.reset.mgmt.ce = 0 ∧ State.reset.mgmt.de = 0 ∧ State.reset.mgmt.ur = 0 ∧ State.reset.mgmt.fatal = 0 ∧
  (∀ a, (State.reset.acct a).credit = (State.reset.acct a).cap ∧ (State.reset.acct a).admissions = 0 ∧ (State.reset.acct a).guardAdmits = 0) ∧
  (∀ cl n, (State.reset.ring cl n).st = .idle ∧ (State.reset.ring cl n).head = 0 ∧ (State.reset.ring cl n).tail = 0) ∧
  (∀ n, (State.reset.ctr n).value = 0) ∧ State.reset.trust.service = false ∧ State.reset.power.tripped = false ∧ State.reset.pins.thermtripN = true ∧
  State.reset.pins.devFaultN = true ∧ State.reset.boot.phase = .hold ∧ State.reset.boot.source = 1 ∧ State.reset.Inv ∧ State.reset.pending = []

/-- MOVI, ADD, SUB, AND, OR, XOR, SHL, SHR, SRA and MUL of a ready core or steward core write their result and nothing else. -/
def Obligations.ScalarResults : Prop :=
  ∀ (s : State) (w : At) (sd sa sb : Nat) (b : Src) (imm : Int),
    sd < 32 → sa < 32 → sb < 32 → srcOk b = true → -2 ^ 31 ≤ imm → imm < 2 ^ 31 →
    (s.readyFor w (.movi w sd imm) .both = true →
      Done (.movi w sd imm) s fun t => Result w s t sd (BitVec.ofInt 64 imm)) ∧
    (s.readyFor w (.add w sd sa b) .both = true →
      Done (.add w sd sa b) s fun t => Result w s t sd (s.reg w sa + s.src w b)) ∧
    (s.readyFor w (.sub w sd sa b) .both = true →
      Done (.sub w sd sa b) s fun t => Result w s t sd (s.reg w sa - s.src w b)) ∧
    (s.readyFor w (.and w sd sa b) .both = true →
      Done (.and w sd sa b) s fun t => Result w s t sd (s.reg w sa &&& s.src w b)) ∧
    (s.readyFor w (.or w sd sa b) .both = true →
      Done (.or w sd sa b) s fun t => Result w s t sd (s.reg w sa ||| s.src w b)) ∧
    (s.readyFor w (.xor w sd sa b) .both = true →
      Done (.xor w sd sa b) s fun t => Result w s t sd (s.reg w sa ^^^ s.src w b)) ∧
    (s.readyFor w (.shl w sd sa b) .both = true →
      Done (.shl w sd sa b) s fun t => Result w s t sd (s.reg w sa <<< ((s.src w b).toNat % 64))) ∧
    (s.readyFor w (.shr w sd sa b) .both = true →
      Done (.shr w sd sa b) s fun t => Result w s t sd (s.reg w sa >>> ((s.src w b).toNat % 64))) ∧
    (s.readyFor w (.sra w sd sa b) .both = true →
      Done (.sra w sd sa b) s fun t => Result w s t sd ((s.reg w sa).sshiftRight ((s.src w b).toNat % 64))) ∧
    (s.readyFor w (.mul w sd sa sb) .both = true →
      Done (.mul w sd sa sb) s fun t => Result w s t sd (BitVec.ofNat 64 ((s.reg w sa).toNat * (s.reg w sb).toNat)))

/-- BEQ, BNE, BLT, BGE, JMP and NOP of a ready core or steward core go on where they should, and touch nothing else. An operand
out of range raises an instruction fault, shown of ADD: a core's fault record names the instruction's number and the first
operand's position, the core's task aborts, and its descriptor is held; a steward core stops issuing. -/
def Obligations.BranchesAndOperandFaults : Prop :=
  (
    ∀ (s : State) (w : At) (sa sb target : Nat), sa < 32 → sb < 32 → target < 2 ^ 48 →
      (s.readyFor w (.beq w sa sb target) .both = true → Done (.beq w sa sb target) s fun t =>
        Passed w s t (if (s.reg w sa).toInt = (s.reg w sb).toInt then some target else none)) ∧
      (s.readyFor w (.bne w sa sb target) .both = true → Done (.bne w sa sb target) s fun t =>
        Passed w s t (if (s.reg w sa).toInt = (s.reg w sb).toInt then none else some target)) ∧
      (s.readyFor w (.blt w sa sb target) .both = true → Done (.blt w sa sb target) s fun t =>
        Passed w s t (if (s.reg w sa).toInt < (s.reg w sb).toInt then some target else none)) ∧
      (s.readyFor w (.bge w sa sb target) .both = true → Done (.bge w sa sb target) s fun t =>
        Passed w s t (if (s.reg w sa).toInt < (s.reg w sb).toInt then none else some target)) ∧
      (s.readyFor w (.jmp w target) .both = true → Done (.jmp w target) s fun t =>
        Passed w s t (some target) ∧ ∀ c, w.who = .core c → (t.core w.cl c).cyc = (s.core w.cl c).cyc + 2) ∧
      (s.readyFor w (.nop w) .both = true → Done (.nop w) s fun t =>
        Passed w s t none ∧ ∀ c, w.who = .core c → (t.core w.cl c).cyc = (s.core w.cl c).cyc + 1)) ∧
  (
    ∀ (s : State) (w : At) (sd sa : Nat) (b : Src), s.readyFor w (.add w sd sa b) .both = true →
      (∀ c, w.who = .core c → 32 ≤ sd → exec (.add w sd sa b) s = .next (s.coreFault w.cl c 1 w.ia [1, 0] 0)) ∧
      (∀ c, w.who = .core c → sd < 32 → 32 ≤ sa → exec (.add w sd sa b) s = .next (s.coreFault w.cl c 1 w.ia [1, 1] 0)) ∧
      (∀ c key r, w.who = .core c → (32 ≤ sd ∨ 32 ≤ sa) → (s.core w.cl c).task = some key → find (s.clu w.cl).tasks key = some r → r.ring < 16 →
        Done (.add w sd sa b) s fun t => TaskHeld s t w.cl key r) ∧
      (w.who = .steward → (32 ≤ sd ∨ 32 ≤ sa) → Done (.add w sd sa b) s fun t =>
        (t.stew w.cl).stopped = true ∧ (t.stew w.cl).hold = none ∧ (∀ n, t.reg w n = s.reg w n) ∧
        (∀ cl c, t.core cl c = s.core cl c)))

/-- CONFIG of an accepted pairing, once no move is pending and no region is incomplete, issues with every array output visible,
and the formats hold from then on; another pairing is an instruction fault at the second operand. SETMASK loads both masks
without a wait. SRSEED issues after the last write-back, sets the seed and restarts the count. Registers and the other
settings stay. -/
def Obligations.CoreConfiguration : Prop :=
  ∀ (s : State) (w : At) (c : Cn), w.who = .core c →
    (∀ fa fb, s.readyFor w (.config w fa fb) .core = true →
      ((fa, fb) ∈ acceptedPairs → (s.core w.cl c).moves = [] → (s.core w.cl c).incomplete = 0 →
        Done (.config w fa fb) s fun t =>
          (t.core w.cl c).fmtA = fa ∧ (t.core w.cl c).fmtB = fb ∧ (t.core w.cl c).outs = [] ∧ (t.core w.cl c).areads = [] ∧
          CoreIssued (t.core w.cl c) w.ia ∧ (t.core w.cl c).regs = (s.core w.cl c).regs ∧
          ((s.core w.cl c).slices = [] → (t.core w.cl c).acc = (s.core w.cl c).acc) ∧
          (t.core w.cl c).rowMask = (s.core w.cl c).rowMask ∧ (t.core w.cl c).colMask = (s.core w.cl c).colMask ∧
          (t.core w.cl c).seed = (s.core w.cl c).seed ∧ (t.core w.cl c).srCount = (s.core w.cl c).srCount ∧ OnlyCoreM w.cl c s t) ∧
      ((fa, fb) ∉ acceptedPairs → exec (.config w fa fb) s = .next (s.coreFault w.cl c 1 w.ia [16, 1] 0))) ∧
    (∀ row col, s.readyFor w (.setmask w row col) .core = true →
      Done (.setmask w row col) s fun t =>
        (t.core w.cl c).rowMask = row ∧ (t.core w.cl c).colMask = col ∧ OnlyCore w.cl c s t ∧
        sameButIssue { s.core w.cl c with rowMask := row, colMask := col } (t.core w.cl c) ∧
        (t.core w.cl c).cyc = (s.core w.cl c).cyc + 1 ∧
        (t.core w.cl c).regs = (s.core w.cl c).regs ∧ CoreIssued (t.core w.cl c) w.ia) ∧
    (∀ sa, sa < 32 → s.readyFor w (.srseed w sa) .core = true →
      Done (.srseed w sa) s fun t =>
        (t.core w.cl c).seed = s.reg w sa ∧ (t.core w.cl c).srCount = 0 ∧ (s.core w.cl c).wbDone < (t.core w.cl c).cyc ∧
        (t.core w.cl c).fmtA = (s.core w.cl c).fmtA ∧ (t.core w.cl c).fmtB = (s.core w.cl c).fmtB ∧
        (t.core w.cl c).rowMask = (s.core w.cl c).rowMask ∧ (t.core w.cl c).colMask = (s.core w.cl c).colMask ∧
        (t.core w.cl c).regs = (s.core w.cl c).regs ∧ CoreIssued (t.core w.cl c) w.ia ∧ OnlyCoreM w.cl c s t)

/-- TPROD, TDRAIN and TEW of a core that no move's writes and no incomplete region keep waiting, with schedule-check mode off or
no output pending: each issues at a cycle I not before the edges, the drain and the accumulator that it uses are free as R26
and R36 say, frees them at the cycles given, marks the slices that it reads later at I + 32 s, and its output is pending with
the latency of R89 until its L; registers stay. In schedule-check mode the edges are free one cycle later. -/
def Obligations.ArrayInstructionTiming : Prop :=
  ∀ (s : State) (w : At) (c : Cn), w.who = .core c → (s.core w.cl c).moves = [] → (s.core w.cl c).incomplete = 0 →
    ((s.core w.cl c).schedCheck = false ∨ (s.core w.cl c).outs = []) →
    (∀ acc srcA srcB sclA sclB n ad tb drn,
      s.readyFor w (.tprod w acc srcA srcB sclA sclB n ad tb drn) .core = true →
      firstBad (tprodOks (s.core w.cl c) acc srcA srcB sclA sclB n drn) 0 = none →
      Done (.tprod w acc srcA srcB sclA sclB n ad tb drn) s fun t => ∃ I,
        (s.core w.cl c).cyc ≤ I ∧ (s.core w.cl c).edgeFree ≤ I ∧ look 0 (s.core w.cl c).accDrained acc ≤ I ∧
        (t.core w.cl c).cyc = I + 1 ∧ (t.core w.cl c).edgeFree = I + 32 * n + (if (s.core w.cl c).schedCheck then 1 else 0) ∧
        look 0 (t.core w.cl c).accDone acc = I + 32 * n + 62 ∧
        (∀ j, 1 ≤ j → j < n → ∃ p ∈ (t.core w.cl c).slices, p.at_ = I + 32 * j ∧ p.ix = j ∧ p.acc = acc ∧
          p.left = (if tb then sliceTiles srcB sclB (elBlocks (s.core w.cl c).fmtB) j else sliceTiles srcA sclA (elBlocks (s.core w.cl c).fmtA) j) ∧
          p.top = (if tb then sliceTiles srcA sclA (elBlocks (s.core w.cl c).fmtA) j else sliceTiles srcB sclB (elBlocks (s.core w.cl c).fmtB) j)) ∧
        (drn = none → (t.core w.cl c).drainFree = (s.core w.cl c).drainFree ∧ (t.core w.cl c).srCount = (s.core w.cl c).srCount ∧
          (t.core w.cl c).outs.map PendOut.key = ((s.core w.cl c).outs.map PendOut.key).filter fun o => decide (I < o.1)) ∧
        (∀ d, drn = some d → (s.core w.cl c).drainFree ≤ I + 32 * n + 62 ∧ (t.core w.cl c).drainFree = I + 32 * n + 94 ∧
          look 0 (t.core w.cl c).accDrained acc = I + 32 * n + 94 ∧ (t.core w.cl c).wbDone = I + 32 * n + 102 ∧
          (t.core w.cl c).outs.map PendOut.key = (((s.core w.cl c).outs.map PendOut.key).filter fun o => decide (I < o.1)) ++
            [(I + 32 * n + 102, w.ia, drainRegions d)]) ∧
        CoreIssued (t.core w.cl c) w.ia ∧ (t.core w.cl c).regs = (s.core w.cl c).regs ∧ OnlyCoreM w.cl c s t) ∧
    (∀ acc d, acc < 4 → drainOk d = true → s.readyFor w (.tdrain w acc d) .core = true →
      Done (.tdrain w acc d) s fun t => ∃ I,
        (s.core w.cl c).cyc ≤ I ∧ (s.core w.cl c).drainFree ≤ I ∧ look 0 (s.core w.cl c).accDone acc ≤ I ∧
        (t.core w.cl c).cyc = I + 1 ∧ (t.core w.cl c).edgeFree = (s.core w.cl c).edgeFree ∧ (t.core w.cl c).drainFree = I + 32 ∧
        look 0 (t.core w.cl c).accDrained acc = I + 32 ∧ (t.core w.cl c).wbDone = I + 40 ∧
        ((s.core w.cl c).slices = [] → (t.core w.cl c).acc = (s.core w.cl c).acc) ∧
        (t.core w.cl c).outs.map PendOut.key = (((s.core w.cl c).outs.map PendOut.key).filter fun o => decide (I < o.1)) ++
          [(I + 40, w.ia, drainRegions d)] ∧
        CoreIssued (t.core w.cl c) w.ia ∧ (t.core w.cl c).regs = (s.core w.cl c).regs ∧ OnlyCoreM w.cl c s t) ∧
    (∀ op srcX srcY vec neg d, firstBad (tewOks (s.core w.cl c) op srcX srcY vec d) 0 = none →
      s.readyFor w (.tew w op srcX srcY vec neg d) .core = true →
      Done (.tew w op srcX srcY vec neg d) s fun t => ∃ I,
        (s.core w.cl c).cyc ≤ I ∧ (s.core w.cl c).edgeFree ≤ I ∧ (s.core w.cl c).drainFree ≤ I + 94 ∧
        (t.core w.cl c).cyc = I + 1 ∧ (t.core w.cl c).edgeFree = I + 32 + (if (s.core w.cl c).schedCheck then 1 else 0) ∧
        (t.core w.cl c).drainFree = I + 126 ∧ (t.core w.cl c).wbDone = I + 134 ∧
        ((s.core w.cl c).slices = [] → (t.core w.cl c).acc = (s.core w.cl c).acc) ∧
        (t.core w.cl c).outs.map PendOut.key = (((s.core w.cl c).outs.map PendOut.key).filter fun o => decide (I < o.1)) ++
          [(I + 134, w.ia, drainRegions d)] ∧
        CoreIssued (t.core w.cl c) w.ia ∧ (t.core w.cl c).regs = (s.core w.cl c).regs ∧ OnlyCoreM w.cl c s t)

/-- The accumulator of a masked cell, and every other tile, is left alone by a TPROD, with ADD = 0 as with ADD = 1: every slice
that the TPROD leaves waiting carries its tile and the masks at its issue, nothing is written at the issue where no earlier
slice waits, and a core that runs on changes an accumulator element only through a slice of its tile whose masks enable its
row and column. -/
def Obligations.TprodKeepsMaskedAccumulators : Prop :=
  (∀ (s t : State) (w : At) (c : Cn) acc srcA srcB sclA sclB n ad tb drn, w.who = .core c →
    s.readyFor w (.tprod w acc srcA srcB sclA sclB n ad tb drn) .core = true →
    firstBad (tprodOks (s.core w.cl c) acc srcA srcB sclA sclB n drn) 0 = none →
    (s.core w.cl c).moves = [] → (s.core w.cl c).incomplete = 0 → ((s.core w.cl c).schedCheck = false ∨ (s.core w.cl c).outs = []) →
    (s.core w.cl c).slices = [] → exec (.tprod w acc srcA srcB sclA sclB n ad tb drn) s = .next t →
    (∀ p ∈ (t.core w.cl c).slices, p.acc = acc ∧ p.rows = (s.core w.cl c).rowMask ∧ p.cols = (s.core w.cl c).colMask) ∧
    ∀ a i j, a < 4 → i < 32 → j < 32 →
      (a ≠ acc ∨ (s.core w.cl c).rowMask.getLsbD i = false ∨ (s.core w.cl c).colMask.getLsbD j = false) →
      look Machine.Num.zero (t.core w.cl c).acc (1024 * a + 32 * i + j) = look Machine.Num.zero (s.core w.cl c).acc (1024 * a + 32 * i + j)) ∧
  ∀ (k : Core) (T a i j : Nat), a < 4 → i < 32 → j < 32 →
    (∀ p ∈ k.slices, p.acc < 4 ∧ (a ≠ p.acc ∨ p.rows.getLsbD i = false ∨ p.cols.getLsbD j = false)) →
    look Machine.Num.zero (k.settle T).1.acc (1024 * a + 32 * i + j) = look Machine.Num.zero k.acc (1024 * a + 32 * i + j)

/-- ARRAY_OUTPUT_VISIBLE: the core's clock comes to the earliest pending L, and every output due by then leaves the pending ones;
where no slice of a product waits, exactly the outputs due are stored, each whole and in their order; with none pending
nothing changes. -/
def Obligations.ArrayOutputBecomesVisible : Prop :=
  ∀ (s : State) (cl : Cl) (c : Cn),
    ((s.core cl c).outs = [] → exec (.arrayOutputVisible cl c) s = .next s) ∧
    ((s.core cl c).outs ≠ [] → Done (.arrayOutputVisible cl c) s fun t => ∃ L,
      (∃ o ∈ (s.core cl c).outs, o.vis = L) ∧ (∀ o ∈ (s.core cl c).outs, L ≤ o.vis) ∧
      (t.core cl c).cyc = max (s.core cl c).cyc L ∧
      (t.core cl c).outs.map PendOut.key = (((s.core cl c).outs.map PendOut.key).filter fun o => decide (max (s.core cl c).cyc L < o.1)) ∧
      ((s.core cl c).slices = [] →
        (t.core cl c).ts = ((s.core cl c).outs.filter fun o => decide (o.vis ≤ max (s.core cl c).cyc L)).foldl PendOut.apply (s.core cl c).ts ∧
        (t.core cl c).acc = (s.core cl c).acc) ∧
      (t.core cl c).regs = (s.core cl c).regs ∧ OnlyCoreM cl c s t)

/-- TLOAD and TSTORE of a core with no move in flight and no incomplete region issue at once into move slot 0, once what they
wait for has become visible: no array output into, or for a TLOAD array read of, the regions is pending any more. A TSTORE
takes the tile as it stands then. Registers stay. -/
def Obligations.TileMovesIssue : Prop :=
  ∀ (s : State) (w : At) (c : Cn) (m : MoveArgs), w.who = .core c → (s.core w.cl c).moves = [] → (s.core w.cl c).incomplete = 0 →
    (s.readyFor w (.tload w m) .core = true → firstBad (s.moveOks w true m) 0 = none →
      Done (.tload w m) s fun t => ∃ v, find (t.core w.cl c).moves 0 = some v ∧ v.kind = .load ∧ v.args = m ∧ v.ia = w.ia ∧
        v.got = [] ∧ v.rows = 0 ∧ v.retries = 0 ∧ v.addr = (s.reg w m.addr).toNat % 2 ^ 48 ∧ v.stride = (s.reg w m.stride).toInt ∧
        v.regions = regionMask m.region (shapeBytes m.shape) ∧
        (∀ o ∈ (t.core w.cl c).outs, o.regions &&& v.regions = 0) ∧
        (∀ r ∈ (t.core w.cl c).areads, v.regions.getLsbD r.region = false) ∧
        (t.core w.cl c).moveSerial = (s.core w.cl c).moveSerial + 1 ∧ (t.core w.cl c).regs = (s.core w.cl c).regs ∧
        CoreIssued (t.core w.cl c) w.ia ∧ OnlyCoreM w.cl c s t) ∧
    (s.readyFor w (.tstore w m) .core = true → firstBad (s.moveOks w false m) 0 = none →
      Done (.tstore w m) s fun t => ∃ v, find (t.core w.cl c).moves 0 = some v ∧ v.kind = .store ∧ v.args = m ∧ v.ia = w.ia ∧
        v.got = [] ∧ v.retries = 0 ∧ v.addr = (s.reg w m.addr).toNat % 2 ^ 48 ∧ v.regions = regionMask m.region (shapeBytes m.shape) ∧
        (v.buf, v.segs) = storeImage (t.core w.cl c).ts m v.addr v.stride v.scl ∧ v.lines = segLines v.segs ∧
        (∀ o ∈ (t.core w.cl c).outs, o.regions &&& v.regions = 0) ∧
        (t.core w.cl c).moveSerial = (s.core w.cl c).moveSerial + 1 ∧ (t.core w.cl c).regs = (s.core w.cl c).regs ∧
        CoreIssued (t.core w.cl c) w.ia ∧ OnlyCoreM w.cl c s t)

/-- MOVE_LINE_RESPONSE of a line that the table allows and no cache instruction or commit keeps waiting: a load's line is counted
as answered where its words are good; a store's line is taken by the cluster cache as dirty, a speculative task's store's
line by its slot's shadow, or, beyond a limit of R132, it stalls the move and is not taken. The other moves and the registers
are left alone. -/
def Obligations.MoveLinesAreAnswered : Prop :=
  ∀ (s : State) (cl : Cl) (c : Cn) (slot i : Nat) (v : Move), find (s.core cl c).moves slot = some v → PermCoherent s cl →
    i < v.lines.length → i ∉ v.got → s.lineBusy cl (v.lines.getD i 0) = false →
    (v.kind = .load → Allowed s cl (128 * v.lines.getD i 0) false →
      ((s.reqStatus cl (128 * v.lines.getD i 0) false).1.clRead cl (s.slotOf cl c) (128 * v.lines.getD i 0) 128 v.args.hint v.tag 2).2.2 = 0 →
      Done (.moveLineResponse cl c slot i) s fun t => ∃ v', find (t.core cl c).moves slot = some v' ∧ v'.got = v.got ++ [i] ∧
        v'.retries = v.retries ∧ v'.args = v.args ∧ v'.kind = .load ∧
        (∀ k, k ≠ slot → find (t.core cl c).moves k = find (s.core cl c).moves k) ∧
        (t.core cl c).regs = (s.core cl c).regs ∧ (t.core cl c).outs = (s.core cl c).outs ∧
        OnlyMemory { s with cores := t.cores } t ∧ ∀ cl' c', ¬(cl' = cl ∧ c' = c) → t.core cl' c' = s.core cl' c') ∧
    (v.kind = .store → (v.stalled = none ∨ v.stalled = some i) → s.slotOf cl c = none → Allowed s cl (128 * v.lines.getD i 0) true →
      Done (.moveLineResponse cl c slot i) s fun t => ∃ v' e, find (t.core cl c).moves slot = some v' ∧ v'.got = v.got ++ [i] ∧
        (t.clu cl).cache.line (v.lines.getD i 0) = some e ∧ e.dirty = true ∧
        e.mask &&& segMask v.segs (v.lines.getD i 0) = segMask v.segs (v.lines.getD i 0) ∧
        e.hint = v.args.hint ∧ e.tag = v.tag ∧ (t.core cl c).ts = (s.core cl c).ts ∧ (t.core cl c).regs = (s.core cl c).regs ∧
        (∀ k, k ≠ slot → find (t.core cl c).moves k = find (s.core cl c).moves k) ∧
        OnlyMemory { s with cores := t.cores } t ∧ ∀ cl' c', ¬(cl' = cl ∧ c' = c) → t.core cl' c' = s.core cl' c') ∧
    (∀ k, v.kind = .store → (v.stalled = none ∨ v.stalled = some i) → s.slotOf cl c = some k → Allowed s cl (128 * v.lines.getD i 0) true →
      (s.clu cl).shadowLimit k (v.lines.getD i 0) = none →
      ((s.reqStatus cl (128 * v.lines.getD i 0) true).1.shadowWrite cl k v.buf (v.lines.getD i 0) (segMask v.segs (v.lines.getD i 0)) v.args.hint v.tag).2 = 0 →
      Done (.moveLineResponse cl c slot i) s fun t => ∃ v' b, find (t.core cl c).moves slot = some v' ∧ v'.got = v.got ++ [i] ∧
        find ((t.clu cl).slot k).written (v.lines.getD i 0) = some b ∧
        b &&& segMask v.segs (v.lines.getD i 0) = segMask v.segs (v.lines.getD i 0) ∧
        (t.core cl c).ts = (s.core cl c).ts ∧ (t.core cl c).regs = (s.core cl c).regs ∧
        OnlyMemory { s with cores := t.cores } t ∧ ∀ cl' c', ¬(cl' = cl ∧ c' = c) → t.core cl' c' = s.core cl' c') ∧
    (∀ k lim, v.kind = .store → v.stalled = none → v.stallSince = none → s.slotOf cl c = some k → Allowed s cl (128 * v.lines.getD i 0) true →
      (s.clu cl).shadowLimit k (v.lines.getD i 0) = some lim →
      Done (.moveLineResponse cl c slot i) s fun t => ∃ v', find (t.core cl c).moves slot = some v' ∧ v'.got = v.got ∧
        v'.stalled = some i ∧ v'.stallSince = some s.now ∧ ((t.clu cl).slot k).written = ((s.clu cl).slot k).written ∧ t.dram = s.dram ∧
        (t.core cl c).regs = (s.core cl c).regs)

/-- MOVE_INTERRUPTED starts a move that is not finished again from row 0, with INCOMPLETE on a load's regions, up to three times;
the fourth time its task stops and the descriptor is held. MOVE_COMPLETE of a move whose lines have all been answered frees
the slot, and clears a load's INCOMPLETE. -/
def Obligations.MovesRestartAndComplete : Prop :=
  ∀ (s : State) (cl : Cl) (c : Cn) (slot : Nat) (v : Move), find (s.core cl c).moves slot = some v → (v.kind = .load ∨ v.kind = .store) →
    (v.got.length ≠ v.lines.length → v.retries < 3 →
      Done (.moveInterrupted cl c slot) s fun t => ∃ v', find (t.core cl c).moves slot = some v' ∧ v'.got = [] ∧
        v'.retries = v.retries + 1 ∧ v'.kind = v.kind ∧ v'.regions = v.regions ∧ v'.args = v.args ∧ v'.addr = v.addr ∧
        (v.kind = .load → v'.rows = 0) ∧ (∀ k, k ≠ slot → find (t.core cl c).moves k = find (s.core cl c).moves k) ∧
        (t.core cl c).incomplete = (if v.kind = .load then (s.core cl c).incomplete ||| v.regions else (s.core cl c).incomplete) ∧
        (t.core cl c).ts = (s.core cl c).ts ∧ (t.core cl c).regs = (s.core cl c).regs ∧ OnlyCore cl c s t) ∧
    (∀ key r, v.got.length ≠ v.lines.length → 3 ≤ v.retries → (s.core cl c).task = some key → find (s.clu cl).tasks key = some r → r.ring < 16 →
      Done (.moveInterrupted cl c slot) s fun t => TaskHeld s t cl key r) ∧
    (v.got.length = v.lines.length →
      Done (.moveComplete cl c slot) s fun t => find (t.core cl c).moves slot = none ∧
        (∀ k, k ≠ slot → find (t.core cl c).moves k = find (s.core cl c).moves k) ∧
        (t.core cl c).incomplete = (if v.kind = .load then (s.core cl c).incomplete &&& ~~~v.regions else (s.core cl c).incomplete) ∧
        (t.core cl c).ts = (s.core cl c).ts ∧ (t.core cl c).regs = (s.core cl c).regs ∧ OnlyCore cl c s t)

/-- MOVE_BUS_ERROR on a move that is not finished is a move fault: the task stops on all its cores, its ring is halted with the
descriptor held, and neither DRAM nor a counter changes. -/
def Obligations.MoveFaultsAbortTheTask : Prop :=
  ∀ (s : State) (cl : Cl) (c : Cn) (slot addr status key : Nat) (v : Move) (r : TaskRun), find (s.core cl c).moves slot = some v →
    (v.kind = .load ∨ v.kind = .store) → v.got.length ≠ v.lines.length → (s.core cl c).task = some key →
    find (s.clu cl).tasks key = some r → r.coreset.getLsbD c.val = true → r.ring < 16 →
    Done (.moveBusError cl c slot addr status) s fun t => TaskHeld s t cl key r ∧ t.dram = s.dram ∧ t.counters = s.counters

/-- Posts go out in program order behind the instruction: RPOST of a core onto a data ring that is not the system's (with REGION
it takes a move slot and marks the scoreboard), and RPOST and TPOST of a steward core. A speculative task posts only a
descriptor that writes no device memory. A steward core's post on a ring of the other kind sets REFUSED and posts nothing. -/
def Obligations.PostsGoOut : Prop :=
  ∀ (s : State) (w : At) (n sa : Nat), n < 16 → sa < 32 → (s.reg w sa).toNat % 64 = 0 →
    (∀ c, w.who = .core c → (s.ring w.cl n).kind = 0 → (s.ring w.cl n).sys = false →
      (∀ d, s.template w c (s.reg w sa).toNat none = some d → (s.slotOf w.cl c).isSome = true → dWritesMem d = false) →
      s.readyFor w (.rpost w n sa none) .core = true →
      Done (.rpost w n sa none) s fun t =>
        (t.core w.cl c).posts = (s.core w.cl c).posts ++
          [⟨n, (s.reg w sa).toNat, none, ⟨w.ia, (s.core w.cl c).task.getD 0, s.taskCores w.cl c, s.slotOf w.cl c, false⟩⟩] ∧
        (t.core w.cl c).regs = (s.core w.cl c).regs ∧ CoreIssued (t.core w.cl c) w.ia ∧ OnlyCore w.cl c s t) ∧
    (∀ c x d, w.who = .core c → (s.ring w.cl n).kind = 0 → (s.ring w.cl n).sys = false →
      (s.core w.cl c).moves = [] → (s.core w.cl c).incomplete = 0 →
      s.template w c (s.reg w sa).toNat (some x) = some d → ((s.slotOf w.cl c).isSome = true → dWritesMem d = false) →
      dOneSide d = true → spanInTs (dTsSpan d) = true → x < 2 ^ 18 →
      s.readyFor w (.rpost w n sa (some x)) .core = true →
      Done (.rpost w n sa (some x)) s fun t => ∃ v, find (t.core w.cl c).moves 0 = some v ∧
        v.kind = (if dDstTs d then .ringInto else .ringFrom) ∧ v.ring = n ∧ v.ia = w.ia ∧
        v.regions = regionMask (dTsSpan d).1.toNat ((dTsSpan d).2 - (dTsSpan d).1 + 1).toNat ∧
        (t.core w.cl c).posts = (s.core w.cl c).posts ++
          [⟨n, (s.reg w sa).toNat, some x, ⟨w.ia, (s.core w.cl c).task.getD 0, s.taskCores w.cl c, s.slotOf w.cl c, false⟩⟩] ∧
        (t.core w.cl c).regs = (s.core w.cl c).regs ∧ CoreIssued (t.core w.cl c) w.ia ∧ OnlyCoreM w.cl c s t) ∧
    (w.who = .steward → s.readyFor w (.rpost w n sa none) .steward = true → (s.ring w.cl n).kind = 0 →
      Done (.rpost w n sa none) s fun t => (t.stew w.cl).posts = (s.stew w.cl).posts ++ [⟨n, (s.reg w sa).toNat, none, ⟨w.ia, 0, 0, none, false⟩⟩] ∧
        Issued w t none ∧ t = { s with stewards := t.stewards, clusters := t.clusters }) ∧
    (w.who = .steward → s.readyFor w (.stewardRpost w n sa) .steward = true → (s.ring w.cl n).kind = 0 →
      Done (.stewardRpost w n sa) s fun t => (t.stew w.cl).posts = (s.stew w.cl).posts ++ [⟨n, (s.reg w sa).toNat, none, ⟨w.ia, 0, 0, none, false⟩⟩] ∧
        Issued w t none ∧ t = { s with stewards := t.stewards, clusters := t.clusters }) ∧
    (w.who = .steward → s.readyFor w (.tpost w n sa) .steward = true → (s.ring w.cl n).kind = 1 →
      Done (.tpost w n sa) s fun t => (t.stew w.cl).posts = (s.stew w.cl).posts ++ [⟨n, (s.reg w sa).toNat, none, ⟨w.ia, 0, 0, none, false⟩⟩] ∧
        Issued w t none ∧ t = { s with stewards := t.stewards, clusters := t.clusters }) ∧
    (w.who = .steward → s.readyFor w (.tpost w n sa) .steward = true → (s.ring w.cl n).kind = 0 →
      Done (.tpost w n sa) s fun t => (t.ring w.cl n).refused = true ∧ (t.stew w.cl).posts = (s.stew w.cl).posts ∧
        (t.ring w.cl n).tail = (s.ring w.cl n).tail ∧ Issued w t none) ∧
    (w.who = .steward → s.readyFor w (.stewardRpost w n sa) .steward = true → (s.ring w.cl n).kind = 1 →
      Done (.stewardRpost w n sa) s fun t => (t.ring w.cl n).refused = true ∧ (t.stew w.cl).posts = (s.stew w.cl).posts ∧
        (t.ring w.cl n).tail = (s.ring w.cl n).tail ∧ Issued w t none)

/-- POST_SLOT_WRITTEN: the poster's oldest post, where its lines need not wait and its source can be read, writes its slot
through the cluster cache, marking the slot's bytes dirty, and TAIL advances by one. A post made while FILL is at least DEPTH
sets OVERRUN and counts, and halts a ring between descriptors with cause OVERRUN; any other post leaves OVERRUN and the
ring's state as they are. -/
def Obligations.PostWritesSlotAndAdvancesTail : Prop :=
  ∀ (s : State) (cl : Cl) (who : Who) (p : Post) (rest : List Post), p.ring < 16 → PermCoherent s cl →
    (match who with
      | .core c => (s.core cl c).posts = p :: rest
      | .steward => (s.stew cl).posts = p :: rest) →
    s.postWaits cl p = false → (s.readHits cl p.who.slot p.src 64 = true ∨ s.chanDown (lineOf p.src) = false) →
    Allowed s cl p.src false → Allowed s cl ((s.ring cl p.ring).slotAddr (s.ring cl p.ring).tail.toNat) true →
    (s.ring cl p.ring).posted = false → (s.ring cl p.ring).granted = false →
    Done (.postSlotWritten cl who) s fun t =>
      (t.ring cl p.ring).tail = (s.ring cl p.ring).tail + 1 ∧ (t.ring cl p.ring).head = (s.ring cl p.ring).head ∧
      ((s.ring cl p.ring).fill < (s.ring cl p.ring).depth →
        (t.ring cl p.ring).overrun = (s.ring cl p.ring).overrun ∧ (t.ring cl p.ring).ovrcnt = (s.ring cl p.ring).ovrcnt ∧
        (t.ring cl p.ring).st = (s.ring cl p.ring).st) ∧
      ((s.ring cl p.ring).depth ≤ (s.ring cl p.ring).fill →
        (t.ring cl p.ring).overrun = true ∧ (t.ring cl p.ring).ovrcnt = min 65535 ((s.ring cl p.ring).ovrcnt + 1) ∧
        (((s.ring cl p.ring).st = .running ∨ (s.ring cl p.ring).st = .stopping) → (s.ring cl p.ring).ph ≠ .moving →
          (t.ring cl p.ring).st = .halted ∧ (t.ring cl p.ring).cause = 7) ∧
        ((s.ring cl p.ring).ph = .moving → (t.ring cl p.ring).st = (s.ring cl p.ring).st)) ∧
      (∃ e, (t.clu cl).cache.line (lineOf ((s.ring cl p.ring).slotAddr (s.ring cl p.ring).tail.toNat)) = some e ∧ e.dirty = true ∧
        e.mask &&& maskOf ((s.ring cl p.ring).slotAddr (s.ring cl p.ring).tail.toNat % 128) 64 =
          maskOf ((s.ring cl p.ring).slotAddr (s.ring cl p.ring).tail.toNat % 128) 64) ∧
      (∀ cl' n', n' < 16 → ¬(cl' = cl ∧ n' = p.ring) → t.ring cl' n' = { s.ring cl' n' with wtOut := (t.ring cl' n').wtOut }) ∧
      (match who with
        | .core c => (t.core cl c).posts = rest
        | .steward => (t.stew cl).posts = rest) ∧
      t = { s with cores := t.cores, stewards := t.stewards, clusters := t.clusters, rings := t.rings, dram := t.dram, mgmt := t.mgmt }

/-- CINC sends its packet at issue, or arms one that waits (WHEN = DONE), or, in a speculative task and for a counter outside its
cores, enters the slot's deferral queue where that has room; CEXP advances the expected register, and a core's clears
SETTLED; CREAD sends its read; CWSTAT gives the outcome of the last CWAIT. -/
def Obligations.CounterInstructions : Prop :=
  ∀ (s : State) (w : At) (ctr : CRef) (amt : Src) (sd : Nat) (exp : Bool), sd < 32 →
    (∀ c, w.who = .core c → s.crefOk w ctr = true → s.amtOk w amt = true →
      s.readyFor w (.cinc w ctr amt false) .both = true → s.slotOf w.cl c = none →
      Done (.cinc w ctr amt false) s fun t =>
        t.net.flight = s.net.flight ++ [⟨s.crefName w ctr, s.amt w amt, .core w.cl c ((s.core w.cl c).task.getD 0), s.clPart w.cl⟩] ∧
        (t.core w.cl c).unacked = (s.core w.cl c).unacked + 1 ∧
        (isOwn w.cl c (s.crefName w ctr) = true → s.crefName w ctr ∈ (t.core w.cl c).touched) ∧
        t.counters = s.counters ∧ CoreIssued (t.core w.cl c) w.ia ∧ (t.core w.cl c).regs = (s.core w.cl c).regs ∧
        t = { s with cores := t.cores, net := t.net }) ∧
    (∀ c, w.who = .core c → s.crefOk w ctr = true → s.amtOk w amt = true →
      s.readyFor w (.cinc w ctr amt true) .both = true → s.slotOf w.cl c = none →
      Done (.cinc w ctr amt true) s fun t => ∃ a, (t.core w.cl c).armed = (s.core w.cl c).armed ++ [a] ∧
        a.ctr = s.crefName w ctr ∧ a.amt = s.amt w amt ∧ a.before = (s.core w.cl c).moveSerial ∧
        (∀ o ∈ (s.core w.cl c).outs, o.vis ≤ a.vis) ∧ CoreIssued (t.core w.cl c) w.ia ∧ OnlyCore w.cl c s t) ∧
    (∀ c k dn, w.who = .core c → s.crefOk w ctr = true → s.amtOk w amt = true →
      s.readyFor w (.cinc w ctr amt dn) .both = true → s.deferSlot w.cl c (s.crefName w ctr) = some k →
      ((s.clu w.cl).slot k).deferq.length < 64 →
      Done (.cinc w ctr amt dn) s fun t =>
        ((t.clu w.cl).slot k).deferq = ((s.clu w.cl).slot k).deferq ++ [⟨s.crefName w ctr, s.amt w amt, .core w.cl c ((s.core w.cl c).task.getD 0), s.clPart w.cl⟩] ∧
        (∀ j, j ≠ k → (t.clu w.cl).slot j = (s.clu w.cl).slot j) ∧ (∀ q, q ≠ w.cl → t.clu q = s.clu q) ∧
        t.clu w.cl = { s.clu w.cl with slots := (t.clu w.cl).slots } ∧
        CoreIssued (t.core w.cl c) w.ia ∧ (t.core w.cl c).regs = (s.core w.cl c).regs ∧
        (∀ q d, (q, d) ≠ (w.cl, c) → t.core q d = s.core q d) ∧
        t = { s with cores := t.cores, clusters := t.clusters }) ∧
    (w.who = .steward → s.crefOk w ctr = true → s.amtOk w amt = true →
      s.readyFor w (.cinc w ctr amt false) .both = true →
      Done (.cinc w ctr amt false) s fun t =>
        t.net.flight = s.net.flight ++ [⟨s.crefName w ctr, s.amt w amt, .steward w.cl, s.clPart w.cl⟩] ∧
        (t.stew w.cl).unacked = (s.stew w.cl).unacked + 1 ∧ Issued w t none ∧
        t = { s with stewards := t.stewards, clusters := t.clusters, net := t.net }) ∧
    (s.crefNarrow w ctr = true → s.amtOk w amt = true → s.readyFor w (.cexp w ctr amt) .both = true →
      Done (.cexp w ctr amt) s fun t =>
        (t.ctr (s.crefName w ctr)).value = (s.ctr (s.crefName w ctr)).value ∧
        (t.ctr (s.crefName w ctr)).expected = (s.ctr (s.crefName w ctr)).expected + BitVec.ofNat 32 (s.amt w amt) ∧
        (t.ctr (s.crefName w ctr)).settled = (match w.who with
          | .core _ => false
          | .steward => (s.ctr (s.crefName w ctr)).settled) ∧ (∀ n, n ≠ s.crefName w ctr → t.ctr n = s.ctr n) ∧
        (∀ c, w.who = .core c → s.crefName w ctr ∈ (t.core w.cl c).touched) ∧ Issued w t none ∧
        t = { s with cores := t.cores, stewards := t.stewards, clusters := t.clusters, rings := t.rings, counters := t.counters }) ∧
    (s.crefOk w ctr = true → s.readyFor w (.cread w sd ctr exp) .both = true →
      Done (.cread w sd ctr exp) s fun t => Issued w t none ∧ (∀ n, t.reg w n = s.reg w n) ∧
        (match w.who with
          | .core c => (t.core w.cl c).creads = (s.core w.cl c).creads ++ [⟨sd, s.crefName w ctr, exp⟩]
          | .steward => (t.stew w.cl).creads = (s.stew w.cl).creads ++ [⟨sd, s.crefName w ctr, exp⟩]) ∧
        t = { s with cores := t.cores, stewards := t.stewards, clusters := t.clusters }) ∧
    (w.who = .steward → s.readyFor w (.cwstat w sd) .steward = true →
      Done (.cwstat w sd) s fun t => Result w s t sd (BitVec.ofNat 64 (s.stew w.cl).cwstat))

/-- R145: a counter with value x reaches a target t when (x - t) mod 2^32 is below 2^31. CWAIT passes, in one issue, exactly when
its counter has reached the expected register, and holds issue otherwise; the conditions of a task descriptor are tested in
the same way. -/
def Obligations.WaitsUseTheWrappingComparison : Prop :=
  (∀ x t : W32, reaches x t = true ↔ ((x.toNat : Int) - (t.toNat : Int)) % 2 ^ 32 < 2 ^ 31) ∧
  (∀ (s : State) (w : At) (ctr : CRef), s.crefNarrow w ctr = true → s.readyFor w (.cwait w ctr) .both = true →
    (reaches (s.ctr (s.crefName w ctr)).value (s.ctr (s.crefName w ctr)).expected = true →
      Done (.cwait w ctr) s fun t => Issued w t none ∧ (∀ n, t.reg w n = s.reg w n) ∧
        (w.who = .steward → (t.stew w.cl).cwstat = 0) ∧
        t = { s with cores := t.cores, stewards := t.stewards, clusters := t.clusters, counters := t.counters }) ∧
    (reaches (s.ctr (s.crefName w ctr)).value (s.ctr (s.crefName w ctr)).expected = false → s.holdOf w = none →
      Done (.cwait w ctr) s fun t => t.holdOf w = some ⟨.cwait w ctr, .counter (s.crefName w ctr), s.now, false⟩ ∧
        (∀ n, t.reg w n = s.reg w n) ∧ t.npcOf w = s.npcOf w)) ∧
  (∀ (s : State) (cl : Cl) (h : Nat) (v : W32), s.condMet cl (some (h, v)) =
    reaches (s.ctr (nameHub cl h)).value v)

/-- CREAD_RESULT writes the value or the expected register, zero-extended. WHEN_DONE_INCREMENT sends the oldest armed increment
of a task that is not speculative once no earlier move is in flight, with every earlier output visible; before, it does
nothing. INCREMENT_APPLIED adds a packet's amount to its counter modulo 2^32, and to the expected register while SETTLED; in
a frozen partition it is dropped and counted; either way one acknowledgement goes back. INCREMENT_ACK lowers the account of
the sender, of the task that sent it or, once that one is gone, of its core's settling; an acknowledgement of a ring, a
dispatcher or a committed deferral is taken off. A packet whose CRC fails twice is lost, a fatal error of source 0x0A.
MANAGEMENT_RAISE raises a counter to a value, never backward, and not in a frozen partition. COUNTER_SETTLE, once no such
acknowledgement is out, sets each counter to settle's expected register to its value and marks it SETTLED. -/
def Obligations.CountersAreReadAndMoved : Prop :=
  (
    ∀ (s : State) (cl : Cl),
      (∀ (c : Cn) (r : CRead) (rest : List CRead), (s.core cl c).creads = r :: rest →
        Done (.creadResult cl (.core c)) s fun t => (t.core cl c).creads = rest ∧
          (∀ n, (t.core cl c).reg n = if n = r.sd ∧ r.sd ≠ 0 then
            (if r.expected then (s.ctr r.ctr).expected.setWidth 64 else (s.ctr r.ctr).value.setWidth 64) else (s.core cl c).reg n) ∧
          OnlyCore cl c s t) ∧
      (∀ (r : CRead) (rest : List CRead), (s.stew cl).creads = r :: rest →
        Done (.creadResult cl .steward) s fun t => (t.stew cl).creads = rest ∧
          (∀ n, (t.stew cl).reg n = if n = r.sd ∧ r.sd ≠ 0 then
            (if r.expected then (s.ctr r.ctr).expected.setWidth 64 else (s.ctr r.ctr).value.setWidth 64) else (s.stew cl).reg n) ∧
          t = { s with stewards := t.stewards }) ∧
      (∀ (c : Cn) (a : Armed) (rest : List Armed), (s.core cl c).armed = a :: rest →
        ((∃ e ∈ (s.core cl c).moves, e.2.serial < a.before) → exec (.whenDoneIncrement cl c) s = .next s)) ∧
      (∀ (c : Cn) (a : Armed) (rest : List Armed), (s.core cl c).armed = a :: rest →
        (∀ e ∈ (s.core cl c).moves, a.before ≤ e.2.serial) → s.slotOf cl c = none →
        Done (.whenDoneIncrement cl c) s fun t => (t.core cl c).armed = rest ∧
          t.net.flight = s.net.flight ++ [⟨a.ctr, a.amt, .core cl c ((s.core cl c).task.getD 0), s.clPart cl⟩] ∧
          (t.core cl c).unacked = (s.core cl c).unacked + 1 ∧ (∀ o ∈ (t.core cl c).outs, a.vis < o.vis) ∧
          (t.core cl c).regs = (s.core cl c).regs ∧ t.counters = s.counters ∧
          t = { s with cores := t.cores, net := t.net, mgmt := t.mgmt } ∧ ∀ cl' c', ¬(cl' = cl ∧ c' = c) → t.core cl' c' = s.core cl' c')) ∧
  (
    ∀ (s : State),
      (∀ (i f : Nat) (k : Packet), s.power.tripped = false → s.net.flight[i]? = some k →
        (f < 2 → (s.part (s.clPart (nameCl k.ctr))).frozen = false →
          Done (.incrementApplied i f) s fun t => (t.ctr k.ctr).value = (s.ctr k.ctr).value + BitVec.ofNat 32 k.amt ∧
            (t.ctr k.ctr).expected = (if (s.ctr k.ctr).settled then (s.ctr k.ctr).expected + BitVec.ofNat 32 k.amt else (s.ctr k.ctr).expected) ∧
            (∀ n, n ≠ k.ctr → t.ctr n = s.ctr n) ∧ t.net.flight = s.net.flight.eraseIdx i ∧ t.net.acks = s.net.acks ++ [k.sender] ∧
            t = { s with cores := t.cores, stewards := t.stewards, rings := t.rings, counters := t.counters, net := t.net }) ∧
        (f < 2 → (s.part (s.clPart (nameCl k.ctr))).frozen = true →
          Done (.incrementApplied i f) s fun t => t.counters = s.counters ∧ t.net.flight = s.net.flight.eraseIdx i ∧
            t.net.acks = s.net.acks ++ [k.sender] ∧ (t.part k.part).dropped = min ((s.part k.part).dropped + 1) 4294967295 ∧
            t = { s with parts := t.parts, net := t.net }) ∧
        (2 ≤ f → Done (.incrementApplied i f) s fun t => t.counters = s.counters ∧ t.net.flight = s.net.flight.eraseIdx i ∧
          (∃ e sc, t.mgmt.inbox = s.mgmt.inbox ++ [(e, sc)] ∧ e.source = 0x0A ∧ e.cls = 3) ∧
          t = { s with net := t.net, mgmt := t.mgmt })) ∧
      (∀ (i f : Nat) (cl : Cl), s.power.tripped = false →
        (∀ c key, f < 2 → s.net.acks[i]? = some (.core cl c key) →
          Done (.incrementAck ⟨i, f⟩) s fun t => t.net.acks = s.net.acks.eraseIdx i ∧
            t.core cl c = (if (s.core cl c).task = some key then { s.core cl c with unacked := (s.core cl c).unacked - 1 }
              else { s.core cl c with settleWait := (s.core cl c).settleWait - 1 }) ∧
            t = { s with cores := t.cores, net := t.net }) ∧
        (f < 2 → s.net.acks[i]? = some (.steward cl) → Done (.incrementAck ⟨i, f⟩) s fun t =>
          (t.stew cl).unacked = (s.stew cl).unacked - 1 ∧ t.net.acks = s.net.acks.eraseIdx i ∧
            t = { s with stewards := t.stewards, net := t.net }) ∧
        (∀ x, f < 2 → s.net.acks[i]? = some x → ((∃ n, x = .ring cl n) ∨ x = .dispatcher cl ∨ x = .released cl) →
          Done (.incrementAck ⟨i, f⟩) s fun t => t.net.acks = s.net.acks.eraseIdx i ∧ t = { s with net := t.net }) ∧
        (∀ x, 2 ≤ f → s.net.acks[i]? = some x → Done (.incrementAck ⟨i, f⟩) s fun t =>
          (∃ e sc, t.mgmt.inbox = s.mgmt.inbox ++ [(e, sc)] ∧ e.source = 0x0A ∧ e.cls = 3) ∧
          t.net.acks = s.net.acks.eraseIdx i ∧ t = { s with net := t.net, mgmt := t.mgmt })) ∧
      (∀ (n : Nat) (v : W32), nameOk n = true →
        ((s.part (s.clPart (nameCl n))).frozen = false → ((v.toNat : Int) - ((s.ctr n).value.toNat : Int)) % 2 ^ 32 < 2 ^ 31 →
          Done (.managementRaise n v) s fun t => (t.ctr n).value = v ∧ (∀ m, m ≠ n → t.ctr m = s.ctr m) ∧
            t = { s with cores := t.cores, stewards := t.stewards, rings := t.rings, counters := t.counters }) ∧
        (2 ^ 31 ≤ ((v.toNat : Int) - ((s.ctr n).value.toNat : Int)) % 2 ^ 32 → exec (.managementRaise n v) s = .next s) ∧
        ((s.part (s.clPart (nameCl n))).frozen = true → exec (.managementRaise n v) s = .next s)) ∧
      (∀ (cl : Cl) (c : Cn), (s.core cl c).settleWait = 0 → (s.core cl c).toSettle ≠ [] →
        Done (.counterSettle cl c) s fun t => (∀ n, (t.ctr n).value = (s.ctr n).value) ∧
          (∀ n ∈ (s.core cl c).toSettle, (t.ctr n).expected = (s.ctr n).value ∧ (t.ctr n).settled = true) ∧
          (∀ n, n ∉ (s.core cl c).toSettle → t.ctr n = s.ctr n) ∧ (t.core cl c).toSettle = [] ∧
          t = { s with cores := t.cores, stewards := t.stewards, rings := t.rings, counters := t.counters }))

/-- FENCE and END of a core whose moves are complete and regions whole issue with every array output visible; after END the core
waits, free of issue. A move in flight holds either at issue. -/
def Obligations.FenceAndEndWaitForTheScoreboard : Prop :=
  ∀ (s : State) (w : At) (c : Cn), w.who = .core c →
    ((s.core w.cl c).moves = [] → (s.core w.cl c).incomplete = 0 →
      (s.readyFor w (.fence w) .core = true → Done (.fence w) s fun t =>
        (t.core w.cl c).outs = [] ∧ (t.core w.cl c).areads = [] ∧ (t.core w.cl c).phase = (s.core w.cl c).phase ∧
        (t.core w.cl c).regs = (s.core w.cl c).regs ∧ ((s.core w.cl c).slices = [] → (t.core w.cl c).acc = (s.core w.cl c).acc) ∧
        CoreIssued (t.core w.cl c) w.ia ∧ OnlyCoreM w.cl c s t) ∧
      (s.readyFor w (.endTask w) .core = true → Done (.endTask w) s fun t =>
        (t.core w.cl c).outs = [] ∧ (t.core w.cl c).areads = [] ∧ (t.core w.cl c).phase = .ending ∧ t.seqRuns w = false ∧
        (t.core w.cl c).regs = (s.core w.cl c).regs ∧ (t.core w.cl c).task = (s.core w.cl c).task ∧
        CoreIssued (t.core w.cl c) w.ia ∧ OnlyCoreM w.cl c s t)) ∧
    ((s.core w.cl c).moves ≠ [] → s.holdOf w = none →
      (s.readyFor w (.fence w) .core = true → Done (.fence w) s fun t =>
        t = s.setCore w.cl c { s.core w.cl c with hold := some ⟨.fence w, .scoreboard, s.now, false⟩ }) ∧
      (s.readyFor w (.endTask w) .core = true → Done (.endTask w) s fun t =>
        t = s.setCore w.cl c { s.core w.cl c with hold := some ⟨.endTask w, .scoreboard, s.now, false⟩ }))

/-- The balance check of a core of a task that is not speculative, with every increment of it acknowledged: balanced own counters
let the core pass; with the last core the hub counters are checked, the cores are freed, the account is trued up and the DONE
increment goes out. An own counter out of balance is a balance fault. -/
def Obligations.BalanceCheckEndsTheTask : Prop :=
  ∀ (s : State) (cl : Cl) (c : Cn) (key : Nat) (r : TaskRun),
    (s.core cl c).task = some key → find (s.clu cl).tasks key = some r → r.slot = none → r.coreset.getLsbD c.val = true →
    (s.core cl c).phase = .ending → (s.core cl c).unacked = 0 → (s.core cl c).armed = [] →
    ((∀ n ∈ (s.core cl c).touched, isOwn cl c n = true → (s.ctr n).value = (s.ctr n).expected ∧ s.heldWaiter n = false) →
      r.passed ||| BitVec.ofNat 12 (2 ^ c.val) ≠ r.coreset →
      Done (.endBalanceCheck cl c) s fun t => (t.core cl c).phase = .passed ∧ (t.core cl c).task = some key ∧
        (t.core cl c).regs = (s.core cl c).regs ∧
        find (t.clu cl).tasks key = some { r with passed := r.passed ||| BitVec.ofNat 12 (2 ^ c.val) } ∧
        (∀ cl' c', ¬(cl' = cl ∧ c' = c) → t.core cl' c' = s.core cl' c') ∧
        t = { s with cores := t.cores, clusters := t.clusters }) ∧
    ((∀ n ∈ (s.core cl c).touched, isOwn cl c n = true → (s.ctr n).value = (s.ctr n).expected ∧ s.heldWaiter n = false) →
      r.passed ||| BitVec.ofNat 12 (2 ^ c.val) = r.coreset →
      (∀ c' : Cn, r.coreset.getLsbD c'.val = true → ∀ n ∈ (s.core cl c').touched, nameIsHub n = true →
        (s.ctr n).value = (s.ctr n).expected ∧ s.heldWaiter n = false) →
      Done (.endBalanceCheck cl c) s fun t => find (t.clu cl).tasks key = none ∧
        (∀ c' : Cn, r.coreset.getLsbD c'.val = true → (t.core cl c').phase = .free ∧ (t.core cl c').task = none ∧
          (t.core cl c').ts = (s.core cl c').ts) ∧
        (∀ cl' c', ¬(cl' = cl ∧ r.coreset.getLsbD c'.val = true) → t.core cl' c' = s.core cl' c') ∧
        t.net.flight = s.net.flight ++ (match tDone r.desc with
          | some h => [⟨nameHub r.home h, 1, .dispatcher r.home, s.clPart r.home⟩]
          | none => []) ∧
        (t.acct (acctOf cl)).dues = (s.acct (acctOf cl)).dues ++ [⟨r.energy, declared (tEclass r.desc), false, false, r.home, r.ring, tTaskId r.desc⟩] ∧
        t.counters = s.counters ∧ t.dram = s.dram) ∧
    (∀ n ∈ (s.core cl c).touched, isOwn cl c n = true → (s.ctr n).value ≠ (s.ctr n).expected → r.ring < 16 →
      Done (.endBalanceCheck cl c) s fun t => TaskHeld s t cl key r ∧ t.counters = s.counters ∧ t.dram = s.dram)

/-- INSTRUCTION_FETCH_FILL of a line that issue demands, in an executable page: it comes to the sequencer's instruction cache,
from the cluster's or, where the words read are whole, through the cluster cache. In a page that is not executable a demanded
line faults: a core's task is held FAULTED, a steward core stops. -/
def Obligations.InstructionLinesAreFetched : Prop :=
  ∀ (s : State) (w : At), s.seqRuns w = true → s.icHit w = false → s.demand w = true → isDram w.ia = true → PermCoherent s w.cl →
    (permX (s.permEntry (s.clPart w.cl) (w.ia / 2 ^ 21)) = true → lineOf w.ia ∈ (s.clu w.cl).icache →
      Done (.instructionFetchFill w) s fun t => t.icHit w = true ∧ lineOf w.ia ∈ (t.clu w.cl).icache ∧
        (∀ n, t.reg w n = s.reg w n) ∧ t.holdOf w = s.holdOf w ∧ t.npcOf w = s.npcOf w ∧
        t = { s with cores := t.cores, stewards := t.stewards, clusters := t.clusters }) ∧
    (∀ x, permX (s.permEntry (s.clPart w.cl) (w.ia / 2 ^ 21)) = true → lineOf w.ia ∉ (s.clu w.cl).icache → s.lineBusy w.cl (lineOf w.ia) = false →
      x = (s.permUse w.cl (w.ia / 2 ^ 21)).1.cacheRead w.cl none (128 * lineOf w.ia) 128 ((s.clu w.cl).cache.ownHint (lineOf w.ia)).1
        ((s.clu w.cl).cache.ownHint (lineOf w.ia)).2 1 (s.readHits w.cl none (128 * lineOf w.ia) 128) →
      x.2.2 = 0 → x.2.1.anyPoison (128 * lineOf w.ia) 128 = false →
      Done (.instructionFetchFill w) s fun t => t.icHit w = true ∧ lineOf w.ia ∈ (t.clu w.cl).icache ∧
        (∀ n, t.reg w n = s.reg w n) ∧ t.holdOf w = s.holdOf w ∧ t.npcOf w = s.npcOf w ∧ t.dram = x.1.dram ∧
        t = { s with cores := t.cores, stewards := t.stewards, clusters := t.clusters, rings := t.rings, dram := t.dram, mgmt := t.mgmt }) ∧
    (permX (s.permEntry (s.clPart w.cl) (w.ia / 2 ^ 21)) = false →
      (∀ c key r, w.who = .core c → (s.core w.cl c).task = some key → find (s.clu w.cl).tasks key = some r → r.ring < 16 →
        Done (.instructionFetchFill w) s fun t => TaskHeld s t w.cl key r) ∧
      (w.who = .steward → Done (.instructionFetchFill w) s fun t => (t.stew w.cl).stopped = true))

/-- EVWAIT passes with an event in the queue and holds without one. EVREAD takes the oldest event, with the count of lost events
in [39:24] of word 0, or gives 0; EVARG gives a word of the event last taken. ICINV empties the instruction caches of the
cluster. -/
def Obligations.StewardEvents : Prop :=
  ∀ (s : State) (w : At) (sd : Nat), w.who = .steward → sd < 32 →
    (s.readyFor w (.evwait w) .steward = true →
      ((s.stew w.cl).evq ≠ [] → Done (.evwait w) s fun t => Passed w s t none) ∧
      ((s.stew w.cl).evq = [] → s.holdOf w = none → Done (.evwait w) s fun t =>
        t = s.setStew w.cl { s.stew w.cl with hold := some ⟨.evwait w, .event, s.now, false⟩ })) ∧
    (s.readyFor w (.evread w sd) .steward = true →
      (∀ r rest, (s.stew w.cl).evq = r :: rest → Done (.evread w sd) s fun t =>
        RegsAfter w s t sd (BitVec.ofNat 64 (evWord r 0 + (s.stew w.cl).evLost * 2 ^ 24)) ∧ Issued w t none ∧
        (t.stew w.cl).evq = rest ∧ (t.stew w.cl).evRec = r ∧ (t.stew w.cl).evLost = 0 ∧
        t = { s with stewards := t.stewards, clusters := t.clusters }) ∧
      ((s.stew w.cl).evq = [] → Done (.evread w sd) s fun t =>
        RegsAfter w s t sd 0 ∧ Issued w t none ∧ (t.stew w.cl).evq = [] ∧ (t.stew w.cl).evRec = 0 ∧
        (t.stew w.cl).evLost = (s.stew w.cl).evLost ∧ t = { s with stewards := t.stewards, clusters := t.clusters })) ∧
    (∀ k, 1 ≤ k → k ≤ 7 → s.readyFor w (.evarg w sd k) .steward = true → Done (.evarg w sd k) s fun t =>
      Result w s t sd (BitVec.ofNat 64 (evWord (s.stew w.cl).evRec k))) ∧
    (s.readyFor w (.icinv w) .steward = true → Done (.icinv w) s fun t =>
      (t.clu w.cl).icache = [] ∧ (∀ c, (t.core w.cl c).icache = []) ∧ Issued w t none ∧ (∀ n, t.reg w n = s.reg w n) ∧
      (∀ cl c, t.core cl c = { s.core cl c with icache := (t.core cl c).icache }) ∧
      t = { s with cores := t.cores, stewards := t.stewards, clusters := t.clusters })

/-- SCOMMIT makes a running or ended slot due. SDISCARD begins the discard of one; a task that runs in it is stopped and its
cores are freed. Neither acts on a free slot or one already being resolved. TABORT stops every task that runs on a named
core, and leaves the others with their cores; the descriptor of a task that is the only one stopped is held FAULTED. -/
def Obligations.StewardActsOnTasksAndSlots : Prop :=
  ∀ (s : State) (w : At) (k : Nat), w.who = .steward → k < 4 →
    (s.readyFor w (.scommit w k) .steward = true →
      (((s.clu w.cl).slot k).st = .running ∨ ((s.clu w.cl).slot k).st = .ended → Done (.scommit w k) s fun t =>
        ((t.clu w.cl).slot k).due = true ∧ ((t.clu w.cl).slot k).st = ((s.clu w.cl).slot k).st ∧
        ((t.clu w.cl).slot k).written = ((s.clu w.cl).slot k).written ∧ (∀ j, j ≠ k → (t.clu w.cl).slot j = (s.clu w.cl).slot j) ∧
        Issued w t none ∧ (∀ n, t.reg w n = s.reg w n) ∧ t = { s with stewards := t.stewards, clusters := t.clusters }) ∧
      (¬(((s.clu w.cl).slot k).st = .running ∨ ((s.clu w.cl).slot k).st = .ended) → Done (.scommit w k) s fun t => Passed w s t none)) ∧
    (s.readyFor w (.sdiscard w k) .steward = true →
      (∀ r, ((s.clu w.cl).slot k).st = .running → find (s.clu w.cl).tasks ((s.clu w.cl).slot k).taskKey = some r →
        Done (.sdiscard w k) s fun t => ((t.clu w.cl).slot k).st = .discarding ∧ ((t.clu w.cl).slot k).cause = 1 ∧
          find (t.clu w.cl).tasks ((s.clu w.cl).slot k).taskKey = none ∧
          (∀ c : Cn, r.coreset.getLsbD c.val = true → (t.core w.cl c).phase = .free ∧ (t.core w.cl c).task = none) ∧
          (∀ cl' c', ¬(cl' = w.cl ∧ r.coreset.getLsbD c'.val = true) → t.core cl' c' = s.core cl' c') ∧
          Issued w t none ∧ (∀ n, t.reg w n = s.reg w n) ∧ t.counters = s.counters ∧ t.dram = s.dram) ∧
      (((s.clu w.cl).slot k).st = .ended → Done (.sdiscard w k) s fun t =>
        ((t.clu w.cl).slot k).st = .discarding ∧ ((t.clu w.cl).slot k).cause = 1 ∧ Issued w t none ∧ (∀ n, t.reg w n = s.reg w n) ∧
        t = { s with stewards := t.stewards, clusters := t.clusters, rings := t.rings }) ∧
      (¬(((s.clu w.cl).slot k).st = .running ∨ ((s.clu w.cl).slot k).st = .ended) → Done (.sdiscard w k) s fun t => Passed w s t none)) ∧
    (∀ cs, cs < 4096 → s.readyFor w (.tabort w cs) .steward = true → ((s.clu w.cl).tasks.map (·.1)).Nodup →
      Done (.tabort w cs) s fun t =>
        (∀ key r, (key, r) ∈ (s.clu w.cl).tasks → r.coreset &&& BitVec.ofNat 12 cs ≠ 0 → find (t.clu w.cl).tasks key = none ∧
          (∀ c : Cn, r.coreset.getLsbD c.val = true → (t.core w.cl c).task = none ∧ (t.core w.cl c).phase = .free) ∧
          (r.ring < 16 → (∀ e ∈ (s.clu w.cl).tasks, e.1 ≠ key → e.2.coreset &&& BitVec.ofNat 12 cs = 0) → TaskHeld s t w.cl key r)) ∧
        (∀ key r, (key, r) ∈ (s.clu w.cl).tasks → r.coreset &&& BitVec.ofNat 12 cs = 0 → find (t.clu w.cl).tasks key = some r) ∧
        (∀ c : Cn, (∀ e ∈ (s.clu w.cl).tasks, e.2.coreset &&& BitVec.ofNat 12 cs ≠ 0 → e.2.coreset.getLsbD c.val = false) →
          t.core w.cl c = s.core w.cl c) ∧
        (∀ cl c, cl ≠ w.cl → t.core cl c = s.core cl c) ∧
        Issued w t none ∧ (∀ n, t.reg w n = s.reg w n) ∧ t.counters = s.counters ∧ t.dram = s.dram)

/-- TRETRY makes the oldest held descriptor that passes its check the ring's candidate, and leaves it first in the held list;
where it fails the check the ring holds BAD_TASK. TSKIP drops the oldest held descriptor, with no DONE increment; on a data
ring, or with nothing held, either sets REFUSED and does nothing else. -/
def Obligations.HeldDescriptorsAreRetriedOrSkipped : Prop :=
  ∀ (s : State) (w : At) (n : Nat), w.who = .steward → n < 16 →
    (s.readyFor w (.tretry w n) .steward = true →
      ((s.ring w.cl n).kind ≠ 1 ∨ ((s.ring w.cl n).held = [] ∧ (s.ring w.cl n).badTask = false) → Done (.tretry w n) s fun t =>
        t.ring w.cl n = { s.ring w.cl n with refused := true } ∧ Issued w t none ∧ t.net = s.net ∧
        (∀ cl' n', n' < 16 → ¬(cl' = w.cl ∧ n' = n) → t.ring cl' n' = s.ring cl' n')) ∧
      (∀ h rest, (s.ring w.cl n).kind = 1 → (s.ring w.cl n).held = h :: rest → (s.ring w.cl n).posted = false →
        (s.ring w.cl n).granted = false → s.taskOk w.cl w.cl h.desc = true → Done (.tretry w n) s fun t =>
          (t.ring w.cl n).cand = true ∧ (t.ring w.cl n).held = h :: rest ∧ (t.ring w.cl n).candidate = some h.desc ∧
          (t.ring w.cl n).head = (s.ring w.cl n).head ∧ (t.ring w.cl n).tail = (s.ring w.cl n).tail ∧
          (t.ring w.cl n).st = (s.ring w.cl n).st ∧ Issued w t none ∧ t.net = s.net ∧
          t = { s with stewards := t.stewards, clusters := t.clusters, rings := t.rings }) ∧
      (∀ h rest, (s.ring w.cl n).kind = 1 → (s.ring w.cl n).held = h :: rest → (s.ring w.cl n).posted = false →
        (s.ring w.cl n).granted = false → s.taskOk w.cl w.cl h.desc = false → Done (.tretry w n) s fun t =>
          (t.ring w.cl n).cand = false ∧ (t.ring w.cl n).held = h :: rest ∧ (t.ring w.cl n).st = .halted ∧ (t.ring w.cl n).cause = 11 ∧
          (t.ring w.cl n).head = (s.ring w.cl n).head ∧ Issued w t none ∧
          t = { s with stewards := t.stewards, clusters := t.clusters, rings := t.rings, mgmt := t.mgmt })) ∧
    (s.readyFor w (.tskip w n) .steward = true →
      ((s.ring w.cl n).kind ≠ 1 ∨ ((s.ring w.cl n).held = [] ∧ (s.ring w.cl n).badTask = false) → Done (.tskip w n) s fun t =>
        t.ring w.cl n = { s.ring w.cl n with refused := true } ∧ Issued w t none ∧ t.net = s.net ∧
        (∀ cl' n', n' < 16 → ¬(cl' = w.cl ∧ n' = n) → t.ring cl' n' = s.ring cl' n')) ∧
      (∀ h rest, (s.ring w.cl n).kind = 1 → (s.ring w.cl n).held = h :: rest → rest ≠ [] → (s.ring w.cl n).posted = false →
        (s.ring w.cl n).granted = false → Done (.tskip w n) s fun t =>
          (t.ring w.cl n).cand = false ∧ (t.ring w.cl n).held = rest ∧ (t.ring w.cl n).head = (s.ring w.cl n).head ∧
          (t.ring w.cl n).st = (s.ring w.cl n).st ∧ Issued w t none ∧ t.net = s.net ∧ t.counters = s.counters ∧
          t = { s with stewards := t.stewards, clusters := t.clusters, rings := t.rings }))

/-- CCDISCARD drops the lines of a range and no other; CCMARK sets the hint of every line of its tag. CCLEAN and CCFLUSH send the
write-back of every dirty line of their range that has none on its way, and hold; once the last write has been accepted,
CCLEAN is done, and CCFLUSH drops the lines of the range. -/
def Obligations.StewardCacheInstructions : Prop :=
  ∀ (s : State) (w : At) (sa sb : Nat), w.who = .steward → sa < 32 → sb < 32 →
    (s.reg w sa).toNat % 128 = 0 → (s.reg w sb).toNat % 128 = 0 →
    (s.readyFor w (.ccdiscard w sa sb) .steward = true → Done (.ccdiscard w sa sb) s fun t =>
      Issued w t none ∧ (∀ n, t.reg w n = s.reg w n) ∧
      (∀ l, (t.clu w.cl).cache.line l =
        if inRange (s.reg w sa).toNat (s.reg w sb).toNat l then none else (s.clu w.cl).cache.line l) ∧
      t = { s with stewards := t.stewards, clusters := t.clusters }) ∧
    (∀ tag hint, tag < 4096 → s.readyFor w (.ccmark w tag hint) .steward = true → Done (.ccmark w tag hint) s fun t =>
      Issued w t none ∧ (∀ n, t.reg w n = s.reg w n) ∧
      (∀ l, (t.clu w.cl).cache.line l = ((s.clu w.cl).cache.line l).map fun e => if e.tag = tag then { e with hint := hint } else e) ∧
      (t.clu w.cl).cache.mem = (s.clu w.cl).cache.mem ∧ t = { s with stewards := t.stewards, clusters := t.clusters }) ∧
    (∀ i, i = .cclean w sa sb ∨ i = .ccflush w sa sb → s.readyFor w i .steward = true → s.holdOf w = none →
      ((s.clu w.cl).cache.lines.map (·.1)).Nodup →
      (∃ e ∈ (s.clu w.cl).cache.lines, inRange (s.reg w sa).toNat (s.reg w sb).toNat e.1 = true ∧ e.2.dirty = true) →
      Done i s fun t => t.holdOf w = some ⟨i, .cacheOp, s.now, false⟩ ∧
        (∀ l e, (l, e) ∈ (s.clu w.cl).cache.lines → inRange (s.reg w sa).toNat (s.reg w sb).toNat l = true → e.dirty = true →
          (t.clu w.cl).cache.line l = some { e with wb := true, again := false } ∧ l ∈ (t.clu w.cl).ccLines ∧
          (e.wb = false ∨ e.again = true → ∃ q ∈ t.dram.wq, q.line = l ∧ q.mask = e.mask ∧ q.writer = .writeBack w.cl l)) ∧
        (∀ l e, (l, e) ∈ (s.clu w.cl).cache.lines → inRange (s.reg w sa).toNat (s.reg w sb).toNat l = false ∨ e.dirty = false →
          (t.clu w.cl).cache.line l = some e) ∧
        t.dram.mem = s.dram.mem ∧ (∀ n, t.reg w n = s.reg w n) ∧
        t = { s with stewards := t.stewards, clusters := t.clusters, dram := t.dram, mgmt := t.mgmt }) ∧
    ((∀ h, s.holdOf w = some h → h.why = .cacheOp) → (s.clu w.cl).ccLines = [] →
      (∀ e ∈ (s.clu w.cl).cache.lines, inRange (s.reg w sa).toNat (s.reg w sb).toNat e.1 = true → e.2.dirty = false) →
      (s.readyFor w (.cclean w sa sb) .steward = true → Done (.cclean w sa sb) s fun t => Passed w s t none) ∧
      (s.readyFor w (.ccflush w sa sb) .steward = true → Done (.ccflush w sa sb) s fun t => Issued w t none ∧ (∀ n, t.reg w n = s.reg w n) ∧
        (∀ l, (t.clu w.cl).cache.line l =
          if inRange (s.reg w sa).toNat (s.reg w sb).toNat l then none else (s.clu w.cl).cache.line l) ∧
        t = { s with stewards := t.stewards, clusters := t.clusters }))

/-- RSET, TAIL_WRITE and a REGISTER_WRITE in control space write RBASE, RCFG or TAIL while the ring is IDLE or HALTED; otherwise
they set REFUSED and change nothing else. RGET reads any register. A control-space write outside the ring blocks, or to a
ring of another partition, is refused. A write to a fenced or gated cluster is discarded at its router and counted. -/
def Obligations.RingRegistersAreWrittenAndRead : Prop :=
  ∀ (s : State) (cl : Cl) (n : Rn) (v : Word),
    (∀ reg, reg = RReg.rbase ∨ reg = .rcfg ∨ reg = .tail →
      ((s.ring cl n.val).writable = true → (s.ringSet cl n.val reg v).ring cl n.val = match reg with
        | .rbase => { s.ring cl n.val with rbase := (v.toNat / 64 % 2 ^ 33) * 64 }
        | .rcfg => { s.ring cl n.val with rcfg := (v.toNat / 4096 % 16) * 4096 + min (v.toNat % 32) 16 }
        | _ => { s.ring cl n.val with tail := v.setWidth 32 }) ∧
      ((s.ring cl n.val).writable = false → (s.ringSet cl n.val reg v).ring cl n.val = { s.ring cl n.val with refused := true }) ∧
      s.ringSet cl n.val reg v = { s with rings := (s.ringSet cl n.val reg v).rings } ∧
      (∀ cl' (n' : Rn), ¬(cl' = cl ∧ n' = n) → (s.ringSet cl n.val reg v).ring cl' n'.val = s.ring cl' n'.val) ∧
      (∀ w sa, w.who = .steward → w.cl = cl → sa < 32 → s.reg w sa = v → s.readyFor w (.rset w n.val reg sa) .steward = true →
        Done (.rset w n.val reg sa) s fun t => t.rings = (s.ringSet cl n.val reg v).rings ∧ Issued w t none ∧
          (∀ m, t.reg w m = s.reg w m) ∧ t = { s with stewards := t.stewards, clusters := t.clusters, rings := t.rings }) ∧
      ((s.clu cl).isl ≠ .fenced → (s.clu cl).isl ≠ .gated →
        (∀ b, b = none ∨ (∃ c, b = some c ∧ s.clPart c = s.clPart cl) →
          exec (.registerWrite (.ctl b (ctlAddr cl n reg)) v) s = .next (s.ringSet cl n.val reg v)) ∧
        (∀ c, s.clPart c ≠ s.clPart cl → exec (.registerWrite (.ctl (some c) (ctlAddr cl n reg)) v) s =
          .next (s.refusal (unitName c 0x10) (s.clPart c) (ctlAddr cl n reg) 4))) ∧
      ((s.clu cl).isl = .fenced ∨ (s.clu cl).isl = .gated → ∀ b, exec (.registerWrite (.ctl b (ctlAddr cl n reg)) v) s =
        .next (s.setClu cl { s.clu cl with discards := (s.clu cl).discards + 1 }))) ∧
    exec (.tailWrite cl n v) s = .next (s.ringSet cl n.val .tail v) ∧
    (∀ w sd reg, w.who = .steward → w.cl = cl → sd < 32 → s.readyFor w (.rget w sd n.val reg) .steward = true →
      Done (.rget w sd n.val reg) s fun t => Result w s t sd (BitVec.ofNat 64 ((s.ring cl n.val).register reg))) ∧
    (∀ b addr, addr < 0xFF0000000000 ∨ 0xFF0004000000 ≤ addr → exec (.registerWrite (.ctl b addr) v) s =
      .next (s.refusal (match b with | some c => unitName c 0x10 | none => 0) (match b with | some c => s.clPart c | none => 0xFF) addr 3))

/-- Start, stop, skip and clear of a data ring, by the steward core's instruction and by a write of 1 to 4 to CMD alike: each
acts in the states that accept it, and elsewhere sets REFUSED and nothing else. -/
def Obligations.RingCommands : Prop :=
  ∀ (s : State) (cl : Cl) (n : Rn), (s.ring cl n.val).kind = 0 → (s.ring cl n.val).posted = false → (s.ring cl n.val).granted = false →
    RingDoes s cl n .ringCmdStart (fun w => .rstart w n.val) (fun t =>
      ((s.ring cl n.val).overrun = false → (s.ring cl n.val).st = .idle ∨ (s.ring cl n.val).st = .halted →
        t = { s.ring cl n.val with
          st := .running, stopAs := 0, ph := .unread, next := 0, retries := 0, buf := (s.ring cl n.val).buf.filter fun b => !b.bad }) ∧
      ((s.ring cl n.val).overrun = false → (s.ring cl n.val).st = .stopping → (s.ring cl n.val).stopAs ≠ 10 →
        t = { s.ring cl n.val with st := .running, stopAs := 0 }) ∧
      ((s.ring cl n.val).overrun = true ∨ (s.ring cl n.val).st = .running → t = { s.ring cl n.val with refused := true })) ∧
    RingDoes s cl n .ringCmdStop (fun w => .rstop w n.val) (fun t =>
      ((s.ring cl n.val).st = .running → (s.ring cl n.val).ph = .moving →
        t = { s.ring cl n.val with st := .stopping, stopAs := 1 }) ∧
      ((s.ring cl n.val).st = .running → (s.ring cl n.val).ph ≠ .moving →
        t.st = .halted ∧ t.cause = 1 ∧ t.head = (s.ring cl n.val).head ∧ t.tail = (s.ring cl n.val).tail ∧ t.buf = (s.ring cl n.val).buf) ∧
      ((s.ring cl n.val).st = .idle ∨ (s.ring cl n.val).st = .halted → t = { s.ring cl n.val with refused := true })) ∧
    RingDoes s cl n .ringCmdSkip (fun w => .rskip w n.val) (fun t =>
      ((s.ring cl n.val).st = .halted → t = { s.ring cl n.val with
        head := (s.ring cl n.val).head + 1, buf := (s.ring cl n.val).buf.filter fun b => b.num ≠ (s.ring cl n.val).head.toNat }) ∧
      ((s.ring cl n.val).st ≠ .halted → t = { s.ring cl n.val with refused := true })) ∧
    RingDoes s cl n .ringCmdClear (fun w => .rclear w n.val) (fun t =>
      ((s.ring cl n.val).st = .idle ∨ (s.ring cl n.val).st = .halted →
        t.st = .idle ∧ t.head = 0 ∧ t.tail = 0 ∧ t.cause = 0 ∧ t.overrun = false ∧ t.refused = false ∧ t.ovrcnt = 0 ∧ t.buf = [] ∧
        t.rbase = (s.ring cl n.val).rbase ∧ t.rcfg = (s.ring cl n.val).rcfg ∧ t.donecnt = (s.ring cl n.val).donecnt) ∧
      ((s.ring cl n.val).st = .running ∨ (s.ring cl n.val).st = .stopping → t = { s.ring cl n.val with refused := true }))

/-- RING_SLOT_READ of a slot that the ring may read buffers the descriptor found there; one outside DRAM is buffered bad, with
the refusal reported; without a slot to read it does nothing. RING_DESCRIPTOR_START checks the descriptor at HEAD and halts a
bad one, holds one whose condition is not reached, and starts any other; after an overrun it halts. RING_LINE_RESPONSE of a
MOVE between two lines of the cluster's cache: the element's bytes come to its destination line, which is dirty with them,
and the ring goes on to the next element. -/
def Obligations.RingsStartAndMove : Prop :=
  (
    ∀ (s : State) (cl : Cl) (n : Rn), (s.clu cl).isl = .running → (s.ring cl n.val).kind = 0 →
      (∀ k a, (s.ring cl n.val).st = .running ∨ (s.ring cl n.val).st = .stopping → (s.ring cl n.val).nextSlot = some k →
        (s.ring cl n.val).slotAddr k = a → PermCoherent s cl →
        (∀ x, Allowed s cl a false → s.lineBusy cl (lineOf a) = false →
          x = (s.reqStatus cl a false).1.clRead cl none a 64 ((s.clu cl).cache.ownHint (lineOf a)).1 ((s.clu cl).cache.ownHint (lineOf a)).2 2 →
          x.2.2 = 0 → x.2.1.anyPoison a 64 = false → Done (.ringSlotRead cl n) s fun t =>
            t.ring cl n.val = { s.ring cl n.val with wtOut := (t.ring cl n.val).wtOut, buf := (s.ring cl n.val).buf ++ [⟨k, BitVec.ofNat 512 (leNat (x.2.1.read a 64)), false, a⟩] } ∧
            t = { s with clusters := t.clusters, rings := t.rings, dram := t.dram, mgmt := t.mgmt }) ∧
        (∀ e, Allowed s cl a false → s.lineBusy cl (lineOf a) = false → (s.clu cl).cache.line (lineOf a) = some e → e.mask = maskAll →
          (s.clu cl).cache.mem.syn = [] → a % 64 = 0 → Done (.ringSlotRead cl n) s fun t => ∃ b,
            t.ring cl n.val = { s.ring cl n.val with buf := (s.ring cl n.val).buf ++ [b] } ∧ b.num = k ∧ b.slotAddr = a ∧
            b.bad = false ∧ b.desc = BitVec.ofNat 512 (leNat ((s.clu cl).cache.mem.read a 64)) ∧ t = { s with clusters := t.clusters, rings := t.rings, mgmt := t.mgmt }) ∧
        (isDram a = false → Done (.ringSlotRead cl n) s fun t => ∃ b,
          (t.ring cl n.val) = { s.ring cl n.val with buf := (s.ring cl n.val).buf ++ [b] } ∧ b.num = k ∧ b.bad = true ∧
          (∃ e sc, t.mgmt.inbox = s.mgmt.inbox ++ [(e, sc)] ∧ e.source = 8 ∧ e.status = 3) ∧ t = { s with rings := t.rings, mgmt := t.mgmt })) ∧
      ((s.ring cl n.val).nextSlot = none → exec (.ringSlotRead cl n) s = .next s) ∧
      (∀ b, (s.ring cl n.val).headDesc = some b → (s.ring cl n.val).st = .running → (s.clu cl).brk = .none →
        ((s.ring cl n.val).overrun = false → (s.ring cl n.val).ph = .unread → s.descBad cl (s.ring cl n.val) b = none →
          dType b.desc ≠ 6 →
          (dfl b.desc 451 451 = 0 ∨ reaches (s.ctr (dfl b.desc 450 427)).value (BitVec.ofNat 32 (dfl b.desc 426 395)) = true →
            Done (.ringDescriptorStart cl n) s fun t => t.ring cl n.val = { s.ring cl n.val with
              ph := .moving, next := 0, retries := 0, sum := 0, sumBytes := 0, waitSince := none, tripped := false
              wrOld := (s.ring cl n.val).wrOld + (s.ring cl n.val).wrOut.length, wrOut := [], wtOut := [] } ∧ t.dram.mem = s.dram.mem ∧
              (∀ cl' (n' : Rn), ¬(cl' = cl ∧ n' = n) → t.ring cl' n'.val = s.ring cl' n'.val) ∧ t = { s with rings := t.rings, dram := t.dram }) ∧
          (dfl b.desc 451 451 = 1 → reaches (s.ctr (dfl b.desc 450 427)).value (BitVec.ofNat 32 (dfl b.desc 426 395)) = false →
            Done (.ringDescriptorStart cl n) s fun t => t.ring cl n.val = { s.ring cl n.val with
              ph := .waiting, waitSince := some s.now, tripped := false } ∧ t = { s with rings := t.rings })) ∧
        (∀ cause, (s.ring cl n.val).overrun = false → (s.ring cl n.val).ph = .unread → s.descBad cl (s.ring cl n.val) b = some cause →
          dTsv b.desc = false →
          Done (.ringDescriptorStart cl n) s fun t => (t.ring cl n.val).st = .halted ∧ (t.ring cl n.val).cause = cause ∧
            (t.ring cl n.val).head = (s.ring cl n.val).head ∧ (t.ring cl n.val).donecnt = (s.ring cl n.val).donecnt ∧ t.net = s.net ∧
            (∃ e sc, t.mgmt.inbox = s.mgmt.inbox ++ [(e, sc)] ∧ e.source = 7)) ∧
        ((s.ring cl n.val).overrun = true → Done (.ringDescriptorStart cl n) s fun t => (t.ring cl n.val).st = .halted ∧
          (t.ring cl n.val).cause = 7 ∧ (t.ring cl n.val).head = (s.ring cl n.val).head ∧ t.net = s.net))) ∧
  (
    ∀ (s : State) (cl : Cl) (n : Rn) (b : Buffered) (src dst : Nat) (e : Line), (s.ring cl n.val).headDesc = some b →
      (s.ring cl n.val).ph = .moving → (s.ring cl n.val).next < dElems b.desc → dType b.desc = 1 → dSrcTs b.desc = false →
      dDstTs b.desc = false → dWt b.desc = false → runLen b.desc (s.ring cl n.val).next = 1 →
      dSrc b.desc (s.ring cl n.val).next = src → dDst b.desc (s.ring cl n.val).next = dst →
      src % 128 + dEsize b.desc ≤ 128 → dst % 128 + dEsize b.desc ≤ 128 → lineOf src ≠ lineOf dst →
      PermCoherent s cl → Allowed s cl src false → Allowed s cl dst true → s.lineBusy cl (lineOf src) = false → s.lineBusy cl (lineOf dst) = false →
      (s.clu cl).cache.line (lineOf src) = some e → e.mask = maskAll → (s.clu cl).cache.mem.syn = [] →
      Done (.ringLineResponse cl n) s fun t =>
        (∀ j, j < dEsize b.desc → (t.clu cl).cache.mem.byte (dst + j) = (s.clu cl).cache.mem.byte (src + j)) ∧
        (∃ e', (t.clu cl).cache.line (lineOf dst) = some e' ∧ e'.dirty = true ∧
          e'.mask &&& maskOf (dst % 128) (dEsize b.desc) = maskOf (dst % 128) (dEsize b.desc)) ∧
        (t.ring cl n.val).next = (s.ring cl n.val).next + 1 ∧ (t.ring cl n.val).wrOut = (s.ring cl n.val).wrOut ++ [lineOf dst] ∧
        (t.ring cl n.val).sumBytes = (s.ring cl n.val).sumBytes + dEsize b.desc ∧ (t.ring cl n.val).head = (s.ring cl n.val).head ∧
        (t.ring cl n.val).st = (s.ring cl n.val).st ∧ t.counters = s.counters ∧
        (∀ cl' (n' : Rn), ¬(cl' = cl ∧ n' = n) → t.ring cl' n'.val = { s.ring cl' n'.val with wtOut := (t.ring cl' n'.val).wtOut }) ∧
        t = { s with cores := t.cores, clusters := t.clusters, rings := t.rings, dram := t.dram, mgmt := t.mgmt })

/-- RING_WRITE_RESPONSE takes off the ring's oldest unanswered write. RING_RETRY repeats a line read or written up to three times
in a descriptor; the fourth halts the ring RETRY_LIMIT, and a bus error halts it BUS_ERROR, with HEAD at the descriptor and
no pulse. RING_DESCRIPTOR_COMPLETE, once everything has been moved and the writes that must be waited for are answered,
advances HEAD and DONECNT and sends the pulse; a wrong transfer sum halts the ring instead. -/
def Obligations.RingsCompleteOrHalt : Prop :=
  ∀ (s : State) (cl : Cl) (n : Rn),
    (0 < (s.ring cl n.val).wrOld → Done (.ringWriteResponse cl n) s fun t => t.ring cl n.val = { s.ring cl n.val with wrOld := (s.ring cl n.val).wrOld - 1 } ∧
      (∀ cl' (n' : Rn), ¬(cl' = cl ∧ n' = n) → t.ring cl' n'.val = s.ring cl' n'.val) ∧ t = { s with rings := t.rings }) ∧
    ((s.ring cl n.val).wrOld = 0 → Done (.ringWriteResponse cl n) s fun t => t.ring cl n.val = { s.ring cl n.val with wrOut := (s.ring cl n.val).wrOut.drop 1 } ∧
      (∀ cl' (n' : Rn), ¬(cl' = cl ∧ n' = n) → t.ring cl' n'.val = s.ring cl' n'.val) ∧ t = { s with rings := t.rings }) ∧
    (∀ b, (s.ring cl n.val).headDesc = some b → (s.ring cl n.val).ph = .moving → dTsv b.desc = false → (s.ring cl n.val).isTask = false →
      (∀ wr, wr = false ∨ (s.ring cl n.val).wrOut ++ (s.ring cl n.val).wtOut ≠ [] →
        ((s.ring cl n.val).retries < 3 → Done (.ringRetry cl ⟨n, wr⟩) s fun t =>
          t.ring cl n.val = { s.ring cl n.val with retries := (s.ring cl n.val).retries + 1 } ∧ t = { s with rings := t.rings }) ∧
        (3 ≤ (s.ring cl n.val).retries → Done (.ringRetry cl ⟨n, wr⟩) s fun t => (t.ring cl n.val).st = .halted ∧ (t.ring cl n.val).cause = 3 ∧
          (wr = false → (t.ring cl n.val).erraddr = (dSrc b.desc (s.ring cl n.val).next % 2 ^ 39).toNat / 128 * 128) ∧
          (∀ l rest, wr = true → (s.ring cl n.val).wrOut ++ (s.ring cl n.val).wtOut = l :: rest → (t.ring cl n.val).erraddr = (128 * l) % 2 ^ 39) ∧
          (t.ring cl n.val).head = (s.ring cl n.val).head ∧ t.net = s.net ∧
          (∃ e sc, t.mgmt.inbox = s.mgmt.inbox ++ [(e, sc)] ∧ e.source = 8 ∧ e.status = 7))) ∧
      (∀ addr status, status ≠ 1 → Done (.ringBusError cl n addr status) s fun t => (t.ring cl n.val).st = .halted ∧
        (t.ring cl n.val).cause = 2 ∧ (t.ring cl n.val).erraddr = addr % 2 ^ 39 / 128 * 128 ∧ (t.ring cl n.val).head = (s.ring cl n.val).head ∧
        (t.ring cl n.val).donecnt = (s.ring cl n.val).donecnt ∧ t.net = s.net ∧ (∃ e sc, t.mgmt.inbox = s.mgmt.inbox ++ [(e, sc)] ∧ e.status = status)) ∧
      (dType b.desc = 7 ∨ dElems b.desc ≤ (s.ring cl n.val).next →
        ((s.ring cl n.val).waitsWrites b.desc = true → (s.ring cl n.val).wrOut = [] ∧ (s.ring cl n.val).wtOut = []) →
        (s.ring cl n.val).st = .running → (s.ring cl n.val).overrun = false →
        (dSumEn b.desc = false → (look PostBy.none (s.ring cl n.val).postBy b.num).slot = none → Done (.ringDescriptorComplete cl n) s fun t =>
          (t.ring cl n.val).head = (s.ring cl n.val).head + 1 ∧ (t.ring cl n.val).donecnt = (s.ring cl n.val).donecnt + 1 ∧
          (t.ring cl n.val).st = .running ∧ (t.ring cl n.val).ph = .unread ∧ (t.ring cl n.val).tail = (s.ring cl n.val).tail ∧
          t.net.flight = s.net.flight ++ (if dfl b.desc 476 476 = 0 then [] else [⟨dfl b.desc 475 452, 1, .ring cl n, s.clPart cl⟩]) ∧
          t = { s with rings := t.rings, net := t.net }) ∧
        (dSumEn b.desc = true → (s.ring cl n.val).sum ≠ dfl b.desc 63 0 → Done (.ringDescriptorComplete cl n) s fun t =>
          (t.ring cl n.val).st = .halted ∧ (t.ring cl n.val).cause = 4 ∧ (t.ring cl n.val).sumgot = BitVec.ofNat 64 (s.ring cl n.val).sum ∧
          (t.ring cl n.val).head = (s.ring cl n.val).head ∧ t.net = s.net ∧
          (∃ e sc, t.mgmt.inbox = s.mgmt.inbox ++ [(e, sc)] ∧ e.source = 9))))

/-- TASK_START of a granted candidate that is ready: its cores start at ENTRY with s1 to s5, formats, masks and seed as R118
states, and HEAD moves on; the tile store is as it was. A candidate that is no longer ready returns its grant with its
charge. -/
def Obligations.TaskStarts : Prop :=
  ∀ (s : State) (cl : Cl) (n : Rn) (b : Buffered), (s.ring cl n.val).kind = 1 → (s.ring cl n.val).granted = true →
    (s.ring cl n.val).posted = false → (s.ring cl n.val).held = [] → (s.ring cl n.val).cand = false →
    (s.ring cl n.val).candidate = some b.desc → (s.ring cl n.val).headDesc = some b → (s.ring cl n.val).overrun = false →
    s.coresMissing ((s.ring cl n.val).runsIn cl) b.desc = false →
    (s.ready cl ((s.ring cl n.val).runsIn cl) b.desc = true → s.mayStart cl ((s.ring cl n.val).runsIn cl) = true →
      Done (.taskStart cl n) s fun t =>
        (t.ring cl n.val).head = (s.ring cl n.val).head + 1 ∧ (t.ring cl n.val).granted = false ∧ (t.ring cl n.val).tail = (s.ring cl n.val).tail ∧
        (∃ r, find (t.clu ((s.ring cl n.val).runsIn cl)).tasks (s.clu ((s.ring cl n.val).runsIn cl)).nextKey = some r ∧ r.ring = n.val ∧ r.home = cl ∧
          r.desc = b.desc ∧ r.coreset = tCoreset b.desc ∧ r.start = s.now ∧ r.passed = 0 ∧ r.slot.isSome = tSpec b.desc) ∧
        (∀ c : Cn, (tCoreset b.desc).getLsbD c.val = true →
          (t.core ((s.ring cl n.val).runsIn cl) c).phase = .running ∧
          (t.core ((s.ring cl n.val).runsIn cl) c).task = some (s.clu ((s.ring cl n.val).runsIn cl)).nextKey ∧
          (t.core ((s.ring cl n.val).runsIn cl) c).npc = some (tEntry b.desc) ∧
          (t.core ((s.ring cl n.val).runsIn cl) c).reg 1 = BitVec.ofNat 64 (dfl b.desc 191 128) ∧
          (t.core ((s.ring cl n.val).runsIn cl) c).reg 2 = BitVec.ofNat 64 (dfl b.desc 127 64) ∧
          (t.core ((s.ring cl n.val).runsIn cl) c).reg 3 = BitVec.ofNat 64 (coreNumber ((s.ring cl n.val).runsIn cl) c) ∧
          (t.core ((s.ring cl n.val).runsIn cl) c).reg 4 = BitVec.ofNat 64 (tTaskId b.desc) ∧
          (t.core ((s.ring cl n.val).runsIn cl) c).reg 5 = BitVec.ofNat 64 (tCoreset b.desc).toNat ∧
          (∀ m, 6 ≤ m → (t.core ((s.ring cl n.val).runsIn cl) c).reg m = 0) ∧
          (t.core ((s.ring cl n.val).runsIn cl) c).fmtA = .bf16 ∧ (t.core ((s.ring cl n.val).runsIn cl) c).fmtB = .bf16 ∧
          (t.core ((s.ring cl n.val).runsIn cl) c).rowMask = BitVec.allOnes 32 ∧ (t.core ((s.ring cl n.val).runsIn cl) c).colMask = BitVec.allOnes 32 ∧
          (t.core ((s.ring cl n.val).runsIn cl) c).seed = BitVec.ofNat 64 (dfl b.desc 255 192) ∧
          (t.core ((s.ring cl n.val).runsIn cl) c).ts = (s.core ((s.ring cl n.val).runsIn cl) c).ts) ∧
        (∀ cl' c, ¬(cl' = (s.ring cl n.val).runsIn cl ∧ (tCoreset b.desc).getLsbD c.val = true) → t.core cl' c = s.core cl' c) ∧
        t.counters = s.counters ∧ t.dram = s.dram ∧ t.net = s.net) ∧
    (s.ready cl ((s.ring cl n.val).runsIn cl) b.desc = false → Done (.taskStart cl n) s fun t =>
      (t.ring cl n.val).granted = false ∧ (t.ring cl n.val).head = (s.ring cl n.val).head ∧
      (t.acct (acctOf ((s.ring cl n.val).runsIn cl))).dues = (s.acct (acctOf ((s.ring cl n.val).runsIn cl))).dues ++
        [⟨0, declared (tEclass b.desc), false, true, cl, n.val, tTaskId b.desc⟩] ∧ t.cores = s.cores ∧ t.clusters = s.clusters)

/-- SPEC_COMMIT begins the commit of a due slot whose task has ended, unless its discard condition is met, which prevails;
SPEC_DISCARD acts on a met discard condition, and stops a task that still runs. A completed commit puts the written bytes
(shown for a slot that wrote one line) into the ordinary lines and releases the deferred increments in order; a completed
discard drops both. Either frees the slot and tells the home steward core. -/
def Obligations.SpeculativeSlotsResolve : Prop :=
  ∀ (s : State) (cl : Cl) (k : Fin 4),
    (((s.clu cl).slot k.val).st = .ended → s.discardMet ((s.clu cl).slot k.val) = false →
      ((s.clu cl).slot k.val).due = true ∨ s.commitMet ((s.clu cl).slot k.val) = true →
      Done (.specCommit cl k) s fun t => ((t.clu cl).slot k.val).st = .committing ∧ ((t.clu cl).slot k.val).written = ((s.clu cl).slot k.val).written ∧
        (∀ j, j ≠ k.val → (t.clu cl).slot j = (s.clu cl).slot j) ∧ t = { s with clusters := t.clusters }) ∧
    (∀ i, i = .specCommit cl k ∨ i = .specDiscard cl k → s.discardMet ((s.clu cl).slot k.val) = true →
      (((s.clu cl).slot k.val).st = .ended → Done i s fun t => ((t.clu cl).slot k.val).st = .discarding ∧
        ((t.clu cl).slot k.val).cause = 0 ∧ t = { s with clusters := t.clusters, rings := t.rings }) ∧
      (∀ r, ((s.clu cl).slot k.val).st = .running → find (s.clu cl).tasks ((s.clu cl).slot k.val).taskKey = some r → Done i s fun t =>
        ((t.clu cl).slot k.val).st = .discarding ∧ ((t.clu cl).slot k.val).cause = 0 ∧
        find (t.clu cl).tasks ((s.clu cl).slot k.val).taskKey = none ∧
        (∀ c : Cn, r.coreset.getLsbD c.val = true → (t.core cl c).phase = .free ∧ (t.core cl c).task = none) ∧
        (∀ cl' c', ¬(cl' = cl ∧ r.coreset.getLsbD c'.val = true) → t.core cl' c' = s.core cl' c') ∧ t.counters = s.counters ∧ t.dram = s.dram)) ∧
    (((s.clu cl).slot k.val).st = .committing → (s.clu cl).commitsAfter k.val = false → (s.stew ((s.clu cl).slot k.val).home).evq.length < 32 →
      Done (.specCommitComplete cl k) s fun t => ((t.clu cl).slot k.val).st = .free ∧
        t.net.flight = s.net.flight ++ ((s.clu cl).slot k.val).deferq.map (fun p => { p with sender := .released cl }) ∧ t.counters = s.counters ∧
        (t.stew ((s.clu cl).slot k.val).home).evq = (s.stew ((s.clu cl).slot k.val).home).evq ++
          [evRecord 2 (tTaskId ((s.clu cl).slot k.val).desc) (unitName cl 16) [k.val * 256 + ((s.clu cl).slot k.val).dueBy, ((s.clu cl).slot k.val).written.length]] ∧
        (∀ l mask, ((s.clu cl).slot k.val).written = [(l, mask)] → (s.clu cl).cache.mem.syn = [] → ((s.clu cl).slot k.val).shadow.syn = [] →
          (∃ e, (t.clu cl).cache.line l = some e ∧ e.dirty = true) ∧
          ∀ a, a / 128 = l → mask.getLsbD (a % 128) = true → (t.clu cl).cache.mem.byte a = ((s.clu cl).slot k.val).shadow.byte a)) ∧
    (((s.clu cl).slot k.val).st = .discarding → (s.stew ((s.clu cl).slot k.val).home).evq.length < 32 →
      Done (.specDiscardComplete cl k) s fun t => (t.clu cl).slot k.val = Slot.init ∧ t.net = s.net ∧ t.counters = s.counters ∧ t.dram = s.dram ∧
        (t.clu cl).cache = (s.clu cl).cache ∧
        (t.stew ((s.clu cl).slot k.val).home).evq = (s.stew ((s.clu cl).slot k.val).home).evq ++
          [evRecord 2 (tTaskId ((s.clu cl).slot k.val).desc) (unitName cl 16) [k.val * 256 + 16 + ((s.clu cl).slot k.val).cause, ((s.clu cl).slot k.val).written.length]])

/-- WAIT_EXAMINATION at a whole 100 µs sends HANG where a wait of the cluster is at or over the timeout, and marks no wait
otherwise. WAIT_TIMEOUT freezes the partition, HUNG, with its dump taken and its dispatchers stopped; DUMP_COMPLETE gives the
dump's length, and after an abort by an error tells the host of it. MICROBATCH_DROP clears the die's bit of the step's die-
valid mask and stops the die's rings, or, while the die's shard is being restored, is kept for later. DROP_RINGS_HALTED, once
they have halted, raises the counters that it lists to their expected values, counts the drop, ends it, and tells the host;
where no micro-batch is left for a unit, the step restarts from the mirrors of the dies whose state was touched. -/
def Obligations.HangsAndDroppedMicrobatches : Prop :=
  (
    ∀ (s : State),
      (∀ cl, s.clPart cl < 16 → (s.part (s.clPart cl)).run = .running → s.anyHalted (s.clPart cl) = false → s.now % 100 = 0 →
        ((∃ w ∈ s.waitsOf cl, s.obj 0x3022 (s.clPart cl + 1) * 1000 ≤ w.age s) → Done (.waitExamination cl) s fun t =>
          (t.part (s.clPart cl)).hangDue = true ∧ (t.part (s.clPart cl)).run = .running ∧ t.counters = s.counters ∧ t.dram = s.dram ∧
          (∀ c n, (t.core cl c).reg n = (s.core cl c).reg n)) ∧
        ((∀ w ∈ s.waitsOf cl, w.age s < s.obj 0x3022 (s.clPart cl + 1) * 1000) → exec (.waitExamination cl) s = .next s)) ∧
      (∀ p : Pn, (s.part p.val).hangDue = true → (s.part p.val).run = .running → Done (.waitTimeout p) s fun t =>
        (t.part p.val).run = .hung ∧ (t.part p.val).frozen = true ∧ (t.part p.val).hangDue = false ∧ (t.part p.val).dumpDue = true ∧
        (∃ d, (t.part p.val).dump = some d ∧ d.cause = 1 ∧ d.freeze = s.now) ∧ (∀ cl ∈ s.clustersOf p.val, (t.clu cl).dispStopped = true) ∧
        t.dram = s.dram) ∧
      (∀ (p : Pn) (d : Dump), (s.part p.val).dump = some d → (s.part p.val).dumpDue = true →
        Done (.dumpComplete p) s fun t => (t.part p.val).dumpDue = false ∧ (t.part p.val).dumpBytes = (d.bytes p.val).length ∧
          (t.part p.val).dump = some d ∧ t.counters = s.counters ∧ t.dram = s.dram ∧ t.cores = s.cores ∧
          (d.cause = 3 → s.mgmt.fencedDue = false → Event s t p.val 2 (d.unit / 2 ^ 22 % 4) d.unit 0 0))) ∧
  (
    ∀ (s : State) (p : Pn) (d : Dn),
      ((s.part p.val).run = .running → (s.part p.val).dieValid.getLsbD d.val = true →
        ((s.part p.val).restoring.getLsbD d.val = false → Done (.microbatchDrop p d) s fun t =>
          (t.part p.val).dieValid = (s.part p.val).dieValid &&& ~~~BitVec.ofNat 4 (2 ^ d.val) ∧
          (t.part p.val).dropDies = (s.part p.val).dropDies ||| BitVec.ofNat 4 (2 ^ d.val) ∧ (t.part p.val).run = .running ∧
          (∀ cl ∈ s.clustersOn p.val d.val, ∀ n < 16, (t.ring cl n).st ≠ .running) ∧ t.dram = s.dram ∧ t.counters = s.counters ∧ t.net = s.net) ∧
        ((s.part p.val).restoring.getLsbD d.val = true → Done (.microbatchDrop p d) s fun t =>
          t.part p.val = { s.part p.val with dropLater := (s.part p.val).dropLater ||| BitVec.ofNat 4 (2 ^ d.val) } ∧ t = { s with parts := t.parts })) ∧
      (∀ unit ctrs, (s.part p.val).dropDies.getLsbD d.val = true →
        (∀ cl ∈ s.clustersOn p.val d.val, ∀ n < 16, (s.ring cl n).st ≠ .running ∧ (s.ring cl n).st ≠ .stopping) →
        (ctrs = [] ∨ (s.part p.val).dieValid ≠ 0 → Done (.dropRingsHalted p ⟨d, unit, ctrs⟩) s fun t =>
          (t.part p.val).dropDies = (s.part p.val).dropDies &&& ~~~BitVec.ofNat 4 (2 ^ d.val) ∧ (t.part p.val).dieValid = (s.part p.val).dieValid ∧
          t.totals.droppedMb = min (s.totals.droppedMb + 1) 4294967295 ∧
          (∀ n ∈ ctrs, nameOk n = true → s.clPart (nameCl n) = p.val → (s.part p.val).frozen = false →
            reaches (s.ctr n).expected (s.ctr n).value = true → (s.ctr n).settled = false →
            (t.ctr n).value = (s.ctr n).expected ∧ (t.ctr n).expected = (s.ctr n).expected) ∧
          (∀ n, n ∉ ctrs → t.ctr n = s.ctr n) ∧ Event s t p.val 3 d.val 0 (unit % 65536) 0 ∧ t.dram = s.dram) ∧
        (ctrs ≠ [] → (s.part p.val).dieValid = 0 → (s.part p.val).dropDies = BitVec.ofNat 4 (2 ^ d.val) →
          look 0 s.dram.touched p.val &&& (s.part p.val).runDies ≠ 0 → Done (.dropRingsHalted p ⟨d, unit, ctrs⟩) s fun t =>
            (t.part p.val).restoring = look 0 s.dram.touched p.val &&& (s.part p.val).runDies ∧ (t.part p.val).restartCause = 1 ∧
            (t.part p.val).dropDies = 0)))

/-- While no thermal trip is latched: LEDGER_REQUEST_POST of a cluster's oldest candidate that may be posted adds its entry to
the account it is to run under; LEDGER_REQUEST_WITHDRAW takes back the entry of a task that is no longer ready; LEDGER_GRANT
gives a grant to its dispatcher, and returns it with a refund where the task is no longer ready. -/
def Obligations.LedgerRequestsComeAndGo : Prop :=
  ∀ (s : State) (cl : Cl) (n : Rn) (d : BitVec 512),
    s.power.tripped = false →
    (∀ since tgt, ((s.refreshRing cl n.val).ring cl n.val).candidate = some d → ((s.refreshRing cl n.val).ring cl n.val).readySince = some since →
      (s.refreshRing cl n.val).postable cl n.val = true → ((s.refreshRing cl n.val).placedRings cl).length < 4 → (s.clu cl).dispStopped = false →
      (∀ m < 16, m ≠ n.val → (s.refreshRing cl n.val).postable cl m = true → ∃ since', ((s.refreshRing cl n.val).ring cl m).readySince = some since' ∧
        (since < since' ∨ since = since' ∧ (((s.refreshRing cl n.val).ring cl n.val).readyRank < ((s.refreshRing cl n.val).ring cl m).readyRank ∨
          ((s.refreshRing cl n.val).ring cl n.val).readyRank = ((s.refreshRing cl n.val).ring cl m).readyRank ∧ n.val < m))) →
      (if tReloc d = true then (s.refreshRing cl n.val).placement cl d = some tgt else tgt = cl) →
      Done (.ledgerRequestPost cl n) s fun t =>
        t.acct (acctOf tgt) = { s.acct (acctOf tgt) with reqs := (s.acct (acctOf tgt)).reqs ++ [⟨cl, n.val, tEclass d, since, ((s.refreshRing cl n.val).ring cl n.val).readyRank, tgt⟩] } ∧
        (∀ a, a ≠ acctOf tgt → t.acct a = s.acct a) ∧
        (t.ring cl n.val).posted = true ∧ (t.ring cl n.val).granted = false ∧ (t.ring cl n.val).head = (s.ring cl n.val).head ∧
        t = { s with rings := t.rings, accts := t.accts }) ∧
    (((s.refreshRing cl n.val).ring cl n.val).readySince = none → (s.ring cl n.val).posted = true → (s.ring cl n.val).granted = false →
      Done (.ledgerRequestWithdraw cl n) s fun t =>
        (t.acct (acctOf ((s.ring cl n.val).runsIn cl))).reqs =
          (s.acct (acctOf ((s.ring cl n.val).runsIn cl))).reqs.filter (fun q => !(decide (q.cl = cl) && decide (q.ring = n.val))) ∧
        (t.acct (acctOf ((s.ring cl n.val).runsIn cl))).credit = (s.acct (acctOf ((s.ring cl n.val).runsIn cl))).credit ∧
        (t.ring cl n.val).posted = false ∧ (t.ring cl n.val).granted = false ∧ (t.ring cl n.val).target = none ∧
        (t.ring cl n.val).head = (s.ring cl n.val).head ∧ t = { s with rings := t.rings, accts := t.accts }) ∧
    ((s.ring cl n.val).candidate = some d → (s.ring cl n.val).granted = true → (s.ring cl n.val).posted = true →
      (s.ready cl ((s.ring cl n.val).runsIn cl) d = true → (s.clu cl).dispStopped = false → Done (.ledgerGrant cl n) s fun t =>
        t.ring cl n.val = { s.ring cl n.val with posted := false } ∧ (∀ cl' (n' : Rn), ¬(cl' = cl ∧ n' = n) → t.ring cl' n'.val = s.ring cl' n'.val) ∧
        t = { s with rings := t.rings }) ∧
      (s.ready cl ((s.ring cl n.val).runsIn cl) d = false → Done (.ledgerGrant cl n) s fun t =>
        (t.ring cl n.val).posted = false ∧ (t.ring cl n.val).granted = false ∧ (t.ring cl n.val).head = (s.ring cl n.val).head ∧
        (t.acct (acctOf ((s.ring cl n.val).runsIn cl))).dues = (s.acct (acctOf ((s.ring cl n.val).runsIn cl))).dues ++
          [⟨0, declared (tEclass d), false, true, cl, n.val, tTaskId d⟩] ∧
        (t.acct (acctOf ((s.ring cl n.val).runsIn cl))).credit = (s.acct (acctOf ((s.ring cl n.val).runsIn cl))).credit ∧
        t = { s with rings := t.rings, accts := t.accts }))

/-- While no thermal trip is latched, LEDGER_CYCLE admits the oldest entry that the credit allows, at its declared energy, and
none while the guard holds admission; from 1,000 µs of age the oldest entry goes first, and only when the credit is not
negative. A true-up of the cycle corrects the credit between its least and its cap, and the under-declaration score.
CREDIT_REFILL at every whole 10 µs, while no thermal trip is latched, sets each account's share of the package limit, nothing
for a fenced die, and its cap, and adds ten microseconds of the share less the background; CREDIT_STARVED, after 100 periods
without a positive refill, is counted and told to the account's steward cores. -/
def Obligations.LedgerCyclesAndRefill : Prop :=
  (
    ∀ (s : State) (a : Ac), s.power.tripped = false →
      (∀ q ∈ (s.acct a.val).reqs, (s.acct a.val).dues = [] → s.power.hold = false → (∀ x ∈ (s.acct a.val).reqs, x ≠ q → q.before x = true) →
        ((∀ x ∈ (s.acct a.val).reqs, s.now - x.ready < 1000) → (declared q.eclass : Int) ≤ (s.acct a.val).credit →
          Done (.ledgerCycle a) s fun t =>
            (t.acct a.val).credit = max (-(2 ^ 47)) ((s.acct a.val).credit - declared q.eclass) ∧
            (t.acct a.val).reqs = (s.acct a.val).reqs.filter (fun x => x ≠ q) ∧ (t.acct a.val).admissions = (s.acct a.val).admissions + 1 ∧
            (t.acct a.val).guardAdmits = (s.acct a.val).guardAdmits ∧ (t.acct a.val).cap = (s.acct a.val).cap ∧
            t.ring q.cl q.ring = { s.ring q.cl q.ring with granted := true, grantAge := s.now - q.ready } ∧
            (∀ b, b ≠ a.val → t.acct b = s.acct b) ∧ t = { s with rings := t.rings, accts := t.accts }) ∧
        (1000 ≤ s.now - q.ready → 0 ≤ (s.acct a.val).credit → Done (.ledgerCycle a) s fun t =>
            (t.acct a.val).credit = max (-(2 ^ 47)) ((s.acct a.val).credit - declared q.eclass) ∧
            (t.acct a.val).guardAdmits = (s.acct a.val).guardAdmits + 1 ∧ (t.ring q.cl q.ring).granted = true ∧
            t = { s with rings := t.rings, accts := t.accts }) ∧
        (1000 ≤ s.now - q.ready → (s.acct a.val).credit < 0 → Done (.ledgerCycle a) s fun t =>
            t.acct a.val = s.acct a.val ∧ t = { s with accts := t.accts })) ∧
      ((s.acct a.val).dues = [] → s.power.hold = true → Done (.ledgerCycle a) s fun t => t.acct a.val = s.acct a.val ∧ t = { s with accts := t.accts }) ∧
      (∀ u, (s.acct a.val).dues = [u] → s.power.hold = true → (s.acct a.val).score < 60 → Done (.ledgerCycle a) s fun t =>
        (t.acct a.val).dues = [] ∧ (t.acct a.val).reqs = (s.acct a.val).reqs ∧ t = { s with accts := t.accts } ∧
        (t.acct a.val).credit = max (-(2 ^ 47)) (min (s.acct a.val).cap ((s.acct a.val).credit +
          (if u.refund then (u.d : Int) else if u.selftest then -(u.em : Int) else u.d - u.em))) ∧
        (t.acct a.val).score = if u.refund ∨ u.selftest then (s.acct a.val).score
          else if (u.d = 0 ∧ 256 < u.em) ∨ (u.d ≠ 0 ∧ 5 * u.d < 4 * u.em) then (s.acct a.val).score + 4 else (s.acct a.val).score - 1) ∧
      (∀ u, (s.acct a.val).dues = [u] → s.power.hold = true → u.refund = false → u.selftest = false → u.d ≠ 0 → 5 * u.d < 4 * u.em →
        60 ≤ (s.acct a.val).score → Done (.ledgerCycle a) s fun t => (t.acct a.val).score = 0 ∧
          t.power.underDeclared = min (s.power.underDeclared + 1) 4294967295 ∧
          ((s.stew u.home).evq.length < 32 → (t.stew u.home).evq = (s.stew u.home).evq ++ [evRecord 8 u.taskId (unitName u.home 16) [a.val, u.ring, u.d, u.em]]))) ∧
  (
    ∀ (s : State),
      (s.now % 10 = 0 → s.power.tripped = false → Done .creditRefill s fun t => (∀ a, a < 16 → ∃ (S : Nat → Nat) (net : Int),
            (∀ k, S k = if s.fabric.dieFenced.getLsbD (a / 4) = true then 0 else
              (s.obj 0x2001 1 - 70) * k / ((List.range 4).filter fun d => !s.fabric.dieFenced.getLsbD d).length) ∧
            net = S 640 - (s.acct a).background ∧
            (t.acct a).share = S 250 ∧ (t.acct a).cap = S 6400 ∧ (t.acct a).background = 0 ∧
          (t.acct a).credit = max (-(2 ^ 47)) (min (t.acct a).cap ((s.acct a).credit + net)) ∧
          (t.acct a).reqs = (s.acct a).reqs ∧ (t.acct a).score = (s.acct a).score ∧
          (s.granOwner a < 16 → s.hasRun (s.granOwner a) = true → (s.acct a).starved < 100 →
            (0 < net → (t.acct a).starved = 0) ∧ (net ≤ 0 → (s.acct a).starved < 99 → (t.acct a).starved = (s.acct a).starved + 1) ∧
            (net ≤ 0 → (s.acct a).starved = 99 → (t.acct a).starved = 0 ∧ (t.acct a).starvedDue = true)) ∧
          (s.hasRun (s.granOwner a) = false → (s.acct a).starved < 100 → (t.acct a).starved = (s.acct a).starved)) ∧
        t = { s with accts := t.accts }) ∧
      (s.now % 10 ≠ 0 ∨ s.power.tripped = true → exec .creditRefill s = .next s) ∧
      (∀ a : Ac, (s.acct a.val).starvedDue = true → s.power.tripped = false → Done (.creditStarved a) s fun t => t.acct a.val = { s.acct a.val with starvedDue := false } ∧
        t.power.creditStarved = min (s.power.creditStarved + 1) 4294967295 ∧
        (∀ cl, acctOf cl = a.val → (s.stew cl).evq.length < 32 → (t.stew cl).evq =
          (s.stew cl).evq ++ [evRecord 7 0 (unitName cl 16) [a.val, (BitVec.ofInt 64 (s.acct a.val).lastNet).toNat]]) ∧
        (∀ cl, acctOf cl ≠ a.val → t.stew cl = s.stew cl) ∧ t = { s with stewards := t.stewards, accts := t.accts, power := t.power }))

/-- The package guard: GUARD_SAMPLE counts the samples above the limit in a row and, while the guard acts, steps every island
down at each sample above it and releases admission at the first that is not. GUARD_START begins at 80 samples in a row or
one above 2,100 W; GUARD_STEP_UP steps back up after ten good samples. -/
def Obligations.GuardHoldsThePackageLimit : Prop :=
  ∀ (s : State),
    (∀ hub d0 d1 d2 d3,
      (s.obj 0x2001 1 < hub + d0 + d1 + d2 + d3 → s.power.hold = false → Done (.guardSample hub d0 d1 d2 d3) s fun t =>
        t.power.aboveRun = s.power.aboveRun + 1 ∧ t.power.goodRun = 0 ∧ t.power.g = s.power.g ∧ t.power.hold = false ∧
        t.power.pkg = hub + d0 + d1 + d2 + d3 ∧ t.power.lastAbove2100 = decide (2100 < hub + d0 + d1 + d2 + d3) ∧ t = { s with power := t.power }) ∧
      (s.obj 0x2001 1 < hub + d0 + d1 + d2 + d3 → s.power.hold = true → Done (.guardSample hub d0 d1 d2 d3) s fun t =>
        t.power.g = min 15 (s.power.g + 1) ∧ t.power.stepdowns = s.power.stepdowns + 1 ∧ t.power.hold = true ∧ t = { s with power := t.power }) ∧
      (hub + d0 + d1 + d2 + d3 ≤ s.obj 0x2001 1 → s.power.hold = true → Done (.guardSample hub d0 d1 d2 d3) s fun t =>
        t.power.hold = false ∧ t.power.g = s.power.g ∧ t.power.aboveRun = 0 ∧ t.mgmt.logCount = (s.mgmt.logCount + 1) % 2 ^ 32 ∧
        t = { s with power := t.power, mgmt := t.mgmt }) ∧
      (hub + d0 + d1 + d2 + d3 ≤ s.obj 0x2001 1 → s.power.hold = false → Done (.guardSample hub d0 d1 d2 d3) s fun t =>
        t.power.aboveRun = 0 ∧ t.power.goodRun = s.power.goodRun + 1 ∧ t.power.g = s.power.g ∧ t = { s with power := t.power })) ∧
    (s.power.hold = false → (80 ≤ s.power.aboveRun ∨ s.power.lastAbove2100 = true) → Done .guardStart s fun t => t.power.hold = true ∧
      t.power.guardStarts = min (s.power.guardStarts + 1) 4294967295 ∧ t.power.g = s.power.g ∧ t = { s with power := t.power }) ∧
    (s.power.aboveRun < 80 → s.power.lastAbove2100 = false → exec .guardStart s = .next s) ∧
    (s.power.hold = false → 0 < s.power.g → 10 ≤ s.power.goodRun → Done .guardStepUp s fun t =>
      t = { s with power := { s.power with g := s.power.g - 1, goodRun := s.power.goodRun - 10 } }) ∧
    (s.power.goodRun < 10 ∨ s.power.g = 0 ∨ s.power.hold = true → exec .guardStepUp s = .next s)

/-- Heat and clock steps: a cluster's sample above 95 °C raises its step-down count, ten in a row below 92 °C lower it, others
change nothing; CLOCK_STEP_CHANGE takes the step of R174; a sensor at 110 °C trips the device, once, and its pin falls.
MONITOR_SAMPLE books measured energy: a cluster's array energy in equal parts on its counted cores, to the task of each or to
the account's background, and its rail's energy, a channel's and a quarter of a die's fabric to the background. -/
def Obligations.HeatAndMeasuredEnergy : Prop :=
  (
    ∀ (s : State),
      (∀ (cl : Cl) (temp : Int),
        (380 < temp → Done (.thermalSample (.cluster cl) temp) s fun t =>
          t.clu cl = { s.clu cl with temp := temp, therm := min 15 ((s.clu cl).therm + 1), coolRun := 0 } ∧
          (∀ cl', cl' ≠ cl → t.clu cl' = s.clu cl') ∧ t = { s with clusters := t.clusters, power := t.power } ∧
          t.power = { s.power with thermalStepdowns := t.power.thermalStepdowns }) ∧
        (temp ≤ 380 → Done (.thermalSample (.cluster cl) temp) s fun t =>
          t.clu cl = { s.clu cl with temp := temp, coolRun := if temp < 368 then (s.clu cl).coolRun + 1 else 0 } ∧ t = { s with clusters := t.clusters }) ∧
        (10 ≤ (s.clu cl).coolRun → Done (.thermalStepRecover cl) s fun t =>
          t.clu cl = { s.clu cl with therm := (s.clu cl).therm - 1, coolRun := 0 } ∧ t = { s with clusters := t.clusters }) ∧
        ((s.clu cl).coolRun < 10 → exec (.thermalStepRecover cl) s = .next s) ∧
        (Done (.clockStepChange cl) s fun t => t.clu cl = { s.clu cl with step := min (min (s.obj 0x4001 1) (if s.clPart cl < 16 then s.obj 0x4010 (s.clPart cl + 1) else 15)) (15 - (s.clu cl).therm - s.power.g) } ∧
          (∀ cl', cl' ≠ cl → t.clu cl' = s.clu cl') ∧ t = { s with clusters := t.clusters })) ∧
      (∀ (r : Sensor) (temp : Int),
        (440 ≤ temp → s.power.tripped = false → Done (.thermalTrip r temp) s fun t => t.power.tripped = true ∧ t.pins.thermtripN = false ∧
          (∀ cl, (t.clu cl).isl = .held) ∧ t.mgmt.logCount = (s.mgmt.logCount + 1) % 2 ^ 32 ∧ t.cores = s.cores ∧ t.rings = s.rings) ∧
        (temp < 440 ∨ s.power.tripped = true → exec (.thermalTrip r temp) s = .next s))) ∧
  (
    ∀ (s : State),
      (∀ (cl : Cl) (arr vcl : Nat), (∀ c : Cn, s.mapEntry (12 * cl.val + c.val) = 0 ∧ (s.phy (12 * cl.val + c.val)).testing = false ∧ (s.core cl c).task = none) →
        Done (.monitorSample (.cluster cl arr vcl)) s fun t =>
          t.acct (acctOf cl) = { s.acct (acctOf cl) with background := (s.acct (acctOf cl)).background + 12 * (arr / 12) + vcl } ∧
          (∀ a, a ≠ acctOf cl → t.acct a = s.acct a) ∧ t.clu cl = { s.clu cl with vddArr := arr, vddCl := vcl } ∧
          t = { s with clusters := t.clusters, accts := t.accts }) ∧
      (∀ (cl : Cl) (arr vcl key : Nat) (r : TaskRun) (one : Cn), s.mapEntry (12 * cl.val + one.val) = 0 → (s.phy (12 * cl.val + one.val)).testing = false →
        (∀ c : Cn, c ≠ one → mapState (s.mapEntry (12 * cl.val + c.val)) = 3 ∧ (s.phy (12 * cl.val + c.val)).testing = false) →
        (s.core cl one).task = some key → find (s.clu cl).tasks key = some r →
        Done (.monitorSample (.cluster cl arr vcl)) s fun t =>
          find (t.clu cl).tasks key = some { r with energy := r.energy + arr } ∧
          (t.acct (acctOf cl)).background = (s.acct (acctOf cl)).background + vcl ∧ t = { s with clusters := t.clusters, accts := t.accts }) ∧
      (∀ (ch : Ch) (e : Nat), Done (.monitorSample (.channel ch e)) s fun t =>
        (∀ cl, chanOf cl = ch.val → (t.acct (acctOf cl)).background = (s.acct (acctOf cl)).background + e) ∧ t = { s with accts := t.accts }) ∧
      (∀ (d : Dn) (e : Nat), Done (.monitorSample (.fabric d e)) s fun t =>
        (∀ q, q < 4 → t.acct (4 * d.val + q) = { s.acct (4 * d.val + q) with background := (s.acct (4 * d.val + q)).background + e / 4 }) ∧
        t = { s with accts := t.accts }))

/-- The self-test of an enabled core: it falls due c/12 of the interval after the start of the run and then an interval after
each start; it starts when its core holds no task; a pass leaves the core usable with its accumulator empty and its masks
full and books its energy; a failure is told to the host, counts as a fault of the step, and is decided by R44's table on the
cells that are reported; a programmed fuse takes effect and the test runs again; a core that is retired has STATE 3 and its
fuse blown. A spare that fails is set to STATE 2. COPPICE_REMAP gives the logical name to the spare that R193 prefers, with
its tile store cleared and its island powered, or lowers the enabled count where the die has no spare; after a reset
REMAP_REESTABLISH does so for each retired core and then marks the die. SPARE_SELFTEST_DUE powers a gated island up for its
spares' tests, and CLUSTER_POWER_GATE gates an idle island that no partition owns, its cache written back and empty. -/
def Obligations.SelfTestsRemapsAndPowerGating : Prop :=
  (
    ∀ (s : State) (cl : Cl) (c : Cn) (home : Cl) (name : Cn), servedName (coreKey cl c) (s.mapEntry (coreKey cl c)) = (home, name) →
      (s.coreState (coreKey cl c) = 0 ∨ s.coreState (coreKey cl c) = 4 →
        (∀ due, s.clPart home < 16 → (s.part (s.clPart home)).run = .running → (s.phy (coreKey cl c)).testing = false →
          ((s.phy (coreKey cl c)).prevStart = 0 ∧ due = (s.part (s.clPart home)).startAt + name.val * (s.obj 0x3024 (s.clPart home + 1) * 1000) / 12 ∨
            (s.part (s.clPart home)).startAt ≤ (s.phy (coreKey cl c)).prevStart ∧ (s.phy (coreKey cl c)).prevStart ≠ 0 ∧
            due = (s.phy (coreKey cl c)).prevStart + s.obj 0x3024 (s.clPart home + 1) * 1000) →
          (due ≤ s.now → Done (.selftestDue cl c) s fun t => t.phy (coreKey cl c) = { s.phy (coreKey cl c) with testDue := true } ∧
            t = { s with fabric := t.fabric }) ∧
          (s.now < due → exec (.selftestDue cl c) s = .next s)) ∧
        ((s.phy (coreKey cl c)).testDue = true → (s.phy (coreKey cl c)).testing = false → (s.clu cl).isl = .running →
          ((s.core home name).task = none → (s.core home name).phase = .free → Done (.selftestStart cl c) s fun t =>
            (t.phy (coreKey cl c)).testing = true ∧ (t.phy (coreKey cl c)).testDue = false ∧ (t.phy (coreKey cl c)).prevStart = s.now ∧
            t.fabric.selftestRuns = min (s.fabric.selftestRuns + 1) 4294967295 ∧ t = { s with fabric := t.fabric }) ∧
          ((s.core home name).task ≠ none → exec (.selftestStart cl c) s = .next s)) ∧
        ((s.phy (coreKey cl c)).testing = true →
          (Done (.selftestEnd cl c [] false) s fun t => (t.phy (coreKey cl c)).testing = false ∧ (t.phy (coreKey cl c)).lastPass = s.now ∧
            (t.core home name).acc = [] ∧ (t.core home name).accPoison = 0 ∧
            (t.core home name).rowMask = BitVec.allOnes 32 ∧ (t.core home name).colMask = BitVec.allOnes 32 ∧
            (t.acct (acctOf home)).dues = (s.acct (acctOf home)).dues ++ [⟨(s.phy (coreKey cl c)).testEnergy, 0, true, false, home, 0, 0⟩] ∧
            t.coreState (coreKey cl c) = s.coreState (coreKey cl c) ∧
            t = { s with cores := t.cores, stewards := t.stewards, rings := t.rings, counters := t.counters, accts := t.accts, fabric := t.fabric, parts := t.parts } ∧
            ((∀ p < 16, (s.part p).releaseDue = false) → t = { s with cores := t.cores, accts := t.accts, fabric := t.fabric })) ∧
          (∀ f rest more, (∀ g ∈ f :: rest, g.row ≠ rowSkip (s.phy (coreKey cl c)).repair ∧ g.col ≠ colSkip (s.phy (coreKey cl c)).repair) →
            Done (.selftestEnd cl c (f :: rest) more) s fun t => (t.phy (coreKey cl c)).testing = false ∧
              t.fabric.selftestFails = min (s.fabric.selftestFails + 1) 4294967295 ∧ t.dram = s.dram ∧ t.rings = s.rings ∧
              Event s t (s.clPart home) 0x0C (dieOf home) (unitName home name.val)
                (Config.selftestWords (s.phy (coreKey cl c)).lastPass (s.phy (coreKey cl c)).passStep % 65536)
                (Config.selftestWords (s.phy (coreKey cl c)).lastPass (s.phy (coreKey cl c)).passStep / 65536 % 2 ^ 32) ∧
              (s.clPart home < 16 → (s.part (s.clPart home)).run = .running → coreKey home name ∈ (t.part (s.clPart home)).faults) ∧
              (ifrValid (s.phy (coreKey cl c)).repair = false → (∀ g ∈ rest, g.row = f.row) →
                ((∃ g ∈ rest, g.col ≠ f.col) ∨ testCol (s.phy (coreKey cl c)).repair ≠ 32) →
                (testRow (s.phy (coreKey cl c)).repair = 32 → (s.phy (coreKey cl c)).spareRowSpent = false →
                  (t.phy (coreKey cl c)).fuseWait = some (false, f.row)) ∧
                (testRow (s.phy (coreKey cl c)).repair ≠ 32 → (t.phy (coreKey cl c)).retireDue = true)) ∧
              (ifrValid (s.phy (coreKey cl c)).repair = false → (∀ g ∈ rest, g.col = f.col) →
                (testCol (s.phy (coreKey cl c)).repair = 32 → (s.phy (coreKey cl c)).spareColSpent = false →
                  (t.phy (coreKey cl c)).fuseWait = some (true, f.col)) ∧
                (testCol (s.phy (coreKey cl c)).repair ≠ 32 → (∃ g ∈ rest, g.row ≠ f.row) → (t.phy (coreKey cl c)).retireDue = true)) ∧
              (ifrValid (s.phy (coreKey cl c)).repair = true ∨ ((∃ g ∈ rest, g.row ≠ f.row) ∧ ∃ g ∈ rest, g.col ≠ f.col) →
                (t.phy (coreKey cl c)).retireDue = true ∧ (t.phy (coreKey cl c)).fuseWait = (s.phy (coreKey cl c)).fuseWait))) ∧
        ((s.core home name).task = none → Done (.coreRetire cl c) s fun t => t.coreState (coreKey cl c) = 3 ∧
          (t.phy (coreKey cl c)).repair = (s.phy (coreKey cl c)).repair ||| 0x80000000#32 ∧
          look Phys.init.repair t.fw.fuses.repair (coreKey cl c) = (s.phy (coreKey cl c)).repair ||| 0x80000000#32 ∧
          (t.core home name).acc = [] ∧ (t.core home name).phase = Core.init.phase ∧ t.dram = s.dram ∧ t.clusters = s.clusters)) ∧
      (s.coreState (coreKey cl c) = 1 → (s.phy (coreKey cl c)).testing = true → ∀ f, f.row ≠ rowSkip (s.phy (coreKey cl c)).repair →
        f.col ≠ colSkip (s.phy (coreKey cl c)).repair → Done (.selftestEnd cl c [f] false) s fun t => t.coreState (coreKey cl c) = 2 ∧
          t.cores = s.cores ∧ t.accts = s.accts ∧ t.dram = s.dram) ∧
      (∀ (col : Bool) (idx : Nat), (s.phy (coreKey cl c)).fuseWait = some (col, idx) → idx ≤ 32 →
        (Done (.ifrFuseProgrammed cl c true) s fun t => ifrValid (t.phy (coreKey cl c)).repair = true ∧
          (t.phy (coreKey cl c)).repair.getLsbD 24 = col ∧ ((t.phy (coreKey cl c)).repair.toNat / 2 ^ 18 % 64) = idx ∧
          (if col then colSkip (t.phy (coreKey cl c)).repair = idx else rowSkip (t.phy (coreKey cl c)).repair = idx) ∧
          (t.phy (coreKey cl c)).testDue = true ∧ (t.phy (coreKey cl c)).fuseWait = none ∧ t.cores = s.cores ∧
          look Phys.init.repair t.fw.fuses.repair (coreKey cl c) = (t.phy (coreKey cl c)).repair) ∧
        (Done (.ifrFuseProgrammed cl c false) s fun t => (t.phy (coreKey cl c)).retireDue = true ∧ (t.phy (coreKey cl c)).fuseWait = none ∧
          (t.phy (coreKey cl c)).repair = (s.phy (coreKey cl c)).repair ∧ t.cores = s.cores))) ∧
  (
    ∀ (s : State) (cl : Cl) (c : Cn),
      (coreKey cl c ∈ s.fabric.remapDue →
        (∀ i spare, i / 768 = dieOf cl → spare = (Fin.ofNat 256 (i / 12) : Cl) → s.coreState i = 1 → (s.phy i).busy = false →
          (∀ j, j / 768 = dieOf cl → j ≠ i → s.coreState j = 1 → (s.phy j).busy = false →
            sparePreference cl spare < sparePreference cl (Fin.ofNat 256 (j / 12)) ∨
            sparePreference cl spare = sparePreference cl (Fin.ofNat 256 (j / 12)) ∧ i < j) →
          Done (.coppiceRemap cl c) s fun t => mapState (t.mapEntry i) = 4 ∧ servedName i (t.mapEntry i) = (cl, c) ∧
            (∀ j, j ≠ i → t.mapEntry j = s.mapEntry j) ∧ (t.core cl c).ts = Mem.empty ∧ (t.core cl c).regs = (s.core cl c).regs ∧
            coreKey cl c ∉ t.fabric.remapDue ∧ ((s.clu spare).isl = .gated → (t.clu spare).isl = .running) ∧
            t.dram = s.dram ∧ t.fabric.mapGen = s.fabric.mapGen ∧ ((∀ p < 16, (s.part p).releaseDue = false) → t.counters = s.counters)) ∧
        (s.sparesOf (dieOf cl) = 0 → Done (.coppiceRemap cl c) s fun t => t.fabric.coreMap = s.fabric.coreMap ∧
          t.fabric.mapGen = s.fabric.mapGen + 1 ∧ t.fabric.gradeNow = 0x44 ∧ coreKey cl c ∉ t.fabric.remapDue ∧
          t.clusters = s.clusters ∧ t.dram = s.dram ∧ ((∀ p < 16, (s.part p).releaseDue = false) → t.cores = s.cores ∧ t.counters = s.counters))) ∧
      (∀ d : Dn, s.fabric.remapped.getLsbD d.val = false → s.dieReleased d.val = true →
        (∀ i, i / 768 = d.val → s.coreState i = 1 → (s.phy i).busy = false) → (∀ p, p < 16 → (s.part p).startReq = false) →
        ((∀ i, i / 768 = d.val → s.coreState i ≠ 3) → Done (.remapReestablish d) s fun t =>
          t = { s with fabric := { s.fabric with remapped := s.fabric.remapped ||| BitVec.ofNat 4 (2 ^ d.val) } }) ∧
        (∀ r, r / 768 = d.val → s.coreState r = 3 → mapState (look 0 s.fw.fuses.coreMap r) = 0 → (∀ i, i / 768 = d.val → i ≠ r → s.coreState i ≠ 3) →
          (s.sparesOf d.val = 0 → Done (.remapReestablish d) s fun t => t.fabric.gradeNow = 0x44 ∧ t.fabric.coreMap = s.fabric.coreMap ∧
            t.fabric.remapped.getLsbD d.val = true ∧ t.cores = s.cores) ∧
          (∀ i, i / 768 = d.val → s.coreState i = 1 → (∀ j, j / 768 = d.val → j ≠ i → s.coreState j ≠ 1) → Done (.remapReestablish d) s fun t =>
            servedName i (t.mapEntry i) = servedName r 0 ∧ mapState (t.mapEntry i) = 4 ∧ (∀ j, j ≠ i → t.mapEntry j = s.mapEntry j) ∧
            t.fabric.remapped.getLsbD d.val = true ∧ t.fabric.mapGen = s.fabric.mapGen))) ∧
      ((∃ k : Cn, s.coreState (coreKey cl k) = 1 ∧ (s.phy (coreKey cl k)).testing = false ∧ (s.phy (coreKey cl k)).prevStart + 600000000 ≤ s.now) →
        (s.clu cl).isl = .running ∨ (s.clu cl).isl = .gated → Done (.spareSelftestDue cl) s fun t => (t.clu cl).isl = .running ∧
          (∀ k : Cn, (s.coreState (coreKey cl k) = 1 ∧ (s.phy (coreKey cl k)).testing = false ∧ (s.phy (coreKey cl k)).prevStart + 600000000 ≤ s.now →
              t.phy (coreKey cl k) = { s.phy (coreKey cl k) with testDue := true }) ∧
            (¬(s.coreState (coreKey cl k) = 1 ∧ (s.phy (coreKey cl k)).testing = false ∧ (s.phy (coreKey cl k)).prevStart + 600000000 ≤ s.now) →
              t.phy (coreKey cl k) = s.phy (coreKey cl k))) ∧
          t = { s with clusters := t.clusters, fabric := t.fabric }) ∧
      ((s.clu cl).isl = .running → s.clPart cl = 0xFF → s.clusterIdle cl = true → Done (.clusterPowerGate cl) s fun t =>
        (t.clu cl).isl = .gated ∧ (t.clu cl).cache.lines = [] ∧ (t.clu cl).cache.mem = Mem.empty ∧ OnlyMemory s t ∧
        ((∀ e ∈ (s.clu cl).cache.lines, e.2.dirty = false) → s.dram.wq = [] → t.dram = s.dram)) ∧
      (s.clPart cl < 16 → exec (.clusterPowerGate cl) s = .next s))

/-- Crossings and links, while no thermal trip is latched. A flit whose way is open: of another partition, it is answered with
status 4 and reported; let in, with 0, its words checked and those of a write put into the cluster cache; at a fenced or
gated island a request is answered with 5 or 6 and another flit is discarded and counted; before the island's release it
fills a FIFO of 8. A flit that meets a link that is not up waits at its edge router. Link CRC failures are replayed and
counted; the 17th replay in a millisecond, and a failed lane, retrain the link; a training that ends well brings it up, at
half width where a lane was lost without a spare in its direction, and one that fails, or the third within a second, takes it
down. -/
def Obligations.CrossingsAndLinks : Prop :=
  ∀ (s : State), s.power.tripped = false →
    (∀ (f : Flit), s.flitRoute f ≠ [] → (∀ c, f.src = some c → (s.clu c).isl ≠ .fenced ∧ s.pathFenced (dieOf c) (dieOf f.dst) = false) →
      (∀ h, s.flitStops f = some h → Done (arrives f) s fun t => t.buffer (bufKey h f.kind) = s.buffer (bufKey h f.kind) ++ [f] ∧
        t = { s with fabric := t.fabric }) ∧
      (s.flitStops f = none →
        ((s.clu f.dst).isl = .running → f.kind ≠ .response → f.part ≠ s.clPart f.dst → Done (arrives f) s fun t =>
          (t.clu (f.src.getD f.dst)).flit = 4 ∧ (∃ e, t.mgmt.inbox = s.mgmt.inbox ++ [e] ∧ e.1.status = 4 ∧ e.1.part = f.part) ∧
          t = { s with clusters := t.clusters, mgmt := t.mgmt }) ∧
        ((s.clu f.dst).isl = .running → f.kind = .response ∨ f.kind = .request ∧ f.part = s.clPart f.dst → verdict f.header = .clean → Done (arrives f) s fun t =>
          (t.clu (f.src.getD f.dst)).flit = 0 ∧ t = { s with clusters := t.clusters, mgmt := t.mgmt } ∧
          ((∀ x ∈ f.words, wordVerdict x = .clean) → t.mgmt = s.mgmt) ∧
          (∀ x, f.words = [x] → (wordVerdict x = .uncorrectable → ∃ e, t.mgmt.inbox = s.mgmt.inbox ++ [e] ∧ e.1.cls = 1) ∧
            (∀ sym p, wordVerdict x = .corrected sym p → ∃ e, t.mgmt.inbox = s.mgmt.inbox ++ [e] ∧ e.1.cls = 0))) ∧
        ((s.clu f.dst).isl = .running → f.kind = .write → f.part = s.clPart f.dst → Done (arrives f) s fun t =>
          (t.clu (f.src.getD f.dst)).flit = 0 ∧ OnlyMemory s t ∧
          ∃ e, (t.clu f.dst).cache.line f.line = some e ∧ e.dirty = true ∧ e.mask &&& maskOf 0 (16 * f.words.length) = maskOf 0 (16 * f.words.length)) ∧
        ((s.clu f.dst).isl = .fenced ∨ (s.clu f.dst).isl = .gated → Done (arrives f) s fun t => t = { s with clusters := t.clusters } ∧
          (f.kind = .request → (t.clu (f.src.getD f.dst)).flit = (if (s.clu f.dst).isl = .fenced then 5 else 6)) ∧
          (f.kind ≠ .request → (t.clu f.dst).discards = (s.clu f.dst).discards + 1)) ∧
        ((s.clu f.dst).isl = .held → (s.clu f.dst).xing.length < 8 → Done (arrives f) s fun t =>
          (t.clu f.dst).xing = (s.clu f.dst).xing ++ [f] ∧ t = { s with clusters := t.clusters }))) ∧
    (∀ l : Ln,
      ((s.link l.val).st = .up →
        (Done (.linkCrcFail l) s fun t => (t.link l.val).replays = (s.link l.val).replays + 1 ∧ (t.link l.val).st = .up ∧
          (∃ e, t.mgmt.inbox = s.mgmt.inbox ++ [e] ∧ e.1.cls = 0) ∧ t = { s with fabric := t.fabric, mgmt := t.mgmt }) ∧
        (16 < ((s.link l.val).winReplays.filter fun x => s.now < x + 1000).length → Done (.linkReplayLimit l) s fun t =>
          (t.link l.val).st = .retraining ∧ (t.link l.val).retrains = (s.link l.val).retrains + 1 ∧
          (s.dram.wq = [] → s.dram.wacks = [] → t = { s with fabric := t.fabric })) ∧
        (((s.link l.val).winReplays.filter fun x => s.now < x + 1000).length ≤ 16 → exec (.linkReplayLimit l) s = .next s) ∧
        (∀ back, Done (.laneFail ⟨l, back⟩) s fun t => (t.link l.val).st = .retraining ∧ (t.link l.val).retrains = (s.link l.val).retrains + 1 ∧
          (t.link l.val).spares = (s.link l.val).spares - (if back then 0 else 1) ∧ (t.link l.val).sparesBack = (s.link l.val).sparesBack - (if back then 1 else 0) ∧
          (t.link l.val).toHalf = ((s.link l.val).toHalf || decide ((if back then (s.link l.val).sparesBack else (s.link l.val).spares) = 0)) ∧
          (s.dram.wq = [] → s.dram.wacks = [] → t = { s with fabric := t.fabric }))) ∧
      ((s.link l.val).st = .untrained → s.releasedTo (if l.val < 6 then 4 else 3) = true →
        (Done (.linkRetrainComplete l true) s fun t => t.link l.val = { s.link l.val with st := .up } ∧
          (s.fabric.buffers = [] → t = { s with fabric := t.fabric })) ∧
        (Done (.linkRetrainComplete l false) s fun t => (t.link l.val).st = .down ∧
          (s.fabric.buffers = [] → t.mgmt.logCount = (s.mgmt.logCount + 1) % 2 ^ 32 ∧ t.cores = s.cores ∧ t.dram = s.dram))) ∧
      ((s.link l.val).st = .retraining →
        (((s.link l.val).recent.filter fun x => s.now < x + 1000000).length < 3 → Done (.linkRetrainComplete l true) s fun t =>
          t.link l.val = { s.link l.val with st := .up, half := (s.link l.val).half || (s.link l.val).toHalf, toHalf := false } ∧
          (s.fabric.buffers = [] → t.mgmt.logCount = (s.mgmt.logCount + 1) % 2 ^ 32 ∧ t = { s with fabric := t.fabric, mgmt := t.mgmt, ports := t.ports })) ∧
        (∀ ok, ok = false ∨ 3 ≤ ((s.link l.val).recent.filter fun x => s.now < x + 1000000).length → Done (.linkRetrainComplete l ok) s fun t =>
          (t.link l.val).st = .down ∧
          (s.fabric.buffers = [] → t.mgmt.logCount = (s.mgmt.logCount + 1) % 2 ^ 32 ∧ t.cores = s.cores ∧ t.dram = s.dram))))

/-- CACHE_REQUEST of a running cluster: an address outside DRAM is answered with status 3, one of a ring of another partition
with 4, and one whose cached permission entry forbids it with 2, all reported but a fetch's; without a cached entry it waits.
A read or fetch of a line that is present whole returns its bytes, one of an absent line waits for it, a prefetch of an
absent line waits, and a write puts its bytes into a dirty line; those of a line concerned by a commit that has begun wait.
PERMISSION_CACHE_FILL caches the table's entry for a page and serves the write that waits for it; CACHE_FILL brings a line,
clean and whole, to a read or prefetch that waits, but serves a dead read, a read from another cluster and a fetch without
keeping the line; STREAM_DETECTOR_TIMEOUT ends one detector and PERMISSION_INVALIDATE drops one page. -/
def Obligations.CacheRequestsFillsAndInvalidations : Prop :=
  (
    ∀ (s : State) (cl : Cl) (r : CReq), (s.clu cl).isl = .running →
      (isDram r.addr = false → (r.kind = .runahead → exec (.cacheRequest cl r) s = .next s) ∧ (r.kind ≠ .runahead → Done (.cacheRequest cl r) s fun t =>
        (t.clu cl).cache = { (s.clu cl).cache with lastData := [], lastStatus := 3 } ∧
        (∃ e, t.mgmt.inbox = s.mgmt.inbox ++ [e] ∧ e.1.status = 3 ∧ e.1.addr = r.addr) ∧ t = { s with clusters := t.clusters, mgmt := t.mgmt })) ∧
      (∀ c n, isDram r.addr = true → r.who = .peer c n → s.clPart c ≠ s.clPart cl → Done (.cacheRequest cl r) s fun t =>
        (t.clu cl).cache = { (s.clu cl).cache with lastData := [], lastStatus := 4 } ∧
        (∃ e, t.mgmt.inbox = s.mgmt.inbox ++ [e] ∧ e.1.status = 4 ∧ e.1.addr = r.addr) ∧ t = { s with clusters := t.clusters, mgmt := t.mgmt }) ∧
      ((∀ c n, r.who = .peer c n → s.clPart c = s.clPart cl) → isDram r.addr = true →
        ((∀ e ∈ (s.clu cl).cache.perm, e.1 ≠ r.addr / 2 ^ 21) → Done (.cacheRequest cl r) s fun t =>
          (t.clu cl).cache = { (s.clu cl).cache with permWaits := (s.clu cl).cache.permWaits ++ [r] } ∧ t = { s with clusters := t.clusters }) ∧
        (∀ p, ((s.clu cl).cache.perm.find? fun e => e.1 = r.addr / 2 ^ 21) = some (r.addr / 2 ^ 21, p) →
          (((r.kind = .read ∨ r.kind = .prefetch) ∧ permR p = false) ∨ ((∃ bs, r.kind = .write bs) ∧ permW p = false) → Done (.cacheRequest cl r) s fun t =>
            (t.clu cl).cache = { (s.clu cl).cache with lastData := [], lastStatus := 2 } ∧
            (∃ e, t.mgmt.inbox = s.mgmt.inbox ++ [e] ∧ e.1.status = 2 ∧ e.1.addr = r.addr) ∧ t = { s with clusters := t.clusters, mgmt := t.mgmt }) ∧
          (∀ e, (r.kind = .read ∧ permR p = true ∧ s.requesterSlot cl r.who = none) ∨ ((r.kind = .ifetch ∨ r.kind = .runahead) ∧ permX p = true) →
            s.lineBusy cl (lineOf r.addr) = false → (s.clu cl).cache.line (lineOf r.addr) = some e →
            e.mask = maskAll → (s.clu cl).cache.mem.syn = [] → Done (.cacheRequest cl r) s fun t =>
              (t.clu cl).cache.lastData = (s.clu cl).cache.mem.read (r.addr / 128 * 128) 128 ∧ (t.clu cl).cache.lastStatus = 0 ∧
              (t.clu cl).cache.mem = (s.clu cl).cache.mem ∧ t = { s with clusters := t.clusters }) ∧
          (r.kind = .read → permR p = true → s.requesterSlot cl r.who = none → (s.clu cl).cache.line (lineOf r.addr) = none → Done (.cacheRequest cl r) s fun t =>
            (∃ more, (t.clu cl).cache.fillWaits = (s.clu cl).cache.fillWaits ++ r :: more) ∧ (t.clu cl).cache.lines = (s.clu cl).cache.lines ∧
            (t.clu cl).cache.lastData = (s.clu cl).cache.lastData ∧ t = { s with clusters := t.clusters }) ∧
          (((r.kind = .ifetch ∨ r.kind = .runahead) ∧ permX p = true) ∨ (r.kind = .prefetch ∧ permR p = true) → (s.clu cl).cache.line (lineOf r.addr) = none →
            Done (.cacheRequest cl r) s fun t =>
              (t.clu cl).cache = { (s.clu cl).cache with fillWaits := (s.clu cl).cache.fillWaits ++ [r] } ∧ t = { s with clusters := t.clusters }) ∧
          ((r.kind = .read ∧ permR p = true) ∨ ((∃ bs, r.kind = .write bs) ∧ permW p = true) → s.lineBusy cl (lineOf r.addr) = true →
            Done (.cacheRequest cl r) s fun t =>
              (t.clu cl).cache = { (s.clu cl).cache with fillWaits := (s.clu cl).cache.fillWaits ++ [r] } ∧ t = { s with clusters := t.clusters }) ∧
          (r.kind = .prefetch → permR p = true → (∃ e, (s.clu cl).cache.line (lineOf r.addr) = some e) → Done (.cacheRequest cl r) s fun t =>
            (t.clu cl).cache = { (s.clu cl).cache with lastData := [], lastStatus := 0 } ∧ t = { s with clusters := t.clusters }) ∧
          (permX p = false → (r.kind = .runahead → exec (.cacheRequest cl r) s = .next s) ∧ (r.kind = .ifetch → Done (.cacheRequest cl r) s fun t =>
            (t.clu cl).cache = { (s.clu cl).cache with lastData := [], lastStatus := 2 } ∧ t = { s with clusters := t.clusters })) ∧
          (∀ bs, r.kind = .write bs → permW p = true → s.requesterSlot cl r.who = none → s.lineBusy cl (lineOf r.addr) = false → bs ≠ [] →
            r.addr % 128 + bs.length ≤ 128 → (s.clu cl).cache.mem.syn = [] → Done (.cacheRequest cl r) s fun t =>
              (t.clu cl).cache.lastStatus = 0 ∧ (∃ e, (t.clu cl).cache.line (lineOf r.addr) = some e ∧ e.dirty = true) ∧
              (∀ i, i < bs.length → (t.clu cl).cache.mem.byte (r.addr + i) = bs.getD i 0) ∧ OnlyMemory s t)))) ∧
  (
    ∀ (s : State) (cl : Cl),
      (∀ (page : Nat) (r : CReq) (bs : List Byte), (s.clu cl).isl = .running → ((s.clu cl).cache.permWaits.filter fun q => q.addr / 2 ^ 21 = page) = [r] →
        (∀ e ∈ (s.clu cl).cache.perm, e.1 ≠ page) → r.kind = .write bs → s.requesterSlot cl r.who = none → s.lineBusy cl (lineOf r.addr) = false →
        (permW (s.permEntry (s.clPart cl) page) = true → Done (.permissionCacheFill cl page) s fun t =>
          (t.clu cl).cache.perm = ((page, s.permEntry (s.clPart cl) page) :: (s.clu cl).cache.perm).take 256 ∧
          (t.clu cl).cache.permWaits = ((s.clu cl).cache.permWaits.filter fun q => q.addr / 2 ^ 21 ≠ page) ∧
          (∃ e, (t.clu cl).cache.line (lineOf r.addr) = some e ∧ e.dirty = true) ∧ (t.clu cl).cache.lastStatus = 0 ∧ OnlyMemory s t) ∧
        (permW (s.permEntry (s.clPart cl) page) = false → Done (.permissionCacheFill cl page) s fun t =>
          (t.clu cl).cache.perm = ((page, s.permEntry (s.clPart cl) page) :: (s.clu cl).cache.perm).take 256 ∧
          (t.clu cl).cache.lines = (s.clu cl).cache.lines ∧ (t.clu cl).cache.lastStatus = 2 ∧
          (∃ e, t.mgmt.inbox = s.mgmt.inbox ++ [e] ∧ e.1.status = 2) ∧ t = { s with clusters := t.clusters, mgmt := t.mgmt })) ∧
      (∀ (l : Nat) (r : CReq), (s.clu cl).isl = .running → ((s.clu cl).cache.fillWaits.filter fun q => lineOf q.addr = l) = [r] →
        s.requesterSlot cl r.who = none → (s.clu cl).cache.line l = none → s.dram.mem.syn = [] → (s.clu cl).cache.mem.syn = [] →
        s.lineBusy cl l = false → s.chanDown l = false → s.lineHeld l = false →
        (r.kind = .read → r.hint ≠ .dead → (∀ c n, r.who ≠ .peer c n) → Done (.cacheFill cl l) s fun t =>
          (∃ e, (t.clu cl).cache.line l = some e ∧ e.dirty = false ∧ e.mask = maskAll) ∧ (t.clu cl).cache.lastStatus = 0 ∧
          (∀ i, i < 128 → (t.clu cl).cache.mem.byte (128 * l + i) = s.dram.mem.byte (s.phys (128 * l) + i) ∧
            (t.clu cl).cache.lastData.getD i 0 = s.dram.mem.byte (s.phys (128 * l) + i)) ∧
          (t.clu cl).cache.fillWaits = ((s.clu cl).cache.fillWaits.filter fun q => lineOf q.addr ≠ l) ∧ OnlyMemory s t) ∧
        (r.kind = .prefetch → Done (.cacheFill cl l) s fun t =>
          (∃ e, (t.clu cl).cache.line l = some e ∧ e.dirty = false ∧ e.mask = maskAll) ∧ (t.clu cl).cache.lastStatus = 0 ∧
          (∀ i, i < 128 → (t.clu cl).cache.mem.byte (128 * l + i) = s.dram.mem.byte (s.phys (128 * l) + i)) ∧
          (t.clu cl).cache.fillWaits = ((s.clu cl).cache.fillWaits.filter fun q => lineOf q.addr ≠ l) ∧ OnlyMemory s t) ∧
        ((r.kind = .read ∧ (r.hint = .dead ∨ ∃ c n, r.who = .peer c n)) ∨ r.kind = .ifetch ∨ r.kind = .runahead → Done (.cacheFill cl l) s fun t =>
          (t.clu cl).cache.lines = (s.clu cl).cache.lines ∧ (t.clu cl).cache.mem = (s.clu cl).cache.mem ∧ (t.clu cl).cache.lastStatus = 0 ∧
          (∀ i, i < 128 → (t.clu cl).cache.lastData.getD i 0 = s.dram.mem.byte (s.phys (128 * l) + i)) ∧ t.dram = s.dram ∧ OnlyMemory s t)) ∧
      (s.power.tripped = false → ∀ i : Fin 8, Done (.streamDetectorTimeout cl i) s fun t => (t.clu cl).cache.detector i.val = none ∧
        (∀ j : Fin 8, j ≠ i → (t.clu cl).cache.detector j.val = (s.clu cl).cache.detector j.val) ∧ t = { s with clusters := t.clusters }) ∧
      (s.power.tripped = false → ∀ page, Done (.permissionInvalidate cl page) s fun t => (∀ e ∈ (t.clu cl).cache.perm, e.1 ≠ page) ∧
        (∀ e ∈ (s.clu cl).cache.perm, e.1 ≠ page → e ∈ (t.clu cl).cache.perm) ∧ (t.clu cl).cache.lines = (s.clu cl).cache.lines ∧
        (∀ cl', cl' ≠ cl → t.clu cl' = s.clu cl') ∧ t = { s with clusters := t.clusters }))

/-- DRAM channels: the oldest write whose links are up is accepted: it puts its bytes into DRAM and its acceptance goes on its
way, unless the scrubber holds the line, or the channel has failed, which discards and counts it; an acceptance makes a line
clean or counts off a ring's write. A read delivers a clean word, a held line's read returns retry and a failed channel's
FENCED, and an uncorrectable word becomes poison and is reported. A scrubber reads line after line, reports and poisons an
uncorrectable word, and holds a line with a corrected word until the corrected word is written; writes that waited are then
taken. -/
def Obligations.ChannelsReadWriteAndScrub : Prop :=
  ∀ (s : State), s.power.tripped = false →
    (∀ q, s.dram.wq.find? s.writeMay = some q →
      (s.chanDown q.line = false → s.lineHeld q.line = false → s.dram.mem.syn = [] → q.data.syn = [] → Done .dramWriteAccept s fun t =>
        t.dram.wq = s.dram.wq.erase q ∧ t.dram.wacks = s.dram.wacks ++ [q] ∧
        (∀ i, i < 128 → t.dram.mem.byte (s.phys (128 * q.line) + i) =
          if q.mask.getLsbD i = true then q.data.byte (128 * q.line + i) else s.dram.mem.byte (s.phys (128 * q.line) + i)) ∧
        (∀ a, ¬(s.phys (128 * q.line) ≤ a ∧ a < s.phys (128 * q.line) + 128) → t.dram.mem.byte a = s.dram.mem.byte a) ∧ t = { s with dram := t.dram }) ∧
      (s.chanDown q.line = true →
        (∀ cl l, q.writer = .writeBack cl l → Done .dramWriteAccept s fun t =>
          t = { s with dram := { s.dram with wq := s.dram.wq.erase q, discards := s.dram.discards + 1, wacks := s.dram.wacks ++ [q] } }) ∧
        (∀ cl n num, q.writer = .ring cl n num → num ≠ (s.ring cl n.val).head.toNat → Done .dramWriteAccept s fun t =>
          t = { s with dram := { s.dram with wq := s.dram.wq.erase q, discards := s.dram.discards + 1 } }) ∧
        (∀ cl n b, q.writer = .ring cl n (s.ring cl n.val).head.toNat → (s.ring cl n.val).headDesc = some b → dTsv b.desc = false →
          Done .dramWriteAccept s fun t => t.dram = { s.dram with wq := s.dram.wq.erase q, discards := s.dram.discards + 1 } ∧
            (t.ring cl n.val).st = .halted ∧ (t.ring cl n.val).cause = 2 ∧ (t.ring cl n.val).erraddr = 128 * q.line % 2 ^ 39 / 128 * 128 ∧
            (∃ e, t.mgmt.inbox = s.mgmt.inbox ++ [e] ∧ e.1.status = 5) ∧
            (∀ cl' (n' : Rn), ¬(cl' = cl ∧ n' = n) → t.ring cl' n'.val = s.ring cl' n'.val))) ∧
      (s.chanDown q.line = false → s.lineHeld q.line = true → Done .dramWriteAccept s fun t =>
        t.dram.wq = s.dram.wq.erase q ∧ t.dram.mem = s.dram.mem ∧ t.dram.wacks = s.dram.wacks ∧
        (t.scrubber (s.lineChan q.line)).pendWrites = (s.scrubber (s.lineChan q.line)).pendWrites ++ [q] ∧ t = { s with dram := t.dram })) ∧
    (∀ q rest, s.dram.wacks = q :: rest →
      (∀ cl l, q.writer = .writeBack cl l → Done .writeAcceptResponse s fun t => t.dram = { s.dram with wacks := rest } ∧
        (t.clu cl).ccLines = (s.clu cl).ccLines.erase l ∧
        (∀ e, (s.clu cl).cache.line l = some e → e.wb = true → (t.clu cl).cache.line l = some { e with wb := false, dirty := e.again, again := false }) ∧
        t = { s with clusters := t.clusters, dram := t.dram }) ∧
      (∀ cl n num, q.writer = .ring cl n num → Done .writeAcceptResponse s fun t => t.dram = { s.dram with wacks := rest } ∧
        (num = (s.ring cl n.val).head.toNat → t.ring cl n.val = { s.ring cl n.val with wtOut := (s.ring cl n.val).wtOut.drop 1 }) ∧
        (num ≠ (s.ring cl n.val).head.toNat → t.ring cl n.val = s.ring cl n.val) ∧ t = { s with rings := t.rings, dram := t.dram })) ∧
    (∀ a, isDram a = true → a % 16 = 0 →
      (s.lineHeld (lineOf a) = true → Done (.dramRead a) s fun t => t = { s with dram := { s.dram with lastVerdict := 4 } }) ∧
      (s.lineHeld (lineOf a) = false → s.chanDown (lineOf a) = true → Done (.dramRead a) s fun t => t = { s with dram := { s.dram with lastVerdict := 5 } }) ∧
      (s.lineHeld (lineOf a) = false → s.chanDown (lineOf a) = false → s.dram.mem.syn = [] → Done (.dramRead a) s fun t =>
        t = { s with dram := { s.dram with lastRead := BitVec.ofNat 128 (leNat (s.dram.mem.read (s.phys a) 16)), lastVerdict := 0 } }) ∧
      (s.lineHeld (lineOf a) = false → s.chanDown (lineOf a) = false → verdict (s.dram.mem.synAt (s.phys a / 16)) = .uncorrectable → Done (.dramRead a) s fun t =>
        t.dram.lastVerdict = 3 ∧ t.dram.mem = s.dram.mem.poisonWord (s.phys a / 16) ∧
        (∃ e, t.mgmt.inbox = s.mgmt.inbox ++ [e] ∧ e.1.cls = 1 ∧ e.1.addr = a) ∧ t = { s with dram := t.dram, mgmt := t.mgmt })) ∧
    (∀ ch : Ch, (s.scrubber ch.val).held = none →
      ((∀ k, k < 8 → s.dram.mem.synAt ((ch.val * 2 ^ 33 + (s.scrubber ch.val).pos) / 16 + k) = 0) → Done (.scrubLine ch) s fun t =>
        (t.scrubber ch.val).held = none ∧ t.dram.mem = s.dram.mem ∧ t.mgmt = s.mgmt ∧
        ((s.scrubber ch.val).pos + 128 < chanBytes → (t.scrubber ch.val).pos = (s.scrubber ch.val).pos + 128 ∧ t.dram.scrubPasses = s.dram.scrubPasses) ∧
        (chanBytes ≤ (s.scrubber ch.val).pos + 128 → (t.scrubber ch.val).pos = 0 ∧ t.dram.scrubPasses = min (s.dram.scrubPasses + 1) 4294967295)) ∧
      (∀ k, k < 8 → (∀ j, j < 8 → j ≠ k → s.dram.mem.synAt ((ch.val * 2 ^ 33 + (s.scrubber ch.val).pos) / 16 + j) = 0) →
        (∀ sym wr, verdict (s.dram.mem.synAt ((ch.val * 2 ^ 33 + (s.scrubber ch.val).pos) / 16 + k)) = .corrected sym wr → Done (.scrubLine ch) s fun t =>
          (t.scrubber ch.val).held = some (lineOf (s.devAddr (ch.val * 2 ^ 33 + (s.scrubber ch.val).pos))) ∧ t.dram.mem = s.dram.mem ∧
          (∃ e, t.mgmt.inbox = s.mgmt.inbox ++ [e] ∧ e.1.source = 2 ∧ e.1.cls = 0 ∧ e.1.symbol = sym)) ∧
        (verdict (s.dram.mem.synAt ((ch.val * 2 ^ 33 + (s.scrubber ch.val).pos) / 16 + k)) = .uncorrectable → Done (.scrubLine ch) s fun t =>
          (t.scrubber ch.val).held = none ∧ t.dram.mem = s.dram.mem.poisonWord ((ch.val * 2 ^ 33 + (s.scrubber ch.val).pos) / 16 + k) ∧
          (∃ e, t.mgmt.inbox = s.mgmt.inbox ++ [e] ∧ e.1.source = 2 ∧ e.1.cls = 1)))) ∧
    (∀ (ch : Ch) (l : Nat), (s.scrubber ch.val).held = some l →
      (Done (.scrubCorrectionWrite ch) s fun t => (t.scrubber ch.val).held = none ∧ (t.scrubber ch.val).pendWrites = [] ∧
        t.dram.wacks = s.dram.wacks ++ (s.scrubber ch.val).pendWrites) ∧
      ((s.scrubber ch.val).pendWrites = [] → Done (.scrubCorrectionWrite ch) s fun t =>
        (t.scrubber ch.val).held = none ∧ (∀ a, t.dram.mem.byte a = s.dram.mem.byte a) ∧
        (∀ k, k < 8 → ∀ sym wr, verdict (s.dram.mem.synAt (s.phys (128 * l) / 16 + k)) = .corrected sym wr → t.dram.mem.synAt (s.phys (128 * l) / 16 + k) = 0) ∧
        t = { s with dram := t.dram }))

/-- The test window acts on one word of DRAM, or of the tile store of a core without a task, on a line that no scrubber holds:
TW_READ_RAW gives the stored data, check bits and verdict and changes no word; TW_WRITE_BOTH stores both, TW_WRITE_DATA only
the data and TW_WRITE_CHECK only the check bits, whatever they are; a target that is refused changes nothing and sets STATUS. -/
def Obligations.TestWindowActsOnOneWord : Prop :=
  ∀ (s : State),
    (∀ c which, (c, which) ∈ [(Instr.twReadRaw, 1), (Instr.twWriteData, 2), (Instr.twWriteCheck, 3), (Instr.twWriteBoth, 4)] → s.dict.twDue = which →
      s.twTarget = .refused → Done c s fun t => t.dict.twDue = 0 ∧ bits 31 28 (t.obj 0x9010 5) = 1 ∧ t.dram = s.dram ∧ t.cores = s.cores ∧
        t.mgmt.logCount = (s.mgmt.logCount + 1) % 2 ^ 32) ∧
    (∀ (T : TwTarget) (w : Nat) (m : Mem), s.twTarget = T → T ≠ .refused → twWord T = w → (s.twFree T).twMem T = m →
      (s.dict.twDue = 1 → Done .twReadRaw s fun t =>
        t.obj 0x9010 2 = leNat (m.word w) ∧ t.obj 0x9010 3 = (m.checkAt w).toNat ∧
        bits 31 28 (t.obj 0x9010 5) = 0 ∧ bits 27 26 (t.obj 0x9010 5) = verdictCode (m.synAt w) ∧
        bits 15 0 (t.obj 0x9010 5) = (m.synAt w).toNat ∧ t.dict.twDue = 0 ∧ t.dram = (s.twFree T).dram ∧ t.cores = s.cores) ∧
      (s.dict.twDue = 4 → Done .twWriteBoth s fun t => (∀ i, i < 16 → (t.twMem T).raw (16 * w + i) = (leBytes 16 (s.obj 0x9010 2)).getD i 0) ∧
        (s.obj 0x9010 2 < 2 ^ 128 → (t.twMem T).checkAt w = BitVec.ofNat 16 (s.obj 0x9010 3)) ∧
        (∀ a, a / 16 ≠ w → (t.twMem T).byte a = m.byte a) ∧ t.dict.twDue = 0 ∧ ((∃ d, T = .dram d) → t.cores = s.cores) ∧
        (∀ cl c, T = .tile cl c w → t.dram = s.dram ∧ t.cores = (s.setCore cl c { s.core cl c with ts := t.twMem T }).cores)) ∧
      (s.dict.twDue = 2 → Done .twWriteData s fun t => (∀ i, i < 16 → (t.twMem T).raw (16 * w + i) = (leBytes 16 (s.obj 0x9010 2)).getD i 0) ∧
        (s.obj 0x9010 2 < 2 ^ 128 → (t.twMem T).checkAt w = m.checkAt w) ∧ (∀ a, a / 16 ≠ w → (t.twMem T).byte a = m.byte a) ∧
        ((∃ d, T = .dram d) → t.cores = s.cores) ∧
        (∀ cl c, T = .tile cl c w → t.dram = s.dram ∧ t.cores = (s.setCore cl c { s.core cl c with ts := t.twMem T }).cores)) ∧
      (s.dict.twDue = 3 → Done .twWriteCheck s fun t => (∀ a, (t.twMem T).raw a = m.raw a) ∧
        (t.twMem T).checkAt w = BitVec.ofNat 16 (s.obj 0x9010 3) ∧ (∀ a, a / 16 ≠ w → (t.twMem T).byte a = m.byte a) ∧
        ((∃ d, T = .dram d) → t.cores = s.cores) ∧
        (∀ cl c, T = .tile cl c w → t.dram = s.dram ∧ t.cores = (s.setCore cl c { s.core cl c with ts := t.twMem T }).cores)))

/-- An error that reaches a management processor with no handler running starts its handler; one of a higher class suspends the
running handler; any other waits in the queue in arrival order, or is lost and counted when 64 wait. A fatal one suspends
every handler and fences its scope, here a channel, a link end or none. A program fault or a bus refusal stops its running
partition, and a core's fault of another kind is noted for the step that runs. -/
def Obligations.ErrorsReachTheManagementProcessor : Prop :=
  ∀ (s : State) (e : ErrIn) (sc : Scope) (box : List (ErrIn × Scope)),
    ((∃ x, s.mgmt.inbox.find? (fun x => x.1 = e) = some x ∧ sc = x.2 ∧ box = s.mgmt.inbox.erase x) ∨
      (s.mgmt.inbox.find? (fun x => x.1 = e) = none ∧ sc = scopeOf e ∧ box = s.mgmt.inbox)) →
    (e.source ≠ 0 → e.cls < 3 → ¬(e.source = 8 ∧ 2 ≤ e.status ∧ e.status ≤ 4) →
      (s.mgmt.running = [] → Done (reported e) s fun t => t.mgmt.running = [⟨e, sc, false⟩] ∧ t.mgmt.queue = s.mgmt.queue ∧
        t.mgmt.inbox = box ∧ t = { s with mgmt := t.mgmt }) ∧
      (∀ cur rest, s.mgmt.running = cur :: rest →
        (cur.err.cls < e.cls → Done (reported e) s fun t =>
          t.mgmt.running = ⟨e, sc, false⟩ :: { cur with preempted := true } :: rest ∧ t.mgmt.queue = s.mgmt.queue ∧ t.mgmt.inbox = box ∧ t = { s with mgmt := t.mgmt }) ∧
        (e.cls ≤ cur.err.cls → s.mgmt.queue.length < 64 → Done (reported e) s fun t =>
          t.mgmt.running = s.mgmt.running ∧ t.mgmt.queue = s.mgmt.queue ++ [⟨e, sc, false⟩] ∧ t.mgmt.inbox = box ∧ t = { s with mgmt := t.mgmt }) ∧
        (e.cls ≤ cur.err.cls → 64 ≤ s.mgmt.queue.length → Done (reported e) s fun t =>
          t.mgmt.running = s.mgmt.running ∧ t.mgmt.queue = s.mgmt.queue ∧ t.mgmt.inbox = box ∧
          t.mgmt.lostCe = (if e.cls = 0 then min (s.mgmt.lostCe + 1) 4294967295 else s.mgmt.lostCe) ∧
          t.mgmt.lostDe = (if e.cls = 1 then min (s.mgmt.lostDe + 1) 4294967295 else s.mgmt.lostDe) ∧
          t.mgmt.lostUr = (if e.cls = 2 then min (s.mgmt.lostUr + 1) 4294967295 else s.mgmt.lostUr) ∧ t = { s with mgmt := t.mgmt }))) ∧
    (e.source ≠ 0 → e.source ≠ 8 → 3 ≤ e.cls → (∀ x ∈ s.mgmt.running, x.err.cls < 3) →
      (sc = .none ∨ (∃ c, sc = .channel c) ∨ (∃ l d, sc = .linkEnd l d)) → Done (reported e) s fun t =>
        t.mgmt.running = ⟨e, sc, false⟩ :: s.mgmt.running.map (fun x => { x with preempted := true }) ∧ t.mgmt.inbox = box ∧
        (∀ c, sc = .channel c → c.val ∈ t.dram.fenced ∧ t.fabric = s.fabric) ∧
        (∀ l d, sc = .linkEnd l d → (l.val, d.val) ∈ t.fabric.endsFenced ∧ t.dram = s.dram) ∧
        t = { s with mgmt := t.mgmt, dram := t.dram, fabric := t.fabric }) ∧
    (e.part < 16 → (s.part e.part).run = .running →
      (e.source = 0 ∧ programKind e.syndrome e.status = true) ∨ (e.source = 8 ∧ e.cls < 3 ∧ 2 ≤ e.status ∧ e.status ≤ 4) →
      Done (reported e) s fun t => (t.part e.part).run = .hung ∧ (t.part e.part).frozen = true ∧
        (∃ d, (t.part e.part).dump = some d ∧ d.cause = 3 ∧ d.freeze = s.now) ∧ (∀ cl ∈ s.clustersOf e.part, (t.clu cl).dispStopped = true) ∧ t.dram = s.dram) ∧
    (e.source = 0 → programKind e.syndrome e.status = false → bits 15 8 e.unit < 12 → s.clPart (nameCl e.unit) < 16 →
      (s.part (s.clPart (nameCl e.unit))).run = .running → Done (reported e) s fun t =>
        coreKey (nameCl e.unit) (Fin.ofNat 12 (bits 15 8 e.unit)) ∈ (t.part (s.clPart (nameCl e.unit))).faults ∧ t.mgmt.inbox = box ∧
        t = { s with mgmt := t.mgmt, parts := t.parts })

/-- A handler that completes counts its error, writes its record unless its unit is in a storm of corrected errors, and gives way
to the handler it suspended, otherwise to the first waiting one of the highest class. More than 8 uncorrected-recoverable
errors of a channel or link end within 1 s are a fatal error that fences it; a unit whose corrected errors exceed the limit
is in a storm until the next whole second. -/
def Obligations.HandlersCompleteAndErrorsEscalate : Prop :=
  ∀ (s : State),
    (∀ h rest, s.mgmt.running = h :: rest → Done .errorHandlerComplete s fun t =>
      (t.mgmt.ce, t.mgmt.de, t.mgmt.ur, t.mgmt.fatal) =
        (if h.err.cls = 0 then min (s.mgmt.ce + 1) 4294967295 else s.mgmt.ce, if h.err.cls = 1 then min (s.mgmt.de + 1) 4294967295 else s.mgmt.de,
         if h.err.cls = 2 then min (s.mgmt.ur + 1) 4294967295 else s.mgmt.ur, if 3 ≤ h.err.cls then min (s.mgmt.fatal + 1) 4294967295 else s.mgmt.fatal) ∧
      (h.err.cls = 0 ∧ h.err.unit ∈ s.mgmt.storms → t.mgmt.logCount = s.mgmt.logCount ∧ t.mgmt.slots = s.mgmt.slots) ∧
      (¬(h.err.cls = 0 ∧ h.err.unit ∈ s.mgmt.storms) → t.mgmt.logCount = (s.mgmt.logCount + 1) % 2 ^ 32 ∧
        ∃ r : Rec, find t.mgmt.slots (s.mgmt.logCount % 4096) = some r ∧ r.extractLsb' 248 8 = BitVec.ofNat 8 h.err.source ∧
          r.extractLsb' 246 2 = BitVec.ofNat 2 h.err.cls ∧ r.extractLsb' 216 24 = BitVec.ofNat 24 h.err.unit) ∧
      (rest ≠ [] → t.mgmt.running = rest ∧ t.mgmt.queue = s.mgmt.queue) ∧
      (rest = [] → s.mgmt.queue = [] → t.mgmt.running = []) ∧
      (rest = [] → ∀ pre n post, s.mgmt.queue = pre ++ n :: post → (∀ x ∈ pre, x.err.cls < n.err.cls) → (∀ x ∈ post, x.err.cls ≤ n.err.cls) →
        t.mgmt.running = [n] ∧ t.mgmt.queue = pre ++ post) ∧
      t = { s with mgmt := t.mgmt }) ∧
    (∀ (cl : Cl) n, (((look [] s.mgmt.urUnits (urKey (unitName cl n))).filter fun t => s.now < t + 1000000).length ≤ 8 → Done (.urEscalation cl n) s fun t => t = s)) ∧
    (∀ (cl : Cl) n u, u = unitName cl n → 8 < ((look [] s.mgmt.urUnits (urKey u)).filter fun t => s.now < t + 1000000).length → (∀ x ∈ s.mgmt.running, x.err.cls < 3) →
      (∀ c, unitScope (urKey u) ≠ .cluster c) → Done (.urEscalation cl n) s fun t =>
        (∃ h, t.mgmt.running = h :: s.mgmt.running.map (fun x => { x with preempted := true }) ∧
          h.err.source = 0x0F ∧ h.err.cls = 3 ∧ h.err.unit = u ∧ h.scope = unitScope (urKey u)) ∧ find t.mgmt.urUnits (urKey u) = none ∧
        (∀ c, unitScope (urKey u) = .channel c → c.val ∈ t.dram.fenced) ∧ (∀ l d, unitScope (urKey u) = .linkEnd l d → (l.val, d.val) ∈ t.fabric.endsFenced) ∧
        t = { s with mgmt := t.mgmt, dram := t.dram, fabric := t.fabric }) ∧
    (∀ u, (s.obj 0x5012 1 < look 0 s.mgmt.ceUnits u → u ∉ s.mgmt.storms → Done (.ceStorm u) s fun t => t.mgmt.storms = s.mgmt.storms ++ [u] ∧
        t.mgmt.logCount = (s.mgmt.logCount + 1) % 2 ^ 32 ∧ t = { s with mgmt := t.mgmt }) ∧
      (look 0 s.mgmt.ceUnits u ≤ s.obj 0x5012 1 → Done (.ceStorm u) s fun t => t = s)) ∧
    (s.now % 1000000 = 0 → Done .stormWindowEnd s fun t => t.mgmt.ceUnits = [] ∧ t.mgmt.storms = [] ∧ t = { s with mgmt := t.mgmt })

/-- The mirror: a step that has ended on every die counts up, makes every die of the run valid again and starts the mirrors; a
die's mirror that completes leaves the others in progress, and once none is left hub counter 58 of every cluster of the
partition is incremented, or that waits for the tests and remaps of faulted cores. A flash copy that the ports have finished
marks the image of the slot's step valid, one that fails leaves the images as they are; a tensor watch that completes is
shown as done. -/
def Obligations.MirrorsFlashCopiesAndWatches : Prop :=
  ∀ (s : State) (p : Pn),
    (s.stepEnded p.val = false → Done (.mirrorStart p) s fun t => t = s) ∧
    ((s.part p.val).run = .running → (s.part p.val).mirroring = [] → (s.part p.val).watching = false → (s.part p.val).restoring = 0 →
      (s.part p.val).rolling = none → s.stepEnded p.val = true → Done (.mirrorStart p) s fun t =>
        (t.part p.val).stepNow = (s.part p.val).stepNow + 1 ∧
        (∀ d, d < 4 → look 0 (t.part p.val).endSeen d = look 0 (s.part p.val).endSeen d + if (s.part p.val).runDies.getLsbD d then 1 else 0) ∧
        (t.part p.val).run = .running ∧ (t.part p.val).runDies = (s.part p.val).runDies ∧ (t.part p.val).dieValid = (s.part p.val).runDies) ∧
    (∀ (d : Dn) a, find (s.part p.val).mirroring d.val = some a → Done (.mirrorComplete p d) s fun t =>
      find (t.part p.val).mirroring d.val = none ∧ (∀ e, e ≠ d.val → find (t.part p.val).mirroring e = find (s.part p.val).mirroring e) ∧
      (t.part p.val).stepNow = (s.part p.val).stepNow ∧
      ((t.part p.val).mirroring ≠ [] ∨ (s.part p.val).watching = true → t.counters = s.counters) ∧
      ((t.part p.val).mirroring = [] → (s.part p.val).watching = false →
        (s.faultsPending p.val = false → ∀ cl ∈ s.clustersOf p.val, t.ctr (nameHub cl 58) = (s.ctr (nameHub cl 58)).add 1) ∧
        (s.faultsPending p.val = true → t.counters = s.counters ∧ (t.part p.val).releaseDue = true))) ∧
    (∀ (d : Dn) a, find (s.part p.val).flash d.val = some a → s.carries p.val d.val = false → s.copyDone p.val d.val = true →
      s.rangePoison a (4096 + bits 191 128 (s.slotHeader a)) = [] → s.dram.mem.syn = [] → Done (.flashCopyComplete p d) s fun t =>
        find (t.part p.val).flash d.val = none ∧
        (t.part p.val).flashStep = (if s.noLocalSlot p.val then (s.part p.val).flashStep else BitVec.ofNat 32 (s.slotStep a)) ∧
        ∃ i, i < 2 ∧ some i ≠ s.newestArea d.val ∧ (t.image d.val i).valid = true ∧ (t.image d.val i).step.toNat = s.slotStep a ∧
          (t.image d.val i).bytes = bits 191 128 (s.slotHeader a) ∧ (t.image d.val i).sum.toNat = bits 127 64 (s.slotHeader a) ∧
          (∀ e, e ≠ 2 * d.val + i → look Image.init t.store.images e = look Image.init s.store.images e)) ∧
    (∀ (d : Dn) a, find (s.part p.val).flash d.val = some a → Done (.flashCopyFail p d) s fun t =>
      find (t.part p.val).flash d.val = none ∧ (t.part p.val).flashStep = (s.part p.val).flashStep ∧ t.store.images = s.store.images) ∧
    ((s.part p.val).watching = true → Done (.tensorWatchComplete p) s fun t => (t.part p.val).watching = false ∧
      (t.part p.val).mirroring = (s.part p.val).mirroring ∧ bits 366 366 (t.obj 0x8022 (p.val + 1)) = 1 ∧ bits 367 367 (t.obj 0x8022 (p.val + 1)) = 0 ∧
      bits 511 368 (t.obj 0x8022 (p.val + 1)) = bits 511 368 (s.obj 0x8022 (p.val + 1)))

/-- Restart: a die whose newest slot cannot be restored from begins a rollback, otherwise its restore ends and the step restarts
once no die is left, or only the die's optimizer step is repeated; a rollback takes the newest image that is complete now, or
the run is lost, and its completion, once the ports have read the images, sets the step number. CKPT_HOLD holds slots until
it is ended by the host or expires. CORE_MAP_ACK of the current generation releases held dispatch. -/
def Obligations.RestoresRollbacksAndHolds : Prop :=
  ∀ (s : State) (p : Pn),
    (∀ (d : Dn), (s.part p.val).run = .running → (s.part p.val).runDies.getLsbD d.val = true → (s.part p.val).mirroring = [] → (s.part p.val).rolling = none →
      (∀ a, s.restorable p.val d.val = some a → (s.part p.val).restoring.getLsbD d.val = true → Done (.restoreComplete p d) s fun t =>
        (t.part p.val).restoring = (s.part p.val).restoring &&& ~~~BitVec.ofNat 4 (2 ^ d.val) ∧ (t.part p.val).stepNow = (s.part p.val).stepNow ∧
        ((t.part p.val).restoring = 0 → t.totals.stepRestarts = min (s.totals.stepRestarts + 1) 4294967295 ∧
          ((s.part p.val).dropLater = 0 → (t.part p.val).dieValid = (s.part p.val).runDies)) ∧
        ((t.part p.val).restoring ≠ 0 → t.part p.val = { s.part p.val with restoring := (t.part p.val).restoring } ∧ t.totals = s.totals)) ∧
      (∀ a, s.restorable p.val d.val = some a → (s.part p.val).restoring.getLsbD d.val = false → Done (.restoreComplete p d) s fun t =>
        t.part p.val = s.part p.val ∧ t.totals.optRepeats = min (s.totals.optRepeats + 1) 4294967295) ∧
      (s.restorable p.val d.val = none → Done (.restoreComplete p d) s fun t =>
        (t.part p.val).rolling = s.commonImage (diesIn (s.diesOf p.val)) ∧ (t.part p.val).restoring = 0 ∧ (t.part p.val).stepNow = (s.part p.val).stepNow)) ∧
    (∀ u v, (s.part p.val).rolling = some u → s.commonImage (diesIn (s.diesOf p.val)) = some v → Done (.rollback p) s fun t =>
      t.part p.val = { s.part p.val with rolling := some v } ∧ (u = v → t = s)) ∧
    (∀ u, (s.part p.val).rolling = some u → s.commonImage (diesIn (s.diesOf p.val)) = none → Done (.rollback p) s fun t =>
      t.part p.val = { s.part p.val with rolling := none }) ∧
    (∀ u, (s.part p.val).rolling = some u → ((diesIn (s.diesOf p.val)).any fun d => (s.areaOf d u).isNone || !s.jobsDone d p.val d false) = false →
      Done (.rollbackComplete p) s fun t =>
        (t.part p.val).rolling = none ∧ (t.part p.val).stepNow = BitVec.ofNat 32 u ∧ (t.part p.val).dieValid = (s.part p.val).runDies) ∧
    ((s.part p.val).ckptSince = none → (∀ v, v ≠ 0 → Done (.ckptHold p v) s fun t => (t.part p.val).ckptSince = some s.now ∧ t.obj 0x6019 (p.val + 1) = 1 ∧
        (∀ d a, (d, a) ∈ (t.part p.val).ckptSlots ↔ d ∈ diesIn (s.diesOf p.val) ∧ s.newestSlot p.val d = some a)) ∧
      (Done (.ckptHold p 0) s fun t => t = s)) ∧
    (∀ u, (s.part p.val).ckptSince = some u → (∀ v, v ≠ 0 → Done (.ckptHold p v) s fun t => t = s) ∧
      (Done (.ckptHold p 0) s fun t => (t.part p.val).ckptSince = none ∧ (t.part p.val).ckptSlots = [] ∧ t.obj 0x6019 (p.val + 1) = 0) ∧
      (u + s.obj 0x601D 1 * 1000000 ≤ s.now → Done (.ckptHoldExpire p) s fun t =>
        (t.part p.val).ckptSince = none ∧ (t.part p.val).ckptSlots = [] ∧ t.obj 0x6019 (p.val + 1) = 0) ∧
      (s.now < u + s.obj 0x601D 1 * 1000000 → Done (.ckptHoldExpire p) s fun t => t = s)) ∧
    (∀ v : W32, (v ≠ s.fabric.mapGen → Done (.coreMapAck p v) s fun t => t.obj 0x601E (p.val + 1) = v.toNat ∧ t.part p.val = s.part p.val) ∧
      (v = s.fabric.mapGen → (s.part p.val).ackDue = true → (s.part p.val).restartCause ≠ 2 → Done (.coreMapAck p v) s fun t =>
        t.part p.val = { s.part p.val with ackDue := false } ∧
        ((s.part p.val).run = .running → (s.part p.val).rolling = none → ∀ cl ∈ s.clustersOf p.val, (s.clu cl).isl ≠ .fenced → (s.clu cl).brk = .none →
          (t.clu cl).dispStopped = false)))

/-- Object requests and semaphores: a request that may not be made is refused with its cause, one that is made while another is
busy sets cause 4 and nothing else; a read delivers the object's bytes, a write waits for its commit, and one of PERM_WRITE
for the invalidations. A free semaphore is granted to the physical function that reads it, in a tie to the port that lost the
last one, and the read returns the whole token or a half of it; a misaligned read is aborted. The right token releases it,
any other counts as stale, a 4-byte write is ignored, and one of another length is aborted; a hold that lasts too long is
lost, after the holder's waiting object write if it has one. -/
def Obligations.ObjectRequestsAndSemaphores : Prop :=
  ∀ (s : State),
    (∀ f : Fx, s.reach f.val = true → (s.fn f.val).objBusy = 0 →
      (Done (.objRead f) s fun t => (t.fn f.val).objState = 1 ∧ (t.fn f.val).objLen = objSize (s.fn f.val).objIndex (s.fn f.val).objSub ∧
        (t.fn f.val).objBusy = (if s.readCause f.val (s.fn f.val).objIndex (s.fn f.val).objSub = 0 then 1
          else 16 + s.readCause f.val (s.fn f.val).objIndex (s.fn f.val).objSub) ∧ (t.fn f.val).objBuf = (s.fn f.val).objBuf ∧ t = { s with ports := t.ports }) ∧
      (∀ h, s.writeCause f.val (s.fn f.val).objIndex (s.fn f.val).objSub = 0 → Done (.objWrite f h) s fun t => (t.fn f.val).objState = 1 ∧ (t.fn f.val).objBusy = 2 ∧
        (∃ w, w ∈ t.dict.waiting ∧ w.fn = f.val ∧ w.hub = h ∧ w.idx = (s.fn f.val).objIndex ∧ w.sub = (s.fn f.val).objSub ∧ w.off = 0 ∧
          w.len = objSize (s.fn f.val).objIndex (s.fn f.val).objSub ∧ w.val = (s.fn f.val).bufNat w.len) ∧
        (∀ w ∈ s.dict.waiting, w ∈ t.dict.waiting) ∧ t.dict.vals = s.dict.vals ∧ t = { s with ports := t.ports, dict := t.dict }) ∧
      (∀ h, s.writeCause f.val (s.fn f.val).objIndex (s.fn f.val).objSub ≠ 0 → Done (.objWrite f h) s fun t =>
        (t.fn f.val).objBusy = 16 + s.writeCause f.val (s.fn f.val).objIndex (s.fn f.val).objSub ∧ t = { s with ports := t.ports })) ∧
    (∀ f : Fx, s.reach f.val = true → (s.fn f.val).objBusy ≠ 0 →
      (Done (.objRead f) s fun t => t.fn f.val = { s.fn f.val with objCause := 4 } ∧ t = { s with ports := t.ports }) ∧
      (∀ h, Done (.objWrite f h) s fun t => t.fn f.val = { s.fn f.val with objCause := 4 } ∧ t = { s with ports := t.ports })) ∧
    (∀ f : Fx, (16 ≤ (s.fn f.val).objBusy → Done (.objRequestComplete f) s fun t => (t.fn f.val).objState = 3 ∧
        (t.fn f.val).objCause = (s.fn f.val).objBusy - 16 ∧ (t.fn f.val).objBusy = 0 ∧ (t.fn f.val).objBuf = (s.fn f.val).objBuf ∧ t = { s with ports := t.ports }) ∧
      ((s.fn f.val).objBusy = 1 → Done (.objRequestComplete f) s fun t => (t.fn f.val).objState = 2 ∧ (t.fn f.val).objCause = 0 ∧ (t.fn f.val).objBusy = 0 ∧
        (∀ i, i < min 4096 ((s.fn f.val).objLen - (s.fn f.val).reqOff) → look 0 (t.fn f.val).objBuf i =
          BitVec.ofNat 8 (s.objValue f.val (s.fn f.val).reqIndex (s.fn f.val).reqSub / 256 ^ ((s.fn f.val).reqOff + i))) ∧
        (∀ i, min 4096 ((s.fn f.val).objLen - (s.fn f.val).reqOff) ≤ i → look 0 (t.fn f.val).objBuf i = look 0 (s.fn f.val).objBuf i) ∧ t = { s with ports := t.ports })) ∧
    (∀ f : Fx, (s.fn f.val).objBusy = 3 → ((s.fn f.val).reqIndex = 0x3013 → s.permSettled ((s.fn f.val).reqSub - 1) = true) →
      Done (.objRequestComplete f) s fun t => (t.fn f.val).objState = 2 ∧ (t.fn f.val).objCause = 0 ∧ (t.fn f.val).objBusy = 0 ∧
        (t.fn f.val).objBuf = (s.fn f.val).objBuf ∧ t = { s with ports := t.ports }) ∧
    (∀ f : Fx, (s.fn f.val).objBusy = 3 → (s.fn f.val).reqIndex = 0x3013 → s.permSettled ((s.fn f.val).reqSub - 1) = false →
      Done (.objRequestComplete f) s fun t => t = s) ∧
    (∀ (f : Fx) (k : Fin 10) off size tie, s.reach f.val = true →
      (accessOk off size = false → Done (.semaRead f k ⟨off, size, tie⟩) s fun t => (t.fn f.val).resp = ⟨[], [], true⟩ ∧ t.ports.semas = s.ports.semas) ∧
      (accessOk off size = true → f.val % 8 ≠ 0 → Done (.semaRead f k ⟨off, size, tie⟩) s fun t => (t.fn f.val).resp = ⟨leBytes size 0, [], false⟩ ∧
        t.ports.semas = s.ports.semas) ∧
      (accessOk off size = true → f.val % 8 = 0 → (s.sema k.val).holder = none → Done (.semaRead f k ⟨off, size, tie⟩) s fun t =>
        (t.sema k.val).holder = some (if tie then (s.sema k.val).tieLoser else portB f.val) ∧
        (t.sema k.val).tieLoser = (if tie then !(s.sema k.val).tieLoser else (s.sema k.val).tieLoser) ∧
        (t.sema k.val).gen = (s.sema k.val).gen ∧ (t.sema k.val).since = s.now ∧ (t.sema k.val).fieldWrote = false ∧
        (t.fn f.val).resp = ⟨leBytes size (halfRead ((t.sema k.val).token k.val (decide ((t.sema k.val).holder = some (portB f.val)))) off size), [], false⟩ ∧
        t = { s with ports := t.ports }) ∧
      (∀ q, accessOk off size = true → f.val % 8 = 0 → (s.sema k.val).holder = some q → Done (.semaRead f k ⟨off, size, tie⟩) s fun t =>
        t.sema k.val = s.sema k.val ∧
        (t.fn f.val).resp = ⟨leBytes size (halfRead ((s.sema k.val).token k.val (decide (q = portB f.val))) off size), [], false⟩ ∧
        t = { s with ports := t.ports }) ∧
      (∀ v : Word, s.tokenFits f.val k.val v.toNat = true → Done (.semaRelease f k 8 v) s fun t =>
        t.sema k.val = { s.sema k.val with holder := none, gen := (s.sema k.val).gen + 1, ownerLost := false, lossDue := false } ∧ t = { s with ports := t.ports }) ∧
      (∀ v : Word, s.tokenFits f.val k.val v.toNat = false → Done (.semaRelease f k 8 v) s fun t => t.ports.semas = s.ports.semas ∧
        t.ports.staleReleases = min (s.ports.staleReleases + 1) 4294967295 ∧ t = { s with ports := t.ports }) ∧
      (∀ v : Word, Done (.semaRelease f k 4 v) s fun t => t.ports.semas = s.ports.semas ∧
        t.ports.ignoredWrites = min (s.ports.ignoredWrites + 1) 4294967295 ∧ t = { s with ports := t.ports }) ∧
      (∀ n (v : Word), n ≠ 4 → n ≠ 8 → Done (.semaRelease f k n v) s fun t => (t.fn f.val).resp = ⟨[], [], true⟩ ∧ t.ports.semas = s.ports.semas)) ∧
    (∀ k : Fin 10, ((s.sema k.val).holder ≠ none → (s.sema k.val).since + s.obj 0x7010 1 * 1000000 ≤ s.now → Done (.semaHoldExpire k) s fun t =>
        SemaLeft s k.val (t.sema k.val) ∧ t = { s with ports := t.ports }) ∧
      (s.now < (s.sema k.val).since + s.obj 0x7010 1 * 1000000 → Done (.semaHoldExpire k) s fun t => t = s))

/-- Resets of functions and ports: a function level reset returns one function to its reset state and takes the semaphores that
it holds, after its waiting object write in a section if it has one; a hot reset and PERST do so for the port's eight
functions, and its link is down; the loss of a reference takes down the links that use it and the semaphores of their ports.
A released port with its reference trains to the generation, width and FLIT mode that the command reports, with NumVFs as its
host sets it (the model's choice, log 92). -/
def Obligations.PortsAndFunctionsReset : Prop :=
  ∀ (s : State),
    (∀ f : Fx, s.reach f.val = true → Done (.functionLevelReset f) s fun t => FnReset (s.fn f.val) (t.fn f.val) ∧
      (∀ k, k < 10 → (s.holds f.val k = true → SemaLeft s k (t.sema k)) ∧ (s.holds f.val k = false → t.sema k = s.sema k))) ∧
    (∀ (b : RefPort) c, c = .hotReset b ∨ c = .perst b → Done c s fun t => (t.cport b).gen = 0 ∧ (t.cport b).up = false ∧ t.cport (!b) = s.cport (!b) ∧
      (∀ f, f < 16 → portB f = b → FnReset (s.fn f) (t.fn f)) ∧
      (∀ k, k < 10 → ((s.sema k).holder = some b → SemaLeft s k (t.sema k)) ∧ ((s.sema k).holder ≠ some b → t.sema k = s.sema k))) ∧
    (∀ b : RefPort, Done (.refclkLoss b) s fun t => t.ports.clockFails = min (s.ports.clockFails + 1) 4294967295 ∧ (t.cport b).refPresent = false ∧
      (∀ q, s.uses q b = true → (t.cport q).up = false ∧ ∀ k, k < 10 → (s.sema k).holder = some q → SemaLeft s k (t.sema k))) ∧
    (∀ b : RefPort, Done (.refclkReturn b) s fun t => t.cport b = { s.cport b with refPresent := true } ∧ t.cport (!b) = s.cport (!b) ∧ t = { s with ports := t.ports }) ∧
    (∀ (b : RefPort) gen width flit (vfs : Fin 8), s.releasedTo 25 = true → (s.cport b).down = false →
      (if s.uses b false then s.ports.portA.refPresent else s.ports.portB.refPresent) = true → 1 ≤ gen → gen ≤ 6 → (gen = 6 → flit = true) → (width = 1 ∨ width = 2 ∨ width = 4) →
      Done (.controlLinkUp b gen width ⟨flit, vfs⟩) s fun t => t.cport b = { s.cport b with gen := gen, width := width, flit := flit, vfs := vfs.val } ∧ (t.cport b).up = true ∧
        t.cport (!b) = s.cport (!b) ∧ t = { s with ports := t.ports })

/-- Doorbells, event queues and the window: a doorbell of a bound function waits, and becomes an event of the lead cluster's
steward core or merges into the one before; an event record is written while there is room, with SEQ and LOST. A window read
delivers the bytes of the owned granules and zeros elsewhere; a window write stores the bytes, is discarded during a
checkpoint hold and on a fenced device, and is counted where nothing is owned. A fenced device ignores doorbells. In recovery
the window is the hold area, which the first source that writes to it owns. -/
def Obligations.DoorbellsEventsAndWindow : Prop :=
  ∀ (s : State) (f : Fx),
    (∀ n v, s.reach f.val = true →
      (s.bound f.val < 16 → s.mgmt.fenced = false → Done (.dbWrite f n v) s fun t =>
        (t.fn f.val).bells = (s.fn f.val).bells ++ [⟨n.val, v, 0, s.now, s.bound f.val⟩] ∧ t = { s with ports := t.ports }) ∧
      (16 ≤ s.bound f.val ∨ s.mgmt.fenced = true → Done (.dbWrite f n v) s fun t => t = s)) ∧
    (∀ b rest g, (s.fn f.val).bells = b :: rest → s.lowGran b.part = some g →
      ((∀ o, (s.fn f.val).lastBell = some o → ¬(b.at_ < o.at_ + 1 ∧ bellRecord (granLead g) f.val o ∈ (s.stew (granLead g)).evq)) → (s.stew (granLead g)).evq.length < 32 → Done (.doorbellEventQueued f) s fun t =>
        (t.stew (granLead g)).evq = (s.stew (granLead g)).evq ++ [bellRecord (granLead g) f.val b] ∧ (t.fn f.val).bells = rest ∧
        (t.fn f.val).lastBell = some { b with at_ := s.now } ∧ t = { s with stewards := t.stewards, ports := t.ports }) ∧
      (∀ o, (s.fn f.val).lastBell = some o → b.at_ < o.at_ + 1 → bellRecord (granLead g) f.val o ∈ (s.stew (granLead g)).evq → Done (.doorbellEventQueued f) s fun t =>
        (t.stew (granLead g)).evq.length = (s.stew (granLead g)).evq.length ∧
        bellRecord (granLead g) f.val { o with v := b.v, merges := o.merges + 1 } ∈ (t.stew (granLead g)).evq ∧ (t.fn f.val).bells = rest ∧
        (t.fn f.val).lastBell = some { o with v := b.v, merges := o.merges + 1 } ∧ t = { s with stewards := t.stewards, ports := t.ports })) ∧
    (∀ b rest, (s.fn f.val).bells = b :: rest → s.lowGran b.part = none → Done (.doorbellEventQueued f) s fun t =>
      t.fn f.val = { s.fn f.val with bells := rest } ∧ t = { s with ports := t.ports }) ∧
    (∀ v, s.reach f.val = true → Done (.evqHeadWrite f v) s fun t => (t.fn f.val).evHead = v ∧ (t.fn f.val).evTail = (s.fn f.val).evTail ∧
      (t.fn f.val).armed = decide ((s.fn f.val).evTail = v) ∧ t = { s with ports := t.ports }) ∧
    (∀ r rest, (s.fn f.val).evWait = r :: rest → (s.cport (portB f.val)).up = true → (s.fn f.val).evSize ≠ 0 →
      (((s.fn f.val).evTail - (s.fn f.val).evHead).toNat < 2 ^ (s.fn f.val).evSize → Done (.hostEventRecordWrite f) s fun t =>
        (∃ q : Rec, find t.ports.hostMem (hostKey f.val ((s.fn f.val).evBase.toNat + 32 * ((s.fn f.val).evTail.toNat % 2 ^ (s.fn f.val).evSize))) = some q ∧
          q.extractLsb' 64 192 = r.extractLsb' 64 192 ∧ q.extractLsb' 0 32 = (s.fn f.val).evTail ∧ q.extractLsb' 32 32 = BitVec.ofNat 32 (s.fn f.val).evLost) ∧
        (t.fn f.val).evWait = rest ∧ (t.fn f.val).evTail = (s.fn f.val).evTail + 1 ∧ (t.fn f.val).armed = false ∧ t = { s with ports := t.ports }) ∧
      (2 ^ (s.fn f.val).evSize ≤ ((s.fn f.val).evTail - (s.fn f.val).evHead).toNat → Done (.hostEventRecordWrite f) s fun t => t = s)) ∧
    (∀ off len, s.reach f.val = true → s.fw.inRecovery = false → s.dram.mem.syn = [] →
      (∀ w ∈ wordPieces off len, ∀ a, s.windowAddr f.val w.1 = some a → s.lineHeld (a / 128) = false) → Done (.bar4Read f off len) s fun t =>
      (t.fn f.val).resp = ⟨(wordPieces off len).flatMap (fun w => match s.windowAddr f.val w.1 with
        | some a => s.dram.mem.read (s.phys a) w.2
        | none => List.replicate w.2 0), [], false⟩ ∧ t = { s with ports := t.ports }) ∧
    (∀ off len, s.reach f.val = true → s.fw.inRecovery = true → Done (.bar4Read f off len) s fun t =>
      (t.fn f.val).resp = ⟨(List.range len).map fun i => if off + i < 33554432 then s.fw.hold.raw (off + i) else 0, [], false⟩ ∧ t = { s with ports := t.ports }) ∧
    (∀ off bs, s.reach f.val = true → s.fw.inRecovery = true →
      (s.fw.recOwner = none ∨ s.fw.recOwner = some (f.val / 8) → Done (.bar4Write f off bs) s fun t => t.fw.recOwner = some (f.val / 8) ∧
        (∀ a, t.fw.hold.raw a = if off ≤ a ∧ a < off + bs.length ∧ a < 33554432 then bs.getD (a - off) 0 else s.fw.hold.raw a) ∧ t = { s with fw := t.fw }) ∧
      (∀ q, s.fw.recOwner = some q → q ≠ f.val / 8 → Done (.bar4Write f off bs) s fun t => t = s)) ∧
    (∀ off bs, s.reach f.val = true → s.fw.inRecovery = false →
      (s.mgmt.fenced = true ∨ (s.bound f.val < 16 ∧ (s.part (s.bound f.val)).ckptSince ≠ none) → Done (.bar4Write f off bs) s fun t => t = s) ∧
      (s.mgmt.fenced = false → ¬(s.bound f.val < 16 ∧ (s.part (s.bound f.val)).ckptSince ≠ none) → (∀ w ∈ wordPieces off bs.length, s.windowAddr f.val w.1 = none) → bs ≠ [] →
        Done (.bar4Write f off bs) s fun t => t.dram = s.dram ∧ t.ports.winDrops = min (s.ports.winDrops + 1) 4294967295 ∧ t = { s with ports := t.ports }) ∧
      (∀ a, ¬(s.bound f.val < 16 ∧ (s.part (s.bound f.val)).ckptSince ≠ none) → bs ≠ [] → off % 16 + bs.length ≤ 16 → s.windowAddr f.val off = some a → a % 16 = off % 16 →
        s.dram.mem.syn = [] → s.lineHeld (a / 128) = false → Done (.bar4Write f off bs) s fun t =>
          (∀ i, i < bs.length → t.dram.mem.byte (s.phys (128 * (a / 128)) + a % 128 + i) = bs.getD i 0) ∧
          (∀ x, ¬(s.phys (128 * (a / 128)) + a % 128 ≤ x ∧ x < s.phys (128 * (a / 128)) + a % 128 + bs.length) → t.dram.mem.byte x = s.dram.mem.byte x) ∧
          t = { s with dram := t.dram }))

/-- Storage ports: a controller that meets every requirement comes up, otherwise the first that fails puts the port down;
completions let the port go on with its job; a completion with an error and a command that times out reset the controller and
give its jobs up; a SMART warning is kept and logged; a request where the SSD may not reach gets Unsupported Request and is
counted, another is served; a lost link, and the third reset within 60 s or the third violation, put the port down. Other
ports change in their jobs and commands at most, as the copies and reads that they share fail. -/
def Obligations.StoragePortsComeAndGo : Prop :=
  ∀ (s : State) (k : Sp), s.storageServed = true →
    (∀ r, (s.sport k.val).st = 1 → r.trained = true → r.ready = true → 0x104 ≤ r.version → r.nvmSet = true → r.nsActive = true →
      (r.lbaBytes = 512 ∨ r.lbaBytes = 4096) → r.metadata = 0 → (r.mdts = 0 ∨ 131072 ≤ r.mdts) → r.mpsMin = 4096 → s.needCapacity (k.val / 2) ≤ r.capacity →
      r.queues = true → Done (.storagePortBringup k r) s fun t => (t.sport k.val).st = 2 ∧ (t.sport k.val).perst = false ∧
        (t.sport k.val).lbaBytes = r.lbaBytes ∧ (t.sport k.val).zeroes = r.zeroes ∧ (∀ j, j ≠ k.val → t.sport j = s.sport j)) ∧
    (∀ r, (s.sport k.val).st = 1 → s.bringUpCause k.val r ≠ 0 → Done (.storagePortBringup k r) s fun t => (t.sport k.val).st = 0 ∧
      (t.sport k.val).cause = s.bringUpCause k.val r ∧ (t.sport k.val).jobs = [] ∧ (t.sport k.val).cmds = [] ∧ (∀ j, j ≠ k.val → sameButJobs (s.sport j) (t.sport j))) ∧
    (∀ cs, (s.sport k.val).st = 2 → (∀ c ∈ cs, c.error = false) → Done (.nvmeCompletionPoll k cs) s fun t =>
      t.sport k.val = SPort.advance { s.sport k.val with cmds := (s.sport k.val).cmds.filter fun q => !(cs.any fun c => c.cid == q.cid) } k.val ∧
      (∀ j, j ≠ k.val → t.sport j = s.sport j) ∧ t = { s with store := t.store }) ∧
    (∀ c, (c = .nvmeCommandTimeout k ∨ ∃ cs x, c = .nvmeCompletionPoll k cs ∧ x ∈ cs ∧ x.error = true) → (s.sport k.val).st = 2 → Done c s fun t =>
      (t.sport k.val).st = 1 ∧ (t.sport k.val).resets = ((s.sport k.val).resets.filter fun u => s.now < u + 60000000) ++ [s.now] ∧
      (t.sport k.val).jobs = [] ∧ (t.sport k.val).cmds = [] ∧ (∀ j, j ≠ k.val → sameButJobs (s.sport j) (t.sport j))) ∧
    (∀ w : Byte, (s.sport k.val).st = 2 → (w ≠ 0 → Done (.smartPoll k w) s fun t => t.sport k.val = { s.sport k.val with smart := w } ∧
        t.mgmt.logCount = (s.mgmt.logCount + 1) % 2 ^ 32 ∧ (∀ j, j ≠ k.val → t.sport j = s.sport j)) ∧
      (w = 0 → Done (.smartPoll k w) s fun t => t = s)) ∧
    (∀ a n w, (s.sport k.val).st ≠ 0 →
      (s.inboundMay k.val a n w = false → Done (.ssdInboundRequest k a n w) s fun t =>
        t.sport k.val = { s.sport k.val with violations := (s.sport k.val).violations + 1, lastUr := true } ∧ t.dram = s.dram ∧
        t.mgmt.logCount = (s.mgmt.logCount + 1) % 2 ^ 32) ∧
      (s.inboundMay k.val a n w = true → Done (.ssdInboundRequest k a n w) s fun t =>
        t.sport k.val = { s.sport k.val with lastUr := false } ∧ t = { s with store := t.store })) ∧
    (∀ c, (s.sport k.val).st ≠ 0 → (c = 8 ∨ (c = 9 ∧ 3 ≤ ((s.sport k.val).resets.filter fun u => s.now < u + 60000000).length) ∨ (c = 10 ∧ 3 ≤ (s.sport k.val).violations)) →
      Done (.storagePortDown k c) s fun t => (t.sport k.val).st = 0 ∧ (t.sport k.val).cause = c ∧ (t.sport k.val).jobs = [] ∧ (t.sport k.val).cmds = [] ∧
        (∀ j, j ≠ k.val → sameButJobs (s.sport j) (t.sport j))) ∧
    (∀ c, (c = 9 ∧ ((s.sport k.val).resets.filter fun u => s.now < u + 60000000).length < 3) ∨ (c = 10 ∧ (s.sport k.val).violations < 3) →
      Done (.storagePortDown k c) s fun t => t = s)

/-- The field link and the commit: a served port forwards a frame, and executes one that is neither early nor bad; a dead one
does nothing. Bytes that arrive at F-out leave at F-in unless F-in turns frames round. No acceptable frame for FIELD_TIMEOUT
is a lost link. A commit happens at whole 5 µs: a host's write to an object that does nothing else gives the object the
checked value, reports each clamp and completes the request, and the semaphores whose loss waited for it are lost. A clock
generator that loses lock is counted: its port or link goes down; the fatal error of a cluster's generator fences the
cluster, that of a channel's or of a hub link's end at a die the die, unless another fatal error is being handled. -/
def Obligations.FieldLinkAndCommit : Prop :=
  ∀ (s : State),
    (∀ fr, s.field.down = true ∨ s.power.tripped = true → Done (.fieldFrame fr) s fun t => t = s) ∧
    (∀ fr, s.field.down = false → s.releasedTo 2 = true → s.dictUp = true →
      (s.tooEarly = true → Done (.fieldFrame fr) s fun t => t.field.earlyFrames = min (s.field.earlyFrames + 1) 4294967295 ∧ t.field.lastExec = s.field.lastExec ∧
        (s.field.turned = false → t.field.forwarded = if s.field.outDown then s.field.forwarded else some fr) ∧ (s.field.turned = true → t.field.returned = some fr) ∧ t = { s with field := t.field }) ∧
      (s.tooEarly = false → s.frameOk fr = false → Done (.fieldFrame fr) s fun t => t.field.badFrames = min (s.field.badFrames + 1) 4294967295 ∧
        t.field.lastExec = s.field.lastExec ∧ (s.field.turned = false → t.field.forwarded = if s.field.outDown then s.field.forwarded else some fr) ∧ (s.field.turned = true → t.field.returned = some fr) ∧
        t = { s with field := t.field }) ∧
      (s.tooEarly = false → s.frameOk fr = true → s.fw.inRecovery = false → Done (.fieldFrame fr) s fun t => t.field.lastExec = some s.now ∧
        t.field.lastCycle = beNat (fieldAt fr.payload 2 2) ∧ (fr.fcsOk = true → t.field.lastGood = s.now ∧ t.field.lost = false ∧ t.field.badFrames = s.field.badFrames) ∧
        (fr.fcsOk = false → t.field.lastGood = s.field.lastGood ∧ t.field.badFrames = min (s.field.badFrames + 1) 4294967295) ∧
        (s.field.turned = false → s.field.outDown = false → ∃ g, t.field.forwarded = some g ∧ g.payload.getD 6 0 = BitVec.ofNat 8 (byteAt fr.payload 6 + 1)) ∧
        t = { s with field := t.field, dict := t.dict })) ∧
    (∀ fr, s.field.down = false → s.power.tripped = false → s.releasedTo 2 = true → (s.field.turned = false → s.field.outDown = false →
        Done (.fieldReturnFrame fr) s fun t => t = { s with field := { s.field with returned := some fr } }) ∧
      (s.field.turned = true ∨ s.field.outDown = true → Done (.fieldReturnFrame fr) s fun t => t = s)) ∧
    (Done .fieldTurnRound s fun t => t = { s with field := { s.field with outLink := false, turned := true } }) ∧
    (s.field.outDown = true → Done .fieldOutLinkUp s fun t => t = s) ∧
    (s.field.outDown = false → Done .fieldOutLinkUp s fun t => t = { s with field := { s.field with outLink := true, turned := false } }) ∧
    (s.releasedTo 2 = true → s.field.lost = false → (s.field.lastGood + s.obj 0x7040 3 * 1000 ≤ s.now → Done .fieldLost s fun t =>
        t.field = { s.field with lost := true } ∧ t = { s with field := t.field, ports := t.ports }) ∧
      (s.now < s.field.lastGood + s.obj 0x7040 3 * 1000 → Done .fieldLost s fun t => t = s)) ∧
    (s.now % 5 ≠ 0 → Done .dictionaryCommit s fun t => t = s) ∧
    (∀ w r m, m = State.mergedWrite { s with dict := { s.dict with waiting := [] } } w r → s.now % 5 = 0 → s.dictUp = true → s.dict.waiting = [w] → w.field = false → objRow w.idx w.sub = some r → (s.fn w.fn).objBusy = 2 →
      w.idx ∉ [0x1003, 0x3010, 0x3011, 0x3013, 0x3020, 0x6003, 0x6011, 0x6012, 0x6013, 0x6019, 0x601E, 0x7030, 0x9002, 0x9003, 0x9010, 0xA001] → Done .dictionaryCommit s fun t =>
        t.obj w.idx w.sub = m.1 ∧ (∀ i j, 256 * i + j ≠ 256 * w.idx + w.sub → t.obj i j = s.obj i j) ∧ t.dict.waiting = [] ∧
        (m.2 = [] → t.dict.clampCount = s.dict.clampCount ∧ t.dict.clamps = s.dict.clamps) ∧
        (∀ c, m.2 = [c] → t.dict.clampCount = min (s.dict.clampCount + 1) 4294967295 ∧ ∃ e : Rec, find t.dict.clamps (s.dict.clampCount % 64) = some e ∧
          e.extractLsb' 240 16 = BitVec.ofNat 16 w.idx ∧ e.extractLsb' 232 8 = BitVec.ofNat 8 w.sub ∧ e.extractLsb' 128 64 = BitVec.ofNat 64 c.written ∧
          e.extractLsb' 64 64 = BitVec.ofNat 64 c.applied) ∧
        (∀ k, k < 10 → ((s.sema k).lossDue = true → SemaLost (s.sema k) (t.sema k)) ∧ ((s.sema k).lossDue = false → t.sema k = s.sema k)) ∧
        (t.fn w.fn).objBusy = 3 ∧ (t.fn w.fn).objClamps = min 255 m.2.length ∧ t = { s with dict := t.dict, ports := t.ports }) ∧
    (∀ b, Done (.clockLockLoss (.ctrlPort b)) s fun t => t.ports.clockFails = min (s.ports.clockFails + 1) 4294967295 ∧ (t.cport b).down = true ∧ (t.cport b).up = false) ∧
    (∀ out, Done (.clockLockLoss (.fieldPort out)) s fun t => t.ports.clockFails = min (s.ports.clockFails + 1) 4294967295 ∧ t.field.lost = true ∧
      (out = false → t.field.down = true ∧ t.field.outDown = s.field.outDown) ∧
      (out = true → t.field.outDown = true ∧ t.field.outLink = false ∧ t.field.down = s.field.down)) ∧
    (∀ k, Done (.clockLockLoss (.storagePort k)) s fun t => t.ports.clockFails = min (s.ports.clockFails + 1) 4294967295 ∧ (t.sport k.val).st = 0 ∧ (t.sport k.val).cause = 8) ∧
    (∀ x l, (∃ k d, x = .dieLinkEnd k d ∧ l = k.val) ∨ (∃ k, x = .hubLinkHubEnd k ∧ l = hubLink k.val) → (s.link l).st ≠ .down →
      Done (.clockLockLoss x) s fun t => t.ports.clockFails = min (s.ports.clockFails + 1) 4294967295 ∧ (t.link l).st = .down) ∧
    ((∀ x ∈ s.mgmt.running, x.err.cls < 3) →
      (∀ c, Done (.clockLockLoss (.island c)) s fun t => t.ports.clockFails = min (s.ports.clockFails + 1) 4294967295 ∧ (t.clu c).isl = .fenced) ∧
      (∀ c, Done (.clockLockLoss (.channel c)) s fun t => t.ports.clockFails = min (s.ports.clockFails + 1) 4294967295 ∧ t.fabric.dieFenced.getLsbD (c.val / 16) = true) ∧
      (∀ k, Done (.clockLockLoss (.hubLinkDieEnd k)) s fun t => t.ports.clockFails = min (s.ports.clockFails + 1) 4294967295 ∧ t.fabric.dieFenced.getLsbD k.val = true))

/-- Runs, ownership and the supervisory acts. RUN_START waits for the remaps, then gives RUN_STATE RUNNING and a fresh run;
RUN_STOP and RUN_PREEMPT begin the stopping of a running or hung partition; PARTITION_STOP ends in NO_RUN. PERM_WRITE writes
the entries of the pages that the partition owns and no other. GRANULE_OWNER changes a granule whose owner has no run.
SELFTEST_REQ makes on-demand tests due. SUP_FENCE fences the device; SUP_PART_RESET stops the partitions of its mask;
SUP_DEVICE_RESET acts only on 0x5A. LEDGER_COUNTS_CLEAR clears two counts of every account. -/
def Obligations.RunsOwnershipAndSupervision : Prop :=
  ∀ (s : State) (p : Pn),
    ((s.part p.val).run ≠ .noRun ∨ s.mgmt.fenced = true → Done (.runStart p) s fun t => t = s) ∧
    ((s.part p.val).run = .noRun → s.mgmt.fenced = false → s.remapsDone = false → Done (.runStart p) s fun t =>
      t = s.setPart p.val { s.part p.val with startReq := true }) ∧
    ((s.part p.val).run = .noRun → s.mgmt.fenced = false → s.remapsDone = true → Done (.runStart p) s fun t =>
      (t.part p.val).run = .running ∧ (t.part p.val).startReq = false ∧ (t.part p.val).startAt = s.now ∧ (t.part p.val).dropped = 0 ∧ (t.part p.val).pm = 0 ∧
      (t.part p.val).pages = s.execPages p.val ∧ (t.part p.val).dieValid = s.diesOf p.val &&& ~~~s.fabric.dieFenced ∧
      (∀ q : Pn, q ≠ p → t.part q.val = s.part q.val)) ∧
    (∀ c, c = .runStop p ∨ c = .runPreempt p → ((s.part p.val).run = .running ∨ (s.part p.val).run = .hung → Done c s fun t =>
        (t.part p.val).run = .stopping ∧ (∀ q : Pn, q ≠ p → (t.part q.val).run = (s.part q.val).run)) ∧
      ((s.part p.val).run = .noRun ∨ (s.part p.val).run = .stopping → Done c s fun t => t = s)) ∧
    ((s.part p.val).run ≠ .stopping ∨ s.committing p.val = true → Done (.partitionStop p) s fun t => t = s) ∧
    ((s.part p.val).run = .stopping → s.committing p.val = false → Done (.partitionStop p) s fun t =>
      (t.part p.val).run = .noRun ∧ (t.part p.val).pm = 0 ∧ (t.part p.val).pages = [] ∧ (t.part p.val).trace.on = false ∧
      (∀ q : Pn, q ≠ p → (t.part q.val).run = (s.part q.val).run)) ∧
    (∀ addr count entry, Done (.permWrite p addr count entry) s fun t =>
      (∀ k, addr / 2097152 ≤ k → k < addr / 2097152 + count → s.ownerOf (k * 2097152) = p.val → k / 65536 < 4 → k % 65536 / 512 < 95 →
        look 3 t.dram.permTable k = BitVec.ofNat 4 entry) ∧
      (∀ k, (k < addr / 2097152 ∨ addr / 2097152 + count ≤ k ∨ s.ownerOf (k * 2097152) ≠ p.val) → look 3 t.dram.permTable k = look 3 s.dram.permTable k) ∧
      t = { s with dram := { s.dram with permTable := t.dram.permTable }, parts := t.parts } ∧ (∀ q : Pn, q ≠ p → t.part q.val = s.part q.val)) ∧
    (∀ d q owner, (s.granOwner (4 * d.val + q.val) = 255 ∨ s.hasRun (s.granOwner (4 * d.val + q.val)) = false) → (owner < 16 ∨ owner = 255) →
      Done (.granuleOwner d q owner) s fun t => t.granOwner (4 * d.val + q.val) = owner) ∧
    (∀ d q owner, s.granOwner (4 * d.val + q.val) < 16 → s.hasRun (s.granOwner (4 * d.val + q.val)) = true →
      Done (.granuleOwner d q owner) s fun t => t = s) ∧
    (∀ mask i, i < 3072 → Done (.selftestReq p mask) s fun t =>
      (bits i i mask = 1 → s.clPart (Fin.ofNat 256 (i / 12)) = p.val → (s.coreState i = 0 ∨ s.coreState i = 1 ∨ s.coreState i = 4) → t.phy i = { s.phy i with testDue := true }) ∧
      (bits i i mask = 0 ∨ s.clPart (Fin.ofNat 256 (i / 12)) ≠ p.val → t.phy i = s.phy i) ∧ t = { s with fabric := { s.fabric with phys := t.fabric.phys } }) ∧
    (Done .supFence s fun t => t.mgmt.fenced = true) ∧
    (∀ mask, Done (.supPartReset mask) s fun t => ∀ q : Pn, (mask.getLsbD q.val = true → ((s.part q.val).run = .running ∨ (s.part q.val).run = .hung) → (t.part q.val).run = .stopping) ∧
      (mask.getLsbD q.val = false → (t.part q.val).run = (s.part q.val).run)) ∧
    (∀ v, v ≠ 90#8 → Done (.supDeviceReset v) s fun t => t = s) ∧
    (s.boot.phase = .up → Done (.supDeviceReset 90#8) s fun t => t.boot.phase = .hold ∧ t.boot.source = 5) ∧
    (∀ v, v ≠ 0 → Done (.ledgerCountsClear v) s fun t => (∀ a, (t.acct a).admissions = 0 ∧ (t.acct a).guardAdmits = 0 ∧ (t.acct a).credit = (s.acct a).credit ∧
      (t.acct a).reqs = (s.acct a).reqs) ∧ t = { s with accts := t.accts }) ∧
    (Done (.ledgerCountsClear 0) s fun t => t = s)

/-- Breakpoints, samples and trace lines. A write of BREAKPOINTS zeroes an entry of another partition's cluster, keeps HITS,
zeroes reserved bits and lets HIT only be cleared. A matched instruction whose entry stops it halts its steward core: HIT is
set, HITS counts the match, the dispatcher and every ring stop. The cluster has halted once its rings and scoreboards are
clear: the other steward cores are told and a dump of cause 5 begins. With no HIT left the cluster goes on. A sample of an
enabled core is traced with its stall class, which for a running core that waits for nothing is the one that the command
tells; the oldest trace line goes to its place in the region. -/
def Obligations.BreakpointsSamplesAndTraceLines : Prop :=
  ∀ (s : State),
    (∀ (p : Pn) v e, e < 256 → Done (.breakpointWrite p v) s fun t =>
      (bits 127 127 (sliceNat v (16 * e) 16) = 1 → s.clPart (bpCluster (sliceNat v (16 * e) 16)) ≠ p.val → t.bpEntry p.val e = 0) ∧
      (bits 127 127 (sliceNat v (16 * e) 16) = 0 ∨ (s.clPart (bpCluster (sliceNat v (16 * e) 16)) = p.val ∧ ∀ e', e' < e → bits 127 127 (sliceNat v (16 * e') 16) = 1 →
          bits 126 125 (sliceNat v (16 * e') 16) = bits 126 125 (sliceNat v (16 * e) 16) → bpCluster (sliceNat v (16 * e') 16) ≠ bpCluster (sliceNat v (16 * e) 16)) →
        bits 127 125 (t.bpEntry p.val e) = bits 127 125 (sliceNat v (16 * e) 16) ∧ bits 123 122 (t.bpEntry p.val e) = 0 ∧ bits 113 112 (t.bpEntry p.val e) = 0 ∧
        bits 121 114 (t.bpEntry p.val e) = bits 121 114 (sliceNat v (16 * e) 16) ∧ bits 111 32 (t.bpEntry p.val e) = bits 111 32 (sliceNat v (16 * e) 16) ∧
        bits 31 0 (t.bpEntry p.val e) = bits 31 0 (s.bpEntry p.val e) ∧
        bits 124 124 (t.bpEntry p.val e) = min (bits 124 124 (sliceNat v (16 * e) 16)) (bits 124 124 (s.bpEntry p.val e))) ∧
      (∀ i j, 256 * i + j ≠ 256 * 0x8023 + (p.val + 1) → t.obj i j = s.obj i j) ∧ t = { s with dict := t.dict }) ∧
    (∀ cl ia e, s.bpFor cl ia = some e →
      (s.seqRuns ⟨cl, .steward, ia⟩ = true → s.bpStops ⟨cl, .steward, ia⟩ = true → (s.stew cl).npc = none ∨ (s.stew cl).npc = some ia → (s.stew cl).hold = none →
        Done (.breakpointHalt cl ia) s fun t => bits 124 124 (t.bpEntry (s.clPart cl) e) = 1 ∧
          bits 31 0 (t.bpEntry (s.clPart cl) e) = min (bits 31 0 (s.bpEntry (s.clPart cl) e) + 1) 4294967295 ∧
          (t.clu cl).brk = .halting (bits 126 125 (s.bpEntry (s.clPart cl) e)) ∧ (t.clu cl).dispStopped = true ∧ (t.stew cl).passBreak = some ia ∧
          ∀ n, n < 16 → (t.ring cl n).st ≠ .running) ∧
      (s.seqRuns ⟨cl, .steward, ia⟩ = false ∨ s.bpStops ⟨cl, .steward, ia⟩ = false → Done (.breakpointHalt cl ia) s fun t => t = s)) ∧
    (∀ cl slot, (s.clu cl).brk = .halting slot →
      (∀ n, n < 16 → (s.ring cl n).st ≠ .running ∧ (s.ring cl n).st ≠ .stopping) → (∀ c, (s.core cl c).movesClear = true ∧ (s.core cl c).outs = []) →
      (∀ e ∈ (s.clu cl).slots, e.2.st ≠ .committing) → Done (.breakpointClusterHalted cl) s fun t =>
        (t.clu cl).brk = .halted slot ∧ (t.part (s.clPart cl)).dumpDue = true ∧ (t.part (s.clPart cl)).stopCause = 5 ∧
        (∀ c, c ≠ cl → s.clPart c = s.clPart cl → (s.stew c).evq.length < 32 → ∃ r : BitVec 512, (t.stew c).evq = (s.stew c).evq ++ [r] ∧ r.extractLsb' 56 8 = 9#8) ∧
        t = { s with clusters := t.clusters, stewards := t.stewards, parts := t.parts }) ∧
    (∀ cl, (∃ n, n < 16 ∧ ((s.ring cl n).st = .running ∨ (s.ring cl n).st = .stopping)) ∨ (s.clu cl).brk = .none → Done (.breakpointClusterHalted cl) s fun t => t = s) ∧
    (∀ cl slot, (s.clu cl).brk = .halting slot ∨ (s.clu cl).brk = .halted slot →
      ((∃ e, e < 256 ∧ bits 127 127 (s.bpEntry (s.clPart cl) e) = 1 ∧ bits 124 124 (s.bpEntry (s.clPart cl) e) = 1 ∧ bits 126 125 (s.bpEntry (s.clPart cl) e) = slot ∧
        bpCluster (s.bpEntry (s.clPart cl) e) = cl) → Done (.breakpointResume cl) s fun t => t = s) ∧
      (∀ u, u = (List.range 16).foldl (fun (x : State) n => if (s.clu cl).brkRings.getLsbD n then x.ringStart cl n else x) (s.setClu cl { s.clu cl with brk := .none, brkRings := 0 }) →
        (∀ e, e < 256 → bits 127 127 (s.bpEntry (s.clPart cl) e) = 0 ∨ bits 124 124 (s.bpEntry (s.clPart cl) e) = 0 ∨ bits 126 125 (s.bpEntry (s.clPart cl) e) ≠ slot ∨
        bpCluster (s.bpEntry (s.clPart cl) e) ≠ cl) → Done (.breakpointResume cl) s fun t => (t.clu cl).brk = .none ∧ (∀ n, n < 16 → (t.ring cl n).st = (u.ring cl n).st) ∧
          ((s.part (s.clPart cl)).ackDue = false → (s.part (s.clPart cl)).rolling = none → (t.clu cl).dispStopped = false))) ∧
    (∀ cl c stall, (s.coreEnabled cl c.val = false ∨ s.tracing cl = false → Done (.pcSample cl c stall) s fun t => t = s) ∧
      (s.coreEnabled cl c.val = true → s.tracing cl = true → 4096 ≤ (s.part (s.clPart cl)).trace.segLen → (s.clu cl).trace.held < 64 → (s.clu cl).trace.buf.length < 3 → (s.clu cl).trace.lost = 0 →
        Done (.pcSample cl c stall) s fun t => (∃ r : Rec, (t.clu cl).trace = { (s.clu cl).trace with buf := (s.clu cl).trace.buf ++ [r] } ∧
          r.extractLsb' 248 8 = 1#8 ∧ r.extractLsb' 224 24 = BitVec.ofNat 24 (unitName cl c.val) ∧ r.extractLsb' 208 16 = BitVec.ofNat 16 (s.taskIdOf cl c) ∧
          r.extractLsb' 160 48 = BitVec.ofNat 48 s.now ∧ r.extractLsb' 112 48 = BitVec.ofNat 48 (s.core cl c).lastIa ∧ r.extractLsb' 108 4 = BitVec.ofNat 4 (s.sampleClass cl c stall)) ∧
          t = { s with clusters := t.clusters, freeCtr := t.freeCtr }) ∧
      ((s.phy (s.physOf cl c.val)).testing = true → s.sampleClass cl c stall = 8) ∧
      ((s.phy (s.physOf cl c.val)).testing = false → (s.core cl c).phase = .running → (s.core cl c).deferStall = none → (s.core cl c).moves = [] →
        (s.core cl c).hold = none → stall < 4 ∨ stall = 9 → s.sampleClass cl c stall = stall)) ∧
    (∀ cl, ((s.clu cl).trace.lines = [] → Done (.traceLineAccepted cl) s fun t => t = s) ∧
      (∀ l rest T, (s.clu cl).trace.lines = l :: rest → T = (s.part (s.clPart cl)).trace → T.segLen ≠ 0 → Done (.traceLineAccepted cl) s fun t =>
        (t.clu cl).trace = { (s.clu cl).trace with lines := rest, written := (s.clu cl).trace.written + 4 } ∧
        t.dram = ((s.dramBytesWr (T.base + T.segment (s.clusterIndex cl) + 32 * ((s.clu cl).trace.written % (T.segLen / 32))) (l.flatMap fun r => leBytes 32 r.toNat)).dramBytesWr
          (T.base + 256 + 128 * s.clusterIndex cl) (leBytes 8 ((s.clu cl).trace.written + 4) ++ leBytes 8 (s.clu cl).trace.dropped)).dram ∧
        t.rings = s.rings ∧ t.cores = s.cores ∧ t.parts = s.parts))

/-- The test port: it works whenever PWRGD is high. BYPASS and TRST select their instruction; IDCODE reads SILICON_REV above
0x3072973; SAMPLE/PRELOAD loads the boundary register; EXTEST, CLAMP and HIGHZ hold the device in Hold; the debug
instructions act only with service access and debug scope, and else as BYPASS; DBG_RESET then resets the device and closes
service access. -/
def Obligations.TestPort : Prop :=
  ∀ (s : State),
    (∀ c ∈ [Instr.trst, .bypass, .idcode, .samplePreload 0, .extest, .clamp, .highz], s.boot.pwrgd = false → Done c s fun t => t = s) ∧
    (s.boot.pwrgd = true →
      (Done .trst s fun t => t = { s with jtag := { s.jtag with ir := .idcode, tdr := 0, debug := false }, boot := { s.boot with jtagHold := false } }) ∧
      (Done .bypass s fun t => t = { s with jtag := { s.jtag with ir := .bypass, tdr := 0, debug := false }, boot := { s.boot with jtagHold := false } }) ∧
      (Done .idcode s fun t => t.jtag.tdr = s.fw.fuses.rev.toNat % 16 * 2 ^ 28 + 0x3072973 ∧ t.jtag.ir = .idcode ∧
        t = { s with jtag := t.jtag, boot := { s.boot with jtagHold := false } }) ∧
      (∀ v, Done (.samplePreload v) s fun t => t.jtag.boundary = v ∧ t.jtag.ir = .sample ∧ t = { s with jtag := t.jtag, boot := { s.boot with jtagHold := false }, freeCtr := t.freeCtr }) ∧
      (∀ c i, (c, i) ∈ [(Instr.extest, JInstr.extest), (.clamp, .clamp), (.highz, .highz)] → Done c s fun t =>
        t.jtag.ir = i ∧ t.boot.phase = .hold ∧ t.boot.jtagHold = true ∧ (s.boot.phase = .up → t.boot.source = 3)) ∧
      (∀ c ∈ [Instr.dbgAccess, .dbgReset], s.debugOpen = false → Done c s fun t =>
        t = { s with jtag := { s.jtag with ir := .bypass, tdr := 0, debug := false }, boot := { s.boot with jtagHold := false } }) ∧
      (s.trust.service = true → s.trust.scope % 2 = 1 → (Done .dbgAccess s fun t => t.jtag.ir = .dbgAccess ∧ t.jtag.debug = true ∧
          t = { s with jtag := t.jtag, boot := { s.boot with jtagHold := false } }) ∧
        (s.boot.phase = .up → Done .dbgReset s fun t => t.boot.phase = .hold ∧ t.boot.source = 6 ∧ t.trust.service = false)))

/-- Measurement, quotes and service access. A nonce clears QUOTE; the quote over it names the function, its partition, the counts
and the nonce, and has no signature without an identity. A measured page extends PM and is counted. A token is stored and,
outside a firmware command, evaluated: a fault of it is a verdict and opens nothing; a good one begins an opening, which
grants nothing before the secrets are erased and the next fuse is blown and read back. -/
def Obligations.QuotesMeasurementsAndUnlocking : Prop :=
  ∀ (s : State),
    (∀ (f : Fx) v, Done (.quoteNonce f v) s fun t => t.fn f.val = { s.fn f.val with nonce := v, quote := 0, quoteDue := true } ∧
      (∀ g, g ≠ f.val → t.fn g = s.fn g) ∧ t = { s with ports := t.ports }) ∧
    (∀ (f : Fx), ((s.fn f.val).quoteDue = false ∨ (s.part (s.bound f.val)).pages ≠ [] → Done (.quoteReady f) s fun t => t = s) ∧
      (∀ q, (s.fn f.val).quoteDue = true → (s.part (s.bound f.val)).pages = [] → s.fw.fuses.openings < 256 → s.fw.svn < 256 → s.fw.fuses.svn < 256 → s.bound f.val < 256 →
        q = (s.quoteOf f.val) → Done (.quoteReady f) s fun t =>
        t.fn f.val = { s.fn f.val with quote := q, quoteDue := false } ∧ t = { s with ports := t.ports } ∧
        sliceNat q 0 4 = 0x54514C47 ∧ sliceNat q 4 2 = 1 ∧ sliceNat q 6 1 = s.fw.fuses.openings ∧ sliceNat q 7 1 = (if s.trust.service = true then 1 else 0) ∧
        sliceNat q 8 8 = s.fw.fuses.serial.toNat ∧ sliceNat q 16 4 = s.fw.version.toNat ∧ sliceNat q 24 1 = s.fw.svn ∧ sliceNat q 25 1 = s.fw.fuses.svn ∧
        sliceNat q 26 1 = f.val / 8 * 16 + f.val % 8 ∧ sliceNat q 27 1 = s.bound f.val ∧ sliceNat q 28 32 = (s.fn f.val).nonce.toNat ∧
        sliceNat q 64 64 = s.fw.measure.toNat ∧
        sliceNat q 192 64 = (if s.bound f.val < 16 ∧ s.hasRun (s.bound f.val) = true then (s.part (s.bound f.val)).pm.toNat else 0) ∧
        (s.trust.hasIdentity = false → sliceNat q 272 1280 = 0) ∧ sliceNat q 1552 2544 = 0)) ∧
    (∀ p : Pn, ((s.part p.val).pages = [] → Done (.pageMeasured p) s fun t => t = s) ∧
      (∀ k rest, (s.part p.val).pages = k :: rest → Done (.pageMeasured p) s fun t =>
        (∃ m, (t.part p.val) = { s.part p.val with pages := rest, pm := m, progCount := (s.part p.val).progCount + 1, wxPages := if permW (s.permEntry p.val k) = true then (s.part p.val).wxPages + 1 else (s.part p.val).wxPages }) ∧
        (∀ q : Pn, q ≠ p → t.part q.val = s.part q.val) ∧ t = { s with parts := t.parts })) ∧
    (∀ v, v < 2 ^ 16384 → (1 ≤ s.fw.state → s.fw.state ≤ 5 → Done (.unlockToken v) s fun t => t.obj 0x9002 2 = v ∧ t.trust = { s.trust with tokenWaiting := true } ∧
        t = { s with dict := t.dict, trust := t.trust }) ∧
      (s.fw.state = 0 ∨ 6 ≤ s.fw.state → s.trust.opening = none →
        ((sliceNat v 0 4 ≠ 0x54554C47 ∨ sliceNat v 4 2 ≠ 1 ∨ sliceNat v 8 8 ≠ s.fw.fuses.serial.toNat ∨ sliceNat v 16 32 ≠ s.trust.challenge.toNat ∨ sliceNat v 48 720 ≠ 0) →
          Done (.unlockToken v) s fun t => t.obj 0x9002 2 = v ∧ t.trust = { s.trust with tokenWaiting := false } ∧ ∃ r : Rec, t.mgmt.mirror.getLast? = some r ∧
            r.extractLsb' 248 8 = 0x83#8 ∧ r.extractLsb' 128 56 = 1#56) ∧
        (sliceNat v 0 4 = 0x54554C47 → sliceNat v 4 2 = 1 → sliceNat v 8 8 = s.fw.fuses.serial.toNat → sliceNat v 16 32 = s.trust.challenge.toNat → sliceNat v 48 720 = 0 →
          (Config.falconVerify 2 (sliceNat v 0 768) (sliceNat v 768 1280) = false → Done (.unlockToken v) s fun t => t.trust = { s.trust with tokenWaiting := false }) ∧
          (Config.falconVerify 2 (sliceNat v 0 768) (sliceNat v 768 1280) = true →
            (sliceNat v 6 1 ≠ s.fw.fuses.openings + 1 ∨ 8 ≤ s.fw.fuses.openings ∨ (∃ p, p < 16 ∧ s.hasRun p = true) → Done (.unlockToken v) s fun t =>
              t.trust = { s.trust with tokenWaiting := false }) ∧
            (sliceNat v 6 1 = s.fw.fuses.openings + 1 → s.fw.fuses.openings < 8 → (∀ p, p < 16 → s.hasRun p = false) → Done (.unlockToken v) s fun t =>
              t.trust = { s.trust with tokenWaiting := false, opening := some (sliceNat v 7 1), erased := false } ∧ t.mgmt = s.mgmt))))) ∧
    ((s.trust.opening.isSome = true → s.trust.erased = false → Done .unlockEraseComplete s fun t =>
        t = { s with trust := { s.trust with erased := true, sealedAt := none, hasIdentity := false } }) ∧
      (s.trust.opening = none ∨ s.trust.erased = true → Done .unlockEraseComplete s fun t => t = s)) ∧
    (∀ ok, (s.trust.opening = none ∨ s.trust.erased = false → Done (.openingFuseBlown ok) s fun t => t = s) ∧
      (∀ sc, s.trust.opening = some sc → s.trust.erased = true → Done (.openingFuseBlown ok) s fun t => t.trust.opening = none ∧
        (ok = true → t.trust.service = true ∧ t.trust.scope = sc % 4 ∧ t.fw.fuses.openings = min 8 (s.fw.fuses.openings + 1)) ∧
        (ok = false → t.trust.service = s.trust.service ∧ t.fw = s.fw) ∧
        ∃ r : Rec, t.mgmt.mirror.getLast? = some r ∧ r.extractLsb' 248 8 = 0x83#8 ∧ r.extractLsb' 128 56 = if ok = true then 0#56 else 6#56))

/-- Firmware update and boot. A firmware command is kept during another; a staging range that is not owned and idle fails with
cause 1; the copy is verified, then only with VERIFY_AND_WRITE is the header erased, body and header programmed, and the
flash read back. In recovery a verified image boots. Once running for 60 s the fused SVN count rises to the image's and never
falls. -/
def Obligations.FirmwareUpdate : Prop :=
  ∀ (s : State),
    (∀ c k, (c, k) ∈ [(Instr.fwVerify, 1), (.fwVerifyAndWrite, 2)] →
      (1 ≤ s.fw.state → s.fw.state ≤ 5 → Done c s fun t => t = s) ∧
      (s.fw.state = 0 ∨ 6 ≤ s.fw.state →
        (s.fw.inRecovery = true → Done c s fun t => t = { s with fw := { s.fw with cmd := k, cause := 0, progress := 0, state := 2 } }) ∧
        (s.fw.inRecovery = false → s.stageOk (s.obj 0x9003 1) (s.obj 0x9003 2) = true → Done c s fun t =>
          t = { s with fw := { s.fw with cmd := k, cause := 0, progress := 0, state := 1 } }) ∧
        (s.fw.inRecovery = false → s.stageOk (s.obj 0x9003 1) (s.obj 0x9003 2) = false → Done c s fun t => t.fw.state = 7 ∧ t.fw.cause = 1 ∧
          t.fw.flash = s.fw.flash ∧ (s.trust.tokenWaiting = false → ∃ r : Rec, t.mgmt.mirror.getLast? = some r ∧ r.extractLsb' 248 8 = 0x82#8 ∧ r.extractLsb' 128 32 = if s.fw.recovery = true then 0x71000001#32 else 0x71000000#32)))) ∧
    (∀ c st, (c, st) ∈ [(Instr.fwCopyComplete, 1), (.fwVerifyComplete, 2), (.fwReadbackComplete, 5), (.fwFlashProgramComplete true, 4), (.fwFlashProgramComplete false, 4)] →
      s.fw.state ≠ st → Done c s fun t => t = s) ∧
    (s.fw.state = 1 → s.dram.mem.syn = [] → Done .fwCopyComplete s fun t => t.fw.state = 2 ∧ t.fw.hold = ⟨s.rangeBytes (s.obj 0x9003 1) (s.obj 0x9003 2), []⟩ ∧
      t.fw.flash = s.fw.flash ∧ t.fw.cmd = s.fw.cmd) ∧
    (∀ c, c = imageCause s.fw.fuses s.fw.hold (s.obj 0x9003 2) → s.fw.state = 2 →
      (c ≠ 0 → Done .fwVerifyComplete s fun t => t.fw.state = 7 ∧ t.fw.cause = c ∧ t.fw.flash = s.fw.flash) ∧
      (c = 0 → s.fw.cmd = 2 → Done .fwVerifyComplete s fun t => t = { s with fw := { s.fw with state := 4, progress := 0, flash := t.fw.flash } } ∧
        (∀ a, a < 4096 → t.fw.flash.raw a = 0) ∧ (∀ a, 4096 ≤ a → t.fw.flash.raw a = s.fw.flash.raw a)) ∧
      (c = 0 → s.fw.cmd ≠ 2 → Done .fwVerifyComplete s fun t => t.fw.state = 3 ∧ t.fw.cause = 0 ∧ t.fw.flash = s.fw.flash ∧
        (s.fw.inRecovery = true → t.fw.recovery = true ∧ t.fw.inRecovery = false ∧ t.boot.watchdog = true ∧ t.fw.svn = s.fw.hold.field 7 1))) ∧
    (s.fw.state = 4 → (Done (.fwFlashProgramComplete false) s fun t => t.fw.state = 7 ∧ t.fw.cause = 7 ∧ t.fw.flash = s.fw.flash) ∧
      (∀ n, n = 4096 + s.fw.hold.field 12 4 → Done (.fwFlashProgramComplete true) s fun t => t.fw.state = 5 ∧
        (∀ a, a < n → t.fw.flash.raw a = s.fw.hold.raw a) ∧ (∀ a, n ≤ a → t.fw.flash.raw a = s.fw.flash.raw a) ∧ t = { s with fw := t.fw })) ∧
    (∀ n, n = 4096 + s.fw.hold.field 12 4 → s.fw.state = 5 →
      (s.fw.flash.span 0 n = s.fw.hold.span 0 n → Done .fwReadbackComplete s fun t => t.fw.state = 6 ∧ t.fw.cause = 0 ∧
        (s.fw.inRecovery = true → t.fw.recovery = true ∧ t.fw.inRecovery = false ∧ t.boot.watchdog = true)) ∧
      (Config.shake256 n (s.fw.flash.span 0 n) ≠ Config.shake256 n (s.fw.hold.span 0 n) → Done .fwReadbackComplete s fun t => t.fw.state = 7 ∧ t.fw.cause = 8)) ∧
    (s.fw.up = true → s.fw.upSince + 60000000 ≤ s.now → Done .svnFuseRaise s fun t => t.fw.fuses.svn = max s.fw.fuses.svn (min 32 s.fw.svn) ∧
      t = { s with fw := { s.fw with fuses := t.fw.fuses } }) ∧
    (s.fw.up = false ∨ s.now < s.fw.upSince + 60000000 → Done .svnFuseRaise s fun t => t = s)

/-- Device resets. Each source takes a device that is up to Hold with that source and clears its state: only fuses, flash, the
trip latch, the log mirror (not for power-on and brown-out), the counts of errors (not for power-on) and what lies outside it
stay. In Hold the source of higher rank stays; option loading starts again. RESET_N edges within 1 s are counted, and the
hold-off ends 100 ms after the last. -/
def Obligations.DeviceResetsClearTheState : Prop :=
  ∀ (s : State) (c : Instr) (src : Nat), (c, src) ∈ [(Instr.powerOnReset false, 1), (.powerOnReset true, 1), (.brownOut, 2), (.pinReset, 3), (.watchdogExpire, 4), (.supDeviceReset 90#8, 5), (.dbgReset, 6), (.clockFailure, 7), (.lockUp, 8)] →
    ((c = .brownOut ∧ s.boot.pwrgd = false ∨ c = .watchdogExpire ∧ s.boot.watchdog = false → Done c s fun t => t = s) ∧
    ((c = .brownOut → s.boot.pwrgd = true) → (c = .watchdogExpire → s.boot.watchdog = true) → (c = .dbgReset → s.debugOpen = true ∧ s.boot.pwrgd = true) →
      Done c s fun t =>
        (s.boot.phase ≠ .hold → s.boot.phase ≠ .optionLoading → t.boot.phase = .hold ∧ t.boot.source = src) ∧
        (s.boot.phase = .hold → s.boot.source = 5 → t.boot.phase = .hold ∧ t.boot.source = src) ∧
        (s.boot.phase = .hold → s.boot.source = 1 → t.boot.phase = .hold ∧ t.boot.source = 1) ∧
        (s.boot.phase = .optionLoading → c ≠ .pinReset → s.boot.holdOff = false → s.power.tripped = false → t.boot.phase = .optionLoading ∧ t.boot.source = s.boot.source) ∧
        t.now = 0 ∧ t.cores = [] ∧ t.clusters = [] ∧ t.rings = [] ∧ t.counters = [] ∧ t.parts = [] ∧ t.dict = State.reset.dict ∧ t.dram.mem = Mem.empty ∧ t.fabric = State.reset.fabric ∧
        t.ports.semas = [] ∧ t.trust.service = false ∧ t.boot.watchdog = false ∧ t.fw.up = false ∧ t.fw.fuses = s.fw.fuses ∧ (s.fw.state < 4 ∨ 5 < s.fw.state → t.fw.flash = s.fw.flash) ∧
        (s.fw.state = 4 ∨ s.fw.state = 5 → t.fw.flash.field 0 4 ≠ 0x57464C47) ∧ t.trust.sealedAt = s.trust.sealedAt ∧ t.store.images = s.store.images ∧
        (c ≠ .powerOnReset true → t.power.tripped = s.power.tripped) ∧ (c = .powerOnReset true → t.power.tripped = false) ∧ t.pins.thermtripN = !t.power.tripped ∧
        (src = 1 ∨ src = 2 → t.mgmt.mirror = [] ∧ t.mgmt.logCount = 0) ∧ (src ≠ 1 → src ≠ 2 → t.mgmt.mirror = s.mgmt.mirror ∧ t.mgmt.logCount = s.mgmt.logCount) ∧
        (src = 1 → t.mgmt.ce = 0 ∧ t.mgmt.de = 0 ∧ t.mgmt.ur = 0 ∧ t.mgmt.fatal = 0) ∧
        (src ≠ 1 → t.mgmt.ce = s.mgmt.ce ∧ t.mgmt.de = s.mgmt.de ∧ t.mgmt.ur = s.mgmt.ur ∧ t.mgmt.fatal = s.mgmt.fatal) ∧
        (src ∉ [1, 2, 7] → t.field.outLink = s.field.outLink ∧ t.field.turned = s.field.turned) ∧ (src ∈ [1, 2, 7] → t.field = State.reset.field) ∧ t.pending = s.pending ∧
        (c = .pinReset → t.boot.resetLow = true ∧ (t.boot.holdOff = true ↔ s.boot.holdOff = true ∨ 8 ≤ (s.boot.edges.filter fun e => decide (s.boot.base + s.now < e + 1000000)).length)))) ∧
    (s.boot.holdOff = true → s.boot.edges.getLastD 0 + 100000 ≤ s.boot.base + s.now → Done .resetHoldoffEnd s fun t => t = { s with boot := { s.boot with holdOff := false } }) ∧
    (s.boot.holdOff = false ∨ s.boot.base + s.now < s.boot.edges.getLastD 0 + 100000 → Done .resetHoldoffEnd s fun t => t = s) ∧
    (Done .pwrgdRise s fun t => t = { s with boot := { s.boot with pwrgd := true, vddIoLow := false } })

/-- The phases after a reset. Hold ends only with PWRGD high, no hold-off and no trip; option loading takes straps by majority,
or the median of CFG_RES; the 26 release steps go in order, a granule's islands run, those of a fenced die are fenced, and
with no flit waiting no other cluster changes. A die that fails calibration is fenced; with none after 40 ms boot stops. The
image that verifies boots; another source or a bad image leads to recovery. The firmware records BOOT and serves. -/
def Obligations.PhasesAndBoot : Prop :=
  ∀ (s : State),
    (s.boot.phase = .hold → s.boot.pwrgd = true → s.boot.holdOff = false → s.boot.jtagHold = false → s.power.tripped = false → Done .holdEnd s fun t =>
      t = { s with boot := { s.boot with phase := .optionLoading, resetLow := false }, ports := { s.ports with sysclk := true } }) ∧
    (s.boot.phase ≠ .hold ∨ s.boot.pwrgd = false ∨ s.boot.holdOff = true ∨ s.power.tripped = true → Done .holdEnd s fun t => t = s) ∧
    (∀ st, s.boot.phase ≠ .optionLoading → Done (.optionLoadingComplete st) s fun t => t = s) ∧
    (∀ st, s.boot.phase = .optionLoading → s.boot.pwrgd = true → s.boot.jtagHold = false → s.power.tripped = false → Done (.optionLoadingComplete st) s fun t =>
      t.boot.phase = .release 0 ∧ t.fabric.gradeFused = s.fw.fuses.grade ∧ t.fabric.gradeNow = s.fw.fuses.grade ∧
      (∀ a b x y, st.strapSelN = [1, 1, x] → st.bootSrc = [a, a, b] → st.clkMode = [y, y, b] → a < 4 → y < 4 → t.boot.bootSrc = a ∧ t.boot.clkMode = y ∧ t.boot.cfgRes = 255) ∧
      (∀ k x, st.strapSelN = [0, 0, x] → st.cfgRes = [k, k, k, k, 15, 15, 15, 15] → k < 16 → t.boot.bootSrc = 3 - k / 4 ∧ t.boot.clkMode = k % 4 ∧ t.boot.cfgRes = k) ∧
      t.fw.fuses.svn = s.fw.fuses.svn ∧ t.fw.flash = s.fw.flash ∧ t.parts = s.parts ∧ t.dict = s.dict ∧ t.mgmt = s.mgmt) ∧
    (∀ k, s.boot.phase = .release k → s.power.tripped = false → k < 26 → Done .domainRelease s fun t =>
      (k + 1 < 26 → t.boot.phase = .release (k + 1)) ∧ (k + 1 = 26 → t.boot.phase = .up ∧ ∀ j, j < 8 → (t.sport j).st = 1) ∧
      (9 ≤ k + 1 → k + 1 ≤ 24 → ∀ cl, (acctOf cl = k - 8 → (t.clu cl).isl = if s.fabric.dieFenced.getLsbD ((k - 8) / 4) = true then .fenced else .running) ∧
        (acctOf cl ≠ k - 8 → s.fabric.buffers = [] → (∀ cl', acctOf cl' = k - 8 → (s.clu cl').xing = []) → t.clu cl = s.clu cl)) ∧
      (k + 1 < 9 → t = { s with boot := { s.boot with phase := .release (k + 1) } })) ∧
    ((∀ k, s.boot.phase ≠ .release k) ∨ s.power.tripped = true → Done .domainRelease s fun t => t = s) ∧
    (∀ d : Dn, s.releasedTo (5 + d.val) = true → s.boot.calStopped = false → s.boot.calOk.getLsbD d.val = false → s.boot.calBad.getLsbD d.val = false →
      (Done (.dramCalibrationDone d true) s fun t => t.boot.calOk.getLsbD d.val = true ∧ t = { s with boot := { s.boot with calOk := t.boot.calOk } }) ∧
      (Done (.dramCalibrationDone d false) s fun t => t.boot.calOk = s.boot.calOk ∧ t.boot.calBad.getLsbD d.val = true ∧ t.fabric.dieFenced.getLsbD d.val = true)) ∧
    (s.releasedTo 8 = true → s.boot.calOk = 0 → Done .calibrationTimeout s fun t => t.boot.calStopped = true ∧ t.pins.devFaultN = false ∧ t = { s with boot := t.boot, pins := t.pins }) ∧
    (s.boot.calOk ≠ 0 → Done .calibrationTimeout s fun t => t = s) ∧
    (s.fw.inRecovery = true ∨ s.boot.watchdog = true ∨ s.boot.calStopped = true ∨ s.boot.calOk = 0 ∨ s.releasedTo 1 = false → Done .bootImageLoaded s fun t => t = s) ∧
    (∀ c, c = imageCause s.fw.fuses ⟨s.fw.flash.span 0 sealedBase, []⟩ sealedBase → s.fw.inRecovery = false → s.boot.watchdog = false → s.boot.calStopped = false → s.boot.calOk ≠ 0 → s.releasedTo 1 = true →
      (s.boot.bootSrc ≠ 0 → Done .bootImageLoaded s fun t => t.fw.inRecovery = true ∧ t.boot.watchdog = false ∧ t.fw.bootSource = s.boot.bootSrc) ∧
      (s.boot.bootSrc = 0 → c ≠ 0 → Done .bootImageLoaded s fun t => t.fw.inRecovery = true ∧ t.boot.watchdog = false ∧ t.fw.cause = c) ∧
      (s.boot.bootSrc = 0 → c = 0 → Done .bootImageLoaded s fun t => t.fw.inRecovery = false ∧ t.fw.recovery = false ∧ t.boot.watchdog = true ∧ t.fw.up = false ∧
        t.fw.hold = ⟨s.fw.flash.span 0 sealedBase, []⟩ ∧ t.fw.svn = t.fw.hold.field 7 1 ∧ t.fw.version.toNat = t.fw.hold.field 8 4)) ∧
    (s.boot.watchdog = true → s.fw.up = false → Done .firmwareUp s fun t => t.fw.up = true ∧ t.fw.upSince = s.now ∧ t.boot.recorded = true ∧
      t.mgmt.logCount = (s.mgmt.logCount + if s.boot.recorded = true then 1 else 2) % 2 ^ 32 ∧
      (∃ r : Rec, t.mgmt.mirror.getLast? = some r ∧ r.extractLsb' 248 8 = 0x80#8 ∧ r.extractLsb' 128 56 = BitVec.ofNat 56 (s.fw.cause * 256 + s.fw.bootSource) ∧
        r.extractLsb' 16 48 = BitVec.ofNat 48 s.fw.version.toNat) ∧ t = { s with boot := t.boot, fw := t.fw, mgmt := t.mgmt }) ∧
    (s.boot.watchdog = false ∨ s.fw.up = true → Done .firmwareUp s fun t => t = s)

/-- The word code: the verdict of every syndrome by the table of R250, and its guarantees: an error in one symbol is corrected,
in two is uncorrectable, and a poisoned word with a wrong symbol is uncorrectable; the poison word has zero data and check
bits 0x0831. -/
def Obligations.WordCodeVerdicts : Prop :=
  (∀ syn : BitVec 16, ∀ s0 s1 s2 s3, s0 = syn.toNat % 16 → s1 = syn.toNat / 16 % 16 → s2 = syn.toNat / 256 % 16 → s3 = syn.toNat / 4096 →
    (syn = 0 → verdict syn = .clean) ∧ (syn = 0x0831#16 → verdict syn = .poisoned) ∧
    ((s0 ≠ 0 ∧ s1 = 0 ∧ s2 = 0 ∧ s3 = 0) ∨ (s0 = 0 ∧ ((s1 ≠ 0 ∧ s2 = 0 ∧ s3 = 0) ∨ (s1 = 0 ∧ s2 ≠ 0 ∧ s3 = 0) ∨ (s1 = 0 ∧ s2 = 0 ∧ s3 ≠ 0))) →
      ∃ sym, 32 ≤ sym ∧ verdict syn = .corrected sym 0) ∧
    (∀ i h1 h2 h3, codeCols[i]? = some (h1, h2, h3) → s0 ≠ 0 → s1 = gfmul h1 s0 → s2 = gfmul h2 s0 → s3 = gfmul h3 s0 → verdict syn = .corrected i s0) ∧
    (s0 ≠ 0 → (s1 ≠ 0 ∨ s2 ≠ 0 ∨ s3 ≠ 0) → syn ≠ 0x0831#16 → (∀ h ∈ codeCols, ¬(s1 = gfmul h.1 s0 ∧ s2 = gfmul h.2.1 s0 ∧ s3 = gfmul h.2.2 s0)) → verdict syn = .uncorrectable) ∧
    (s0 = 0 → (s1 ≠ 0 ∧ s2 ≠ 0 ∨ s1 ≠ 0 ∧ s3 ≠ 0 ∨ s2 ≠ 0 ∧ s3 ≠ 0) → verdict syn = .uncorrectable)) ∧
  (∀ d e i, d < 2 ^ 128 → i < 32 → 0 < e → e < 16 → checkBits d ^^^ checkBits (d ^^^ (e * 16 ^ i)) = errorSyn i e) ∧
  (∀ i e, i < 36 → 0 < e → e < 16 → (i < 32 → verdict (errorSyn i e) = .corrected i e) ∧ (32 ≤ i → verdict (errorSyn i e) = .corrected i 0) ∧
    verdict (0x0831#16 ^^^ errorSyn i e) = .uncorrectable) ∧
  (∀ i j e f, i < j → j < 36 → 0 < e → e < 16 → 0 < f → f < 16 → verdict (errorSyn i e ^^^ errorSyn j f) = .uncorrectable) ∧
  (∀ (m : Mem) w, (∀ b ∈ (m.poisonWord w).word w, b = 0) ∧ (m.poisonWord w).checkAt w = 0x0831#16) ∧
  (∀ (m : Mem) a, (verdict (m.synAt (a / 16)) = .clean → m.byte a = m.raw a) ∧
    (∀ i e, verdict (m.synAt (a / 16)) = .corrected i e → i < 32 → m.byte a = if i / 2 = a % 16 then m.raw a ^^^ BitVec.ofNat 8 (e * 16 ^ (i % 2)) else m.raw a) ∧
    (∀ i e, verdict (m.synAt (a / 16)) = .corrected i e → 32 ≤ i → m.byte a = m.raw a)) ∧
  checkBits 0x300000 = 0xF953#16

/-- The invariant: from every state in which DRAM is in its canonical form, the log mirror holds at most 256 records, at most 8
opening fuses are blown and the SVN count is at most 32, each step leads to such a state. -/
def Obligations.EveryStepKeepsTheInvariant : Prop :=
  ∀ (s t : State), s.Inv → step s = .next t → t.Inv

/-- No step lowers a fused count: the opening count and the SVN count never fall, whatever the command, and the fused grade, core
map, serial number, revision and key revocation never change. -/
def Obligations.FusedCountsNeverFall : Prop :=
  ∀ (s t : State), s.fw.fuses.openings ≤ 8 → step s = .next t →
    s.fw.fuses.openings ≤ t.fw.fuses.openings ∧ s.fw.fuses.svn ≤ t.fw.fuses.svn ∧ t.fw.fuses.grade = s.fw.fuses.grade ∧ t.fw.fuses.coreMap = s.fw.fuses.coreMap ∧
    t.fw.fuses.serial = s.fw.fuses.serial ∧ t.fw.fuses.rev = s.fw.fuses.rev ∧ t.fw.fuses.key0Revoked = s.fw.fuses.key0Revoked
end

