-- ==== Sys2Proof/Laws/Tables.lean ====
section
/-! SUPPORT. Laws of the sparse tables: what a write changes, and that it keeps the canonical form. -/

namespace Sys2Proof.Machine

open Sys2Proof

variable {α : Type}

theorem look_del_same (d : α) (m : SMap α) (k : Nat) : look d (del m k) k = d := by
  induction m with
  | nil => rfl
  | cons e t ih =>
    obtain ⟨j, v⟩ := e
    by_cases h : j = k <;> simp [del, look, h, ih]

theorem look_del_ne (d : α) (m : SMap α) {k j : Nat} (h : j ≠ k) : look d (del m k) j = look d m j := by
  induction m with
  | nil => rfl
  | cons e t ih =>
    obtain ⟨i, v⟩ := e
    by_cases hi : i = k
    · subst hi; simp [del, look, ih, Ne.symm h]
    · by_cases hj : i = j
      · subst hj; simp [del, look, hi]
      · simp [del, look, hi, hj, ih]

theorem look_ins_same (d : α) (m : SMap α) (k : Nat) (v : α) : look d (ins m k v) k = v := by
  induction m with
  | nil => simp [ins, look]
  | cons e t ih =>
    obtain ⟨j, w⟩ := e
    by_cases h1 : k < j
    · simp [ins, look, h1]
    · by_cases h2 : j = k <;> simp [ins, look, h1, h2, ih]

theorem look_ins_ne (d : α) (m : SMap α) {k j : Nat} (v : α) (h : j ≠ k) :
    look d (ins m k v) j = look d m j := by
  induction m with
  | nil => simp [ins, look, Ne.symm h]
  | cons e t ih =>
    obtain ⟨i, w⟩ := e
    by_cases h1 : k < i
    · simp [ins, look, h1, Ne.symm h]
    · by_cases h2 : i = k
      · subst h2; simp [ins, look, Ne.symm h]
      · by_cases h3 : i = j
        · subst h3; simp [ins, look, h1, h2]
        · simp [ins, look, h1, h2, h3, ih]

theorem find_eq_look (m : SMap α) (k : Nat) : find m k = look none (m.map fun e => (e.1, some e.2)) k := by
  induction m with
  | nil => rfl
  | cons e t ih => obtain ⟨j, v⟩ := e; simp [find, look, ih]

theorem find_del_same (m : SMap α) (k : Nat) : find (del m k) k = none := by
  induction m with
  | nil => rfl
  | cons e t ih =>
    obtain ⟨j, v⟩ := e
    by_cases h : j = k <;> simp [del, find, h, ih]

theorem find_del_ne (m : SMap α) {k j : Nat} (h : j ≠ k) : find (del m k) j = find m j := by
  induction m with
  | nil => rfl
  | cons e t ih =>
    obtain ⟨i, v⟩ := e
    by_cases hi : i = k
    · subst hi; simp [del, find, ih, Ne.symm h]
    · by_cases hj : i = j
      · subst hj; simp [del, find, hi]
      · simp [del, find, hi, hj, ih]

theorem find_ins_same (m : SMap α) (k : Nat) (v : α) : find (ins m k v) k = some v := by
  induction m with
  | nil => simp [ins, find]
  | cons e t ih =>
    obtain ⟨j, w⟩ := e
    by_cases h1 : k < j
    · simp [ins, find, h1]
    · by_cases h2 : j = k <;> simp [ins, find, h1, h2, ih]

theorem find_ins_ne (m : SMap α) {k j : Nat} (v : α) (h : j ≠ k) : find (ins m k v) j = find m j := by
  induction m with
  | nil => simp [ins, find, Ne.symm h]
  | cons e t ih =>
    obtain ⟨i, w⟩ := e
    by_cases h1 : k < i
    · simp [ins, find, h1, Ne.symm h]
    · by_cases h2 : i = k
      · subst h2; simp [ins, find, Ne.symm h]
      · by_cases h3 : i = j
        · subst h3; simp [ins, find, h1, h2]
        · simp [ins, find, h1, h2, h3, ih]

@[simp] theorem look_put_same [DecidableEq α] (d : α) (m : SMap α) (k : Nat) (v : α) :
    look d (put d m k v) k = v := by
  unfold put
  split
  · rename_i h; rw [look_del_same, h]
  · exact look_ins_same d m k v

theorem look_put_ne [DecidableEq α] (d : α) (m : SMap α) {k j : Nat} (v : α) (h : j ≠ k) :
    look d (put d m k v) j = look d m j := by
  unfold put
  split
  · exact look_del_ne d m h
  · exact look_ins_ne d m v h

/-- What a write to a table leaves at any number. -/
theorem look_put [DecidableEq α] (d : α) (m : SMap α) (k j : Nat) (v : α) :
    look d (put d m k v) j = if j = k then v else look d m j := by
  split
  · rename_i h; rw [h]; exact look_put_same d m k v
  · rename_i h; exact look_put_ne d m v h

theorem all_del {m : SMap α} {p : Nat × α → Bool} (k : Nat) (h : m.all p = true) : (del m k).all p = true := by
  induction m with
  | nil => rfl
  | cons e t ih =>
    obtain ⟨j, v⟩ := e
    simp only [List.all_cons, Bool.and_eq_true] at h
    by_cases hj : j = k
    · simp only [del, hj, if_true]; exact ih h.2
    · simp only [del, hj, if_false, List.all_cons, Bool.and_eq_true]; exact ⟨h.1, ih h.2⟩

theorem all_ins {m : SMap α} {p : Nat × α → Bool} (k : Nat) (v : α) (h : m.all p = true) (hp : p (k, v) = true) :
    (ins m k v).all p = true := by
  induction m with
  | nil => simp [ins, hp]
  | cons e t ih =>
    obtain ⟨j, w⟩ := e
    simp only [List.all_cons, Bool.and_eq_true] at h
    by_cases h1 : k < j
    · simp only [ins, h1, if_true, List.all_cons, Bool.and_eq_true]; exact ⟨hp, h.1, h.2⟩
    · by_cases h2 : j = k
      · subst h2
        simp only [ins, h1, if_true, if_false, List.all_cons, Bool.and_eq_true]; exact ⟨hp, h.2⟩
      · simp only [ins, h1, h2, if_false, List.all_cons, Bool.and_eq_true]; exact ⟨h.1, ih h.2⟩

/-- Removing an entry keeps the canonical form. -/
theorem canon_del [DecidableEq α] (d : α) (m : SMap α) (k : Nat) (h : canon d m = true) : canon d (del m k) = true := by
  induction m with
  | nil => rfl
  | cons e t ih =>
    obtain ⟨j, v⟩ := e
    simp only [canon, Bool.and_eq_true] at h
    by_cases hj : j = k
    · simp only [del, hj, if_true]; exact ih h.2
    · simp only [del, hj, if_false, canon, Bool.and_eq_true]
      exact ⟨⟨h.1.1, all_del k h.1.2⟩, ih h.2⟩

/-- Listing a value other than the default keeps the canonical form. -/
theorem canon_ins [DecidableEq α] (d : α) (m : SMap α) (k : Nat) (v : α) (hv : v ≠ d) (h : canon d m = true) :
    canon d (ins m k v) = true := by
  induction m with
  | nil => simp [ins, canon, hv]
  | cons e t ih =>
    obtain ⟨j, w⟩ := e
    simp only [canon, Bool.and_eq_true, decide_eq_true_eq] at h
    by_cases h1 : k < j
    · simp only [ins, h1, if_true, canon, Bool.and_eq_true, decide_eq_true_eq, List.all_cons]
      refine ⟨⟨hv, trivial, ?_⟩, ⟨h.1.1, h.1.2⟩, h.2⟩
      have h3 := h.1.2
      rw [List.all_eq_true] at h3 ⊢
      intro x hx
      have := h3 x hx
      simp only [decide_eq_true_eq] at this ⊢; omega
    · by_cases h2 : j = k
      · subst h2
        simp only [ins, h1, if_true, if_false, canon, Bool.and_eq_true, decide_eq_true_eq]
        exact ⟨⟨hv, h.1.2⟩, h.2⟩
      · simp only [ins, h1, h2, if_false, canon, Bool.and_eq_true, decide_eq_true_eq]
        exact ⟨⟨h.1.1, all_ins k v h.1.2 (by simp; omega)⟩, ih h.2⟩

/-- A write keeps the canonical form of a table. -/
theorem canon_put [DecidableEq α] (d : α) (m : SMap α) (k : Nat) (v : α) (h : canon d m = true) :
    canon d (put d m k v) = true := by
  unfold put
  split
  · exact canon_del d m k h
  · rename_i hv; exact canon_ins d m k v hv h

/-- A property that every step of a fold keeps holds at its end. -/
theorem foldl_inv {β : Type} {p : β → Prop} {f : β → α → β} (l : List α) (b : β) (hb : p b)
    (hf : ∀ b a, a ∈ l → p b → p (f b a)) : p (l.foldl f b) := by
  induction l generalizing b with
  | nil => exact hb
  | cons a t ih =>
    exact ih (f b a) (hf b a (by simp) hb) (fun b x hx => hf b x (by simp [hx]))

/-- A projection that every step of a fold leaves alone is left alone by the fold. -/
theorem foldl_proj {β γ : Type} {g : β → γ} {f : β → α → β} (l : List α) (b : β) (hf : ∀ b a, g (f b a) = g b) :
    g (l.foldl f b) = g b := by
  induction l generalizing b with
  | nil => rfl
  | cons a t ih => exact (ih (f b a)).trans (hf b a)

end Sys2Proof.Machine
end

