-- ==== Sys2Proof/Laws/State.lean ====
section
/-! SUPPORT. What each write to a unit of the state leaves alone, field by field, and what it reads back as. -/

namespace Sys2Proof.Machine

open Sys2Proof

namespace State

variable (s : State)

@[simp] theorem setCore_now (cl : Cl) (c : Cn) (v : Core) : (s.setCore cl c v).now = s.now := rfl
@[simp] theorem setCore_freeCtr (cl : Cl) (c : Cn) (v : Core) : (s.setCore cl c v).freeCtr = s.freeCtr := rfl
@[simp] theorem setCore_stewards (cl : Cl) (c : Cn) (v : Core) : (s.setCore cl c v).stewards = s.stewards := rfl
@[simp] theorem setCore_clusters (cl : Cl) (c : Cn) (v : Core) : (s.setCore cl c v).clusters = s.clusters := rfl
@[simp] theorem setCore_rings (cl : Cl) (c : Cn) (v : Core) : (s.setCore cl c v).rings = s.rings := rfl
@[simp] theorem setCore_counters (cl : Cl) (c : Cn) (v : Core) : (s.setCore cl c v).counters = s.counters := rfl
@[simp] theorem setCore_net (cl : Cl) (c : Cn) (v : Core) : (s.setCore cl c v).net = s.net := rfl
@[simp] theorem setCore_accts (cl : Cl) (c : Cn) (v : Core) : (s.setCore cl c v).accts = s.accts := rfl
@[simp] theorem setCore_power (cl : Cl) (c : Cn) (v : Core) : (s.setCore cl c v).power = s.power := rfl
@[simp] theorem setCore_fabric (cl : Cl) (c : Cn) (v : Core) : (s.setCore cl c v).fabric = s.fabric := rfl
@[simp] theorem setCore_dram (cl : Cl) (c : Cn) (v : Core) : (s.setCore cl c v).dram = s.dram := rfl
@[simp] theorem setCore_mgmt (cl : Cl) (c : Cn) (v : Core) : (s.setCore cl c v).mgmt = s.mgmt := rfl
@[simp] theorem setCore_parts (cl : Cl) (c : Cn) (v : Core) : (s.setCore cl c v).parts = s.parts := rfl
@[simp] theorem setCore_totals (cl : Cl) (c : Cn) (v : Core) : (s.setCore cl c v).totals = s.totals := rfl
@[simp] theorem setCore_dict (cl : Cl) (c : Cn) (v : Core) : (s.setCore cl c v).dict = s.dict := rfl
@[simp] theorem setCore_ports (cl : Cl) (c : Cn) (v : Core) : (s.setCore cl c v).ports = s.ports := rfl
@[simp] theorem setCore_store (cl : Cl) (c : Cn) (v : Core) : (s.setCore cl c v).store = s.store := rfl
@[simp] theorem setCore_field (cl : Cl) (c : Cn) (v : Core) : (s.setCore cl c v).field = s.field := rfl
@[simp] theorem setCore_fw (cl : Cl) (c : Cn) (v : Core) : (s.setCore cl c v).fw = s.fw := rfl
@[simp] theorem setCore_trust (cl : Cl) (c : Cn) (v : Core) : (s.setCore cl c v).trust = s.trust := rfl
@[simp] theorem setCore_boot (cl : Cl) (c : Cn) (v : Core) : (s.setCore cl c v).boot = s.boot := rfl
@[simp] theorem setCore_jtag (cl : Cl) (c : Cn) (v : Core) : (s.setCore cl c v).jtag = s.jtag := rfl
@[simp] theorem setCore_pins (cl : Cl) (c : Cn) (v : Core) : (s.setCore cl c v).pins = s.pins := rfl
@[simp] theorem setCore_pending (cl : Cl) (c : Cn) (v : Core) : (s.setCore cl c v).pending = s.pending := rfl

@[simp] theorem setStew_now (cl : Cl) (v : Steward) : (s.setStew cl v).now = s.now := rfl
@[simp] theorem setStew_freeCtr (cl : Cl) (v : Steward) : (s.setStew cl v).freeCtr = s.freeCtr := rfl
@[simp] theorem setStew_cores (cl : Cl) (v : Steward) : (s.setStew cl v).cores = s.cores := rfl
@[simp] theorem setStew_clusters (cl : Cl) (v : Steward) : (s.setStew cl v).clusters = s.clusters := rfl
@[simp] theorem setStew_rings (cl : Cl) (v : Steward) : (s.setStew cl v).rings = s.rings := rfl
@[simp] theorem setStew_counters (cl : Cl) (v : Steward) : (s.setStew cl v).counters = s.counters := rfl
@[simp] theorem setStew_net (cl : Cl) (v : Steward) : (s.setStew cl v).net = s.net := rfl
@[simp] theorem setStew_accts (cl : Cl) (v : Steward) : (s.setStew cl v).accts = s.accts := rfl
@[simp] theorem setStew_power (cl : Cl) (v : Steward) : (s.setStew cl v).power = s.power := rfl
@[simp] theorem setStew_fabric (cl : Cl) (v : Steward) : (s.setStew cl v).fabric = s.fabric := rfl
@[simp] theorem setStew_dram (cl : Cl) (v : Steward) : (s.setStew cl v).dram = s.dram := rfl
@[simp] theorem setStew_mgmt (cl : Cl) (v : Steward) : (s.setStew cl v).mgmt = s.mgmt := rfl
@[simp] theorem setStew_parts (cl : Cl) (v : Steward) : (s.setStew cl v).parts = s.parts := rfl
@[simp] theorem setStew_totals (cl : Cl) (v : Steward) : (s.setStew cl v).totals = s.totals := rfl
@[simp] theorem setStew_dict (cl : Cl) (v : Steward) : (s.setStew cl v).dict = s.dict := rfl
@[simp] theorem setStew_ports (cl : Cl) (v : Steward) : (s.setStew cl v).ports = s.ports := rfl
@[simp] theorem setStew_store (cl : Cl) (v : Steward) : (s.setStew cl v).store = s.store := rfl
@[simp] theorem setStew_field (cl : Cl) (v : Steward) : (s.setStew cl v).field = s.field := rfl
@[simp] theorem setStew_fw (cl : Cl) (v : Steward) : (s.setStew cl v).fw = s.fw := rfl
@[simp] theorem setStew_trust (cl : Cl) (v : Steward) : (s.setStew cl v).trust = s.trust := rfl
@[simp] theorem setStew_boot (cl : Cl) (v : Steward) : (s.setStew cl v).boot = s.boot := rfl
@[simp] theorem setStew_jtag (cl : Cl) (v : Steward) : (s.setStew cl v).jtag = s.jtag := rfl
@[simp] theorem setStew_pins (cl : Cl) (v : Steward) : (s.setStew cl v).pins = s.pins := rfl
@[simp] theorem setStew_pending (cl : Cl) (v : Steward) : (s.setStew cl v).pending = s.pending := rfl

@[simp] theorem setClu_now (cl : Cl) (v : Cluster) : (s.setClu cl v).now = s.now := rfl
@[simp] theorem setClu_freeCtr (cl : Cl) (v : Cluster) : (s.setClu cl v).freeCtr = s.freeCtr := rfl
@[simp] theorem setClu_cores (cl : Cl) (v : Cluster) : (s.setClu cl v).cores = s.cores := rfl
@[simp] theorem setClu_stewards (cl : Cl) (v : Cluster) : (s.setClu cl v).stewards = s.stewards := rfl
@[simp] theorem setClu_rings (cl : Cl) (v : Cluster) : (s.setClu cl v).rings = s.rings := rfl
@[simp] theorem setClu_counters (cl : Cl) (v : Cluster) : (s.setClu cl v).counters = s.counters := rfl
@[simp] theorem setClu_net (cl : Cl) (v : Cluster) : (s.setClu cl v).net = s.net := rfl
@[simp] theorem setClu_accts (cl : Cl) (v : Cluster) : (s.setClu cl v).accts = s.accts := rfl
@[simp] theorem setClu_power (cl : Cl) (v : Cluster) : (s.setClu cl v).power = s.power := rfl
@[simp] theorem setClu_fabric (cl : Cl) (v : Cluster) : (s.setClu cl v).fabric = s.fabric := rfl
@[simp] theorem setClu_dram (cl : Cl) (v : Cluster) : (s.setClu cl v).dram = s.dram := rfl
@[simp] theorem setClu_mgmt (cl : Cl) (v : Cluster) : (s.setClu cl v).mgmt = s.mgmt := rfl
@[simp] theorem setClu_parts (cl : Cl) (v : Cluster) : (s.setClu cl v).parts = s.parts := rfl
@[simp] theorem setClu_totals (cl : Cl) (v : Cluster) : (s.setClu cl v).totals = s.totals := rfl
@[simp] theorem setClu_dict (cl : Cl) (v : Cluster) : (s.setClu cl v).dict = s.dict := rfl
@[simp] theorem setClu_ports (cl : Cl) (v : Cluster) : (s.setClu cl v).ports = s.ports := rfl
@[simp] theorem setClu_store (cl : Cl) (v : Cluster) : (s.setClu cl v).store = s.store := rfl
@[simp] theorem setClu_field (cl : Cl) (v : Cluster) : (s.setClu cl v).field = s.field := rfl
@[simp] theorem setClu_fw (cl : Cl) (v : Cluster) : (s.setClu cl v).fw = s.fw := rfl
@[simp] theorem setClu_trust (cl : Cl) (v : Cluster) : (s.setClu cl v).trust = s.trust := rfl
@[simp] theorem setClu_boot (cl : Cl) (v : Cluster) : (s.setClu cl v).boot = s.boot := rfl
@[simp] theorem setClu_jtag (cl : Cl) (v : Cluster) : (s.setClu cl v).jtag = s.jtag := rfl
@[simp] theorem setClu_pins (cl : Cl) (v : Cluster) : (s.setClu cl v).pins = s.pins := rfl
@[simp] theorem setClu_pending (cl : Cl) (v : Cluster) : (s.setClu cl v).pending = s.pending := rfl

@[simp] theorem setRing_now (cl : Cl) (n : Nat) (v : Ring) : (s.setRing cl n v).now = s.now := rfl
@[simp] theorem setRing_freeCtr (cl : Cl) (n : Nat) (v : Ring) : (s.setRing cl n v).freeCtr = s.freeCtr := rfl
@[simp] theorem setRing_cores (cl : Cl) (n : Nat) (v : Ring) : (s.setRing cl n v).cores = s.cores := rfl
@[simp] theorem setRing_stewards (cl : Cl) (n : Nat) (v : Ring) : (s.setRing cl n v).stewards = s.stewards := rfl
@[simp] theorem setRing_clusters (cl : Cl) (n : Nat) (v : Ring) : (s.setRing cl n v).clusters = s.clusters := rfl
@[simp] theorem setRing_counters (cl : Cl) (n : Nat) (v : Ring) : (s.setRing cl n v).counters = s.counters := rfl
@[simp] theorem setRing_net (cl : Cl) (n : Nat) (v : Ring) : (s.setRing cl n v).net = s.net := rfl
@[simp] theorem setRing_accts (cl : Cl) (n : Nat) (v : Ring) : (s.setRing cl n v).accts = s.accts := rfl
@[simp] theorem setRing_power (cl : Cl) (n : Nat) (v : Ring) : (s.setRing cl n v).power = s.power := rfl
@[simp] theorem setRing_fabric (cl : Cl) (n : Nat) (v : Ring) : (s.setRing cl n v).fabric = s.fabric := rfl
@[simp] theorem setRing_dram (cl : Cl) (n : Nat) (v : Ring) : (s.setRing cl n v).dram = s.dram := rfl
@[simp] theorem setRing_mgmt (cl : Cl) (n : Nat) (v : Ring) : (s.setRing cl n v).mgmt = s.mgmt := rfl
@[simp] theorem setRing_parts (cl : Cl) (n : Nat) (v : Ring) : (s.setRing cl n v).parts = s.parts := rfl
@[simp] theorem setRing_totals (cl : Cl) (n : Nat) (v : Ring) : (s.setRing cl n v).totals = s.totals := rfl
@[simp] theorem setRing_dict (cl : Cl) (n : Nat) (v : Ring) : (s.setRing cl n v).dict = s.dict := rfl
@[simp] theorem setRing_ports (cl : Cl) (n : Nat) (v : Ring) : (s.setRing cl n v).ports = s.ports := rfl
@[simp] theorem setRing_store (cl : Cl) (n : Nat) (v : Ring) : (s.setRing cl n v).store = s.store := rfl
@[simp] theorem setRing_field (cl : Cl) (n : Nat) (v : Ring) : (s.setRing cl n v).field = s.field := rfl
@[simp] theorem setRing_fw (cl : Cl) (n : Nat) (v : Ring) : (s.setRing cl n v).fw = s.fw := rfl
@[simp] theorem setRing_trust (cl : Cl) (n : Nat) (v : Ring) : (s.setRing cl n v).trust = s.trust := rfl
@[simp] theorem setRing_boot (cl : Cl) (n : Nat) (v : Ring) : (s.setRing cl n v).boot = s.boot := rfl
@[simp] theorem setRing_jtag (cl : Cl) (n : Nat) (v : Ring) : (s.setRing cl n v).jtag = s.jtag := rfl
@[simp] theorem setRing_pins (cl : Cl) (n : Nat) (v : Ring) : (s.setRing cl n v).pins = s.pins := rfl
@[simp] theorem setRing_pending (cl : Cl) (n : Nat) (v : Ring) : (s.setRing cl n v).pending = s.pending := rfl

@[simp] theorem setCtr_now (n : Nat) (v : Counter) : (s.setCtr n v).now = s.now := rfl
@[simp] theorem setCtr_freeCtr (n : Nat) (v : Counter) : (s.setCtr n v).freeCtr = s.freeCtr := rfl
@[simp] theorem setCtr_cores (n : Nat) (v : Counter) : (s.setCtr n v).cores = s.cores := rfl
@[simp] theorem setCtr_stewards (n : Nat) (v : Counter) : (s.setCtr n v).stewards = s.stewards := rfl
@[simp] theorem setCtr_clusters (n : Nat) (v : Counter) : (s.setCtr n v).clusters = s.clusters := rfl
@[simp] theorem setCtr_rings (n : Nat) (v : Counter) : (s.setCtr n v).rings = s.rings := rfl
@[simp] theorem setCtr_net (n : Nat) (v : Counter) : (s.setCtr n v).net = s.net := rfl
@[simp] theorem setCtr_accts (n : Nat) (v : Counter) : (s.setCtr n v).accts = s.accts := rfl
@[simp] theorem setCtr_power (n : Nat) (v : Counter) : (s.setCtr n v).power = s.power := rfl
@[simp] theorem setCtr_fabric (n : Nat) (v : Counter) : (s.setCtr n v).fabric = s.fabric := rfl
@[simp] theorem setCtr_dram (n : Nat) (v : Counter) : (s.setCtr n v).dram = s.dram := rfl
@[simp] theorem setCtr_mgmt (n : Nat) (v : Counter) : (s.setCtr n v).mgmt = s.mgmt := rfl
@[simp] theorem setCtr_parts (n : Nat) (v : Counter) : (s.setCtr n v).parts = s.parts := rfl
@[simp] theorem setCtr_totals (n : Nat) (v : Counter) : (s.setCtr n v).totals = s.totals := rfl
@[simp] theorem setCtr_dict (n : Nat) (v : Counter) : (s.setCtr n v).dict = s.dict := rfl
@[simp] theorem setCtr_ports (n : Nat) (v : Counter) : (s.setCtr n v).ports = s.ports := rfl
@[simp] theorem setCtr_store (n : Nat) (v : Counter) : (s.setCtr n v).store = s.store := rfl
@[simp] theorem setCtr_field (n : Nat) (v : Counter) : (s.setCtr n v).field = s.field := rfl
@[simp] theorem setCtr_fw (n : Nat) (v : Counter) : (s.setCtr n v).fw = s.fw := rfl
@[simp] theorem setCtr_trust (n : Nat) (v : Counter) : (s.setCtr n v).trust = s.trust := rfl
@[simp] theorem setCtr_boot (n : Nat) (v : Counter) : (s.setCtr n v).boot = s.boot := rfl
@[simp] theorem setCtr_jtag (n : Nat) (v : Counter) : (s.setCtr n v).jtag = s.jtag := rfl
@[simp] theorem setCtr_pins (n : Nat) (v : Counter) : (s.setCtr n v).pins = s.pins := rfl
@[simp] theorem setCtr_pending (n : Nat) (v : Counter) : (s.setCtr n v).pending = s.pending := rfl

@[simp] theorem setAcct_now (a : Nat) (v : Acct) : (s.setAcct a v).now = s.now := rfl
@[simp] theorem setAcct_freeCtr (a : Nat) (v : Acct) : (s.setAcct a v).freeCtr = s.freeCtr := rfl
@[simp] theorem setAcct_cores (a : Nat) (v : Acct) : (s.setAcct a v).cores = s.cores := rfl
@[simp] theorem setAcct_stewards (a : Nat) (v : Acct) : (s.setAcct a v).stewards = s.stewards := rfl
@[simp] theorem setAcct_clusters (a : Nat) (v : Acct) : (s.setAcct a v).clusters = s.clusters := rfl
@[simp] theorem setAcct_rings (a : Nat) (v : Acct) : (s.setAcct a v).rings = s.rings := rfl
@[simp] theorem setAcct_counters (a : Nat) (v : Acct) : (s.setAcct a v).counters = s.counters := rfl
@[simp] theorem setAcct_net (a : Nat) (v : Acct) : (s.setAcct a v).net = s.net := rfl
@[simp] theorem setAcct_power (a : Nat) (v : Acct) : (s.setAcct a v).power = s.power := rfl
@[simp] theorem setAcct_fabric (a : Nat) (v : Acct) : (s.setAcct a v).fabric = s.fabric := rfl
@[simp] theorem setAcct_dram (a : Nat) (v : Acct) : (s.setAcct a v).dram = s.dram := rfl
@[simp] theorem setAcct_mgmt (a : Nat) (v : Acct) : (s.setAcct a v).mgmt = s.mgmt := rfl
@[simp] theorem setAcct_parts (a : Nat) (v : Acct) : (s.setAcct a v).parts = s.parts := rfl
@[simp] theorem setAcct_totals (a : Nat) (v : Acct) : (s.setAcct a v).totals = s.totals := rfl
@[simp] theorem setAcct_dict (a : Nat) (v : Acct) : (s.setAcct a v).dict = s.dict := rfl
@[simp] theorem setAcct_ports (a : Nat) (v : Acct) : (s.setAcct a v).ports = s.ports := rfl
@[simp] theorem setAcct_store (a : Nat) (v : Acct) : (s.setAcct a v).store = s.store := rfl
@[simp] theorem setAcct_field (a : Nat) (v : Acct) : (s.setAcct a v).field = s.field := rfl
@[simp] theorem setAcct_fw (a : Nat) (v : Acct) : (s.setAcct a v).fw = s.fw := rfl
@[simp] theorem setAcct_trust (a : Nat) (v : Acct) : (s.setAcct a v).trust = s.trust := rfl
@[simp] theorem setAcct_boot (a : Nat) (v : Acct) : (s.setAcct a v).boot = s.boot := rfl
@[simp] theorem setAcct_jtag (a : Nat) (v : Acct) : (s.setAcct a v).jtag = s.jtag := rfl
@[simp] theorem setAcct_pins (a : Nat) (v : Acct) : (s.setAcct a v).pins = s.pins := rfl
@[simp] theorem setAcct_pending (a : Nat) (v : Acct) : (s.setAcct a v).pending = s.pending := rfl

@[simp] theorem setPart_now (p : Nat) (v : Part) : (s.setPart p v).now = s.now := rfl
@[simp] theorem setPart_freeCtr (p : Nat) (v : Part) : (s.setPart p v).freeCtr = s.freeCtr := rfl
@[simp] theorem setPart_cores (p : Nat) (v : Part) : (s.setPart p v).cores = s.cores := rfl
@[simp] theorem setPart_stewards (p : Nat) (v : Part) : (s.setPart p v).stewards = s.stewards := rfl
@[simp] theorem setPart_clusters (p : Nat) (v : Part) : (s.setPart p v).clusters = s.clusters := rfl
@[simp] theorem setPart_rings (p : Nat) (v : Part) : (s.setPart p v).rings = s.rings := rfl
@[simp] theorem setPart_counters (p : Nat) (v : Part) : (s.setPart p v).counters = s.counters := rfl
@[simp] theorem setPart_net (p : Nat) (v : Part) : (s.setPart p v).net = s.net := rfl
@[simp] theorem setPart_accts (p : Nat) (v : Part) : (s.setPart p v).accts = s.accts := rfl
@[simp] theorem setPart_power (p : Nat) (v : Part) : (s.setPart p v).power = s.power := rfl
@[simp] theorem setPart_fabric (p : Nat) (v : Part) : (s.setPart p v).fabric = s.fabric := rfl
@[simp] theorem setPart_dram (p : Nat) (v : Part) : (s.setPart p v).dram = s.dram := rfl
@[simp] theorem setPart_mgmt (p : Nat) (v : Part) : (s.setPart p v).mgmt = s.mgmt := rfl
@[simp] theorem setPart_totals (p : Nat) (v : Part) : (s.setPart p v).totals = s.totals := rfl
@[simp] theorem setPart_dict (p : Nat) (v : Part) : (s.setPart p v).dict = s.dict := rfl
@[simp] theorem setPart_ports (p : Nat) (v : Part) : (s.setPart p v).ports = s.ports := rfl
@[simp] theorem setPart_store (p : Nat) (v : Part) : (s.setPart p v).store = s.store := rfl
@[simp] theorem setPart_field (p : Nat) (v : Part) : (s.setPart p v).field = s.field := rfl
@[simp] theorem setPart_fw (p : Nat) (v : Part) : (s.setPart p v).fw = s.fw := rfl
@[simp] theorem setPart_trust (p : Nat) (v : Part) : (s.setPart p v).trust = s.trust := rfl
@[simp] theorem setPart_boot (p : Nat) (v : Part) : (s.setPart p v).boot = s.boot := rfl
@[simp] theorem setPart_jtag (p : Nat) (v : Part) : (s.setPart p v).jtag = s.jtag := rfl
@[simp] theorem setPart_pins (p : Nat) (v : Part) : (s.setPart p v).pins = s.pins := rfl
@[simp] theorem setPart_pending (p : Nat) (v : Part) : (s.setPart p v).pending = s.pending := rfl

@[simp] theorem setFn_now (f : Nat) (v : Fn) : (s.setFn f v).now = s.now := rfl
@[simp] theorem setFn_freeCtr (f : Nat) (v : Fn) : (s.setFn f v).freeCtr = s.freeCtr := rfl
@[simp] theorem setFn_cores (f : Nat) (v : Fn) : (s.setFn f v).cores = s.cores := rfl
@[simp] theorem setFn_stewards (f : Nat) (v : Fn) : (s.setFn f v).stewards = s.stewards := rfl
@[simp] theorem setFn_clusters (f : Nat) (v : Fn) : (s.setFn f v).clusters = s.clusters := rfl
@[simp] theorem setFn_rings (f : Nat) (v : Fn) : (s.setFn f v).rings = s.rings := rfl
@[simp] theorem setFn_counters (f : Nat) (v : Fn) : (s.setFn f v).counters = s.counters := rfl
@[simp] theorem setFn_net (f : Nat) (v : Fn) : (s.setFn f v).net = s.net := rfl
@[simp] theorem setFn_accts (f : Nat) (v : Fn) : (s.setFn f v).accts = s.accts := rfl
@[simp] theorem setFn_power (f : Nat) (v : Fn) : (s.setFn f v).power = s.power := rfl
@[simp] theorem setFn_fabric (f : Nat) (v : Fn) : (s.setFn f v).fabric = s.fabric := rfl
@[simp] theorem setFn_dram (f : Nat) (v : Fn) : (s.setFn f v).dram = s.dram := rfl
@[simp] theorem setFn_mgmt (f : Nat) (v : Fn) : (s.setFn f v).mgmt = s.mgmt := rfl
@[simp] theorem setFn_parts (f : Nat) (v : Fn) : (s.setFn f v).parts = s.parts := rfl
@[simp] theorem setFn_totals (f : Nat) (v : Fn) : (s.setFn f v).totals = s.totals := rfl
@[simp] theorem setFn_dict (f : Nat) (v : Fn) : (s.setFn f v).dict = s.dict := rfl
@[simp] theorem setFn_store (f : Nat) (v : Fn) : (s.setFn f v).store = s.store := rfl
@[simp] theorem setFn_field (f : Nat) (v : Fn) : (s.setFn f v).field = s.field := rfl
@[simp] theorem setFn_fw (f : Nat) (v : Fn) : (s.setFn f v).fw = s.fw := rfl
@[simp] theorem setFn_trust (f : Nat) (v : Fn) : (s.setFn f v).trust = s.trust := rfl
@[simp] theorem setFn_boot (f : Nat) (v : Fn) : (s.setFn f v).boot = s.boot := rfl
@[simp] theorem setFn_jtag (f : Nat) (v : Fn) : (s.setFn f v).jtag = s.jtag := rfl
@[simp] theorem setFn_pins (f : Nat) (v : Fn) : (s.setFn f v).pins = s.pins := rfl
@[simp] theorem setFn_pending (f : Nat) (v : Fn) : (s.setFn f v).pending = s.pending := rfl

@[simp] theorem setSema_now (k : Nat) (v : Sema) : (s.setSema k v).now = s.now := rfl
@[simp] theorem setSema_freeCtr (k : Nat) (v : Sema) : (s.setSema k v).freeCtr = s.freeCtr := rfl
@[simp] theorem setSema_cores (k : Nat) (v : Sema) : (s.setSema k v).cores = s.cores := rfl
@[simp] theorem setSema_stewards (k : Nat) (v : Sema) : (s.setSema k v).stewards = s.stewards := rfl
@[simp] theorem setSema_clusters (k : Nat) (v : Sema) : (s.setSema k v).clusters = s.clusters := rfl
@[simp] theorem setSema_rings (k : Nat) (v : Sema) : (s.setSema k v).rings = s.rings := rfl
@[simp] theorem setSema_counters (k : Nat) (v : Sema) : (s.setSema k v).counters = s.counters := rfl
@[simp] theorem setSema_net (k : Nat) (v : Sema) : (s.setSema k v).net = s.net := rfl
@[simp] theorem setSema_accts (k : Nat) (v : Sema) : (s.setSema k v).accts = s.accts := rfl
@[simp] theorem setSema_power (k : Nat) (v : Sema) : (s.setSema k v).power = s.power := rfl
@[simp] theorem setSema_fabric (k : Nat) (v : Sema) : (s.setSema k v).fabric = s.fabric := rfl
@[simp] theorem setSema_dram (k : Nat) (v : Sema) : (s.setSema k v).dram = s.dram := rfl
@[simp] theorem setSema_mgmt (k : Nat) (v : Sema) : (s.setSema k v).mgmt = s.mgmt := rfl
@[simp] theorem setSema_parts (k : Nat) (v : Sema) : (s.setSema k v).parts = s.parts := rfl
@[simp] theorem setSema_totals (k : Nat) (v : Sema) : (s.setSema k v).totals = s.totals := rfl
@[simp] theorem setSema_dict (k : Nat) (v : Sema) : (s.setSema k v).dict = s.dict := rfl
@[simp] theorem setSema_store (k : Nat) (v : Sema) : (s.setSema k v).store = s.store := rfl
@[simp] theorem setSema_field (k : Nat) (v : Sema) : (s.setSema k v).field = s.field := rfl
@[simp] theorem setSema_fw (k : Nat) (v : Sema) : (s.setSema k v).fw = s.fw := rfl
@[simp] theorem setSema_trust (k : Nat) (v : Sema) : (s.setSema k v).trust = s.trust := rfl
@[simp] theorem setSema_boot (k : Nat) (v : Sema) : (s.setSema k v).boot = s.boot := rfl
@[simp] theorem setSema_jtag (k : Nat) (v : Sema) : (s.setSema k v).jtag = s.jtag := rfl
@[simp] theorem setSema_pins (k : Nat) (v : Sema) : (s.setSema k v).pins = s.pins := rfl
@[simp] theorem setSema_pending (k : Nat) (v : Sema) : (s.setSema k v).pending = s.pending := rfl

@[simp] theorem setLink_now (l : Nat) (v : Link) : (s.setLink l v).now = s.now := rfl
@[simp] theorem setLink_freeCtr (l : Nat) (v : Link) : (s.setLink l v).freeCtr = s.freeCtr := rfl
@[simp] theorem setLink_cores (l : Nat) (v : Link) : (s.setLink l v).cores = s.cores := rfl
@[simp] theorem setLink_stewards (l : Nat) (v : Link) : (s.setLink l v).stewards = s.stewards := rfl
@[simp] theorem setLink_clusters (l : Nat) (v : Link) : (s.setLink l v).clusters = s.clusters := rfl
@[simp] theorem setLink_rings (l : Nat) (v : Link) : (s.setLink l v).rings = s.rings := rfl
@[simp] theorem setLink_counters (l : Nat) (v : Link) : (s.setLink l v).counters = s.counters := rfl
@[simp] theorem setLink_net (l : Nat) (v : Link) : (s.setLink l v).net = s.net := rfl
@[simp] theorem setLink_accts (l : Nat) (v : Link) : (s.setLink l v).accts = s.accts := rfl
@[simp] theorem setLink_power (l : Nat) (v : Link) : (s.setLink l v).power = s.power := rfl
@[simp] theorem setLink_dram (l : Nat) (v : Link) : (s.setLink l v).dram = s.dram := rfl
@[simp] theorem setLink_mgmt (l : Nat) (v : Link) : (s.setLink l v).mgmt = s.mgmt := rfl
@[simp] theorem setLink_parts (l : Nat) (v : Link) : (s.setLink l v).parts = s.parts := rfl
@[simp] theorem setLink_totals (l : Nat) (v : Link) : (s.setLink l v).totals = s.totals := rfl
@[simp] theorem setLink_dict (l : Nat) (v : Link) : (s.setLink l v).dict = s.dict := rfl
@[simp] theorem setLink_ports (l : Nat) (v : Link) : (s.setLink l v).ports = s.ports := rfl
@[simp] theorem setLink_store (l : Nat) (v : Link) : (s.setLink l v).store = s.store := rfl
@[simp] theorem setLink_field (l : Nat) (v : Link) : (s.setLink l v).field = s.field := rfl
@[simp] theorem setLink_fw (l : Nat) (v : Link) : (s.setLink l v).fw = s.fw := rfl
@[simp] theorem setLink_trust (l : Nat) (v : Link) : (s.setLink l v).trust = s.trust := rfl
@[simp] theorem setLink_boot (l : Nat) (v : Link) : (s.setLink l v).boot = s.boot := rfl
@[simp] theorem setLink_jtag (l : Nat) (v : Link) : (s.setLink l v).jtag = s.jtag := rfl
@[simp] theorem setLink_pins (l : Nat) (v : Link) : (s.setLink l v).pins = s.pins := rfl
@[simp] theorem setLink_pending (l : Nat) (v : Link) : (s.setLink l v).pending = s.pending := rfl

@[simp] theorem setSport_now (k : Nat) (v : SPort) : (s.setSport k v).now = s.now := rfl
@[simp] theorem setSport_freeCtr (k : Nat) (v : SPort) : (s.setSport k v).freeCtr = s.freeCtr := rfl
@[simp] theorem setSport_cores (k : Nat) (v : SPort) : (s.setSport k v).cores = s.cores := rfl
@[simp] theorem setSport_stewards (k : Nat) (v : SPort) : (s.setSport k v).stewards = s.stewards := rfl
@[simp] theorem setSport_clusters (k : Nat) (v : SPort) : (s.setSport k v).clusters = s.clusters := rfl
@[simp] theorem setSport_rings (k : Nat) (v : SPort) : (s.setSport k v).rings = s.rings := rfl
@[simp] theorem setSport_counters (k : Nat) (v : SPort) : (s.setSport k v).counters = s.counters := rfl
@[simp] theorem setSport_net (k : Nat) (v : SPort) : (s.setSport k v).net = s.net := rfl
@[simp] theorem setSport_accts (k : Nat) (v : SPort) : (s.setSport k v).accts = s.accts := rfl
@[simp] theorem setSport_power (k : Nat) (v : SPort) : (s.setSport k v).power = s.power := rfl
@[simp] theorem setSport_fabric (k : Nat) (v : SPort) : (s.setSport k v).fabric = s.fabric := rfl
@[simp] theorem setSport_dram (k : Nat) (v : SPort) : (s.setSport k v).dram = s.dram := rfl
@[simp] theorem setSport_mgmt (k : Nat) (v : SPort) : (s.setSport k v).mgmt = s.mgmt := rfl
@[simp] theorem setSport_parts (k : Nat) (v : SPort) : (s.setSport k v).parts = s.parts := rfl
@[simp] theorem setSport_totals (k : Nat) (v : SPort) : (s.setSport k v).totals = s.totals := rfl
@[simp] theorem setSport_dict (k : Nat) (v : SPort) : (s.setSport k v).dict = s.dict := rfl
@[simp] theorem setSport_ports (k : Nat) (v : SPort) : (s.setSport k v).ports = s.ports := rfl
@[simp] theorem setSport_field (k : Nat) (v : SPort) : (s.setSport k v).field = s.field := rfl
@[simp] theorem setSport_fw (k : Nat) (v : SPort) : (s.setSport k v).fw = s.fw := rfl
@[simp] theorem setSport_trust (k : Nat) (v : SPort) : (s.setSport k v).trust = s.trust := rfl
@[simp] theorem setSport_boot (k : Nat) (v : SPort) : (s.setSport k v).boot = s.boot := rfl
@[simp] theorem setSport_jtag (k : Nat) (v : SPort) : (s.setSport k v).jtag = s.jtag := rfl
@[simp] theorem setSport_pins (k : Nat) (v : SPort) : (s.setSport k v).pins = s.pins := rfl
@[simp] theorem setSport_pending (k : Nat) (v : SPort) : (s.setSport k v).pending = s.pending := rfl

@[simp] theorem setPhy_now (i : Nat) (v : Phys) : (s.setPhy i v).now = s.now := rfl
@[simp] theorem setPhy_freeCtr (i : Nat) (v : Phys) : (s.setPhy i v).freeCtr = s.freeCtr := rfl
@[simp] theorem setPhy_cores (i : Nat) (v : Phys) : (s.setPhy i v).cores = s.cores := rfl
@[simp] theorem setPhy_stewards (i : Nat) (v : Phys) : (s.setPhy i v).stewards = s.stewards := rfl
@[simp] theorem setPhy_clusters (i : Nat) (v : Phys) : (s.setPhy i v).clusters = s.clusters := rfl
@[simp] theorem setPhy_rings (i : Nat) (v : Phys) : (s.setPhy i v).rings = s.rings := rfl
@[simp] theorem setPhy_counters (i : Nat) (v : Phys) : (s.setPhy i v).counters = s.counters := rfl
@[simp] theorem setPhy_net (i : Nat) (v : Phys) : (s.setPhy i v).net = s.net := rfl
@[simp] theorem setPhy_accts (i : Nat) (v : Phys) : (s.setPhy i v).accts = s.accts := rfl
@[simp] theorem setPhy_power (i : Nat) (v : Phys) : (s.setPhy i v).power = s.power := rfl
@[simp] theorem setPhy_dram (i : Nat) (v : Phys) : (s.setPhy i v).dram = s.dram := rfl
@[simp] theorem setPhy_mgmt (i : Nat) (v : Phys) : (s.setPhy i v).mgmt = s.mgmt := rfl
@[simp] theorem setPhy_parts (i : Nat) (v : Phys) : (s.setPhy i v).parts = s.parts := rfl
@[simp] theorem setPhy_totals (i : Nat) (v : Phys) : (s.setPhy i v).totals = s.totals := rfl
@[simp] theorem setPhy_dict (i : Nat) (v : Phys) : (s.setPhy i v).dict = s.dict := rfl
@[simp] theorem setPhy_ports (i : Nat) (v : Phys) : (s.setPhy i v).ports = s.ports := rfl
@[simp] theorem setPhy_store (i : Nat) (v : Phys) : (s.setPhy i v).store = s.store := rfl
@[simp] theorem setPhy_field (i : Nat) (v : Phys) : (s.setPhy i v).field = s.field := rfl
@[simp] theorem setPhy_fw (i : Nat) (v : Phys) : (s.setPhy i v).fw = s.fw := rfl
@[simp] theorem setPhy_trust (i : Nat) (v : Phys) : (s.setPhy i v).trust = s.trust := rfl
@[simp] theorem setPhy_boot (i : Nat) (v : Phys) : (s.setPhy i v).boot = s.boot := rfl
@[simp] theorem setPhy_jtag (i : Nat) (v : Phys) : (s.setPhy i v).jtag = s.jtag := rfl
@[simp] theorem setPhy_pins (i : Nat) (v : Phys) : (s.setPhy i v).pins = s.pins := rfl
@[simp] theorem setPhy_pending (i : Nat) (v : Phys) : (s.setPhy i v).pending = s.pending := rfl

@[simp] theorem setMapEntry_now (i : Nat) (v : BitVec 16) : (s.setMapEntry i v).now = s.now := rfl
@[simp] theorem setMapEntry_freeCtr (i : Nat) (v : BitVec 16) : (s.setMapEntry i v).freeCtr = s.freeCtr := rfl
@[simp] theorem setMapEntry_cores (i : Nat) (v : BitVec 16) : (s.setMapEntry i v).cores = s.cores := rfl
@[simp] theorem setMapEntry_stewards (i : Nat) (v : BitVec 16) : (s.setMapEntry i v).stewards = s.stewards := rfl
@[simp] theorem setMapEntry_clusters (i : Nat) (v : BitVec 16) : (s.setMapEntry i v).clusters = s.clusters := rfl
@[simp] theorem setMapEntry_rings (i : Nat) (v : BitVec 16) : (s.setMapEntry i v).rings = s.rings := rfl
@[simp] theorem setMapEntry_counters (i : Nat) (v : BitVec 16) : (s.setMapEntry i v).counters = s.counters := rfl
@[simp] theorem setMapEntry_net (i : Nat) (v : BitVec 16) : (s.setMapEntry i v).net = s.net := rfl
@[simp] theorem setMapEntry_accts (i : Nat) (v : BitVec 16) : (s.setMapEntry i v).accts = s.accts := rfl
@[simp] theorem setMapEntry_power (i : Nat) (v : BitVec 16) : (s.setMapEntry i v).power = s.power := rfl
@[simp] theorem setMapEntry_dram (i : Nat) (v : BitVec 16) : (s.setMapEntry i v).dram = s.dram := rfl
@[simp] theorem setMapEntry_mgmt (i : Nat) (v : BitVec 16) : (s.setMapEntry i v).mgmt = s.mgmt := rfl
@[simp] theorem setMapEntry_parts (i : Nat) (v : BitVec 16) : (s.setMapEntry i v).parts = s.parts := rfl
@[simp] theorem setMapEntry_totals (i : Nat) (v : BitVec 16) : (s.setMapEntry i v).totals = s.totals := rfl
@[simp] theorem setMapEntry_dict (i : Nat) (v : BitVec 16) : (s.setMapEntry i v).dict = s.dict := rfl
@[simp] theorem setMapEntry_ports (i : Nat) (v : BitVec 16) : (s.setMapEntry i v).ports = s.ports := rfl
@[simp] theorem setMapEntry_store (i : Nat) (v : BitVec 16) : (s.setMapEntry i v).store = s.store := rfl
@[simp] theorem setMapEntry_field (i : Nat) (v : BitVec 16) : (s.setMapEntry i v).field = s.field := rfl
@[simp] theorem setMapEntry_fw (i : Nat) (v : BitVec 16) : (s.setMapEntry i v).fw = s.fw := rfl
@[simp] theorem setMapEntry_trust (i : Nat) (v : BitVec 16) : (s.setMapEntry i v).trust = s.trust := rfl
@[simp] theorem setMapEntry_boot (i : Nat) (v : BitVec 16) : (s.setMapEntry i v).boot = s.boot := rfl
@[simp] theorem setMapEntry_jtag (i : Nat) (v : BitVec 16) : (s.setMapEntry i v).jtag = s.jtag := rfl
@[simp] theorem setMapEntry_pins (i : Nat) (v : BitVec 16) : (s.setMapEntry i v).pins = s.pins := rfl
@[simp] theorem setMapEntry_pending (i : Nat) (v : BitVec 16) : (s.setMapEntry i v).pending = s.pending := rfl

@[simp] theorem setObj_now (idx sub v : Nat) : (s.setObj idx sub v).now = s.now := rfl
@[simp] theorem setObj_freeCtr (idx sub v : Nat) : (s.setObj idx sub v).freeCtr = s.freeCtr := rfl
@[simp] theorem setObj_cores (idx sub v : Nat) : (s.setObj idx sub v).cores = s.cores := rfl
@[simp] theorem setObj_stewards (idx sub v : Nat) : (s.setObj idx sub v).stewards = s.stewards := rfl
@[simp] theorem setObj_clusters (idx sub v : Nat) : (s.setObj idx sub v).clusters = s.clusters := rfl
@[simp] theorem setObj_rings (idx sub v : Nat) : (s.setObj idx sub v).rings = s.rings := rfl
@[simp] theorem setObj_counters (idx sub v : Nat) : (s.setObj idx sub v).counters = s.counters := rfl
@[simp] theorem setObj_net (idx sub v : Nat) : (s.setObj idx sub v).net = s.net := rfl
@[simp] theorem setObj_accts (idx sub v : Nat) : (s.setObj idx sub v).accts = s.accts := rfl
@[simp] theorem setObj_power (idx sub v : Nat) : (s.setObj idx sub v).power = s.power := rfl
@[simp] theorem setObj_fabric (idx sub v : Nat) : (s.setObj idx sub v).fabric = s.fabric := rfl
@[simp] theorem setObj_dram (idx sub v : Nat) : (s.setObj idx sub v).dram = s.dram := rfl
@[simp] theorem setObj_mgmt (idx sub v : Nat) : (s.setObj idx sub v).mgmt = s.mgmt := rfl
@[simp] theorem setObj_parts (idx sub v : Nat) : (s.setObj idx sub v).parts = s.parts := rfl
@[simp] theorem setObj_totals (idx sub v : Nat) : (s.setObj idx sub v).totals = s.totals := rfl
@[simp] theorem setObj_ports (idx sub v : Nat) : (s.setObj idx sub v).ports = s.ports := rfl
@[simp] theorem setObj_store (idx sub v : Nat) : (s.setObj idx sub v).store = s.store := rfl
@[simp] theorem setObj_field (idx sub v : Nat) : (s.setObj idx sub v).field = s.field := rfl
@[simp] theorem setObj_fw (idx sub v : Nat) : (s.setObj idx sub v).fw = s.fw := rfl
@[simp] theorem setObj_trust (idx sub v : Nat) : (s.setObj idx sub v).trust = s.trust := rfl
@[simp] theorem setObj_boot (idx sub v : Nat) : (s.setObj idx sub v).boot = s.boot := rfl
@[simp] theorem setObj_jtag (idx sub v : Nat) : (s.setObj idx sub v).jtag = s.jtag := rfl
@[simp] theorem setObj_pins (idx sub v : Nat) : (s.setObj idx sub v).pins = s.pins := rfl
@[simp] theorem setObj_pending (idx sub v : Nat) : (s.setObj idx sub v).pending = s.pending := rfl

@[simp] theorem setDram_now (m : Mem) : (s.setDram m).now = s.now := rfl
@[simp] theorem setDram_freeCtr (m : Mem) : (s.setDram m).freeCtr = s.freeCtr := rfl
@[simp] theorem setDram_cores (m : Mem) : (s.setDram m).cores = s.cores := rfl
@[simp] theorem setDram_stewards (m : Mem) : (s.setDram m).stewards = s.stewards := rfl
@[simp] theorem setDram_clusters (m : Mem) : (s.setDram m).clusters = s.clusters := rfl
@[simp] theorem setDram_rings (m : Mem) : (s.setDram m).rings = s.rings := rfl
@[simp] theorem setDram_counters (m : Mem) : (s.setDram m).counters = s.counters := rfl
@[simp] theorem setDram_net (m : Mem) : (s.setDram m).net = s.net := rfl
@[simp] theorem setDram_accts (m : Mem) : (s.setDram m).accts = s.accts := rfl
@[simp] theorem setDram_power (m : Mem) : (s.setDram m).power = s.power := rfl
@[simp] theorem setDram_fabric (m : Mem) : (s.setDram m).fabric = s.fabric := rfl
@[simp] theorem setDram_mgmt (m : Mem) : (s.setDram m).mgmt = s.mgmt := rfl
@[simp] theorem setDram_parts (m : Mem) : (s.setDram m).parts = s.parts := rfl
@[simp] theorem setDram_totals (m : Mem) : (s.setDram m).totals = s.totals := rfl
@[simp] theorem setDram_dict (m : Mem) : (s.setDram m).dict = s.dict := rfl
@[simp] theorem setDram_ports (m : Mem) : (s.setDram m).ports = s.ports := rfl
@[simp] theorem setDram_store (m : Mem) : (s.setDram m).store = s.store := rfl
@[simp] theorem setDram_field (m : Mem) : (s.setDram m).field = s.field := rfl
@[simp] theorem setDram_fw (m : Mem) : (s.setDram m).fw = s.fw := rfl
@[simp] theorem setDram_trust (m : Mem) : (s.setDram m).trust = s.trust := rfl
@[simp] theorem setDram_boot (m : Mem) : (s.setDram m).boot = s.boot := rfl
@[simp] theorem setDram_jtag (m : Mem) : (s.setDram m).jtag = s.jtag := rfl
@[simp] theorem setDram_pins (m : Mem) : (s.setDram m).pins = s.pins := rfl
@[simp] theorem setDram_pending (m : Mem) : (s.setDram m).pending = s.pending := rfl

@[simp] theorem send_now (k : Packet) : (s.send k).now = s.now := rfl
@[simp] theorem send_freeCtr (k : Packet) : (s.send k).freeCtr = s.freeCtr := rfl
@[simp] theorem send_cores (k : Packet) : (s.send k).cores = s.cores := rfl
@[simp] theorem send_stewards (k : Packet) : (s.send k).stewards = s.stewards := rfl
@[simp] theorem send_clusters (k : Packet) : (s.send k).clusters = s.clusters := rfl
@[simp] theorem send_rings (k : Packet) : (s.send k).rings = s.rings := rfl
@[simp] theorem send_counters (k : Packet) : (s.send k).counters = s.counters := rfl
@[simp] theorem send_accts (k : Packet) : (s.send k).accts = s.accts := rfl
@[simp] theorem send_power (k : Packet) : (s.send k).power = s.power := rfl
@[simp] theorem send_fabric (k : Packet) : (s.send k).fabric = s.fabric := rfl
@[simp] theorem send_dram (k : Packet) : (s.send k).dram = s.dram := rfl
@[simp] theorem send_mgmt (k : Packet) : (s.send k).mgmt = s.mgmt := rfl
@[simp] theorem send_parts (k : Packet) : (s.send k).parts = s.parts := rfl
@[simp] theorem send_totals (k : Packet) : (s.send k).totals = s.totals := rfl
@[simp] theorem send_dict (k : Packet) : (s.send k).dict = s.dict := rfl
@[simp] theorem send_ports (k : Packet) : (s.send k).ports = s.ports := rfl
@[simp] theorem send_store (k : Packet) : (s.send k).store = s.store := rfl
@[simp] theorem send_field (k : Packet) : (s.send k).field = s.field := rfl
@[simp] theorem send_fw (k : Packet) : (s.send k).fw = s.fw := rfl
@[simp] theorem send_trust (k : Packet) : (s.send k).trust = s.trust := rfl
@[simp] theorem send_boot (k : Packet) : (s.send k).boot = s.boot := rfl
@[simp] theorem send_jtag (k : Packet) : (s.send k).jtag = s.jtag := rfl
@[simp] theorem send_pins (k : Packet) : (s.send k).pins = s.pins := rfl
@[simp] theorem send_pending (k : Packet) : (s.send k).pending = s.pending := rfl

@[simp] theorem raise_now (e : ErrIn) (sc : Scope) : (s.raise e sc).now = s.now := rfl
@[simp] theorem raise_freeCtr (e : ErrIn) (sc : Scope) : (s.raise e sc).freeCtr = s.freeCtr := rfl
@[simp] theorem raise_cores (e : ErrIn) (sc : Scope) : (s.raise e sc).cores = s.cores := rfl
@[simp] theorem raise_stewards (e : ErrIn) (sc : Scope) : (s.raise e sc).stewards = s.stewards := rfl
@[simp] theorem raise_clusters (e : ErrIn) (sc : Scope) : (s.raise e sc).clusters = s.clusters := rfl
@[simp] theorem raise_rings (e : ErrIn) (sc : Scope) : (s.raise e sc).rings = s.rings := rfl
@[simp] theorem raise_counters (e : ErrIn) (sc : Scope) : (s.raise e sc).counters = s.counters := rfl
@[simp] theorem raise_net (e : ErrIn) (sc : Scope) : (s.raise e sc).net = s.net := rfl
@[simp] theorem raise_accts (e : ErrIn) (sc : Scope) : (s.raise e sc).accts = s.accts := rfl
@[simp] theorem raise_power (e : ErrIn) (sc : Scope) : (s.raise e sc).power = s.power := rfl
@[simp] theorem raise_fabric (e : ErrIn) (sc : Scope) : (s.raise e sc).fabric = s.fabric := rfl
@[simp] theorem raise_dram (e : ErrIn) (sc : Scope) : (s.raise e sc).dram = s.dram := rfl
@[simp] theorem raise_parts (e : ErrIn) (sc : Scope) : (s.raise e sc).parts = s.parts := rfl
@[simp] theorem raise_totals (e : ErrIn) (sc : Scope) : (s.raise e sc).totals = s.totals := rfl
@[simp] theorem raise_dict (e : ErrIn) (sc : Scope) : (s.raise e sc).dict = s.dict := rfl
@[simp] theorem raise_ports (e : ErrIn) (sc : Scope) : (s.raise e sc).ports = s.ports := rfl
@[simp] theorem raise_store (e : ErrIn) (sc : Scope) : (s.raise e sc).store = s.store := rfl
@[simp] theorem raise_field (e : ErrIn) (sc : Scope) : (s.raise e sc).field = s.field := rfl
@[simp] theorem raise_fw (e : ErrIn) (sc : Scope) : (s.raise e sc).fw = s.fw := rfl
@[simp] theorem raise_trust (e : ErrIn) (sc : Scope) : (s.raise e sc).trust = s.trust := rfl
@[simp] theorem raise_boot (e : ErrIn) (sc : Scope) : (s.raise e sc).boot = s.boot := rfl
@[simp] theorem raise_jtag (e : ErrIn) (sc : Scope) : (s.raise e sc).jtag = s.jtag := rfl
@[simp] theorem raise_pins (e : ErrIn) (sc : Scope) : (s.raise e sc).pins = s.pins := rfl
@[simp] theorem raise_pending (e : ErrIn) (sc : Scope) : (s.raise e sc).pending = s.pending := rfl

@[simp] theorem logRec_now (r : Nat) : (s.logRec r).now = s.now := rfl
@[simp] theorem logRec_freeCtr (r : Nat) : (s.logRec r).freeCtr = s.freeCtr := rfl
@[simp] theorem logRec_cores (r : Nat) : (s.logRec r).cores = s.cores := rfl
@[simp] theorem logRec_stewards (r : Nat) : (s.logRec r).stewards = s.stewards := rfl
@[simp] theorem logRec_clusters (r : Nat) : (s.logRec r).clusters = s.clusters := rfl
@[simp] theorem logRec_rings (r : Nat) : (s.logRec r).rings = s.rings := rfl
@[simp] theorem logRec_counters (r : Nat) : (s.logRec r).counters = s.counters := rfl
@[simp] theorem logRec_net (r : Nat) : (s.logRec r).net = s.net := rfl
@[simp] theorem logRec_accts (r : Nat) : (s.logRec r).accts = s.accts := rfl
@[simp] theorem logRec_power (r : Nat) : (s.logRec r).power = s.power := rfl
@[simp] theorem logRec_fabric (r : Nat) : (s.logRec r).fabric = s.fabric := rfl
@[simp] theorem logRec_dram (r : Nat) : (s.logRec r).dram = s.dram := rfl
@[simp] theorem logRec_parts (r : Nat) : (s.logRec r).parts = s.parts := rfl
@[simp] theorem logRec_totals (r : Nat) : (s.logRec r).totals = s.totals := rfl
@[simp] theorem logRec_dict (r : Nat) : (s.logRec r).dict = s.dict := rfl
@[simp] theorem logRec_ports (r : Nat) : (s.logRec r).ports = s.ports := rfl
@[simp] theorem logRec_store (r : Nat) : (s.logRec r).store = s.store := rfl
@[simp] theorem logRec_field (r : Nat) : (s.logRec r).field = s.field := rfl
@[simp] theorem logRec_fw (r : Nat) : (s.logRec r).fw = s.fw := rfl
@[simp] theorem logRec_trust (r : Nat) : (s.logRec r).trust = s.trust := rfl
@[simp] theorem logRec_boot (r : Nat) : (s.logRec r).boot = s.boot := rfl
@[simp] theorem logRec_jtag (r : Nat) : (s.logRec r).jtag = s.jtag := rfl
@[simp] theorem logRec_pins (r : Nat) : (s.logRec r).pins = s.pins := rfl
@[simp] theorem logRec_pending (r : Nat) : (s.logRec r).pending = s.pending := rfl

@[simp] theorem logEvent_now (type part unit step detail aux : Nat) : (s.logEvent type part unit step detail aux).now = s.now := rfl
@[simp] theorem logEvent_freeCtr (type part unit step detail aux : Nat) : (s.logEvent type part unit step detail aux).freeCtr = s.freeCtr := rfl
@[simp] theorem logEvent_cores (type part unit step detail aux : Nat) : (s.logEvent type part unit step detail aux).cores = s.cores := rfl
@[simp] theorem logEvent_stewards (type part unit step detail aux : Nat) : (s.logEvent type part unit step detail aux).stewards = s.stewards := rfl
@[simp] theorem logEvent_clusters (type part unit step detail aux : Nat) : (s.logEvent type part unit step detail aux).clusters = s.clusters := rfl
@[simp] theorem logEvent_rings (type part unit step detail aux : Nat) : (s.logEvent type part unit step detail aux).rings = s.rings := rfl
@[simp] theorem logEvent_counters (type part unit step detail aux : Nat) : (s.logEvent type part unit step detail aux).counters = s.counters := rfl
@[simp] theorem logEvent_net (type part unit step detail aux : Nat) : (s.logEvent type part unit step detail aux).net = s.net := rfl
@[simp] theorem logEvent_accts (type part unit step detail aux : Nat) : (s.logEvent type part unit step detail aux).accts = s.accts := rfl
@[simp] theorem logEvent_power (type part unit step detail aux : Nat) : (s.logEvent type part unit step detail aux).power = s.power := rfl
@[simp] theorem logEvent_fabric (type part unit step detail aux : Nat) : (s.logEvent type part unit step detail aux).fabric = s.fabric := rfl
@[simp] theorem logEvent_dram (type part unit step detail aux : Nat) : (s.logEvent type part unit step detail aux).dram = s.dram := rfl
@[simp] theorem logEvent_parts (type part unit step detail aux : Nat) : (s.logEvent type part unit step detail aux).parts = s.parts := rfl
@[simp] theorem logEvent_totals (type part unit step detail aux : Nat) : (s.logEvent type part unit step detail aux).totals = s.totals := rfl
@[simp] theorem logEvent_dict (type part unit step detail aux : Nat) : (s.logEvent type part unit step detail aux).dict = s.dict := rfl
@[simp] theorem logEvent_ports (type part unit step detail aux : Nat) : (s.logEvent type part unit step detail aux).ports = s.ports := rfl
@[simp] theorem logEvent_store (type part unit step detail aux : Nat) : (s.logEvent type part unit step detail aux).store = s.store := rfl
@[simp] theorem logEvent_field (type part unit step detail aux : Nat) : (s.logEvent type part unit step detail aux).field = s.field := rfl
@[simp] theorem logEvent_fw (type part unit step detail aux : Nat) : (s.logEvent type part unit step detail aux).fw = s.fw := rfl
@[simp] theorem logEvent_trust (type part unit step detail aux : Nat) : (s.logEvent type part unit step detail aux).trust = s.trust := rfl
@[simp] theorem logEvent_boot (type part unit step detail aux : Nat) : (s.logEvent type part unit step detail aux).boot = s.boot := rfl
@[simp] theorem logEvent_jtag (type part unit step detail aux : Nat) : (s.logEvent type part unit step detail aux).jtag = s.jtag := rfl
@[simp] theorem logEvent_pins (type part unit step detail aux : Nat) : (s.logEvent type part unit step detail aux).pins = s.pins := rfl
@[simp] theorem logEvent_pending (type part unit step detail aux : Nat) : (s.logEvent type part unit step detail aux).pending = s.pending := rfl

@[simp] theorem refusal_now (unit part addr status : Nat) : (s.refusal unit part addr status).now = s.now := rfl
@[simp] theorem refusal_freeCtr (unit part addr status : Nat) : (s.refusal unit part addr status).freeCtr = s.freeCtr := rfl
@[simp] theorem refusal_cores (unit part addr status : Nat) : (s.refusal unit part addr status).cores = s.cores := rfl
@[simp] theorem refusal_stewards (unit part addr status : Nat) : (s.refusal unit part addr status).stewards = s.stewards := rfl
@[simp] theorem refusal_clusters (unit part addr status : Nat) : (s.refusal unit part addr status).clusters = s.clusters := rfl
@[simp] theorem refusal_rings (unit part addr status : Nat) : (s.refusal unit part addr status).rings = s.rings := rfl
@[simp] theorem refusal_counters (unit part addr status : Nat) : (s.refusal unit part addr status).counters = s.counters := rfl
@[simp] theorem refusal_net (unit part addr status : Nat) : (s.refusal unit part addr status).net = s.net := rfl
@[simp] theorem refusal_accts (unit part addr status : Nat) : (s.refusal unit part addr status).accts = s.accts := rfl
@[simp] theorem refusal_power (unit part addr status : Nat) : (s.refusal unit part addr status).power = s.power := rfl
@[simp] theorem refusal_fabric (unit part addr status : Nat) : (s.refusal unit part addr status).fabric = s.fabric := rfl
@[simp] theorem refusal_dram (unit part addr status : Nat) : (s.refusal unit part addr status).dram = s.dram := rfl
@[simp] theorem refusal_parts (unit part addr status : Nat) : (s.refusal unit part addr status).parts = s.parts := rfl
@[simp] theorem refusal_totals (unit part addr status : Nat) : (s.refusal unit part addr status).totals = s.totals := rfl
@[simp] theorem refusal_dict (unit part addr status : Nat) : (s.refusal unit part addr status).dict = s.dict := rfl
@[simp] theorem refusal_ports (unit part addr status : Nat) : (s.refusal unit part addr status).ports = s.ports := rfl
@[simp] theorem refusal_store (unit part addr status : Nat) : (s.refusal unit part addr status).store = s.store := rfl
@[simp] theorem refusal_field (unit part addr status : Nat) : (s.refusal unit part addr status).field = s.field := rfl
@[simp] theorem refusal_fw (unit part addr status : Nat) : (s.refusal unit part addr status).fw = s.fw := rfl
@[simp] theorem refusal_trust (unit part addr status : Nat) : (s.refusal unit part addr status).trust = s.trust := rfl
@[simp] theorem refusal_boot (unit part addr status : Nat) : (s.refusal unit part addr status).boot = s.boot := rfl
@[simp] theorem refusal_jtag (unit part addr status : Nat) : (s.refusal unit part addr status).jtag = s.jtag := rfl
@[simp] theorem refusal_pins (unit part addr status : Nat) : (s.refusal unit part addr status).pins = s.pins := rfl
@[simp] theorem refusal_pending (unit part addr status : Nat) : (s.refusal unit part addr status).pending = s.pending := rfl

@[simp] theorem pushEv_now (cl : Cl) (r : BitVec 512) : (s.pushEv cl r).now = s.now := rfl
@[simp] theorem pushEv_freeCtr (cl : Cl) (r : BitVec 512) : (s.pushEv cl r).freeCtr = s.freeCtr := rfl
@[simp] theorem pushEv_cores (cl : Cl) (r : BitVec 512) : (s.pushEv cl r).cores = s.cores := rfl
@[simp] theorem pushEv_clusters (cl : Cl) (r : BitVec 512) : (s.pushEv cl r).clusters = s.clusters := rfl
@[simp] theorem pushEv_rings (cl : Cl) (r : BitVec 512) : (s.pushEv cl r).rings = s.rings := rfl
@[simp] theorem pushEv_counters (cl : Cl) (r : BitVec 512) : (s.pushEv cl r).counters = s.counters := rfl
@[simp] theorem pushEv_net (cl : Cl) (r : BitVec 512) : (s.pushEv cl r).net = s.net := rfl
@[simp] theorem pushEv_accts (cl : Cl) (r : BitVec 512) : (s.pushEv cl r).accts = s.accts := rfl
@[simp] theorem pushEv_power (cl : Cl) (r : BitVec 512) : (s.pushEv cl r).power = s.power := rfl
@[simp] theorem pushEv_fabric (cl : Cl) (r : BitVec 512) : (s.pushEv cl r).fabric = s.fabric := rfl
@[simp] theorem pushEv_dram (cl : Cl) (r : BitVec 512) : (s.pushEv cl r).dram = s.dram := rfl
@[simp] theorem pushEv_mgmt (cl : Cl) (r : BitVec 512) : (s.pushEv cl r).mgmt = s.mgmt := rfl
@[simp] theorem pushEv_parts (cl : Cl) (r : BitVec 512) : (s.pushEv cl r).parts = s.parts := rfl
@[simp] theorem pushEv_totals (cl : Cl) (r : BitVec 512) : (s.pushEv cl r).totals = s.totals := rfl
@[simp] theorem pushEv_dict (cl : Cl) (r : BitVec 512) : (s.pushEv cl r).dict = s.dict := rfl
@[simp] theorem pushEv_ports (cl : Cl) (r : BitVec 512) : (s.pushEv cl r).ports = s.ports := rfl
@[simp] theorem pushEv_store (cl : Cl) (r : BitVec 512) : (s.pushEv cl r).store = s.store := rfl
@[simp] theorem pushEv_field (cl : Cl) (r : BitVec 512) : (s.pushEv cl r).field = s.field := rfl
@[simp] theorem pushEv_fw (cl : Cl) (r : BitVec 512) : (s.pushEv cl r).fw = s.fw := rfl
@[simp] theorem pushEv_trust (cl : Cl) (r : BitVec 512) : (s.pushEv cl r).trust = s.trust := rfl
@[simp] theorem pushEv_boot (cl : Cl) (r : BitVec 512) : (s.pushEv cl r).boot = s.boot := rfl
@[simp] theorem pushEv_jtag (cl : Cl) (r : BitVec 512) : (s.pushEv cl r).jtag = s.jtag := rfl
@[simp] theorem pushEv_pins (cl : Cl) (r : BitVec 512) : (s.pushEv cl r).pins = s.pins := rfl
@[simp] theorem pushEv_pending (cl : Cl) (r : BitVec 512) : (s.pushEv cl r).pending = s.pending := rfl

@[simp] theorem fnEvent_now (f : Nat) (r : Rec) : (s.fnEvent f r).now = s.now := rfl
@[simp] theorem fnEvent_freeCtr (f : Nat) (r : Rec) : (s.fnEvent f r).freeCtr = s.freeCtr := rfl
@[simp] theorem fnEvent_cores (f : Nat) (r : Rec) : (s.fnEvent f r).cores = s.cores := rfl
@[simp] theorem fnEvent_stewards (f : Nat) (r : Rec) : (s.fnEvent f r).stewards = s.stewards := rfl
@[simp] theorem fnEvent_clusters (f : Nat) (r : Rec) : (s.fnEvent f r).clusters = s.clusters := rfl
@[simp] theorem fnEvent_rings (f : Nat) (r : Rec) : (s.fnEvent f r).rings = s.rings := rfl
@[simp] theorem fnEvent_counters (f : Nat) (r : Rec) : (s.fnEvent f r).counters = s.counters := rfl
@[simp] theorem fnEvent_net (f : Nat) (r : Rec) : (s.fnEvent f r).net = s.net := rfl
@[simp] theorem fnEvent_accts (f : Nat) (r : Rec) : (s.fnEvent f r).accts = s.accts := rfl
@[simp] theorem fnEvent_power (f : Nat) (r : Rec) : (s.fnEvent f r).power = s.power := rfl
@[simp] theorem fnEvent_fabric (f : Nat) (r : Rec) : (s.fnEvent f r).fabric = s.fabric := rfl
@[simp] theorem fnEvent_dram (f : Nat) (r : Rec) : (s.fnEvent f r).dram = s.dram := rfl
@[simp] theorem fnEvent_mgmt (f : Nat) (r : Rec) : (s.fnEvent f r).mgmt = s.mgmt := rfl
@[simp] theorem fnEvent_parts (f : Nat) (r : Rec) : (s.fnEvent f r).parts = s.parts := rfl
@[simp] theorem fnEvent_totals (f : Nat) (r : Rec) : (s.fnEvent f r).totals = s.totals := rfl
@[simp] theorem fnEvent_dict (f : Nat) (r : Rec) : (s.fnEvent f r).dict = s.dict := rfl
@[simp] theorem fnEvent_store (f : Nat) (r : Rec) : (s.fnEvent f r).store = s.store := rfl
@[simp] theorem fnEvent_field (f : Nat) (r : Rec) : (s.fnEvent f r).field = s.field := rfl
@[simp] theorem fnEvent_fw (f : Nat) (r : Rec) : (s.fnEvent f r).fw = s.fw := rfl
@[simp] theorem fnEvent_trust (f : Nat) (r : Rec) : (s.fnEvent f r).trust = s.trust := rfl
@[simp] theorem fnEvent_boot (f : Nat) (r : Rec) : (s.fnEvent f r).boot = s.boot := rfl
@[simp] theorem fnEvent_jtag (f : Nat) (r : Rec) : (s.fnEvent f r).jtag = s.jtag := rfl
@[simp] theorem fnEvent_pins (f : Nat) (r : Rec) : (s.fnEvent f r).pins = s.pins := rfl
@[simp] theorem fnEvent_pending (f : Nat) (r : Rec) : (s.fnEvent f r).pending = s.pending := rfl

@[simp] theorem fresh_now : s.fresh.2.now = s.now := rfl
@[simp] theorem fresh_cores : s.fresh.2.cores = s.cores := rfl
@[simp] theorem fresh_stewards : s.fresh.2.stewards = s.stewards := rfl
@[simp] theorem fresh_clusters : s.fresh.2.clusters = s.clusters := rfl
@[simp] theorem fresh_rings : s.fresh.2.rings = s.rings := rfl
@[simp] theorem fresh_counters : s.fresh.2.counters = s.counters := rfl
@[simp] theorem fresh_net : s.fresh.2.net = s.net := rfl
@[simp] theorem fresh_accts : s.fresh.2.accts = s.accts := rfl
@[simp] theorem fresh_power : s.fresh.2.power = s.power := rfl
@[simp] theorem fresh_fabric : s.fresh.2.fabric = s.fabric := rfl
@[simp] theorem fresh_dram : s.fresh.2.dram = s.dram := rfl
@[simp] theorem fresh_mgmt : s.fresh.2.mgmt = s.mgmt := rfl
@[simp] theorem fresh_parts : s.fresh.2.parts = s.parts := rfl
@[simp] theorem fresh_totals : s.fresh.2.totals = s.totals := rfl
@[simp] theorem fresh_dict : s.fresh.2.dict = s.dict := rfl
@[simp] theorem fresh_ports : s.fresh.2.ports = s.ports := rfl
@[simp] theorem fresh_store : s.fresh.2.store = s.store := rfl
@[simp] theorem fresh_field : s.fresh.2.field = s.field := rfl
@[simp] theorem fresh_fw : s.fresh.2.fw = s.fw := rfl
@[simp] theorem fresh_trust : s.fresh.2.trust = s.trust := rfl
@[simp] theorem fresh_boot : s.fresh.2.boot = s.boot := rfl
@[simp] theorem fresh_jtag : s.fresh.2.jtag = s.jtag := rfl
@[simp] theorem fresh_pins : s.fresh.2.pins = s.pins := rfl
@[simp] theorem fresh_pending : s.fresh.2.pending = s.pending := rfl
@[simp] theorem fresh_freeCtr : s.fresh.2.freeCtr = s.freeCtr + 1 := rfl
@[simp] theorem fresh_val : s.fresh.1 = Config.freeValue s.freeCtr := rfl

@[simp] theorem setFn_ports_semas (f : Nat) (v : Fn) : (s.setFn f v).ports.semas = s.ports.semas := rfl
@[simp] theorem setFn_ports_portA (f : Nat) (v : Fn) : (s.setFn f v).ports.portA = s.ports.portA := rfl
@[simp] theorem setFn_ports_portB (f : Nat) (v : Fn) : (s.setFn f v).ports.portB = s.ports.portB := rfl
@[simp] theorem setFn_ports_hostMem (f : Nat) (v : Fn) : (s.setFn f v).ports.hostMem = s.ports.hostMem := rfl
@[simp] theorem setFn_ports_staleReleases (f : Nat) (v : Fn) : (s.setFn f v).ports.staleReleases = s.ports.staleReleases := rfl
@[simp] theorem setFn_ports_ignoredWrites (f : Nat) (v : Fn) : (s.setFn f v).ports.ignoredWrites = s.ports.ignoredWrites := rfl
@[simp] theorem setFn_ports_winDrops (f : Nat) (v : Fn) : (s.setFn f v).ports.winDrops = s.ports.winDrops := rfl
@[simp] theorem setFn_ports_clockFails (f : Nat) (v : Fn) : (s.setFn f v).ports.clockFails = s.ports.clockFails := rfl
@[simp] theorem setFn_ports_sysclk (f : Nat) (v : Fn) : (s.setFn f v).ports.sysclk = s.ports.sysclk := rfl

@[simp] theorem setSema_ports_fns (k : Nat) (v : Sema) : (s.setSema k v).ports.fns = s.ports.fns := rfl
@[simp] theorem setSema_ports_portA (k : Nat) (v : Sema) : (s.setSema k v).ports.portA = s.ports.portA := rfl
@[simp] theorem setSema_ports_portB (k : Nat) (v : Sema) : (s.setSema k v).ports.portB = s.ports.portB := rfl
@[simp] theorem setSema_ports_hostMem (k : Nat) (v : Sema) : (s.setSema k v).ports.hostMem = s.ports.hostMem := rfl
@[simp] theorem setSema_ports_staleReleases (k : Nat) (v : Sema) : (s.setSema k v).ports.staleReleases = s.ports.staleReleases := rfl
@[simp] theorem setSema_ports_ignoredWrites (k : Nat) (v : Sema) : (s.setSema k v).ports.ignoredWrites = s.ports.ignoredWrites := rfl
@[simp] theorem setSema_ports_winDrops (k : Nat) (v : Sema) : (s.setSema k v).ports.winDrops = s.ports.winDrops := rfl
@[simp] theorem setSema_ports_clockFails (k : Nat) (v : Sema) : (s.setSema k v).ports.clockFails = s.ports.clockFails := rfl
@[simp] theorem setSema_ports_sysclk (k : Nat) (v : Sema) : (s.setSema k v).ports.sysclk = s.ports.sysclk := rfl

@[simp] theorem setLink_fabric_buffers (l : Nat) (v : Link) : (s.setLink l v).fabric.buffers = s.fabric.buffers := rfl
@[simp] theorem setLink_fabric_endsFenced (l : Nat) (v : Link) : (s.setLink l v).fabric.endsFenced = s.fabric.endsFenced := rfl
@[simp] theorem setLink_fabric_dieFenced (l : Nat) (v : Link) : (s.setLink l v).fabric.dieFenced = s.fabric.dieFenced := rfl
@[simp] theorem setLink_fabric_coreMap (l : Nat) (v : Link) : (s.setLink l v).fabric.coreMap = s.fabric.coreMap := rfl
@[simp] theorem setLink_fabric_phys (l : Nat) (v : Link) : (s.setLink l v).fabric.phys = s.fabric.phys := rfl
@[simp] theorem setLink_fabric_remapDue (l : Nat) (v : Link) : (s.setLink l v).fabric.remapDue = s.fabric.remapDue := rfl
@[simp] theorem setLink_fabric_remapped (l : Nat) (v : Link) : (s.setLink l v).fabric.remapped = s.fabric.remapped := rfl
@[simp] theorem setLink_fabric_mapGen (l : Nat) (v : Link) : (s.setLink l v).fabric.mapGen = s.fabric.mapGen := rfl
@[simp] theorem setLink_fabric_gradeFused (l : Nat) (v : Link) : (s.setLink l v).fabric.gradeFused = s.fabric.gradeFused := rfl
@[simp] theorem setLink_fabric_gradeNow (l : Nat) (v : Link) : (s.setLink l v).fabric.gradeNow = s.fabric.gradeNow := rfl
@[simp] theorem setLink_fabric_selftestRuns (l : Nat) (v : Link) : (s.setLink l v).fabric.selftestRuns = s.fabric.selftestRuns := rfl
@[simp] theorem setLink_fabric_selftestFails (l : Nat) (v : Link) : (s.setLink l v).fabric.selftestFails = s.fabric.selftestFails := rfl
@[simp] theorem setLink_fabric_repairsBlown (l : Nat) (v : Link) : (s.setLink l v).fabric.repairsBlown = s.fabric.repairsBlown := rfl

@[simp] theorem setPhy_fabric_links (i : Nat) (v : Phys) : (s.setPhy i v).fabric.links = s.fabric.links := rfl
@[simp] theorem setPhy_fabric_buffers (i : Nat) (v : Phys) : (s.setPhy i v).fabric.buffers = s.fabric.buffers := rfl
@[simp] theorem setPhy_fabric_endsFenced (i : Nat) (v : Phys) : (s.setPhy i v).fabric.endsFenced = s.fabric.endsFenced := rfl
@[simp] theorem setPhy_fabric_dieFenced (i : Nat) (v : Phys) : (s.setPhy i v).fabric.dieFenced = s.fabric.dieFenced := rfl
@[simp] theorem setPhy_fabric_coreMap (i : Nat) (v : Phys) : (s.setPhy i v).fabric.coreMap = s.fabric.coreMap := rfl
@[simp] theorem setPhy_fabric_remapDue (i : Nat) (v : Phys) : (s.setPhy i v).fabric.remapDue = s.fabric.remapDue := rfl
@[simp] theorem setPhy_fabric_remapped (i : Nat) (v : Phys) : (s.setPhy i v).fabric.remapped = s.fabric.remapped := rfl
@[simp] theorem setPhy_fabric_mapGen (i : Nat) (v : Phys) : (s.setPhy i v).fabric.mapGen = s.fabric.mapGen := rfl
@[simp] theorem setPhy_fabric_gradeFused (i : Nat) (v : Phys) : (s.setPhy i v).fabric.gradeFused = s.fabric.gradeFused := rfl
@[simp] theorem setPhy_fabric_gradeNow (i : Nat) (v : Phys) : (s.setPhy i v).fabric.gradeNow = s.fabric.gradeNow := rfl
@[simp] theorem setPhy_fabric_selftestRuns (i : Nat) (v : Phys) : (s.setPhy i v).fabric.selftestRuns = s.fabric.selftestRuns := rfl
@[simp] theorem setPhy_fabric_selftestFails (i : Nat) (v : Phys) : (s.setPhy i v).fabric.selftestFails = s.fabric.selftestFails := rfl
@[simp] theorem setPhy_fabric_repairsBlown (i : Nat) (v : Phys) : (s.setPhy i v).fabric.repairsBlown = s.fabric.repairsBlown := rfl

@[simp] theorem setMapEntry_fabric_links (i : Nat) (v : BitVec 16) : (s.setMapEntry i v).fabric.links = s.fabric.links := rfl
@[simp] theorem setMapEntry_fabric_buffers (i : Nat) (v : BitVec 16) : (s.setMapEntry i v).fabric.buffers = s.fabric.buffers := rfl
@[simp] theorem setMapEntry_fabric_endsFenced (i : Nat) (v : BitVec 16) : (s.setMapEntry i v).fabric.endsFenced = s.fabric.endsFenced := rfl
@[simp] theorem setMapEntry_fabric_dieFenced (i : Nat) (v : BitVec 16) : (s.setMapEntry i v).fabric.dieFenced = s.fabric.dieFenced := rfl
@[simp] theorem setMapEntry_fabric_phys (i : Nat) (v : BitVec 16) : (s.setMapEntry i v).fabric.phys = s.fabric.phys := rfl
@[simp] theorem setMapEntry_fabric_remapDue (i : Nat) (v : BitVec 16) : (s.setMapEntry i v).fabric.remapDue = s.fabric.remapDue := rfl
@[simp] theorem setMapEntry_fabric_remapped (i : Nat) (v : BitVec 16) : (s.setMapEntry i v).fabric.remapped = s.fabric.remapped := rfl
@[simp] theorem setMapEntry_fabric_mapGen (i : Nat) (v : BitVec 16) : (s.setMapEntry i v).fabric.mapGen = s.fabric.mapGen := rfl
@[simp] theorem setMapEntry_fabric_gradeFused (i : Nat) (v : BitVec 16) : (s.setMapEntry i v).fabric.gradeFused = s.fabric.gradeFused := rfl
@[simp] theorem setMapEntry_fabric_gradeNow (i : Nat) (v : BitVec 16) : (s.setMapEntry i v).fabric.gradeNow = s.fabric.gradeNow := rfl
@[simp] theorem setMapEntry_fabric_selftestRuns (i : Nat) (v : BitVec 16) : (s.setMapEntry i v).fabric.selftestRuns = s.fabric.selftestRuns := rfl
@[simp] theorem setMapEntry_fabric_selftestFails (i : Nat) (v : BitVec 16) : (s.setMapEntry i v).fabric.selftestFails = s.fabric.selftestFails := rfl
@[simp] theorem setMapEntry_fabric_repairsBlown (i : Nat) (v : BitVec 16) : (s.setMapEntry i v).fabric.repairsBlown = s.fabric.repairsBlown := rfl

@[simp] theorem setSport_store_images (k : Nat) (v : SPort) : (s.setSport k v).store.images = s.store.images := rfl

@[simp] theorem setObj_dict_twDue (idx sub v : Nat) : (s.setObj idx sub v).dict.twDue = s.dict.twDue := rfl
@[simp] theorem setObj_dict_waiting (idx sub v : Nat) : (s.setObj idx sub v).dict.waiting = s.dict.waiting := rfl
@[simp] theorem setObj_dict_clampCount (idx sub v : Nat) : (s.setObj idx sub v).dict.clampCount = s.dict.clampCount := rfl
@[simp] theorem setObj_dict_clamps (idx sub v : Nat) : (s.setObj idx sub v).dict.clamps = s.dict.clamps := rfl

@[simp] theorem setDram_dram_wq (m : Mem) : (s.setDram m).dram.wq = s.dram.wq := rfl
@[simp] theorem setDram_dram_wacks (m : Mem) : (s.setDram m).dram.wacks = s.dram.wacks := rfl
@[simp] theorem setDram_dram_permTable (m : Mem) : (s.setDram m).dram.permTable = s.dram.permTable := rfl
@[simp] theorem setDram_dram_scrub (m : Mem) : (s.setDram m).dram.scrub = s.dram.scrub := rfl
@[simp] theorem setDram_dram_fenced (m : Mem) : (s.setDram m).dram.fenced = s.dram.fenced := rfl
@[simp] theorem setDram_dram_discards (m : Mem) : (s.setDram m).dram.discards = s.dram.discards := rfl
@[simp] theorem setDram_dram_touched (m : Mem) : (s.setDram m).dram.touched = s.dram.touched := rfl
@[simp] theorem setDram_dram_scrubPasses (m : Mem) : (s.setDram m).dram.scrubPasses = s.dram.scrubPasses := rfl
@[simp] theorem setDram_dram_poisonSeen (m : Mem) : (s.setDram m).dram.poisonSeen = s.dram.poisonSeen := rfl
@[simp] theorem setDram_dram_lastRead (m : Mem) : (s.setDram m).dram.lastRead = s.dram.lastRead := rfl
@[simp] theorem setDram_dram_lastVerdict (m : Mem) : (s.setDram m).dram.lastVerdict = s.dram.lastVerdict := rfl

@[simp] theorem raise_mgmt_running (e : ErrIn) (sc : Scope) : (s.raise e sc).mgmt.running = s.mgmt.running := rfl
@[simp] theorem raise_mgmt_queue (e : ErrIn) (sc : Scope) : (s.raise e sc).mgmt.queue = s.mgmt.queue := rfl
@[simp] theorem raise_mgmt_ce (e : ErrIn) (sc : Scope) : (s.raise e sc).mgmt.ce = s.mgmt.ce := rfl
@[simp] theorem raise_mgmt_de (e : ErrIn) (sc : Scope) : (s.raise e sc).mgmt.de = s.mgmt.de := rfl
@[simp] theorem raise_mgmt_ur (e : ErrIn) (sc : Scope) : (s.raise e sc).mgmt.ur = s.mgmt.ur := rfl
@[simp] theorem raise_mgmt_fatal (e : ErrIn) (sc : Scope) : (s.raise e sc).mgmt.fatal = s.mgmt.fatal := rfl
@[simp] theorem raise_mgmt_lostCe (e : ErrIn) (sc : Scope) : (s.raise e sc).mgmt.lostCe = s.mgmt.lostCe := rfl
@[simp] theorem raise_mgmt_lostDe (e : ErrIn) (sc : Scope) : (s.raise e sc).mgmt.lostDe = s.mgmt.lostDe := rfl
@[simp] theorem raise_mgmt_lostUr (e : ErrIn) (sc : Scope) : (s.raise e sc).mgmt.lostUr = s.mgmt.lostUr := rfl
@[simp] theorem raise_mgmt_ceUnits (e : ErrIn) (sc : Scope) : (s.raise e sc).mgmt.ceUnits = s.mgmt.ceUnits := rfl
@[simp] theorem raise_mgmt_storms (e : ErrIn) (sc : Scope) : (s.raise e sc).mgmt.storms = s.mgmt.storms := rfl
@[simp] theorem raise_mgmt_urUnits (e : ErrIn) (sc : Scope) : (s.raise e sc).mgmt.urUnits = s.mgmt.urUnits := rfl
@[simp] theorem raise_mgmt_logCount (e : ErrIn) (sc : Scope) : (s.raise e sc).mgmt.logCount = s.mgmt.logCount := rfl
@[simp] theorem raise_mgmt_mirror (e : ErrIn) (sc : Scope) : (s.raise e sc).mgmt.mirror = s.mgmt.mirror := rfl
@[simp] theorem raise_mgmt_slots (e : ErrIn) (sc : Scope) : (s.raise e sc).mgmt.slots = s.mgmt.slots := rfl
@[simp] theorem raise_mgmt_fenced (e : ErrIn) (sc : Scope) : (s.raise e sc).mgmt.fenced = s.mgmt.fenced := rfl
@[simp] theorem raise_mgmt_fencedDue (e : ErrIn) (sc : Scope) : (s.raise e sc).mgmt.fencedDue = s.mgmt.fencedDue := rfl
@[simp] theorem raise_mgmt_fenceField (e : ErrIn) (sc : Scope) : (s.raise e sc).mgmt.fenceField = s.mgmt.fenceField := rfl
@[simp] theorem raise_mgmt_fenceCauses (e : ErrIn) (sc : Scope) : (s.raise e sc).mgmt.fenceCauses = s.mgmt.fenceCauses := rfl

@[simp] theorem logRec_mgmt_inbox (r : Nat) : (s.logRec r).mgmt.inbox = s.mgmt.inbox := rfl
@[simp] theorem logRec_mgmt_running (r : Nat) : (s.logRec r).mgmt.running = s.mgmt.running := rfl
@[simp] theorem logRec_mgmt_queue (r : Nat) : (s.logRec r).mgmt.queue = s.mgmt.queue := rfl
@[simp] theorem logRec_mgmt_ce (r : Nat) : (s.logRec r).mgmt.ce = s.mgmt.ce := rfl
@[simp] theorem logRec_mgmt_de (r : Nat) : (s.logRec r).mgmt.de = s.mgmt.de := rfl
@[simp] theorem logRec_mgmt_ur (r : Nat) : (s.logRec r).mgmt.ur = s.mgmt.ur := rfl
@[simp] theorem logRec_mgmt_fatal (r : Nat) : (s.logRec r).mgmt.fatal = s.mgmt.fatal := rfl
@[simp] theorem logRec_mgmt_lostCe (r : Nat) : (s.logRec r).mgmt.lostCe = s.mgmt.lostCe := rfl
@[simp] theorem logRec_mgmt_lostDe (r : Nat) : (s.logRec r).mgmt.lostDe = s.mgmt.lostDe := rfl
@[simp] theorem logRec_mgmt_lostUr (r : Nat) : (s.logRec r).mgmt.lostUr = s.mgmt.lostUr := rfl
@[simp] theorem logRec_mgmt_ceUnits (r : Nat) : (s.logRec r).mgmt.ceUnits = s.mgmt.ceUnits := rfl
@[simp] theorem logRec_mgmt_storms (r : Nat) : (s.logRec r).mgmt.storms = s.mgmt.storms := rfl
@[simp] theorem logRec_mgmt_urUnits (r : Nat) : (s.logRec r).mgmt.urUnits = s.mgmt.urUnits := rfl
@[simp] theorem logRec_mgmt_fenced (r : Nat) : (s.logRec r).mgmt.fenced = s.mgmt.fenced := rfl
@[simp] theorem logRec_mgmt_fencedDue (r : Nat) : (s.logRec r).mgmt.fencedDue = s.mgmt.fencedDue := rfl
@[simp] theorem logRec_mgmt_fenceField (r : Nat) : (s.logRec r).mgmt.fenceField = s.mgmt.fenceField := rfl
@[simp] theorem logRec_mgmt_fenceCauses (r : Nat) : (s.logRec r).mgmt.fenceCauses = s.mgmt.fenceCauses := rfl

@[simp] theorem logEvent_mgmt_inbox (type part unit step detail aux : Nat) : (s.logEvent type part unit step detail aux).mgmt.inbox = s.mgmt.inbox := rfl
@[simp] theorem logEvent_mgmt_running (type part unit step detail aux : Nat) : (s.logEvent type part unit step detail aux).mgmt.running = s.mgmt.running := rfl
@[simp] theorem logEvent_mgmt_queue (type part unit step detail aux : Nat) : (s.logEvent type part unit step detail aux).mgmt.queue = s.mgmt.queue := rfl
@[simp] theorem logEvent_mgmt_ce (type part unit step detail aux : Nat) : (s.logEvent type part unit step detail aux).mgmt.ce = s.mgmt.ce := rfl
@[simp] theorem logEvent_mgmt_de (type part unit step detail aux : Nat) : (s.logEvent type part unit step detail aux).mgmt.de = s.mgmt.de := rfl
@[simp] theorem logEvent_mgmt_ur (type part unit step detail aux : Nat) : (s.logEvent type part unit step detail aux).mgmt.ur = s.mgmt.ur := rfl
@[simp] theorem logEvent_mgmt_fatal (type part unit step detail aux : Nat) : (s.logEvent type part unit step detail aux).mgmt.fatal = s.mgmt.fatal := rfl
@[simp] theorem logEvent_mgmt_lostCe (type part unit step detail aux : Nat) : (s.logEvent type part unit step detail aux).mgmt.lostCe = s.mgmt.lostCe := rfl
@[simp] theorem logEvent_mgmt_lostDe (type part unit step detail aux : Nat) : (s.logEvent type part unit step detail aux).mgmt.lostDe = s.mgmt.lostDe := rfl
@[simp] theorem logEvent_mgmt_lostUr (type part unit step detail aux : Nat) : (s.logEvent type part unit step detail aux).mgmt.lostUr = s.mgmt.lostUr := rfl
@[simp] theorem logEvent_mgmt_ceUnits (type part unit step detail aux : Nat) : (s.logEvent type part unit step detail aux).mgmt.ceUnits = s.mgmt.ceUnits := rfl
@[simp] theorem logEvent_mgmt_storms (type part unit step detail aux : Nat) : (s.logEvent type part unit step detail aux).mgmt.storms = s.mgmt.storms := rfl
@[simp] theorem logEvent_mgmt_urUnits (type part unit step detail aux : Nat) : (s.logEvent type part unit step detail aux).mgmt.urUnits = s.mgmt.urUnits := rfl
@[simp] theorem logEvent_mgmt_fenced (type part unit step detail aux : Nat) : (s.logEvent type part unit step detail aux).mgmt.fenced = s.mgmt.fenced := rfl
@[simp] theorem logEvent_mgmt_fencedDue (type part unit step detail aux : Nat) : (s.logEvent type part unit step detail aux).mgmt.fencedDue = s.mgmt.fencedDue := rfl
@[simp] theorem logEvent_mgmt_fenceField (type part unit step detail aux : Nat) : (s.logEvent type part unit step detail aux).mgmt.fenceField = s.mgmt.fenceField := rfl
@[simp] theorem logEvent_mgmt_fenceCauses (type part unit step detail aux : Nat) : (s.logEvent type part unit step detail aux).mgmt.fenceCauses = s.mgmt.fenceCauses := rfl

@[simp] theorem fnEvent_ports_semas (f : Nat) (r : Rec) : (s.fnEvent f r).ports.semas = s.ports.semas := rfl
@[simp] theorem fnEvent_ports_portA (f : Nat) (r : Rec) : (s.fnEvent f r).ports.portA = s.ports.portA := rfl
@[simp] theorem fnEvent_ports_portB (f : Nat) (r : Rec) : (s.fnEvent f r).ports.portB = s.ports.portB := rfl
@[simp] theorem fnEvent_ports_hostMem (f : Nat) (r : Rec) : (s.fnEvent f r).ports.hostMem = s.ports.hostMem := rfl
@[simp] theorem fnEvent_ports_staleReleases (f : Nat) (r : Rec) : (s.fnEvent f r).ports.staleReleases = s.ports.staleReleases := rfl
@[simp] theorem fnEvent_ports_ignoredWrites (f : Nat) (r : Rec) : (s.fnEvent f r).ports.ignoredWrites = s.ports.ignoredWrites := rfl
@[simp] theorem fnEvent_ports_winDrops (f : Nat) (r : Rec) : (s.fnEvent f r).ports.winDrops = s.ports.winDrops := rfl
@[simp] theorem fnEvent_ports_clockFails (f : Nat) (r : Rec) : (s.fnEvent f r).ports.clockFails = s.ports.clockFails := rfl
@[simp] theorem fnEvent_ports_sysclk (f : Nat) (r : Rec) : (s.fnEvent f r).ports.sysclk = s.ports.sysclk := rfl

@[simp] theorem send_net_acks (k : Packet) : (s.send k).net.acks = s.net.acks := rfl

@[simp] theorem setDram_mem (m : Mem) : (s.setDram m).dram.mem = m := rfl

@[simp] theorem core_setCore (cl : Cl) (c : Cn) (v : Core) : (s.setCore cl c v).core cl c = v := look_put_same _ _ _ v
@[simp] theorem stew_setStew (cl : Cl) (v : Steward) : (s.setStew cl v).stew cl = v := look_put_same _ _ _ v
@[simp] theorem clu_setClu (cl : Cl) (v : Cluster) : (s.setClu cl v).clu cl = v := look_put_same _ _ _ v
@[simp] theorem ring_setRing (cl : Cl) (n : Nat) (v : Ring) : (s.setRing cl n v).ring cl n = v := look_put_same _ _ _ v
@[simp] theorem ctr_setCtr (n : Nat) (v : Counter) : (s.setCtr n v).ctr n = v := look_put_same _ _ _ v
@[simp] theorem acct_setAcct (a : Nat) (v : Acct) : (s.setAcct a v).acct a = v := look_put_same _ _ _ v
@[simp] theorem part_setPart (p : Nat) (v : Part) : (s.setPart p v).part p = v := look_put_same _ _ _ v
@[simp] theorem fn_setFn (f : Nat) (v : Fn) : (s.setFn f v).fn f = v := look_put_same _ _ _ v
@[simp] theorem sema_setSema (k : Nat) (v : Sema) : (s.setSema k v).sema k = v := look_put_same _ _ _ v
@[simp] theorem link_setLink (l : Nat) (v : Link) : (s.setLink l v).link l = v := look_put_same _ _ _ v
@[simp] theorem sport_setSport (k : Nat) (v : SPort) : (s.setSport k v).sport k = v := look_put_same _ _ _ v
@[simp] theorem phy_setPhy (i : Nat) (v : Phys) : (s.setPhy i v).phy i = v := look_put_same _ _ _ v
@[simp] theorem mapEntry_setMapEntry (i : Nat) (v : BitVec 16) : (s.setMapEntry i v).mapEntry i = v := look_put_same _ _ _ v

theorem coreKey_inj {cl cl' : Cl} {c c' : Cn} : coreKey cl c = coreKey cl' c' ↔ cl = cl' ∧ c = c' := by
  unfold coreKey
  rw [Fin.ext_iff, Fin.ext_iff]
  omega

theorem core_setCore_if (cl cl' : Cl) (c c' : Cn) (v : Core) :
    (s.setCore cl c v).core cl' c' = if cl' = cl ∧ c' = c then v else s.core cl' c' := by
  unfold core setCore
  rw [look_put]
  simp only [coreKey_inj]

theorem stew_setStew_if (cl cl' : Cl) (v : Steward) : (s.setStew cl v).stew cl' = if cl' = cl then v else s.stew cl' := by
  unfold stew setStew
  rw [look_put]
  simp only [Fin.ext_iff]

theorem clu_setClu_if (cl cl' : Cl) (v : Cluster) : (s.setClu cl v).clu cl' = if cl' = cl then v else s.clu cl' := by
  unfold clu setClu
  rw [look_put]
  simp only [Fin.ext_iff]

theorem ringKey_inj {cl cl' : Cl} {n n' : Nat} (h : n < 16) (h' : n' < 16) :
    ringKey cl n = ringKey cl' n' ↔ cl = cl' ∧ n = n' := by
  unfold ringKey
  rw [Fin.ext_iff]
  omega

theorem ring_setRing_if (cl cl' : Cl) {n n' : Nat} (h : n < 16) (h' : n' < 16) (v : Ring) :
    (s.setRing cl n v).ring cl' n' = if cl' = cl ∧ n' = n then v else s.ring cl' n' := by
  unfold ring setRing
  rw [look_put]
  simp only [ringKey_inj h' h]

theorem ctr_setCtr_if (k k' : Nat) (v : Counter) : (s.setCtr k v).ctr k' = if k' = k then v else s.ctr k' :=
  look_put _ _ _ _ v

theorem acct_setAcct_if (k k' : Nat) (v : Acct) : (s.setAcct k v).acct k' = if k' = k then v else s.acct k' :=
  look_put _ _ _ _ v

theorem part_setPart_if (k k' : Nat) (v : Part) : (s.setPart k v).part k' = if k' = k then v else s.part k' :=
  look_put _ _ _ _ v

theorem fn_setFn_if (k k' : Nat) (v : Fn) : (s.setFn k v).fn k' = if k' = k then v else s.fn k' :=
  look_put _ _ _ _ v

theorem sema_setSema_if (k k' : Nat) (v : Sema) : (s.setSema k v).sema k' = if k' = k then v else s.sema k' :=
  look_put _ _ _ _ v

theorem link_setLink_if (k k' : Nat) (v : Link) : (s.setLink k v).link k' = if k' = k then v else s.link k' :=
  look_put _ _ _ _ v

theorem sport_setSport_if (k k' : Nat) (v : SPort) : (s.setSport k v).sport k' = if k' = k then v else s.sport k' :=
  look_put _ _ _ _ v

theorem phy_setPhy_if (k k' : Nat) (v : Phys) : (s.setPhy k v).phy k' = if k' = k then v else s.phy k' :=
  look_put _ _ _ _ v

theorem mapEntry_setMapEntry_if (k k' : Nat) (v : BitVec 16) : (s.setMapEntry k v).mapEntry k' = if k' = k then v else s.mapEntry k' :=
  look_put _ _ _ _ v

@[simp] theorem stew_of_setCore (cl : Cl) (c : Cn) (v : Core) (cl' : Cl) : (s.setCore cl c v).stew cl' = s.stew cl' := rfl
@[simp] theorem clu_of_setCore (cl : Cl) (c : Cn) (v : Core) (cl' : Cl) : (s.setCore cl c v).clu cl' = s.clu cl' := rfl
@[simp] theorem ring_of_setCore (cl : Cl) (c : Cn) (v : Core) (cl' : Cl) (n' : Nat) : (s.setCore cl c v).ring cl' n' = s.ring cl' n' := rfl
@[simp] theorem ctr_of_setCore (cl : Cl) (c : Cn) (v : Core) (n' : Nat) : (s.setCore cl c v).ctr n' = s.ctr n' := rfl
@[simp] theorem acct_of_setCore (cl : Cl) (c : Cn) (v : Core) (a' : Nat) : (s.setCore cl c v).acct a' = s.acct a' := rfl
@[simp] theorem part_of_setCore (cl : Cl) (c : Cn) (v : Core) (p' : Nat) : (s.setCore cl c v).part p' = s.part p' := rfl
@[simp] theorem fn_of_setCore (cl : Cl) (c : Cn) (v : Core) (f' : Nat) : (s.setCore cl c v).fn f' = s.fn f' := rfl
@[simp] theorem sema_of_setCore (cl : Cl) (c : Cn) (v : Core) (k' : Nat) : (s.setCore cl c v).sema k' = s.sema k' := rfl
@[simp] theorem link_of_setCore (cl : Cl) (c : Cn) (v : Core) (l' : Nat) : (s.setCore cl c v).link l' = s.link l' := rfl
@[simp] theorem sport_of_setCore (cl : Cl) (c : Cn) (v : Core) (k' : Nat) : (s.setCore cl c v).sport k' = s.sport k' := rfl
@[simp] theorem phy_of_setCore (cl : Cl) (c : Cn) (v : Core) (i' : Nat) : (s.setCore cl c v).phy i' = s.phy i' := rfl
@[simp] theorem mapEntry_of_setCore (cl : Cl) (c : Cn) (v : Core) (i' : Nat) : (s.setCore cl c v).mapEntry i' = s.mapEntry i' := rfl
@[simp] theorem obj_of_setCore (cl : Cl) (c : Cn) (v : Core) (i' j' : Nat) : (s.setCore cl c v).obj i' j' = s.obj i' j' := rfl
@[simp] theorem clPart_of_setCore (cl : Cl) (c : Cn) (v : Core) (cl' : Cl) : (s.setCore cl c v).clPart cl' = s.clPart cl' := rfl

@[simp] theorem core_of_setStew (cl : Cl) (v : Steward) (cl' : Cl) (c' : Cn) : (s.setStew cl v).core cl' c' = s.core cl' c' := rfl
@[simp] theorem clu_of_setStew (cl : Cl) (v : Steward) (cl' : Cl) : (s.setStew cl v).clu cl' = s.clu cl' := rfl
@[simp] theorem ring_of_setStew (cl : Cl) (v : Steward) (cl' : Cl) (n' : Nat) : (s.setStew cl v).ring cl' n' = s.ring cl' n' := rfl
@[simp] theorem ctr_of_setStew (cl : Cl) (v : Steward) (n' : Nat) : (s.setStew cl v).ctr n' = s.ctr n' := rfl
@[simp] theorem acct_of_setStew (cl : Cl) (v : Steward) (a' : Nat) : (s.setStew cl v).acct a' = s.acct a' := rfl
@[simp] theorem part_of_setStew (cl : Cl) (v : Steward) (p' : Nat) : (s.setStew cl v).part p' = s.part p' := rfl
@[simp] theorem fn_of_setStew (cl : Cl) (v : Steward) (f' : Nat) : (s.setStew cl v).fn f' = s.fn f' := rfl
@[simp] theorem sema_of_setStew (cl : Cl) (v : Steward) (k' : Nat) : (s.setStew cl v).sema k' = s.sema k' := rfl
@[simp] theorem link_of_setStew (cl : Cl) (v : Steward) (l' : Nat) : (s.setStew cl v).link l' = s.link l' := rfl
@[simp] theorem sport_of_setStew (cl : Cl) (v : Steward) (k' : Nat) : (s.setStew cl v).sport k' = s.sport k' := rfl
@[simp] theorem phy_of_setStew (cl : Cl) (v : Steward) (i' : Nat) : (s.setStew cl v).phy i' = s.phy i' := rfl
@[simp] theorem mapEntry_of_setStew (cl : Cl) (v : Steward) (i' : Nat) : (s.setStew cl v).mapEntry i' = s.mapEntry i' := rfl
@[simp] theorem obj_of_setStew (cl : Cl) (v : Steward) (i' j' : Nat) : (s.setStew cl v).obj i' j' = s.obj i' j' := rfl
@[simp] theorem clPart_of_setStew (cl : Cl) (v : Steward) (cl' : Cl) : (s.setStew cl v).clPart cl' = s.clPart cl' := rfl

@[simp] theorem core_of_setClu (cl : Cl) (v : Cluster) (cl' : Cl) (c' : Cn) : (s.setClu cl v).core cl' c' = s.core cl' c' := rfl
@[simp] theorem stew_of_setClu (cl : Cl) (v : Cluster) (cl' : Cl) : (s.setClu cl v).stew cl' = s.stew cl' := rfl
@[simp] theorem ring_of_setClu (cl : Cl) (v : Cluster) (cl' : Cl) (n' : Nat) : (s.setClu cl v).ring cl' n' = s.ring cl' n' := rfl
@[simp] theorem ctr_of_setClu (cl : Cl) (v : Cluster) (n' : Nat) : (s.setClu cl v).ctr n' = s.ctr n' := rfl
@[simp] theorem acct_of_setClu (cl : Cl) (v : Cluster) (a' : Nat) : (s.setClu cl v).acct a' = s.acct a' := rfl
@[simp] theorem part_of_setClu (cl : Cl) (v : Cluster) (p' : Nat) : (s.setClu cl v).part p' = s.part p' := rfl
@[simp] theorem fn_of_setClu (cl : Cl) (v : Cluster) (f' : Nat) : (s.setClu cl v).fn f' = s.fn f' := rfl
@[simp] theorem sema_of_setClu (cl : Cl) (v : Cluster) (k' : Nat) : (s.setClu cl v).sema k' = s.sema k' := rfl
@[simp] theorem link_of_setClu (cl : Cl) (v : Cluster) (l' : Nat) : (s.setClu cl v).link l' = s.link l' := rfl
@[simp] theorem sport_of_setClu (cl : Cl) (v : Cluster) (k' : Nat) : (s.setClu cl v).sport k' = s.sport k' := rfl
@[simp] theorem phy_of_setClu (cl : Cl) (v : Cluster) (i' : Nat) : (s.setClu cl v).phy i' = s.phy i' := rfl
@[simp] theorem mapEntry_of_setClu (cl : Cl) (v : Cluster) (i' : Nat) : (s.setClu cl v).mapEntry i' = s.mapEntry i' := rfl
@[simp] theorem obj_of_setClu (cl : Cl) (v : Cluster) (i' j' : Nat) : (s.setClu cl v).obj i' j' = s.obj i' j' := rfl
@[simp] theorem clPart_of_setClu (cl : Cl) (v : Cluster) (cl' : Cl) : (s.setClu cl v).clPart cl' = s.clPart cl' := rfl

@[simp] theorem core_of_setRing (cl : Cl) (n : Nat) (v : Ring) (cl' : Cl) (c' : Cn) : (s.setRing cl n v).core cl' c' = s.core cl' c' := rfl
@[simp] theorem stew_of_setRing (cl : Cl) (n : Nat) (v : Ring) (cl' : Cl) : (s.setRing cl n v).stew cl' = s.stew cl' := rfl
@[simp] theorem clu_of_setRing (cl : Cl) (n : Nat) (v : Ring) (cl' : Cl) : (s.setRing cl n v).clu cl' = s.clu cl' := rfl
@[simp] theorem ctr_of_setRing (cl : Cl) (n : Nat) (v : Ring) (n' : Nat) : (s.setRing cl n v).ctr n' = s.ctr n' := rfl
@[simp] theorem acct_of_setRing (cl : Cl) (n : Nat) (v : Ring) (a' : Nat) : (s.setRing cl n v).acct a' = s.acct a' := rfl
@[simp] theorem part_of_setRing (cl : Cl) (n : Nat) (v : Ring) (p' : Nat) : (s.setRing cl n v).part p' = s.part p' := rfl
@[simp] theorem fn_of_setRing (cl : Cl) (n : Nat) (v : Ring) (f' : Nat) : (s.setRing cl n v).fn f' = s.fn f' := rfl
@[simp] theorem sema_of_setRing (cl : Cl) (n : Nat) (v : Ring) (k' : Nat) : (s.setRing cl n v).sema k' = s.sema k' := rfl
@[simp] theorem link_of_setRing (cl : Cl) (n : Nat) (v : Ring) (l' : Nat) : (s.setRing cl n v).link l' = s.link l' := rfl
@[simp] theorem sport_of_setRing (cl : Cl) (n : Nat) (v : Ring) (k' : Nat) : (s.setRing cl n v).sport k' = s.sport k' := rfl
@[simp] theorem phy_of_setRing (cl : Cl) (n : Nat) (v : Ring) (i' : Nat) : (s.setRing cl n v).phy i' = s.phy i' := rfl
@[simp] theorem mapEntry_of_setRing (cl : Cl) (n : Nat) (v : Ring) (i' : Nat) : (s.setRing cl n v).mapEntry i' = s.mapEntry i' := rfl
@[simp] theorem obj_of_setRing (cl : Cl) (n : Nat) (v : Ring) (i' j' : Nat) : (s.setRing cl n v).obj i' j' = s.obj i' j' := rfl
@[simp] theorem clPart_of_setRing (cl : Cl) (n : Nat) (v : Ring) (cl' : Cl) : (s.setRing cl n v).clPart cl' = s.clPart cl' := rfl

@[simp] theorem core_of_setCtr (n : Nat) (v : Counter) (cl' : Cl) (c' : Cn) : (s.setCtr n v).core cl' c' = s.core cl' c' := rfl
@[simp] theorem stew_of_setCtr (n : Nat) (v : Counter) (cl' : Cl) : (s.setCtr n v).stew cl' = s.stew cl' := rfl
@[simp] theorem clu_of_setCtr (n : Nat) (v : Counter) (cl' : Cl) : (s.setCtr n v).clu cl' = s.clu cl' := rfl
@[simp] theorem ring_of_setCtr (n : Nat) (v : Counter) (cl' : Cl) (n' : Nat) : (s.setCtr n v).ring cl' n' = s.ring cl' n' := rfl
@[simp] theorem acct_of_setCtr (n : Nat) (v : Counter) (a' : Nat) : (s.setCtr n v).acct a' = s.acct a' := rfl
@[simp] theorem part_of_setCtr (n : Nat) (v : Counter) (p' : Nat) : (s.setCtr n v).part p' = s.part p' := rfl
@[simp] theorem fn_of_setCtr (n : Nat) (v : Counter) (f' : Nat) : (s.setCtr n v).fn f' = s.fn f' := rfl
@[simp] theorem sema_of_setCtr (n : Nat) (v : Counter) (k' : Nat) : (s.setCtr n v).sema k' = s.sema k' := rfl
@[simp] theorem link_of_setCtr (n : Nat) (v : Counter) (l' : Nat) : (s.setCtr n v).link l' = s.link l' := rfl
@[simp] theorem sport_of_setCtr (n : Nat) (v : Counter) (k' : Nat) : (s.setCtr n v).sport k' = s.sport k' := rfl
@[simp] theorem phy_of_setCtr (n : Nat) (v : Counter) (i' : Nat) : (s.setCtr n v).phy i' = s.phy i' := rfl
@[simp] theorem mapEntry_of_setCtr (n : Nat) (v : Counter) (i' : Nat) : (s.setCtr n v).mapEntry i' = s.mapEntry i' := rfl
@[simp] theorem obj_of_setCtr (n : Nat) (v : Counter) (i' j' : Nat) : (s.setCtr n v).obj i' j' = s.obj i' j' := rfl
@[simp] theorem clPart_of_setCtr (n : Nat) (v : Counter) (cl' : Cl) : (s.setCtr n v).clPart cl' = s.clPart cl' := rfl

@[simp] theorem core_of_setAcct (a : Nat) (v : Acct) (cl' : Cl) (c' : Cn) : (s.setAcct a v).core cl' c' = s.core cl' c' := rfl
@[simp] theorem stew_of_setAcct (a : Nat) (v : Acct) (cl' : Cl) : (s.setAcct a v).stew cl' = s.stew cl' := rfl
@[simp] theorem clu_of_setAcct (a : Nat) (v : Acct) (cl' : Cl) : (s.setAcct a v).clu cl' = s.clu cl' := rfl
@[simp] theorem ring_of_setAcct (a : Nat) (v : Acct) (cl' : Cl) (n' : Nat) : (s.setAcct a v).ring cl' n' = s.ring cl' n' := rfl
@[simp] theorem ctr_of_setAcct (a : Nat) (v : Acct) (n' : Nat) : (s.setAcct a v).ctr n' = s.ctr n' := rfl
@[simp] theorem part_of_setAcct (a : Nat) (v : Acct) (p' : Nat) : (s.setAcct a v).part p' = s.part p' := rfl
@[simp] theorem fn_of_setAcct (a : Nat) (v : Acct) (f' : Nat) : (s.setAcct a v).fn f' = s.fn f' := rfl
@[simp] theorem sema_of_setAcct (a : Nat) (v : Acct) (k' : Nat) : (s.setAcct a v).sema k' = s.sema k' := rfl
@[simp] theorem link_of_setAcct (a : Nat) (v : Acct) (l' : Nat) : (s.setAcct a v).link l' = s.link l' := rfl
@[simp] theorem sport_of_setAcct (a : Nat) (v : Acct) (k' : Nat) : (s.setAcct a v).sport k' = s.sport k' := rfl
@[simp] theorem phy_of_setAcct (a : Nat) (v : Acct) (i' : Nat) : (s.setAcct a v).phy i' = s.phy i' := rfl
@[simp] theorem mapEntry_of_setAcct (a : Nat) (v : Acct) (i' : Nat) : (s.setAcct a v).mapEntry i' = s.mapEntry i' := rfl
@[simp] theorem obj_of_setAcct (a : Nat) (v : Acct) (i' j' : Nat) : (s.setAcct a v).obj i' j' = s.obj i' j' := rfl
@[simp] theorem clPart_of_setAcct (a : Nat) (v : Acct) (cl' : Cl) : (s.setAcct a v).clPart cl' = s.clPart cl' := rfl

@[simp] theorem core_of_setPart (p : Nat) (v : Part) (cl' : Cl) (c' : Cn) : (s.setPart p v).core cl' c' = s.core cl' c' := rfl
@[simp] theorem stew_of_setPart (p : Nat) (v : Part) (cl' : Cl) : (s.setPart p v).stew cl' = s.stew cl' := rfl
@[simp] theorem clu_of_setPart (p : Nat) (v : Part) (cl' : Cl) : (s.setPart p v).clu cl' = s.clu cl' := rfl
@[simp] theorem ring_of_setPart (p : Nat) (v : Part) (cl' : Cl) (n' : Nat) : (s.setPart p v).ring cl' n' = s.ring cl' n' := rfl
@[simp] theorem ctr_of_setPart (p : Nat) (v : Part) (n' : Nat) : (s.setPart p v).ctr n' = s.ctr n' := rfl
@[simp] theorem acct_of_setPart (p : Nat) (v : Part) (a' : Nat) : (s.setPart p v).acct a' = s.acct a' := rfl
@[simp] theorem fn_of_setPart (p : Nat) (v : Part) (f' : Nat) : (s.setPart p v).fn f' = s.fn f' := rfl
@[simp] theorem sema_of_setPart (p : Nat) (v : Part) (k' : Nat) : (s.setPart p v).sema k' = s.sema k' := rfl
@[simp] theorem link_of_setPart (p : Nat) (v : Part) (l' : Nat) : (s.setPart p v).link l' = s.link l' := rfl
@[simp] theorem sport_of_setPart (p : Nat) (v : Part) (k' : Nat) : (s.setPart p v).sport k' = s.sport k' := rfl
@[simp] theorem phy_of_setPart (p : Nat) (v : Part) (i' : Nat) : (s.setPart p v).phy i' = s.phy i' := rfl
@[simp] theorem mapEntry_of_setPart (p : Nat) (v : Part) (i' : Nat) : (s.setPart p v).mapEntry i' = s.mapEntry i' := rfl
@[simp] theorem obj_of_setPart (p : Nat) (v : Part) (i' j' : Nat) : (s.setPart p v).obj i' j' = s.obj i' j' := rfl
@[simp] theorem clPart_of_setPart (p : Nat) (v : Part) (cl' : Cl) : (s.setPart p v).clPart cl' = s.clPart cl' := rfl

@[simp] theorem core_of_setFn (f : Nat) (v : Fn) (cl' : Cl) (c' : Cn) : (s.setFn f v).core cl' c' = s.core cl' c' := rfl
@[simp] theorem stew_of_setFn (f : Nat) (v : Fn) (cl' : Cl) : (s.setFn f v).stew cl' = s.stew cl' := rfl
@[simp] theorem clu_of_setFn (f : Nat) (v : Fn) (cl' : Cl) : (s.setFn f v).clu cl' = s.clu cl' := rfl
@[simp] theorem ring_of_setFn (f : Nat) (v : Fn) (cl' : Cl) (n' : Nat) : (s.setFn f v).ring cl' n' = s.ring cl' n' := rfl
@[simp] theorem ctr_of_setFn (f : Nat) (v : Fn) (n' : Nat) : (s.setFn f v).ctr n' = s.ctr n' := rfl
@[simp] theorem acct_of_setFn (f : Nat) (v : Fn) (a' : Nat) : (s.setFn f v).acct a' = s.acct a' := rfl
@[simp] theorem part_of_setFn (f : Nat) (v : Fn) (p' : Nat) : (s.setFn f v).part p' = s.part p' := rfl
@[simp] theorem sema_of_setFn (f : Nat) (v : Fn) (k' : Nat) : (s.setFn f v).sema k' = s.sema k' := rfl
@[simp] theorem link_of_setFn (f : Nat) (v : Fn) (l' : Nat) : (s.setFn f v).link l' = s.link l' := rfl
@[simp] theorem sport_of_setFn (f : Nat) (v : Fn) (k' : Nat) : (s.setFn f v).sport k' = s.sport k' := rfl
@[simp] theorem phy_of_setFn (f : Nat) (v : Fn) (i' : Nat) : (s.setFn f v).phy i' = s.phy i' := rfl
@[simp] theorem mapEntry_of_setFn (f : Nat) (v : Fn) (i' : Nat) : (s.setFn f v).mapEntry i' = s.mapEntry i' := rfl
@[simp] theorem obj_of_setFn (f : Nat) (v : Fn) (i' j' : Nat) : (s.setFn f v).obj i' j' = s.obj i' j' := rfl
@[simp] theorem clPart_of_setFn (f : Nat) (v : Fn) (cl' : Cl) : (s.setFn f v).clPart cl' = s.clPart cl' := rfl

@[simp] theorem core_of_setSema (k : Nat) (v : Sema) (cl' : Cl) (c' : Cn) : (s.setSema k v).core cl' c' = s.core cl' c' := rfl
@[simp] theorem stew_of_setSema (k : Nat) (v : Sema) (cl' : Cl) : (s.setSema k v).stew cl' = s.stew cl' := rfl
@[simp] theorem clu_of_setSema (k : Nat) (v : Sema) (cl' : Cl) : (s.setSema k v).clu cl' = s.clu cl' := rfl
@[simp] theorem ring_of_setSema (k : Nat) (v : Sema) (cl' : Cl) (n' : Nat) : (s.setSema k v).ring cl' n' = s.ring cl' n' := rfl
@[simp] theorem ctr_of_setSema (k : Nat) (v : Sema) (n' : Nat) : (s.setSema k v).ctr n' = s.ctr n' := rfl
@[simp] theorem acct_of_setSema (k : Nat) (v : Sema) (a' : Nat) : (s.setSema k v).acct a' = s.acct a' := rfl
@[simp] theorem part_of_setSema (k : Nat) (v : Sema) (p' : Nat) : (s.setSema k v).part p' = s.part p' := rfl
@[simp] theorem fn_of_setSema (k : Nat) (v : Sema) (f' : Nat) : (s.setSema k v).fn f' = s.fn f' := rfl
@[simp] theorem link_of_setSema (k : Nat) (v : Sema) (l' : Nat) : (s.setSema k v).link l' = s.link l' := rfl
@[simp] theorem sport_of_setSema (k : Nat) (v : Sema) (k' : Nat) : (s.setSema k v).sport k' = s.sport k' := rfl
@[simp] theorem phy_of_setSema (k : Nat) (v : Sema) (i' : Nat) : (s.setSema k v).phy i' = s.phy i' := rfl
@[simp] theorem mapEntry_of_setSema (k : Nat) (v : Sema) (i' : Nat) : (s.setSema k v).mapEntry i' = s.mapEntry i' := rfl
@[simp] theorem obj_of_setSema (k : Nat) (v : Sema) (i' j' : Nat) : (s.setSema k v).obj i' j' = s.obj i' j' := rfl
@[simp] theorem clPart_of_setSema (k : Nat) (v : Sema) (cl' : Cl) : (s.setSema k v).clPart cl' = s.clPart cl' := rfl

@[simp] theorem core_of_setLink (l : Nat) (v : Link) (cl' : Cl) (c' : Cn) : (s.setLink l v).core cl' c' = s.core cl' c' := rfl
@[simp] theorem stew_of_setLink (l : Nat) (v : Link) (cl' : Cl) : (s.setLink l v).stew cl' = s.stew cl' := rfl
@[simp] theorem clu_of_setLink (l : Nat) (v : Link) (cl' : Cl) : (s.setLink l v).clu cl' = s.clu cl' := rfl
@[simp] theorem ring_of_setLink (l : Nat) (v : Link) (cl' : Cl) (n' : Nat) : (s.setLink l v).ring cl' n' = s.ring cl' n' := rfl
@[simp] theorem ctr_of_setLink (l : Nat) (v : Link) (n' : Nat) : (s.setLink l v).ctr n' = s.ctr n' := rfl
@[simp] theorem acct_of_setLink (l : Nat) (v : Link) (a' : Nat) : (s.setLink l v).acct a' = s.acct a' := rfl
@[simp] theorem part_of_setLink (l : Nat) (v : Link) (p' : Nat) : (s.setLink l v).part p' = s.part p' := rfl
@[simp] theorem fn_of_setLink (l : Nat) (v : Link) (f' : Nat) : (s.setLink l v).fn f' = s.fn f' := rfl
@[simp] theorem sema_of_setLink (l : Nat) (v : Link) (k' : Nat) : (s.setLink l v).sema k' = s.sema k' := rfl
@[simp] theorem sport_of_setLink (l : Nat) (v : Link) (k' : Nat) : (s.setLink l v).sport k' = s.sport k' := rfl
@[simp] theorem phy_of_setLink (l : Nat) (v : Link) (i' : Nat) : (s.setLink l v).phy i' = s.phy i' := rfl
@[simp] theorem mapEntry_of_setLink (l : Nat) (v : Link) (i' : Nat) : (s.setLink l v).mapEntry i' = s.mapEntry i' := rfl
@[simp] theorem obj_of_setLink (l : Nat) (v : Link) (i' j' : Nat) : (s.setLink l v).obj i' j' = s.obj i' j' := rfl
@[simp] theorem clPart_of_setLink (l : Nat) (v : Link) (cl' : Cl) : (s.setLink l v).clPart cl' = s.clPart cl' := rfl

@[simp] theorem core_of_setSport (k : Nat) (v : SPort) (cl' : Cl) (c' : Cn) : (s.setSport k v).core cl' c' = s.core cl' c' := rfl
@[simp] theorem stew_of_setSport (k : Nat) (v : SPort) (cl' : Cl) : (s.setSport k v).stew cl' = s.stew cl' := rfl
@[simp] theorem clu_of_setSport (k : Nat) (v : SPort) (cl' : Cl) : (s.setSport k v).clu cl' = s.clu cl' := rfl
@[simp] theorem ring_of_setSport (k : Nat) (v : SPort) (cl' : Cl) (n' : Nat) : (s.setSport k v).ring cl' n' = s.ring cl' n' := rfl
@[simp] theorem ctr_of_setSport (k : Nat) (v : SPort) (n' : Nat) : (s.setSport k v).ctr n' = s.ctr n' := rfl
@[simp] theorem acct_of_setSport (k : Nat) (v : SPort) (a' : Nat) : (s.setSport k v).acct a' = s.acct a' := rfl
@[simp] theorem part_of_setSport (k : Nat) (v : SPort) (p' : Nat) : (s.setSport k v).part p' = s.part p' := rfl
@[simp] theorem fn_of_setSport (k : Nat) (v : SPort) (f' : Nat) : (s.setSport k v).fn f' = s.fn f' := rfl
@[simp] theorem sema_of_setSport (k : Nat) (v : SPort) (k' : Nat) : (s.setSport k v).sema k' = s.sema k' := rfl
@[simp] theorem link_of_setSport (k : Nat) (v : SPort) (l' : Nat) : (s.setSport k v).link l' = s.link l' := rfl
@[simp] theorem phy_of_setSport (k : Nat) (v : SPort) (i' : Nat) : (s.setSport k v).phy i' = s.phy i' := rfl
@[simp] theorem mapEntry_of_setSport (k : Nat) (v : SPort) (i' : Nat) : (s.setSport k v).mapEntry i' = s.mapEntry i' := rfl
@[simp] theorem obj_of_setSport (k : Nat) (v : SPort) (i' j' : Nat) : (s.setSport k v).obj i' j' = s.obj i' j' := rfl
@[simp] theorem clPart_of_setSport (k : Nat) (v : SPort) (cl' : Cl) : (s.setSport k v).clPart cl' = s.clPart cl' := rfl

@[simp] theorem core_of_setPhy (i : Nat) (v : Phys) (cl' : Cl) (c' : Cn) : (s.setPhy i v).core cl' c' = s.core cl' c' := rfl
@[simp] theorem stew_of_setPhy (i : Nat) (v : Phys) (cl' : Cl) : (s.setPhy i v).stew cl' = s.stew cl' := rfl
@[simp] theorem clu_of_setPhy (i : Nat) (v : Phys) (cl' : Cl) : (s.setPhy i v).clu cl' = s.clu cl' := rfl
@[simp] theorem ring_of_setPhy (i : Nat) (v : Phys) (cl' : Cl) (n' : Nat) : (s.setPhy i v).ring cl' n' = s.ring cl' n' := rfl
@[simp] theorem ctr_of_setPhy (i : Nat) (v : Phys) (n' : Nat) : (s.setPhy i v).ctr n' = s.ctr n' := rfl
@[simp] theorem acct_of_setPhy (i : Nat) (v : Phys) (a' : Nat) : (s.setPhy i v).acct a' = s.acct a' := rfl
@[simp] theorem part_of_setPhy (i : Nat) (v : Phys) (p' : Nat) : (s.setPhy i v).part p' = s.part p' := rfl
@[simp] theorem fn_of_setPhy (i : Nat) (v : Phys) (f' : Nat) : (s.setPhy i v).fn f' = s.fn f' := rfl
@[simp] theorem sema_of_setPhy (i : Nat) (v : Phys) (k' : Nat) : (s.setPhy i v).sema k' = s.sema k' := rfl
@[simp] theorem link_of_setPhy (i : Nat) (v : Phys) (l' : Nat) : (s.setPhy i v).link l' = s.link l' := rfl
@[simp] theorem sport_of_setPhy (i : Nat) (v : Phys) (k' : Nat) : (s.setPhy i v).sport k' = s.sport k' := rfl
@[simp] theorem mapEntry_of_setPhy (i : Nat) (v : Phys) (i' : Nat) : (s.setPhy i v).mapEntry i' = s.mapEntry i' := rfl
@[simp] theorem obj_of_setPhy (i : Nat) (v : Phys) (i' j' : Nat) : (s.setPhy i v).obj i' j' = s.obj i' j' := rfl
@[simp] theorem clPart_of_setPhy (i : Nat) (v : Phys) (cl' : Cl) : (s.setPhy i v).clPart cl' = s.clPart cl' := rfl

@[simp] theorem core_of_setMapEntry (i : Nat) (v : BitVec 16) (cl' : Cl) (c' : Cn) : (s.setMapEntry i v).core cl' c' = s.core cl' c' := rfl
@[simp] theorem stew_of_setMapEntry (i : Nat) (v : BitVec 16) (cl' : Cl) : (s.setMapEntry i v).stew cl' = s.stew cl' := rfl
@[simp] theorem clu_of_setMapEntry (i : Nat) (v : BitVec 16) (cl' : Cl) : (s.setMapEntry i v).clu cl' = s.clu cl' := rfl
@[simp] theorem ring_of_setMapEntry (i : Nat) (v : BitVec 16) (cl' : Cl) (n' : Nat) : (s.setMapEntry i v).ring cl' n' = s.ring cl' n' := rfl
@[simp] theorem ctr_of_setMapEntry (i : Nat) (v : BitVec 16) (n' : Nat) : (s.setMapEntry i v).ctr n' = s.ctr n' := rfl
@[simp] theorem acct_of_setMapEntry (i : Nat) (v : BitVec 16) (a' : Nat) : (s.setMapEntry i v).acct a' = s.acct a' := rfl
@[simp] theorem part_of_setMapEntry (i : Nat) (v : BitVec 16) (p' : Nat) : (s.setMapEntry i v).part p' = s.part p' := rfl
@[simp] theorem fn_of_setMapEntry (i : Nat) (v : BitVec 16) (f' : Nat) : (s.setMapEntry i v).fn f' = s.fn f' := rfl
@[simp] theorem sema_of_setMapEntry (i : Nat) (v : BitVec 16) (k' : Nat) : (s.setMapEntry i v).sema k' = s.sema k' := rfl
@[simp] theorem link_of_setMapEntry (i : Nat) (v : BitVec 16) (l' : Nat) : (s.setMapEntry i v).link l' = s.link l' := rfl
@[simp] theorem sport_of_setMapEntry (i : Nat) (v : BitVec 16) (k' : Nat) : (s.setMapEntry i v).sport k' = s.sport k' := rfl
@[simp] theorem phy_of_setMapEntry (i : Nat) (v : BitVec 16) (i' : Nat) : (s.setMapEntry i v).phy i' = s.phy i' := rfl
@[simp] theorem obj_of_setMapEntry (i : Nat) (v : BitVec 16) (i' j' : Nat) : (s.setMapEntry i v).obj i' j' = s.obj i' j' := rfl
@[simp] theorem clPart_of_setMapEntry (i : Nat) (v : BitVec 16) (cl' : Cl) : (s.setMapEntry i v).clPart cl' = s.clPart cl' := rfl

@[simp] theorem core_of_setObj (idx sub v : Nat) (cl' : Cl) (c' : Cn) : (s.setObj idx sub v).core cl' c' = s.core cl' c' := rfl
@[simp] theorem stew_of_setObj (idx sub v : Nat) (cl' : Cl) : (s.setObj idx sub v).stew cl' = s.stew cl' := rfl
@[simp] theorem clu_of_setObj (idx sub v : Nat) (cl' : Cl) : (s.setObj idx sub v).clu cl' = s.clu cl' := rfl
@[simp] theorem ring_of_setObj (idx sub v : Nat) (cl' : Cl) (n' : Nat) : (s.setObj idx sub v).ring cl' n' = s.ring cl' n' := rfl
@[simp] theorem ctr_of_setObj (idx sub v : Nat) (n' : Nat) : (s.setObj idx sub v).ctr n' = s.ctr n' := rfl
@[simp] theorem acct_of_setObj (idx sub v : Nat) (a' : Nat) : (s.setObj idx sub v).acct a' = s.acct a' := rfl
@[simp] theorem part_of_setObj (idx sub v : Nat) (p' : Nat) : (s.setObj idx sub v).part p' = s.part p' := rfl
@[simp] theorem fn_of_setObj (idx sub v : Nat) (f' : Nat) : (s.setObj idx sub v).fn f' = s.fn f' := rfl
@[simp] theorem sema_of_setObj (idx sub v : Nat) (k' : Nat) : (s.setObj idx sub v).sema k' = s.sema k' := rfl
@[simp] theorem link_of_setObj (idx sub v : Nat) (l' : Nat) : (s.setObj idx sub v).link l' = s.link l' := rfl
@[simp] theorem sport_of_setObj (idx sub v : Nat) (k' : Nat) : (s.setObj idx sub v).sport k' = s.sport k' := rfl
@[simp] theorem phy_of_setObj (idx sub v : Nat) (i' : Nat) : (s.setObj idx sub v).phy i' = s.phy i' := rfl
@[simp] theorem mapEntry_of_setObj (idx sub v : Nat) (i' : Nat) : (s.setObj idx sub v).mapEntry i' = s.mapEntry i' := rfl

@[simp] theorem core_of_setDram (m : Mem) (cl' : Cl) (c' : Cn) : (s.setDram m).core cl' c' = s.core cl' c' := rfl
@[simp] theorem stew_of_setDram (m : Mem) (cl' : Cl) : (s.setDram m).stew cl' = s.stew cl' := rfl
@[simp] theorem clu_of_setDram (m : Mem) (cl' : Cl) : (s.setDram m).clu cl' = s.clu cl' := rfl
@[simp] theorem ring_of_setDram (m : Mem) (cl' : Cl) (n' : Nat) : (s.setDram m).ring cl' n' = s.ring cl' n' := rfl
@[simp] theorem ctr_of_setDram (m : Mem) (n' : Nat) : (s.setDram m).ctr n' = s.ctr n' := rfl
@[simp] theorem acct_of_setDram (m : Mem) (a' : Nat) : (s.setDram m).acct a' = s.acct a' := rfl
@[simp] theorem part_of_setDram (m : Mem) (p' : Nat) : (s.setDram m).part p' = s.part p' := rfl
@[simp] theorem fn_of_setDram (m : Mem) (f' : Nat) : (s.setDram m).fn f' = s.fn f' := rfl
@[simp] theorem sema_of_setDram (m : Mem) (k' : Nat) : (s.setDram m).sema k' = s.sema k' := rfl
@[simp] theorem link_of_setDram (m : Mem) (l' : Nat) : (s.setDram m).link l' = s.link l' := rfl
@[simp] theorem sport_of_setDram (m : Mem) (k' : Nat) : (s.setDram m).sport k' = s.sport k' := rfl
@[simp] theorem phy_of_setDram (m : Mem) (i' : Nat) : (s.setDram m).phy i' = s.phy i' := rfl
@[simp] theorem mapEntry_of_setDram (m : Mem) (i' : Nat) : (s.setDram m).mapEntry i' = s.mapEntry i' := rfl
@[simp] theorem obj_of_setDram (m : Mem) (i' j' : Nat) : (s.setDram m).obj i' j' = s.obj i' j' := rfl
@[simp] theorem clPart_of_setDram (m : Mem) (cl' : Cl) : (s.setDram m).clPart cl' = s.clPart cl' := rfl

@[simp] theorem core_of_send (k : Packet) (cl' : Cl) (c' : Cn) : (s.send k).core cl' c' = s.core cl' c' := rfl
@[simp] theorem stew_of_send (k : Packet) (cl' : Cl) : (s.send k).stew cl' = s.stew cl' := rfl
@[simp] theorem clu_of_send (k : Packet) (cl' : Cl) : (s.send k).clu cl' = s.clu cl' := rfl
@[simp] theorem ring_of_send (k : Packet) (cl' : Cl) (n' : Nat) : (s.send k).ring cl' n' = s.ring cl' n' := rfl
@[simp] theorem ctr_of_send (k : Packet) (n' : Nat) : (s.send k).ctr n' = s.ctr n' := rfl
@[simp] theorem acct_of_send (k : Packet) (a' : Nat) : (s.send k).acct a' = s.acct a' := rfl
@[simp] theorem part_of_send (k : Packet) (p' : Nat) : (s.send k).part p' = s.part p' := rfl
@[simp] theorem fn_of_send (k : Packet) (f' : Nat) : (s.send k).fn f' = s.fn f' := rfl
@[simp] theorem sema_of_send (k : Packet) (k' : Nat) : (s.send k).sema k' = s.sema k' := rfl
@[simp] theorem link_of_send (k : Packet) (l' : Nat) : (s.send k).link l' = s.link l' := rfl
@[simp] theorem sport_of_send (k : Packet) (k' : Nat) : (s.send k).sport k' = s.sport k' := rfl
@[simp] theorem phy_of_send (k : Packet) (i' : Nat) : (s.send k).phy i' = s.phy i' := rfl
@[simp] theorem mapEntry_of_send (k : Packet) (i' : Nat) : (s.send k).mapEntry i' = s.mapEntry i' := rfl
@[simp] theorem obj_of_send (k : Packet) (i' j' : Nat) : (s.send k).obj i' j' = s.obj i' j' := rfl
@[simp] theorem clPart_of_send (k : Packet) (cl' : Cl) : (s.send k).clPart cl' = s.clPart cl' := rfl

@[simp] theorem core_of_raise (e : ErrIn) (sc : Scope) (cl' : Cl) (c' : Cn) : (s.raise e sc).core cl' c' = s.core cl' c' := rfl
@[simp] theorem stew_of_raise (e : ErrIn) (sc : Scope) (cl' : Cl) : (s.raise e sc).stew cl' = s.stew cl' := rfl
@[simp] theorem clu_of_raise (e : ErrIn) (sc : Scope) (cl' : Cl) : (s.raise e sc).clu cl' = s.clu cl' := rfl
@[simp] theorem ring_of_raise (e : ErrIn) (sc : Scope) (cl' : Cl) (n' : Nat) : (s.raise e sc).ring cl' n' = s.ring cl' n' := rfl
@[simp] theorem ctr_of_raise (e : ErrIn) (sc : Scope) (n' : Nat) : (s.raise e sc).ctr n' = s.ctr n' := rfl
@[simp] theorem acct_of_raise (e : ErrIn) (sc : Scope) (a' : Nat) : (s.raise e sc).acct a' = s.acct a' := rfl
@[simp] theorem part_of_raise (e : ErrIn) (sc : Scope) (p' : Nat) : (s.raise e sc).part p' = s.part p' := rfl
@[simp] theorem fn_of_raise (e : ErrIn) (sc : Scope) (f' : Nat) : (s.raise e sc).fn f' = s.fn f' := rfl
@[simp] theorem sema_of_raise (e : ErrIn) (sc : Scope) (k' : Nat) : (s.raise e sc).sema k' = s.sema k' := rfl
@[simp] theorem link_of_raise (e : ErrIn) (sc : Scope) (l' : Nat) : (s.raise e sc).link l' = s.link l' := rfl
@[simp] theorem sport_of_raise (e : ErrIn) (sc : Scope) (k' : Nat) : (s.raise e sc).sport k' = s.sport k' := rfl
@[simp] theorem phy_of_raise (e : ErrIn) (sc : Scope) (i' : Nat) : (s.raise e sc).phy i' = s.phy i' := rfl
@[simp] theorem mapEntry_of_raise (e : ErrIn) (sc : Scope) (i' : Nat) : (s.raise e sc).mapEntry i' = s.mapEntry i' := rfl
@[simp] theorem obj_of_raise (e : ErrIn) (sc : Scope) (i' j' : Nat) : (s.raise e sc).obj i' j' = s.obj i' j' := rfl
@[simp] theorem clPart_of_raise (e : ErrIn) (sc : Scope) (cl' : Cl) : (s.raise e sc).clPart cl' = s.clPart cl' := rfl

@[simp] theorem core_of_logRec (r : Nat) (cl' : Cl) (c' : Cn) : (s.logRec r).core cl' c' = s.core cl' c' := rfl
@[simp] theorem stew_of_logRec (r : Nat) (cl' : Cl) : (s.logRec r).stew cl' = s.stew cl' := rfl
@[simp] theorem clu_of_logRec (r : Nat) (cl' : Cl) : (s.logRec r).clu cl' = s.clu cl' := rfl
@[simp] theorem ring_of_logRec (r : Nat) (cl' : Cl) (n' : Nat) : (s.logRec r).ring cl' n' = s.ring cl' n' := rfl
@[simp] theorem ctr_of_logRec (r : Nat) (n' : Nat) : (s.logRec r).ctr n' = s.ctr n' := rfl
@[simp] theorem acct_of_logRec (r : Nat) (a' : Nat) : (s.logRec r).acct a' = s.acct a' := rfl
@[simp] theorem part_of_logRec (r : Nat) (p' : Nat) : (s.logRec r).part p' = s.part p' := rfl
@[simp] theorem fn_of_logRec (r : Nat) (f' : Nat) : (s.logRec r).fn f' = s.fn f' := rfl
@[simp] theorem sema_of_logRec (r : Nat) (k' : Nat) : (s.logRec r).sema k' = s.sema k' := rfl
@[simp] theorem link_of_logRec (r : Nat) (l' : Nat) : (s.logRec r).link l' = s.link l' := rfl
@[simp] theorem sport_of_logRec (r : Nat) (k' : Nat) : (s.logRec r).sport k' = s.sport k' := rfl
@[simp] theorem phy_of_logRec (r : Nat) (i' : Nat) : (s.logRec r).phy i' = s.phy i' := rfl
@[simp] theorem mapEntry_of_logRec (r : Nat) (i' : Nat) : (s.logRec r).mapEntry i' = s.mapEntry i' := rfl
@[simp] theorem obj_of_logRec (r : Nat) (i' j' : Nat) : (s.logRec r).obj i' j' = s.obj i' j' := rfl
@[simp] theorem clPart_of_logRec (r : Nat) (cl' : Cl) : (s.logRec r).clPart cl' = s.clPart cl' := rfl

@[simp] theorem core_of_logEvent (type part unit step detail aux : Nat) (cl' : Cl) (c' : Cn) : (s.logEvent type part unit step detail aux).core cl' c' = s.core cl' c' := rfl
@[simp] theorem stew_of_logEvent (type part unit step detail aux : Nat) (cl' : Cl) : (s.logEvent type part unit step detail aux).stew cl' = s.stew cl' := rfl
@[simp] theorem clu_of_logEvent (type part unit step detail aux : Nat) (cl' : Cl) : (s.logEvent type part unit step detail aux).clu cl' = s.clu cl' := rfl
@[simp] theorem ring_of_logEvent (type part unit step detail aux : Nat) (cl' : Cl) (n' : Nat) : (s.logEvent type part unit step detail aux).ring cl' n' = s.ring cl' n' := rfl
@[simp] theorem ctr_of_logEvent (type part unit step detail aux : Nat) (n' : Nat) : (s.logEvent type part unit step detail aux).ctr n' = s.ctr n' := rfl
@[simp] theorem acct_of_logEvent (type part unit step detail aux : Nat) (a' : Nat) : (s.logEvent type part unit step detail aux).acct a' = s.acct a' := rfl
@[simp] theorem part_of_logEvent (type part unit step detail aux : Nat) (p' : Nat) : (s.logEvent type part unit step detail aux).part p' = s.part p' := rfl
@[simp] theorem fn_of_logEvent (type part unit step detail aux : Nat) (f' : Nat) : (s.logEvent type part unit step detail aux).fn f' = s.fn f' := rfl
@[simp] theorem sema_of_logEvent (type part unit step detail aux : Nat) (k' : Nat) : (s.logEvent type part unit step detail aux).sema k' = s.sema k' := rfl
@[simp] theorem link_of_logEvent (type part unit step detail aux : Nat) (l' : Nat) : (s.logEvent type part unit step detail aux).link l' = s.link l' := rfl
@[simp] theorem sport_of_logEvent (type part unit step detail aux : Nat) (k' : Nat) : (s.logEvent type part unit step detail aux).sport k' = s.sport k' := rfl
@[simp] theorem phy_of_logEvent (type part unit step detail aux : Nat) (i' : Nat) : (s.logEvent type part unit step detail aux).phy i' = s.phy i' := rfl
@[simp] theorem mapEntry_of_logEvent (type part unit step detail aux : Nat) (i' : Nat) : (s.logEvent type part unit step detail aux).mapEntry i' = s.mapEntry i' := rfl
@[simp] theorem obj_of_logEvent (type part unit step detail aux : Nat) (i' j' : Nat) : (s.logEvent type part unit step detail aux).obj i' j' = s.obj i' j' := rfl
@[simp] theorem clPart_of_logEvent (type part unit step detail aux : Nat) (cl' : Cl) : (s.logEvent type part unit step detail aux).clPart cl' = s.clPart cl' := rfl

@[simp] theorem core_of_refusal (unit part addr status : Nat) (cl' : Cl) (c' : Cn) : (s.refusal unit part addr status).core cl' c' = s.core cl' c' := rfl
@[simp] theorem stew_of_refusal (unit part addr status : Nat) (cl' : Cl) : (s.refusal unit part addr status).stew cl' = s.stew cl' := rfl
@[simp] theorem clu_of_refusal (unit part addr status : Nat) (cl' : Cl) : (s.refusal unit part addr status).clu cl' = s.clu cl' := rfl
@[simp] theorem ring_of_refusal (unit part addr status : Nat) (cl' : Cl) (n' : Nat) : (s.refusal unit part addr status).ring cl' n' = s.ring cl' n' := rfl
@[simp] theorem ctr_of_refusal (unit part addr status : Nat) (n' : Nat) : (s.refusal unit part addr status).ctr n' = s.ctr n' := rfl
@[simp] theorem acct_of_refusal (unit part addr status : Nat) (a' : Nat) : (s.refusal unit part addr status).acct a' = s.acct a' := rfl
@[simp] theorem part_of_refusal (unit part addr status : Nat) (p' : Nat) : (s.refusal unit part addr status).part p' = s.part p' := rfl
@[simp] theorem fn_of_refusal (unit part addr status : Nat) (f' : Nat) : (s.refusal unit part addr status).fn f' = s.fn f' := rfl
@[simp] theorem sema_of_refusal (unit part addr status : Nat) (k' : Nat) : (s.refusal unit part addr status).sema k' = s.sema k' := rfl
@[simp] theorem link_of_refusal (unit part addr status : Nat) (l' : Nat) : (s.refusal unit part addr status).link l' = s.link l' := rfl
@[simp] theorem sport_of_refusal (unit part addr status : Nat) (k' : Nat) : (s.refusal unit part addr status).sport k' = s.sport k' := rfl
@[simp] theorem phy_of_refusal (unit part addr status : Nat) (i' : Nat) : (s.refusal unit part addr status).phy i' = s.phy i' := rfl
@[simp] theorem mapEntry_of_refusal (unit part addr status : Nat) (i' : Nat) : (s.refusal unit part addr status).mapEntry i' = s.mapEntry i' := rfl
@[simp] theorem obj_of_refusal (unit part addr status : Nat) (i' j' : Nat) : (s.refusal unit part addr status).obj i' j' = s.obj i' j' := rfl
@[simp] theorem clPart_of_refusal (unit part addr status : Nat) (cl' : Cl) : (s.refusal unit part addr status).clPart cl' = s.clPart cl' := rfl

@[simp] theorem core_of_pushEv (cl : Cl) (r : BitVec 512) (cl' : Cl) (c' : Cn) : (s.pushEv cl r).core cl' c' = s.core cl' c' := rfl
@[simp] theorem clu_of_pushEv (cl : Cl) (r : BitVec 512) (cl' : Cl) : (s.pushEv cl r).clu cl' = s.clu cl' := rfl
@[simp] theorem ring_of_pushEv (cl : Cl) (r : BitVec 512) (cl' : Cl) (n' : Nat) : (s.pushEv cl r).ring cl' n' = s.ring cl' n' := rfl
@[simp] theorem ctr_of_pushEv (cl : Cl) (r : BitVec 512) (n' : Nat) : (s.pushEv cl r).ctr n' = s.ctr n' := rfl
@[simp] theorem acct_of_pushEv (cl : Cl) (r : BitVec 512) (a' : Nat) : (s.pushEv cl r).acct a' = s.acct a' := rfl
@[simp] theorem part_of_pushEv (cl : Cl) (r : BitVec 512) (p' : Nat) : (s.pushEv cl r).part p' = s.part p' := rfl
@[simp] theorem fn_of_pushEv (cl : Cl) (r : BitVec 512) (f' : Nat) : (s.pushEv cl r).fn f' = s.fn f' := rfl
@[simp] theorem sema_of_pushEv (cl : Cl) (r : BitVec 512) (k' : Nat) : (s.pushEv cl r).sema k' = s.sema k' := rfl
@[simp] theorem link_of_pushEv (cl : Cl) (r : BitVec 512) (l' : Nat) : (s.pushEv cl r).link l' = s.link l' := rfl
@[simp] theorem sport_of_pushEv (cl : Cl) (r : BitVec 512) (k' : Nat) : (s.pushEv cl r).sport k' = s.sport k' := rfl
@[simp] theorem phy_of_pushEv (cl : Cl) (r : BitVec 512) (i' : Nat) : (s.pushEv cl r).phy i' = s.phy i' := rfl
@[simp] theorem mapEntry_of_pushEv (cl : Cl) (r : BitVec 512) (i' : Nat) : (s.pushEv cl r).mapEntry i' = s.mapEntry i' := rfl
@[simp] theorem obj_of_pushEv (cl : Cl) (r : BitVec 512) (i' j' : Nat) : (s.pushEv cl r).obj i' j' = s.obj i' j' := rfl
@[simp] theorem clPart_of_pushEv (cl : Cl) (r : BitVec 512) (cl' : Cl) : (s.pushEv cl r).clPart cl' = s.clPart cl' := rfl

@[simp] theorem core_of_fnEvent (f : Nat) (r : Rec) (cl' : Cl) (c' : Cn) : (s.fnEvent f r).core cl' c' = s.core cl' c' := rfl
@[simp] theorem stew_of_fnEvent (f : Nat) (r : Rec) (cl' : Cl) : (s.fnEvent f r).stew cl' = s.stew cl' := rfl
@[simp] theorem clu_of_fnEvent (f : Nat) (r : Rec) (cl' : Cl) : (s.fnEvent f r).clu cl' = s.clu cl' := rfl
@[simp] theorem ring_of_fnEvent (f : Nat) (r : Rec) (cl' : Cl) (n' : Nat) : (s.fnEvent f r).ring cl' n' = s.ring cl' n' := rfl
@[simp] theorem ctr_of_fnEvent (f : Nat) (r : Rec) (n' : Nat) : (s.fnEvent f r).ctr n' = s.ctr n' := rfl
@[simp] theorem acct_of_fnEvent (f : Nat) (r : Rec) (a' : Nat) : (s.fnEvent f r).acct a' = s.acct a' := rfl
@[simp] theorem part_of_fnEvent (f : Nat) (r : Rec) (p' : Nat) : (s.fnEvent f r).part p' = s.part p' := rfl
@[simp] theorem sema_of_fnEvent (f : Nat) (r : Rec) (k' : Nat) : (s.fnEvent f r).sema k' = s.sema k' := rfl
@[simp] theorem link_of_fnEvent (f : Nat) (r : Rec) (l' : Nat) : (s.fnEvent f r).link l' = s.link l' := rfl
@[simp] theorem sport_of_fnEvent (f : Nat) (r : Rec) (k' : Nat) : (s.fnEvent f r).sport k' = s.sport k' := rfl
@[simp] theorem phy_of_fnEvent (f : Nat) (r : Rec) (i' : Nat) : (s.fnEvent f r).phy i' = s.phy i' := rfl
@[simp] theorem mapEntry_of_fnEvent (f : Nat) (r : Rec) (i' : Nat) : (s.fnEvent f r).mapEntry i' = s.mapEntry i' := rfl
@[simp] theorem obj_of_fnEvent (f : Nat) (r : Rec) (i' j' : Nat) : (s.fnEvent f r).obj i' j' = s.obj i' j' := rfl
@[simp] theorem clPart_of_fnEvent (f : Nat) (r : Rec) (cl' : Cl) : (s.fnEvent f r).clPart cl' = s.clPart cl' := rfl

@[simp] theorem core_of_fresh (cl : Cl) (c : Cn) : s.fresh.2.core cl c = s.core cl c := rfl
@[simp] theorem stew_of_fresh (cl : Cl) : s.fresh.2.stew cl = s.stew cl := rfl
@[simp] theorem clu_of_fresh (cl : Cl) : s.fresh.2.clu cl = s.clu cl := rfl
@[simp] theorem ring_of_fresh (cl : Cl) (n : Nat) : s.fresh.2.ring cl n = s.ring cl n := rfl
@[simp] theorem ctr_of_fresh (n : Nat) : s.fresh.2.ctr n = s.ctr n := rfl
@[simp] theorem acct_of_fresh (a : Nat) : s.fresh.2.acct a = s.acct a := rfl
@[simp] theorem part_of_fresh (p : Nat) : s.fresh.2.part p = s.part p := rfl
@[simp] theorem fn_of_fresh (f : Nat) : s.fresh.2.fn f = s.fn f := rfl
@[simp] theorem sema_of_fresh (k : Nat) : s.fresh.2.sema k = s.sema k := rfl
@[simp] theorem link_of_fresh (l : Nat) : s.fresh.2.link l = s.link l := rfl
@[simp] theorem sport_of_fresh (k : Nat) : s.fresh.2.sport k = s.sport k := rfl
@[simp] theorem phy_of_fresh (i : Nat) : s.fresh.2.phy i = s.phy i := rfl
@[simp] theorem mapEntry_of_fresh (i : Nat) : s.fresh.2.mapEntry i = s.mapEntry i := rfl
@[simp] theorem obj_of_fresh (i j : Nat) : s.fresh.2.obj i j = s.obj i j := rfl
@[simp] theorem clPart_of_fresh (cl : Cl) : s.fresh.2.clPart cl = s.clPart cl := rfl

/-- What an object reads back as after a write. -/
@[simp] theorem obj_setObj (idx sub v : Nat) : (s.setObj idx sub v).obj idx sub = v := by
  unfold obj setObj
  split
  · rename_i h; simp [find_del_same, h]
  · simp [find_ins_same]

theorem obj_setObj_ne (idx sub v : Nat) {i j : Nat} (h : 256 * i + j ≠ 256 * idx + sub) :
    (s.setObj idx sub v).obj i j = s.obj i j := by
  unfold obj setObj
  split
  · simp [find_del_ne _ h]
  · simp [find_ins_ne _ _ h]

end State

end Sys2Proof.Machine
end

