-- ==== Sys2Proof/Laws/Issue.lean ====
section
/-! SUPPORT. What an issue, a register write and an advance do, once for every instruction. -/

namespace Sys2Proof.Machine

open Sys2Proof

/-- A ready instruction with operands in range runs its own action, on the state as it is. -/
theorem issue_ready {s : State} {w : At} {i : Instr} {k : Issuer} {oks : List Bool} (run : State → State)
    (h : s.readyFor w i k = true) (hok : firstBad oks 0 = none) : s.issue w i k oks run = run s := by
  unfold State.readyFor at h
  simp only [Bool.and_eq_true] at h
  obtain ⟨⟨⟨h1, h2⟩, h3⟩, h4⟩ := h
  have hb : s.bpStops w = false ∧ s.bpPass w = s := by
    unfold State.bpStops State.bpPass
    cases hw : w.who with
    | core c => simp
    | steward =>
      rw [hw] at h4
      have hn : s.bpFor w.cl w.ia = none := by simpa using h4
      rw [hn]
      simp
  unfold State.issue
  simp only [h1, h2, hb.1, hb.2, h3, hok, Bool.not_true, Bool.or_false, Bool.false_eq_true, if_false]

/-- A ready instruction whose meaning is an issue is done, with what its own action leaves. -/
theorem done_issue {c : Instr} {s : State} {post : State → Prop} {w : At} {k : Issuer} {oks : List Bool}
    {run : State → State} (hx : exec c s = .next (s.issue w c k oks run)) (h : s.readyFor w c k = true)
    (hok : firstBad oks 0 = none) (hp : post (run s)) : Done c s post :=
  ⟨run s, by rw [hx, issue_ready run h hok], hp⟩

/-- An instruction with a bad operand, ready otherwise, faults at that operand. -/
theorem issue_bad {s : State} {w : At} {i : Instr} {k : Issuer} {oks : List Bool} (run : State → State) {n : Nat}
    (h : s.readyFor w i k = true) (hok : firstBad oks 0 = some n) : s.issue w i k oks run = s.instrFault w i n := by
  unfold State.readyFor at h
  simp only [Bool.and_eq_true] at h
  obtain ⟨⟨⟨h1, h2⟩, h3⟩, h4⟩ := h
  have hb : s.bpStops w = false ∧ s.bpPass w = s := by
    unfold State.bpStops State.bpPass
    cases hw : w.who with
    | core c => simp
    | steward =>
      rw [hw] at h4
      have hn : s.bpFor w.cl w.ia = none := by simpa using h4
      rw [hn]
      simp
  unfold State.issue
  simp only [h1, h2, hb.1, hb.2, h3, hok, Bool.not_true, Bool.or_false, Bool.false_eq_true, if_false]

theorem look_put_reg (m : SMap Word) (n j : Nat) (v : Word) : look 0 (put 0 m n v) j = if j = n then v else look 0 m j :=
  look_put 0 m n j v

/-- A core's registers after a write; s0 is never written. -/
theorem Core.reg_setReg (k : Core) (n j : Nat) (v : Word) :
    (k.setReg n v).reg j = if j = n ∧ n ≠ 0 then v else k.reg j := by
  unfold Core.reg Core.setReg
  by_cases hn : n = 0
  · simp [hn]
  · by_cases hj : j = 0
    · simp [hj, hn, Ne.symm hn]
    · simp [hn, hj, look_put]

theorem Steward.reg_setReg (k : Steward) (n j : Nat) (v : Word) :
    (k.setReg n v).reg j = if j = n ∧ n ≠ 0 then v else k.reg j := by
  unfold Steward.reg Steward.setReg
  by_cases hn : n = 0
  · simp [hn]
  · by_cases hj : j = 0
    · simp [hj, hn, Ne.symm hn]
    · simp [hn, hj, look_put]

/-- The registers of an issue's sequencer after a write. -/
theorem reg_setReg (s : State) (w : At) (n j : Nat) (v : Word) :
    (s.setReg w n v).reg w j = if j = n ∧ n ≠ 0 then v else s.reg w j := by
  unfold State.reg State.setReg
  cases w.who with
  | core c => simp [Core.reg_setReg]
  | steward => simp [Steward.reg_setReg]

/-- An advance changes no register. -/
theorem reg_advance (s : State) (w : At) (npc : Option Nat) (cyc j : Nat) : (s.advance w npc cyc).reg w j = s.reg w j := by
  unfold State.reg State.advance
  cases w.who with
  | core c => simp [Core.reg]
  | steward => simp [Steward.reg]

theorem issued_advance (s : State) (w : At) (npc : Option Nat) (cyc : Nat) : Issued w (s.advance w npc cyc) npc := by
  unfold Issued State.npcOf State.holdOf State.advance
  cases w.who with
  | core c => simp
  | steward => simp

theorem onlySequencer_setReg (s : State) (w : At) (n : Nat) (v : Word) : OnlySequencer w s (s.setReg w n v) := by
  unfold State.setReg
  cases hw : w.who with
  | core c =>
    refine ⟨rfl, ?_, ?_, ?_⟩
    · intro cl c'
      refine ⟨?_, ?_⟩
      · rintro ⟨rfl, h⟩
        rw [hw] at h
        injection h with h
        subst h
        simp only [State.core_setCore]
        unfold sameButIssue Core.setReg
        split <;> rfl
      · intro h
        rw [State.core_setCore_if, if_neg]
        rintro ⟨rfl, rfl⟩
        exact h ⟨rfl, hw⟩
    · intro cl
      refine ⟨?_, ?_⟩
      · rintro ⟨_, h⟩; rw [hw] at h; cases h
      · intro _; rfl
    · intro cl; rfl
  | steward =>
    refine ⟨rfl, ?_, ?_, ?_⟩
    · intro cl c'
      refine ⟨?_, ?_⟩
      · rintro ⟨_, h⟩; rw [hw] at h; cases h
      · intro _; rfl
    · intro cl
      refine ⟨?_, ?_⟩
      · rintro ⟨rfl, _⟩
        simp only [State.stew_setStew]
        unfold sameButIssueSt Steward.setReg
        split <;> rfl
      · intro h
        rw [State.stew_setStew_if, if_neg]
        rintro rfl
        exact h ⟨rfl, hw⟩
    · intro cl; rfl

theorem onlySequencer_advance (s : State) (w : At) (npc : Option Nat) (cyc : Nat) : OnlySequencer w s (s.advance w npc cyc) := by
  unfold State.advance
  cases hw : w.who with
  | core c =>
    refine ⟨rfl, ?_, ?_, ?_⟩
    · intro cl c'
      refine ⟨?_, ?_⟩
      · rintro ⟨rfl, h⟩
        rw [hw] at h
        injection h with h
        subst h
        simp only [State.core_setCore]
        rfl
      · intro h
        rw [State.core_setCore_if, if_neg]
        rintro ⟨rfl, rfl⟩
        exact h ⟨rfl, hw⟩
    · intro cl
      refine ⟨?_, ?_⟩
      · rintro ⟨_, h⟩; rw [hw] at h; cases h
      · intro _; rfl
    · intro cl; rfl
  | steward =>
    refine ⟨rfl, ?_, ?_, ?_⟩
    · intro cl c'
      refine ⟨?_, ?_⟩
      · rintro ⟨_, h⟩; rw [hw] at h; cases h
      · intro _; rfl
    · intro cl
      refine ⟨?_, ?_⟩
      · rintro ⟨rfl, _⟩
        simp only [State.stew_of_setClu, State.stew_setStew]
        rfl
      · intro h
        simp only [State.stew_of_setClu]
        rw [State.stew_setStew_if, if_neg]
        rintro rfl
        exact h ⟨rfl, hw⟩
    · intro cl
      rw [State.clu_setClu_if]
      split
      · rename_i h; subst h; rfl
      · rfl

theorem onlySequencer_trans {w : At} {s t u : State} (h : OnlySequencer w s t) (k : OnlySequencer w t u) :
    OnlySequencer w s u := by
  obtain ⟨h1, h2, h3, h4⟩ := h
  obtain ⟨k1, k2, k3, k4⟩ := k
  refine ⟨?_, ?_, ?_, ?_⟩
  · unfold OnlyClusters at *; rw [k1, h1]
  · intro cl c
    refine ⟨fun h => ?_, fun h => ((k2 cl c).2 h).trans ((h2 cl c).2 h)⟩
    have a := (h2 cl c).1 h
    have b := (k2 cl c).1 h
    unfold sameButIssue at *
    rw [b, a]
  · intro cl
    refine ⟨fun h => ?_, fun h => ((k3 cl).2 h).trans ((h3 cl).2 h)⟩
    have a := (h3 cl).1 h
    have b := (k3 cl).1 h
    unfold sameButIssueSt at *
    rw [b, a]
  · intro cl
    have a := h4 cl
    have b := k4 cl
    unfold sameButIcache at *
    rw [b, a]

/-- A scalar result: register, issue and frame. -/
theorem result_spec (s : State) (w : At) (sd : Nat) (v : Word) : Result w s (s.result w sd v) sd v := by
  refine ⟨?_, issued_advance _ _ _ _, onlySequencer_trans (onlySequencer_setReg s w sd v) (onlySequencer_advance _ w none 1)⟩
  intro n
  unfold State.result State.next1
  rw [reg_advance, reg_setReg]

/-- An instruction without a result: issue and frame. -/
theorem advance_spec (s : State) (w : At) (npc : Option Nat) (cyc : Nat) : Passed w s (s.advance w npc cyc) npc :=
  ⟨fun n => reg_advance s w npc cyc n, issued_advance _ _ _ _, onlySequencer_advance s w npc cyc⟩

end Sys2Proof.Machine
end

