-- ==== Sys2Proof/Laws/Memory.lean ====
section
/-! SUPPORT. Every operation over bytes under the word code keeps the canonical form. -/

namespace Sys2Proof.Machine

open Sys2Proof

namespace Mem

theorem wf_iff (m : Mem) : m.wf = true ↔ canon (0 : Byte) m.bytes = true ∧ canon (0 : BitVec 16) m.syn = true := by
  simp [wf]

theorem empty_wf : Mem.empty.wf = true := rfl

/-- Reading a byte that has just been stored, and every other byte. -/
theorem raw_setRaw (m : Mem) (a a' : Nat) (b : Byte) : (m.setRaw a b).raw a' = if a' = a then b else m.raw a' :=
  look_put 0 m.bytes a a' b

@[simp] theorem synAt_setRaw (m : Mem) (a w : Nat) (b : Byte) : (m.setRaw a b).synAt w = m.synAt w := rfl
@[simp] theorem raw_setSyn (m : Mem) (w a : Nat) (x : BitVec 16) : (m.setSyn w x).raw a = m.raw a := rfl

theorem synAt_setSyn (m : Mem) (w w' : Nat) (x : BitVec 16) :
    (m.setSyn w x).synAt w' = if w' = w then x else m.synAt w' := look_put 0 m.syn w w' x

theorem setRaw_wf {m : Mem} (a : Nat) (b : Byte) (h : m.wf = true) : (m.setRaw a b).wf = true := by
  rw [wf_iff] at *
  exact ⟨canon_put 0 m.bytes a b h.1, h.2⟩

theorem setSyn_wf {m : Mem} (w : Nat) (x : BitVec 16) (h : m.wf = true) : (m.setSyn w x).wf = true := by
  rw [wf_iff] at *
  exact ⟨h.1, canon_put 0 m.syn w x h.2⟩

theorem setRaws_wf (bs : List Byte) {m : Mem} (a : Nat) (h : m.wf = true) : (m.setRaws a bs).wf = true := by
  induction bs generalizing m a with
  | nil => exact h
  | cons b t ih => exact ih (a + 1) (setRaw_wf a b h)

theorem poisonWord_wf {m : Mem} (w : Nat) (h : m.wf = true) : (m.poisonWord w).wf = true :=
  setSyn_wf _ _ (setRaws_wf _ _ h)

theorem poison_wf {m : Mem} (a n : Nat) (h : m.wf = true) : (m.poison a n).wf = true :=
  foldl_inv (p := fun m : Mem => m.wf = true) _ _ h fun _ w _ hb => poisonWord_wf w hb

theorem settleBad_wf {m : Mem} (a n : Nat) (h : m.wf = true) : (m.settleBad a n).wf = true :=
  foldl_inv (p := fun m : Mem => m.wf = true) _ _ h fun _ w _ hb => by
    split
    · exact poisonWord_wf w hb
    · exact hb

theorem fixWord_wf {m : Mem} (w : Nat) (h : m.wf = true) : (m.fixWord w).wf = true := by
  unfold fixWord
  split
  · exact setSyn_wf _ _ (setRaws_wf _ _ h)
  · exact h

theorem mergeWord_wf {m : Mem} (w : Nat) (bs : List (Option Byte)) (h : m.wf = true) : (m.mergeWord w bs).wf = true := by
  have store {m : Mem} (h : m.wf = true) : ((List.range 16).foldl (fun m i => match bs[i]? with
        | some (some b) => m.setRaw (16 * w + i) b
        | _ => m) m).wf = true :=
    foldl_inv (p := fun m : Mem => m.wf = true) _ _ h fun m i _ hb => by
      split
      · exact setRaw_wf _ _ hb
      · exact hb
  unfold mergeWord
  split
  · exact h
  · dsimp only
    split
    · exact setSyn_wf _ _ (store h)
    · split
      · exact store h
      · exact store (fixWord_wf w h)
      · exact poisonWord_wf w h

theorem writeOpt_wf {m : Mem} (a : Nat) (bs : List (Option Byte)) (h : m.wf = true) : (m.writeOpt a bs).wf = true :=
  foldl_inv (p := fun m : Mem => m.wf = true) _ _ h fun _ w _ hb => mergeWord_wf w _ hb

theorem write_wf {m : Mem} (a : Nat) (bs : List Byte) (h : m.wf = true) : (m.write a bs).wf = true := writeOpt_wf a _ h

theorem writeP_wf {m : Mem} (a : Nat) (bs : List Byte) (p : Bool) (h : m.wf = true) : (m.writeP a bs p).wf = true := by
  unfold writeP
  split
  · exact poison_wf a _ h
  · exact write_wf a bs h

theorem copyFrom_wf {m : Mem} (src : Mem) (a b n : Nat) (h : m.wf = true) : (m.copyFrom src a b n).wf = true :=
  foldl_inv (p := fun m : Mem => m.wf = true) _ _ h fun _ _ _ hb => writeP_wf _ _ _ hb

end Mem

end Sys2Proof.Machine
end

