-- ==== Sys2Proof/Laws/Lines.lean ====
section
/-! SUPPORT. What a request to memory touches: permission checks, channels and cluster caches. -/

namespace Sys2Proof.Machine

open Sys2Proof

/-- A fold whose steps touch only the management processor touches only that. -/
theorem foldl_mgmt {α : Type} (l : List α) (f : State → α → State)
    (hf : ∀ s a, f s a = { s with mgmt := (f s a).mgmt }) (s : State) : l.foldl f s = { s with mgmt := (l.foldl f s).mgmt } := by
  induction l generalizing s with
  | nil => rfl
  | cons a t ih =>
    simp only [List.foldl_cons]
    have h1 := ih (f s a)
    have h2 := hf s a
    generalize f s a = u at *
    rw [h1, h2]

/-- Reports of words found touch only the management processor. -/
theorem wordErrors_only (s : State) (m : Mem) (key a n source unit part cls : Nat) :
    s.wordErrors m key a n source unit part cls = { s with mgmt := (s.wordErrors m key a n source unit part cls).mgmt } := by
  unfold State.wordErrors
  apply foldl_mgmt
  intro s w
  dsimp only
  split <;> rfl

/-- A state that differs from another only in clusters, DRAM and the management processor is as a request to memory leaves it. -/
theorem OnlyMemory.of {s t : State} (h : t = { s with clusters := t.clusters, dram := t.dram, mgmt := t.mgmt }) : OnlyMemory s t := by
  rw [h]; exact ⟨rfl, fun _ _ => rfl⟩

theorem OnlyMemory.refl (s : State) : OnlyMemory s s := ⟨rfl, fun _ _ => rfl⟩

theorem OnlyMemory.trans {s t u : State} (h : OnlyMemory s t) (k : OnlyMemory t u) : OnlyMemory s u := by
  refine ⟨by rw [k.1, h.1], fun cl n => ?_⟩
  rw [k.2 cl n, h.2 cl n]

theorem OnlyMemory.setClu (s : State) (cl : Cl) (v : Cluster) : OnlyMemory s (s.setClu cl v) := .of rfl
theorem OnlyMemory.setDram (s : State) (m : Mem) : OnlyMemory s (s.setDram m) := .of rfl
theorem OnlyMemory.dram (s : State) (d : DramSt) : OnlyMemory s { s with dram := d } := .of rfl

theorem OnlyMemory.setScrubber (s : State) (ch : Nat) (v : Scrub) : OnlyMemory s (s.setScrubber ch v) := .of rfl

theorem OnlyMemory.wtOut (s : State) (cl : Cl) (n : Rn) (x : List Nat) :
    OnlyMemory s (s.setRing cl n.val { s.ring cl n.val with wtOut := x }) := by
  refine ⟨rfl, fun cl' n' => ?_⟩
  rw [State.ring_setRing_if s cl cl' n.isLt n'.isLt]
  split
  · rename_i e; rw [e.1, e.2]
  · rfl

theorem OnlyMemory.wordErrors (s : State) (m : Mem) (key a n source unit part cls : Nat) :
    OnlyMemory s (s.wordErrors m key a n source unit part cls) := by
  have h := wordErrors_only s m key a n source unit part cls
  generalize s.wordErrors m key a n source unit part cls = t at h ⊢
  rw [h]; exact .of rfl

theorem OnlyMemory.foldl {α : Type} (l : List α) (f : State → α → State) (hf : ∀ s a, OnlyMemory s (f s a)) (s : State) :
    OnlyMemory s (l.foldl f s) := by
  induction l generalizing s with
  | nil => exact .refl s
  | cons a t ih => exact (hf s a).trans (ih (f s a))

theorem OnlyMemory.ite {s t u : State} {c : Prop} [Decidable c] (h : OnlyMemory s t) (k : OnlyMemory s u) :
    OnlyMemory s (if c then t else u) := by split <;> assumption

theorem permUse_only (s : State) (cl : Cl) (page : Nat) : OnlyMemory s (s.permUse cl page).1 := by
  unfold State.permUse
  dsimp only
  split
  · exact .refl _
  · exact OnlyMemory.setClu _ _ _

theorem reqStatus_only (s : State) (cl : Cl) (a : Nat) (w : Bool) : OnlyMemory s (s.reqStatus cl a w).1 := by
  unfold State.reqStatus
  split
  · exact .refl _
  · exact permUse_only _ _ _

theorem note_only (s : State) (l : Nat) : OnlyMemory s (s.note l) := by
  unfold State.note
  dsimp only
  exact .ite (.dram _ _) (.refl _)

theorem chanRead_only (s : State) (a n part cls : Nat) : OnlyMemory s (s.chanRead a n part cls).1 := by
  unfold State.chanRead
  dsimp only
  split
  · exact .refl _
  split
  · exact .refl _
  have h := OnlyMemory.wordErrors s s.dram.mem (s.phys a) a n 1 (chanUnit (s.phys a)) part cls
  have h2 := OnlyMemory.ite (c := s.dram.mem.anyBad (s.phys a) n = true) (h.trans (.setDram _ (s.dram.mem.settleBad (s.phys a) n))) h
  exact .ite (h2.trans (note_only _ _)) h2

theorem chanWrite_only (s : State) (src : Mem) (line : Nat) (mask : BitVec 128) : OnlyMemory s (s.chanWrite src line mask) := by
  unfold State.chanWrite
  refine (OnlyMemory.foldl _ _ ?_ s).trans ((OnlyMemory.setDram _ _).trans (note_only _ _))
  intro s w
  exact .ite (.refl _) (.wordErrors _ _ _ _ _ _ _ _ _)

theorem chanTake_only (s : State) (src : Mem) (line : Nat) (mask : BitVec 128) : OnlyMemory s (s.chanTake src line mask) := by
  unfold State.chanTake
  exact .ite (.dram _ _) (chanWrite_only _ _ _ _)

theorem takeWrite_only (s : State) (q : WReq) : OnlyMemory s (s.takeWrite q) := (chanTake_only _ _ _ _).trans (.dram _ _)

theorem correctHeld_only (s : State) (ch : Nat) : OnlyMemory s (s.correctHeld ch) := by
  unfold State.correctHeld
  dsimp only
  split
  · exact OnlyMemory.refl s
  · exact (OnlyMemory.setDram s _).trans ((OnlyMemory.setScrubber _ _ _).trans (OnlyMemory.foldl _ _ takeWrite_only _))

theorem freeLine_only (s : State) (line : Nat) : OnlyMemory s (s.freeLine line) := .ite (correctHeld_only _ _) (.refl _)

theorem ackWrite_only (s : State) (w : Writer) : OnlyMemory s (s.ackWrite w) := by
  cases w with
  | writeBack cl l => exact OnlyMemory.setClu _ _ _
  | ring cl n num =>
    unfold State.ackWrite
    dsimp only
    exact .ite (.wtOut _ _ _ _) (.refl _)

/-- A write on its way is accepted and its acceptance arrives. -/
theorem landOne_only (s : State) (q : WReq) : OnlyMemory s (((s.freeLine q.line).chanTake q.data q.line q.mask).ackWrite q.writer) := by
  have h := (freeLine_only s q.line).trans (chanTake_only _ q.data q.line q.mask)
  generalize (s.freeLine q.line).chanTake q.data q.line q.mask = u at h ⊢
  exact h.trans (ackWrite_only u q.writer)

theorem landWrites_only (s : State) (p : WReq → Bool) : OnlyMemory s (s.landWrites p) := by
  unfold State.landWrites
  exact OnlyMemory.trans (t := { s with dram := { s.dram with wq := s.dram.wq.filter fun q => !p q } }) (.of rfl) (.foldl _ _ landOne_only _)

theorem takeAcks_only (s : State) (cl : Cl) (l : Nat) : OnlyMemory s (s.takeAcks cl l) := by
  unfold State.takeAcks
  exact .ite ((OnlyMemory.dram s _).trans (ackWrite_only _ _)) (.refl _)

theorem checkLine_only (s : State) (cl : Cl) (l : Nat) : OnlyMemory s (s.checkLine cl l) :=
  (OnlyMemory.wordErrors _ _ _ _ _ _ _ _ _).trans (.setClu _ _ _)

theorem writeBack_only (s : State) (cl : Cl) (l : Nat) : OnlyMemory s (s.writeBack cl l) := by
  unfold State.writeBack
  refine .ite (.refl _) ?_
  dsimp only
  have h := (landWrites_only s fun q => decide (q.line = l)).trans (takeAcks_only _ cl l)
  split
  · split
    · exact h.trans ((checkLine_only _ _ _).trans ((freeLine_only _ _).trans ((chanTake_only _ _ _ _).trans (.setClu _ _ _))))
    · exact h
  · exact h

theorem evict_only (s : State) (cl : Cl) (x : Nat) : OnlyMemory s (s.evict cl x) := (writeBack_only _ _ _).trans (.setClu _ _ _)

theorem makeRoom_only (s : State) (cl : Cl) (l : Nat) : OnlyMemory s (s.makeRoom cl l) := by
  unfold State.makeRoom
  dsimp only
  split
  · exact OnlyMemory.refl s
  split
  · exact evict_only _ _ _
  split
  · exact (landWrites_only _ _).trans (evict_only _ _ _)
  split
  · exact evict_only _ _ _
  split
  · exact evict_only _ _ _
  · exact OnlyMemory.refl s

theorem install_only (s : State) (cl : Cl) (l : Nat) (m : Mem) (h : Hint) (tag : Nat) : OnlyMemory s (s.install cl l m h tag) := by
  unfold State.install
  dsimp only
  split
  · exact (checkLine_only _ _ _).trans (.setClu _ _ _)
  · exact (makeRoom_only _ _ _).trans (.setClu _ _ _)

theorem cacheRead_only (s : State) (cl : Cl) (slot : Option Nat) (a n : Nat) (h : Hint) (tag cls : Nat) (alloc : Bool) :
    OnlyMemory s (s.cacheRead cl slot a n h tag cls alloc).1 := by
  unfold State.cacheRead
  dsimp only
  repeat' split
  all_goals first
    | exact (OnlyMemory.wordErrors _ _ _ _ _ _ _ _ _).trans (.setClu _ _ _)
    | exact chanRead_only _ _ _ _ _
    | exact (chanRead_only _ _ _ _ _).trans (install_only _ _ _ _ _ _)

theorem clRead_only (s : State) (cl : Cl) (slot : Option Nat) (a n : Nat) (h : Hint) (tag cls : Nat) :
    OnlyMemory s (s.clRead cl slot a n h tag cls).1 := cacheRead_only _ _ _ _ _ _ _ _ _

theorem mergeErrors_only (s : State) (cl : Cl) (base : Mem) (l : Nat) (mask : BitVec 128) : OnlyMemory s (s.mergeErrors cl base l mask) := by
  unfold State.mergeErrors
  apply OnlyMemory.foldl
  intro s w
  exact .ite (.refl _) (.wordErrors _ _ _ _ _ _ _ _ _)

theorem clWrite_only (s : State) (cl : Cl) (src : Mem) (l : Nat) (mask : BitVec 128) (h : Hint) (tag : Nat) :
    OnlyMemory s (s.clWrite cl src l mask h tag) := by
  unfold State.clWrite
  dsimp only
  split
  · exact (mergeErrors_only _ _ _ _ _).trans (.setClu _ _ _)
  · exact (makeRoom_only _ _ _).trans (.setClu _ _ _)

theorem shadowWrite_only (s : State) (cl : Cl) (k : Nat) (src : Mem) (l : Nat) (mask : BitVec 128) (h : Hint) (tag : Nat) :
    OnlyMemory s (s.shadowWrite cl k src l mask h tag).1 := by
  unfold State.shadowWrite
  dsimp only
  split
  · exact (mergeErrors_only _ _ _ _ _).trans (.setClu _ _ _)
  · repeat' split
    all_goals first
      | exact clRead_only _ _ _ _ _ _ _ _
      | exact (clRead_only _ _ _ _ _ _ _ _).trans ((makeRoom_only _ _ _).trans (.setClu _ _ _))

theorem emptyCache_only (s : State) (cl : Cl) : OnlyMemory s (s.emptyCache cl) := by
  unfold State.emptyCache
  exact (landWrites_only _ _).trans ((OnlyMemory.foldl _ _ (fun s (e : Nat × Line) => writeBack_only s cl e.1) _).trans (.setClu _ _ _))

theorem cleanRange_only (s : State) (cl : Cl) (base len : Nat) : OnlyMemory s (s.cleanRange cl base len) := by
  unfold State.cleanRange
  apply OnlyMemory.foldl
  intro s e
  exact .ite (writeBack_only _ _ _) (.refl _)

/-- What a coherent permission cache gives is what the table gives. -/
theorem permUse_coherent {s : State} {cl : Cl} (h : PermCoherent s cl) (page : Nat) :
    (s.permUse cl page).2 = s.permEntry (s.clPart cl) page := by
  unfold State.permUse
  dsimp only
  split
  · rename_i e he
    have h1 := List.mem_of_find?_eq_some he
    have h2 := List.find?_some he
    simp only [decide_eq_true_eq] at h2
    rw [h e h1, h2]
  · rfl

/-- A permission check keeps the cache coherent. -/
theorem permUse_keeps {s : State} {cl : Cl} (h : PermCoherent s cl) (page : Nat) : PermCoherent (s.permUse cl page).1 cl := by
  unfold State.permUse
  dsimp only
  split
  · exact h
  · intro e he
    rw [State.clu_setClu] at he
    have := List.mem_of_mem_take he
    rcases List.mem_cons.mp this with rfl | h1
    · rfl
    · exact h e h1

/-- A request that the table allows meets no refusal. -/
theorem reqStatus_allowed {s : State} {cl : Cl} {a : Nat} {w : Bool} (h : PermCoherent s cl) (k : Allowed s cl a w) :
    (s.reqStatus cl a w).2 = 0 := by
  unfold State.reqStatus
  obtain ⟨k1, k2, k3⟩ := k
  rw [if_neg (by simp [k1])]
  dsimp only
  rw [permUse_coherent h, k3]
  cases w <;> simp_all

theorem reqStatus_keeps {s : State} {cl : Cl} (h : PermCoherent s cl) (a : Nat) (w : Bool) :
    PermCoherent (s.reqStatus cl a w).1 cl := by
  unfold State.reqStatus
  split
  · exact h
  · exact permUse_keeps h _

/-! ### What data traffic leaves of the permissions -/

/-- The permission table and every permission cache are as before. -/
def PermSame (s t : State) : Prop :=
  t.dram.permTable = s.dram.permTable ∧ ∀ cl, (t.clu cl).cache.perm = (s.clu cl).cache.perm

theorem PermSame.refl (s : State) : PermSame s s := ⟨rfl, fun _ => rfl⟩
theorem PermSame.trans {s t u : State} (h : PermSame s t) (k : PermSame t u) : PermSame s u :=
  ⟨k.1.trans h.1, fun cl => (k.2 cl).trans (h.2 cl)⟩
theorem PermSame.setClu {s : State} {cl : Cl} {v : Cluster} (h : v.cache.perm = (s.clu cl).cache.perm) : PermSame s (s.setClu cl v) :=
  ⟨rfl, fun cl' => by
    rw [State.clu_setClu_if]; split
    · rename_i e; rw [e, h]
    · rfl⟩
theorem PermSame.of {s t : State} (h : t.dram.permTable = s.dram.permTable) (k : t.clusters = s.clusters) : PermSame s t :=
  ⟨h, fun cl => by unfold State.clu; rw [k]⟩
theorem PermSame.setDram (s : State) (m : Mem) : PermSame s (s.setDram m) := .of rfl rfl
theorem PermSame.setScrubber (s : State) (ch : Nat) (v : Scrub) : PermSame s (s.setScrubber ch v) := .of rfl rfl
theorem PermSame.wordErrors (s : State) (m : Mem) (key a n source unit part cls : Nat) :
    PermSame s (s.wordErrors m key a n source unit part cls) := by
  rw [wordErrors_only]; exact .of rfl rfl
theorem PermSame.foldl {α : Type} (l : List α) (f : State → α → State) (hf : ∀ s a, PermSame s (f s a)) (s : State) :
    PermSame s (l.foldl f s) := by
  induction l generalizing s with
  | nil => exact PermSame.refl s
  | cons a t ih => exact (hf s a).trans (ih (f s a))
theorem PermSame.ite {s t u : State} {c : Prop} [Decidable c] (h : PermSame s t) (k : PermSame s u) :
    PermSame s (if c then t else u) := by split <;> assumption

theorem note_perm (s : State) (l : Nat) : PermSame s (s.note l) := by
  unfold State.note
  dsimp only
  exact .ite (.of rfl rfl) (.refl _)

theorem chanRead_perm (s : State) (a n part cls : Nat) : PermSame s (s.chanRead a n part cls).1 := by
  unfold State.chanRead
  dsimp only
  split
  · exact .refl _
  split
  · exact .refl _
  have h := PermSame.wordErrors s s.dram.mem (s.phys a) a n 1 (chanUnit (s.phys a)) part cls
  have h2 := PermSame.ite (c := s.dram.mem.anyBad (s.phys a) n = true) (h.trans (.setDram _ (s.dram.mem.settleBad (s.phys a) n))) h
  exact .ite (h2.trans (note_perm _ _)) h2

theorem chanWrite_perm (s : State) (src : Mem) (line : Nat) (mask : BitVec 128) : PermSame s (s.chanWrite src line mask) := by
  unfold State.chanWrite
  refine (PermSame.foldl _ _ ?_ s).trans ((PermSame.setDram _ _).trans (note_perm _ _))
  intro s w
  exact .ite (.refl _) (.wordErrors _ _ _ _ _ _ _ _ _)

theorem chanTake_perm (s : State) (src : Mem) (line : Nat) (mask : BitVec 128) : PermSame s (s.chanTake src line mask) := by
  unfold State.chanTake
  exact .ite (.of rfl rfl) (chanWrite_perm _ _ _ _)

theorem takeWrite_perm (s : State) (q : WReq) : PermSame s (s.takeWrite q) := (chanTake_perm _ _ _ _).trans (.of rfl rfl)

theorem correctHeld_perm (s : State) (ch : Nat) : PermSame s (s.correctHeld ch) := by
  unfold State.correctHeld
  dsimp only
  split
  · exact PermSame.refl s
  · exact (PermSame.setDram s _).trans ((PermSame.setScrubber _ _ _).trans (PermSame.foldl _ _ takeWrite_perm _))

theorem freeLine_perm (s : State) (line : Nat) : PermSame s (s.freeLine line) := .ite (correctHeld_perm _ _) (.refl _)

theorem ackWrite_perm (s : State) (w : Writer) : PermSame s (s.ackWrite w) := by
  cases w with
  | writeBack cl l => exact PermSame.setClu rfl
  | ring cl n num =>
    unfold State.ackWrite
    dsimp only
    exact .ite (.of rfl rfl) (.refl _)

/-- A write on its way is accepted and its acceptance arrives. -/
theorem landOne_perm (s : State) (q : WReq) : PermSame s (((s.freeLine q.line).chanTake q.data q.line q.mask).ackWrite q.writer) := by
  have h := (freeLine_perm s q.line).trans (chanTake_perm _ q.data q.line q.mask)
  generalize (s.freeLine q.line).chanTake q.data q.line q.mask = u at h ⊢
  exact h.trans (ackWrite_perm u q.writer)

theorem landWrites_perm (s : State) (p : WReq → Bool) : PermSame s (s.landWrites p) := by
  unfold State.landWrites
  exact PermSame.trans (t := { s with dram := { s.dram with wq := s.dram.wq.filter fun q => !p q } }) (.of rfl rfl) (.foldl _ _ landOne_perm _)

theorem takeAcks_perm (s : State) (cl : Cl) (l : Nat) : PermSame s (s.takeAcks cl l) := by
  unfold State.takeAcks
  exact .ite (PermSame.trans (t := { s with dram := { s.dram with wacks := s.dram.wacks.filter fun q => q.writer ≠ Writer.writeBack cl l } })
    (.of rfl rfl) (ackWrite_perm _ _)) (.refl _)

theorem checkLine_perm (s : State) (cl : Cl) (l : Nat) : PermSame s (s.checkLine cl l) := by
  refine (PermSame.wordErrors _ _ _ _ _ _ _ _ _).trans (PermSame.setClu ?_)
  rw [wordErrors_only]; rfl

theorem writeBack_perm (s : State) (cl : Cl) (l : Nat) : PermSame s (s.writeBack cl l) := by
  unfold State.writeBack
  refine .ite (.refl _) ?_
  dsimp only
  have h := (landWrites_perm s fun q => decide (q.line = l)).trans (takeAcks_perm _ cl l)
  split
  · split
    · exact h.trans ((checkLine_perm _ _ _).trans (((freeLine_perm _ l).trans (chanTake_perm _ _ l _)).trans
        (PermSame.setClu (((freeLine_perm _ l).trans (chanTake_perm _ _ l _)).2 cl).symm)))
    · exact h
  · exact h

theorem evict_perm (s : State) (cl : Cl) (x : Nat) : PermSame s (s.evict cl x) := by
  unfold State.evict
  refine (writeBack_perm _ _ _).trans (PermSame.setClu ?_)
  unfold Cache.countEvict Cache.dropLine
  dsimp only
  split <;> rfl

theorem makeRoom_perm (s : State) (cl : Cl) (l : Nat) : PermSame s (s.makeRoom cl l) := by
  unfold State.makeRoom
  dsimp only
  split
  · exact PermSame.refl s
  split
  · exact evict_perm _ _ _
  split
  · exact (landWrites_perm _ _).trans (evict_perm _ _ _)
  split
  · exact evict_perm _ _ _
  split
  · exact evict_perm _ _ _
  · exact PermSame.refl s

theorem install_perm (s : State) (cl : Cl) (l : Nat) (m : Mem) (h : Hint) (tag : Nat) : PermSame s (s.install cl l m h tag) := by
  unfold State.install
  dsimp only
  split
  · exact (checkLine_perm _ _ _).trans (PermSame.setClu rfl)
  · exact (makeRoom_perm _ _ _).trans (PermSame.setClu rfl)

theorem cacheRead_perm (s : State) (cl : Cl) (slot : Option Nat) (a n : Nat) (h : Hint) (tag cls : Nat) (alloc : Bool) :
    PermSame s (s.cacheRead cl slot a n h tag cls alloc).1 := by
  have touch : ∀ (c : Cache) l h tag, (c.touch l h tag).perm = c.perm := by
    intro c l h tag; unfold Cache.touch; split <;> rfl
  unfold State.cacheRead
  dsimp only
  repeat' split
  all_goals first
    | exact chanRead_perm _ _ _ _ _
    | exact (chanRead_perm _ _ _ _ _).trans (install_perm _ _ _ _ _ _)
    | (refine (PermSame.wordErrors _ _ _ _ _ _ _ _ _).trans (PermSame.setClu ?_); rw [wordErrors_only]; first | rfl | (rw [touch]; rfl))

theorem clRead_perm (s : State) (cl : Cl) (slot : Option Nat) (a n : Nat) (h : Hint) (tag cls : Nat) :
    PermSame s (s.clRead cl slot a n h tag cls).1 := cacheRead_perm _ _ _ _ _ _ _ _ _

theorem mergeErrors_perm (s : State) (cl : Cl) (base : Mem) (l : Nat) (mask : BitVec 128) : PermSame s (s.mergeErrors cl base l mask) := by
  unfold State.mergeErrors
  apply PermSame.foldl
  intro s w
  exact .ite (.refl _) (.wordErrors _ _ _ _ _ _ _ _ _)

theorem clWrite_perm (s : State) (cl : Cl) (src : Mem) (l : Nat) (mask : BitVec 128) (h : Hint) (tag : Nat) :
    PermSame s (s.clWrite cl src l mask h tag) := by
  unfold State.clWrite
  dsimp only
  split
  · exact (mergeErrors_perm _ _ _ _ _).trans (PermSame.setClu ((mergeErrors_perm s cl _ l mask).2 cl).symm)
  · exact (makeRoom_perm _ _ _).trans (PermSame.setClu rfl)

/-- Data traffic leaves what a partition may do with a page. -/
theorem permEntry_same {s t : State} (h : OnlyMemory s t) (k : PermSame s t) (p page : Nat) : t.permEntry p page = s.permEntry p page := by
  unfold State.permEntry
  rw [k.1, h.1]; rfl

theorem clPart_same {s t : State} (h : OnlyMemory s t) (cl : Cl) : t.clPart cl = s.clPart cl := by
  rw [h.1]; rfl

theorem PermCoherent.same {s t : State} {cl : Cl} (h : OnlyMemory s t) (k : PermSame s t) (c : PermCoherent s cl) : PermCoherent t cl := by
  intro e he
  rw [k.2] at he
  rw [permEntry_same h k, clPart_same h]
  exact c e he

theorem Allowed.same {s t : State} {cl : Cl} {a : Nat} {w : Bool} (h : OnlyMemory s t) (k : t.dram.permTable = s.dram.permTable)
    (c : Allowed s cl a w) : Allowed t cl a w := by
  have e : ∀ p page, t.permEntry p page = s.permEntry p page := by
    intro p page
    unfold State.permEntry
    rw [k, h.1]; rfl
  unfold Allowed at *
  rw [clPart_same h, e, show t.phys a = s.phys a by rw [h.1]; rfl, show ∀ x y, t.pathFenced x y = s.pathFenced x y by rw [h.1]; intros; rfl]
  exact c

theorem permUse_table (s : State) (cl : Cl) (page : Nat) : (s.permUse cl page).1.dram.permTable = s.dram.permTable := by
  unfold State.permUse; dsimp only; split <;> rfl

theorem reqStatus_table (s : State) (cl : Cl) (a : Nat) (w : Bool) : (s.reqStatus cl a w).1.dram.permTable = s.dram.permTable := by
  unfold State.reqStatus
  split
  · rfl
  · exact permUse_table _ _ _

end Sys2Proof.Machine
end

