-- ==== Sys2Proof/Laws/Plain.lean ====
section
/-! SUPPORT. A store without syndromes reads back what was written and keeps every other byte. -/

namespace Sys2Proof.Machine

open Sys2Proof

namespace Mem

/-- No word of the store is wrong by any amount. -/
def plain (m : Mem) : Prop := m.syn = []

theorem plain_empty : Mem.empty.plain := rfl
theorem raw_empty (x : Nat) : Mem.empty.raw x = 0 := rfl

theorem synAt_plain {m : Mem} (h : m.plain) (w : Nat) : m.synAt w = 0 := by
  unfold synAt; rw [h]; rfl

theorem verdict_zero : verdict 0 = .clean := by decide

theorem byte_plain {m : Mem} (h : m.plain) (a : Nat) : m.byte a = m.raw a := by
  unfold byte; rw [synAt_plain h]; rfl

theorem read_plain {m : Mem} (h : m.plain) (a n : Nat) : m.read a n = (List.range n).map fun i => m.raw (a + i) := by
  unfold read
  exact List.map_congr_left fun i _ => byte_plain h (a + i)

theorem anyPoison_plain {m : Mem} (h : m.plain) (a n : Nat) : m.anyPoison a n = false := by
  unfold anyPoison
  rw [List.any_eq_false]
  intro w _
  rw [synAt_plain h, verdict_zero]; simp

theorem anyBad_plain {m : Mem} (h : m.plain) (a n : Nat) : m.anyBad a n = false := by
  unfold anyBad
  rw [List.any_eq_false]
  intro w _
  rw [synAt_plain h, verdict_zero]; simp

theorem settleBad_plain {m : Mem} (h : m.plain) (a n : Nat) : m.settleBad a n = m := by
  unfold settleBad
  refine foldl_inv (p := fun x : Mem => x = m) _ _ rfl ?_
  rintro x w _ rfl
  rw [synAt_plain h, verdict_zero]; simp

theorem fixWords_plain {m : Mem} (h : m.plain) (l : List Nat) : l.foldl fixWord m = m := by
  refine foldl_inv (p := fun x : Mem => x = m) _ _ rfl ?_
  rintro x w _ rfl
  unfold fixWord
  rw [synAt_plain h, verdict_zero]

theorem setRaw_plain {m : Mem} (h : m.plain) (a : Nat) (b : Byte) : (m.setRaw a b).plain := h

/-- The bytes of a list that are given, stored one after another. -/
theorem store_raw (bs : List (Option Byte)) (w : Nat) (l : List Nat) (m : Mem) (x : Nat) (hl : l.Nodup) :
    (l.foldl (fun m i => match bs[i]? with
        | some (some b) => m.setRaw (16 * w + i) b
        | _ => m) m).raw x =
      if 16 * w ≤ x ∧ x - 16 * w ∈ l then (match bs[x - 16 * w]? with
        | some (some b) => b
        | _ => m.raw x) else m.raw x := by
  induction l generalizing m with
  | nil => simp
  | cons a t ih =>
    rw [List.nodup_cons] at hl
    simp only [List.foldl_cons]
    rw [ih _ hl.2]
    by_cases hx : 16 * w ≤ x
    · by_cases ha : x - 16 * w = a
      · subst ha
        simp only [hx, true_and, List.mem_cons, true_or, if_true, hl.1, if_false]
        have : 16 * w + (x - 16 * w) = x := by omega
        split
        · rw [raw_setRaw, if_pos this.symm]
        · rfl
      · have hne : x ≠ 16 * w + a := by omega
        have hr : (match bs[a]? with
            | some (some b) => m.setRaw (16 * w + a) b
            | _ => m).raw x = m.raw x := by
          split
          · rw [raw_setRaw, if_neg hne]
          · rfl
        rw [hr]
        simp only [List.mem_cons, ha, false_or]
    · have hne : x ≠ 16 * w + a := by omega
      have hr : (match bs[a]? with
          | some (some b) => m.setRaw (16 * w + a) b
          | _ => m).raw x = m.raw x := by
        split
        · rw [raw_setRaw, if_neg hne]
        · rfl
      simp only [hx, false_and, if_false, hr]

theorem store_syn (bs : List (Option Byte)) (w : Nat) (l : List Nat) (m : Mem) :
    (l.foldl (fun m i => match bs[i]? with
        | some (some b) => m.setRaw (16 * w + i) b
        | _ => m) m).syn = m.syn := by
  refine foldl_inv (p := fun x : Mem => x.syn = m.syn) _ _ rfl ?_
  intro x i _ h
  split
  · exact h
  · exact h

/-- A word merged into a store without syndromes: the given bytes are stored, every other byte is as before. -/
theorem mergeWord_plain {m : Mem} (h : m.plain) (w : Nat) (bs : List (Option Byte)) (hb : bs.length = 16) :
    (m.mergeWord w bs).plain ∧ ∀ x, (m.mergeWord w bs).raw x =
      if x / 16 = w then (match bs[x % 16]? with
        | some (some b) => b
        | _ => m.raw x) else m.raw x := by
  have key : ∀ x, ((List.range 16).foldl (fun m i => match bs[i]? with
        | some (some b) => m.setRaw (16 * w + i) b
        | _ => m) m).raw x = if x / 16 = w then (match bs[x % 16]? with
        | some (some b) => b
        | _ => m.raw x) else m.raw x := by
    intro x
    rw [store_raw bs w _ m x (List.nodup_range)]
    by_cases hx : x / 16 = w
    · have h1 : 16 * w ≤ x ∧ x - 16 * w ∈ List.range 16 := ⟨by omega, by rw [List.mem_range]; omega⟩
      have h2 : x - 16 * w = x % 16 := by omega
      rw [if_pos h1, if_pos hx, h2]
    · have h1 : ¬(16 * w ≤ x ∧ x - 16 * w ∈ List.range 16) := by rw [List.mem_range]; omega
      rw [if_neg h1, if_neg hx]
  unfold mergeWord
  split
  · rename_i ha
    refine ⟨h, fun x => ?_⟩
    split
    · have hlt : x % 16 < bs.length := by rw [hb]; omega
      rw [List.all_eq_true] at ha
      have := ha _ (List.getElem_mem hlt)
      rw [List.getElem?_eq_getElem hlt]
      cases hq : bs[x % 16] with
      | none => rfl
      | some b => rw [hq] at this; cases this
    · rfl
  · dsimp only
    split
    · refine ⟨?_, key⟩
      have := store_syn bs w (List.range 16) m
      exact congrArg (fun q => put 0 q w (0 : BitVec 16)) (this.trans h)
    · rw [synAt_plain h, verdict_zero]
      refine ⟨?_, key⟩
      have := store_syn bs w (List.range 16) m
      exact this.trans h

/-- Words merged one after another, each once. -/
theorem mergeWords_plain (f : Nat → List (Option Byte)) (hf : ∀ w, (f w).length = 16) (l : List Nat) (hl : l.Nodup) {m : Mem} (h : m.plain) :
    (l.foldl (fun m w => m.mergeWord w (f w)) m).plain ∧ ∀ x, (l.foldl (fun m w => m.mergeWord w (f w)) m).raw x =
      if x / 16 ∈ l then (match (f (x / 16))[x % 16]? with
        | some (some b) => b
        | _ => m.raw x) else m.raw x := by
  induction l generalizing m with
  | nil => exact ⟨h, fun x => by simp⟩
  | cons a t ih =>
    rw [List.nodup_cons] at hl
    obtain ⟨h1, h2⟩ := mergeWord_plain h a (f a) (hf a)
    obtain ⟨i1, i2⟩ := ih hl.2 h1
    refine ⟨i1, fun x => ?_⟩
    simp only [List.foldl_cons]
    rw [i2, h2]
    by_cases hx : x / 16 = a
    · subst hx
      rw [if_neg hl.1, if_pos rfl, if_pos (List.mem_cons_self)]
    · rw [if_neg hx]
      simp only [List.mem_cons, hx, false_or]

theorem mem_wordsOf (a n w : Nat) : w ∈ wordsOf a n ↔ n ≠ 0 ∧ a / 16 ≤ w ∧ w ≤ (a + n - 1) / 16 := by
  unfold wordsOf
  split
  · rename_i h; simp [h]
  · rename_i h
    rw [List.mem_map]
    constructor
    · rintro ⟨i, hi, rfl⟩
      rw [List.mem_range] at hi
      exact ⟨h, by omega, by omega⟩
    · rintro ⟨_, h1, h2⟩
      exact ⟨w - a / 16, by rw [List.mem_range]; omega, by omega⟩

theorem wordsOf_nodup (a n : Nat) : (wordsOf a n).Nodup := by
  unfold wordsOf
  split
  · exact List.nodup_nil
  · exact List.Nodup.map (fun x y h => by simpa using h) List.nodup_range

/-- Bytes written into a store without syndromes read back, and every other byte is as before. -/
theorem writeOpt_plain {m : Mem} (h : m.plain) (a : Nat) (bs : List (Option Byte)) :
    (m.writeOpt a bs).plain ∧ ∀ x, (m.writeOpt a bs).raw x =
      if a ≤ x ∧ x < a + bs.length then (match bs[x - a]? with
        | some (some b) => b
        | _ => m.raw x) else m.raw x := by
  unfold writeOpt
  obtain ⟨h1, h2⟩ := mergeWords_plain (fun w => (List.range 16).map fun i =>
      if 16 * w + i < a then none else (bs[16 * w + i - a]?).join) (fun w => by simp) (wordsOf a bs.length) (wordsOf_nodup _ _) h
  refine ⟨h1, fun x => ?_⟩
  rw [h2]
  have hx16 : 16 * (x / 16) + x % 16 = x := by omega
  have hg : ((List.range 16).map fun i => if 16 * (x / 16) + i < a then none else (bs[16 * (x / 16) + i - a]?).join)[x % 16]? =
      some (if x < a then none else (bs[x - a]?).join) := by
    rw [List.getElem?_map, List.getElem?_range (by omega)]
    simp [hx16]
  rw [hg]
  by_cases hin : a ≤ x ∧ x < a + bs.length
  · have hw : x / 16 ∈ wordsOf a bs.length := by rw [mem_wordsOf]; omega
    have hlt : x - a < bs.length := by omega
    rw [if_pos hw, if_pos hin, if_neg (by omega), List.getElem?_eq_getElem hlt]
    cases hq : bs[x - a] <;> simp
  · rw [if_neg hin]
    split
    · by_cases hxa : x < a
      · rw [if_pos hxa]
      · rw [if_neg hxa, List.getElem?_eq_none (by omega)]; rfl
    · rfl

theorem write_plain {m : Mem} (h : m.plain) (a : Nat) (bs : List Byte) :
    (m.write a bs).plain ∧ ∀ x, (m.write a bs).raw x = if a ≤ x ∧ x < a + bs.length then bs.getD (x - a) 0 else m.raw x := by
  obtain ⟨h1, h2⟩ := writeOpt_plain h a (bs.map some)
  refine ⟨h1, fun x => ?_⟩
  unfold write
  rw [h2]
  simp only [List.length_map, List.getElem?_map]
  split
  · rename_i hx
    have hlt : x - a < bs.length := by omega
    rw [List.getElem?_eq_getElem hlt]
    simp [List.getD, hlt]
  · rfl

/-- A copy between stores without syndromes. -/
theorem copyFrom_plain {m src : Mem} (h : m.plain) (hs : src.plain) (a b n : Nat) :
    (m.copyFrom src a b n).plain ∧ ∀ x, (m.copyFrom src a b n).raw x = if a ≤ x ∧ x < a + n then src.raw (b + (x - a)) else m.raw x := by
  unfold copyFrom
  have hp : ∀ a n, (src.anyPoison a n || src.anyBad a n) = false := fun a n => by rw [anyPoison_plain hs, anyBad_plain hs]; rfl
  simp only [hp, writeP, Bool.false_eq_true, if_false, read_plain hs]
  have key : ∀ k, k ≤ cdiv n 16 → ((List.range k).foldl (fun m i => m.write (a + 16 * i) ((List.range (min 16 (n - 16 * i))).map fun j => src.raw (b + 16 * i + j))) m).plain ∧
      ∀ x, ((List.range k).foldl (fun m i => m.write (a + 16 * i) ((List.range (min 16 (n - 16 * i))).map fun j => src.raw (b + 16 * i + j))) m).raw x =
        if a ≤ x ∧ x < a + min n (16 * k) then src.raw (b + (x - a)) else m.raw x := by
    intro k
    induction k with
    | zero => intro _; exact ⟨h, fun x => by simp⟩
    | succ k ih =>
      intro hk
      obtain ⟨i1, i2⟩ := ih (by omega)
      rw [List.range_succ, List.foldl_append]
      simp only [List.foldl_cons, List.foldl_nil]
      obtain ⟨j1, j2⟩ := write_plain i1 (a + 16 * k) ((List.range (min 16 (n - 16 * k))).map fun j => src.raw (b + 16 * k + j))
      refine ⟨j1, fun x => ?_⟩
      rw [j2, i2]
      simp only [List.length_map, List.length_range]
      have hkn : 16 * k < n := by unfold cdiv at hk; omega
      by_cases c1 : a + 16 * k ≤ x ∧ x < a + 16 * k + min 16 (n - 16 * k)
      · rw [if_pos c1, if_pos (by omega)]
        have hlt : x - (a + 16 * k) < min 16 (n - 16 * k) := by omega
        rw [List.getD, List.getElem?_map, List.getElem?_range hlt]
        simp only [Option.map_some, Option.getD_some]
        congr 1; omega
      · rw [if_neg c1]
        by_cases c2 : a ≤ x ∧ x < a + min n (16 * k)
        · rw [if_pos c2, if_pos (by omega)]
        · rw [if_neg c2, if_neg (by omega)]
  obtain ⟨k1, k2⟩ := key (cdiv n 16) (Nat.le_refl _)
  refine ⟨k1, fun x => ?_⟩
  rw [k2]
  have : min n (16 * cdiv n 16) = n := by unfold cdiv; omega
  rw [this]

end Mem

/-- A line copied between stores without syndromes. -/
theorem copyLine_plain {m src : Mem} (h : m.plain) (hs : src.plain) (l : Nat) :
    (copyLine m src l).plain ∧ ∀ x, (copyLine m src l).raw x = if x / 128 = l then src.raw x else m.raw x := by
  unfold copyLine
  obtain ⟨h1, h2⟩ := Mem.copyFrom_plain h hs (128 * l) (128 * l) 128
  refine ⟨h1, fun x => ?_⟩
  rw [h2]
  by_cases hx : x / 128 = l
  · rw [if_pos hx, if_pos (by omega)]; congr 1; omega
  · rw [if_neg hx, if_neg (by omega)]

/-- The bytes of a mask laid over a line, in stores without syndromes. -/
theorem overLine_plain {base ov : Mem} (h : base.plain) (ho : ov.plain) (l : Nat) (mask : BitVec 128) :
    (overLine base ov l mask).plain ∧ ∀ x, (overLine base ov l mask).raw x =
      if x / 128 = l ∧ mask.getLsbD (x % 128) = true then ov.raw x else base.raw x := by
  have hp : ∀ k, (ov.anyPoison (16 * k) 16 || ov.anyBad (16 * k) 16) = false := fun k => by
    rw [Mem.anyPoison_plain ho, Mem.anyBad_plain ho]; rfl
  have hbit : ∀ w i, i < 16 → ((mask.toNat / 2 ^ (16 * w)) % 65536 / 2 ^ i % 2 = 1 ↔ mask.getLsbD (16 * w + i) = true) := by
    intro w i hi
    have h1 : ((mask.toNat / 2 ^ (16 * w)) % 2 ^ 16).testBit i = mask.toNat.testBit (16 * w + i) := by
      rw [Nat.testBit_mod_two_pow, Nat.testBit_div_two_pow]
      simp [hi, Nat.add_comm]
    rw [Nat.testBit_eq_decide_div_mod_eq] at h1
    unfold BitVec.getLsbD
    rw [← h1]
    simp
  have heq : overLine base ov l mask = ((List.range 8).map fun w => 8 * l + w).foldl (fun m W => m.mergeWord W
      ((List.range 16).map fun i => if mask.getLsbD (16 * (W - 8 * l) + i) then some (ov.raw (16 * W + i)) else none)) base := by
    unfold overLine
    rw [List.foldl_map]
    congr 1
    funext m w
    have hm : ((List.range 16).map fun i => if (mask.toNat / 2 ^ (16 * w)) % 65536 / 2 ^ i % 2 = 1 then some (ov.byte (16 * (8 * l + w) + i)) else none) =
        ((List.range 16).map fun i => if mask.getLsbD (16 * (8 * l + w - 8 * l) + i) then some (ov.raw (16 * (8 * l + w) + i)) else none) := by
      refine List.map_congr_left fun i hi => ?_
      rw [List.mem_range] at hi
      have h2 : 8 * l + w - 8 * l = w := by omega
      rw [h2, Mem.byte_plain ho]
      have := hbit w i hi
      by_cases hb : mask.getLsbD (16 * w + i) = true
      · rw [if_pos hb, if_pos (this.mpr hb)]
      · rw [if_neg hb, if_neg (fun x => hb (this.mp x))]
    dsimp only
    rw [hm, hp]
    simp only [Bool.false_eq_true, if_false]
    split
    · rename_i h0
      have hnone : ((List.range 16).map fun i => if mask.getLsbD (16 * (8 * l + w - 8 * l) + i) then some (ov.raw (16 * (8 * l + w) + i)) else none).all (fun b => b.isNone) = true := by
        rw [List.all_map, List.all_eq_true]
        intro i hi
        rw [List.mem_range] at hi
        have h2 : 8 * l + w - 8 * l = w := by omega
        have := hbit w i hi
        rw [h0] at this
        simp only [Nat.zero_div, Nat.zero_mod, Nat.zero_ne_one, false_iff, Bool.not_eq_true] at this
        simp [h2, this]
      unfold Mem.mergeWord
      rw [if_pos hnone]
    · rfl
  rw [heq]
  obtain ⟨h1, h2⟩ := Mem.mergeWords_plain (fun W => (List.range 16).map fun i => if mask.getLsbD (16 * (W - 8 * l) + i) then some (ov.raw (16 * W + i)) else none)
    (fun w => by simp) ((List.range 8).map fun w => 8 * l + w) (List.Nodup.map (fun x y h => by simpa using h) List.nodup_range) h
  refine ⟨h1, fun x => ?_⟩
  rw [h2]
  have hmem : x / 16 ∈ (List.range 8).map (fun w => 8 * l + w) ↔ x / 128 = l := by
    rw [List.mem_map]
    constructor
    · rintro ⟨w, hw, he⟩; rw [List.mem_range] at hw; omega
    · intro h; exact ⟨x / 16 - 8 * l, by rw [List.mem_range]; omega, by omega⟩
  by_cases hx : x / 128 = l
  · rw [if_pos (hmem.mpr hx)]
    have hg : ((List.range 16).map fun i => if mask.getLsbD (16 * (x / 16 - 8 * l) + i) then some (ov.raw (16 * (x / 16) + i)) else none)[x % 16]? =
        some (if mask.getLsbD (x % 128) then some (ov.raw x) else none) := by
      rw [List.getElem?_map, List.getElem?_range (by omega)]
      have e1 : 16 * (x / 16 - 8 * l) + x % 16 = x % 128 := by omega
      have e2 : 16 * (x / 16) + x % 16 = x := by omega
      simp [e1, e2]
    rw [hg]
    by_cases hb : mask.getLsbD (x % 128) = true
    · simp [hx, hb]
    · simp [hb]
  · rw [if_neg (fun h => hx (hmem.mp h)), if_neg (fun h => hx h.1)]

/-- A line's contents removed from a store without syndromes. -/
theorem dropLine_plain {m : Mem} (h : m.plain) (l : Nat) :
    (dropLine m l).plain ∧ ∀ x, (dropLine m l).raw x = if x / 128 = l then 0 else m.raw x := by
  refine ⟨by unfold Mem.plain dropLine; dsimp only; rw [h]; rfl, fun x => ?_⟩
  unfold Mem.raw dropLine
  dsimp only
  induction m.bytes with
  | nil => simp [look]
  | cons e t ih =>
    rw [List.filter_cons]
    by_cases he : e.1 / 128 = l
    · simp only [he, ne_eq, not_true_eq_false, decide_false, Bool.false_eq_true, if_false, ih]
      split
      · rfl
      · rename_i hx
        have : e.1 ≠ x := by rintro rfl; exact hx he
        simp [look, this]
    · simp only [ne_eq, he, not_false_eq_true, decide_true, if_true]
      show (if e.1 = x then e.2 else look 0 _ x) = _
      by_cases hx : e.1 = x
      · subst hx; simp [he, look]
      · rw [if_neg hx, ih]; simp [look, hx]

end Sys2Proof.Machine
end

