-- ==== Sys2Proof/Laws/Tasks.lean ====
section
/-! SUPPORT. What the abort, the fault and the hold of a task do, once for every command that meets them. -/

namespace Sys2Proof.Machine

open Sys2Proof

/-- What a table that is rewritten entry by entry gives. -/
theorem look_mapS {α : Type} [DecidableEq α] (d : α) (f : Nat → α → α) (m : SMap α) (k : Nat) (hf : f k d = d) :
    look d (mapS d f m) k = f k (look d m k) := by
  unfold mapS
  induction m with
  | nil => simp [look, hf]
  | cons e t ih =>
    obtain ⟨j, v⟩ := e
    simp only [List.foldr_cons]
    rw [look_put]
    by_cases h : k = j
    · subst h; simp [look]
    · simp [h, look, Ne.symm h, ih]

/-- A fold that rewrites each chosen core of a cluster by a function of its own state. -/
theorem foldl_setCore (cl : Cl) (p : Cn → Bool) (f : Cn → Core → Core) (l : List Cn) (hl : l.Nodup) (s : State) (cl' : Cl) (c' : Cn) :
    (l.foldl (fun s c => if p c then s.setCore cl c (f c (s.core cl c)) else s) s).core cl' c' =
      if cl' = cl ∧ c' ∈ l ∧ p c' = true then f c' (s.core cl' c') else s.core cl' c' := by
  induction l generalizing s with
  | nil => simp
  | cons a t ih =>
    rw [List.nodup_cons] at hl
    simp only [List.foldl_cons]
    rw [ih hl.2]
    by_cases hp : p a = true
    · simp only [hp, if_true, State.core_setCore_if]
      by_cases h1 : cl' = cl
      · subst h1
        by_cases h2 : c' = a
        · subst h2; simp [hl.1, hp]
        · simp [h2]
      · simp [h1]
    · simp only [hp]
      by_cases h2 : c' = a
      · subst h2; simp [hp]
      · simp [h2]

theorem allCn_nodup : allCn.Nodup := List.nodup_finRange 12
theorem mem_allCn (c : Cn) : c ∈ allCn := List.mem_finRange c

/-- A fold over cores touches nothing but cores. -/
theorem foldl_setCore_frame (cl : Cl) (p : Cn → Bool) (f : Cn → Core → Core) (l : List Cn) (s : State) :
    l.foldl (fun s c => if p c then s.setCore cl c (f c (s.core cl c)) else s) s =
      { s with cores := (l.foldl (fun s c => if p c then s.setCore cl c (f c (s.core cl c)) else s) s).cores } := by
  induction l generalizing s with
  | nil => rfl
  | cons a t ih =>
    simp only [List.foldl_cons]
    have h1 := ih (if p a then s.setCore cl a (f a (s.core cl a)) else s)
    generalize hu : (if p a then s.setCore cl a (f a (s.core cl a)) else s) = u at *
    have h2 : u = { s with cores := u.cores } := by
      rw [← hu]; split <;> rfl
    rw [h1, h2]

/-- A fold whose steps each rewrite one core of a cluster by a function of its own state. -/
theorem foldl_coreStep (cl : Cl) (g : State → Cn → State) (p : Cn → Bool) (f : Cn → Core → Core)
    (hg : ∀ s c cl' c', (g s c).core cl' c' = if cl' = cl ∧ c' = c ∧ p c = true then f c (s.core cl' c') else s.core cl' c')
    (l : List Cn) (hl : l.Nodup) (s : State) (cl' : Cl) (c' : Cn) :
    (l.foldl g s).core cl' c' = if cl' = cl ∧ c' ∈ l ∧ p c' = true then f c' (s.core cl' c') else s.core cl' c' := by
  induction l generalizing s with
  | nil => simp
  | cons a t ih =>
    rw [List.nodup_cons] at hl
    simp only [List.foldl_cons]
    rw [ih hl.2, hg]
    by_cases h2 : c' = a
    · subst h2; simp [hl.1]
    · simp [h2]

/-- What the banks of a core found touches only the management processor. -/
theorem reportFound_only (s : State) (cl : Cl) (c : Cn) (fs : List Found) :
    s.reportFound cl c fs = { s with mgmt := (s.reportFound cl c fs).mgmt } := by
  unfold State.reportFound
  apply foldl_mgmt
  intro s f
  dsimp only
  split <;> rfl

/-- A core that has run on to cycle t: what was due is visible. -/
def Core.ranTo (k : Core) (t : Nat) : Core := { (k.settle (max k.cyc t)).1 with cyc := max k.cyc t }

/-- Letting a core run on changes that core and reports what its banks found. -/
theorem coreTo_core (s : State) (cl : Cl) (c : Cn) (t : Nat) (cl' : Cl) (c' : Cn) :
    (s.coreTo cl c t).core cl' c' = if cl' = cl ∧ c' = c then (s.core cl c).ranTo t else s.core cl' c' := by
  unfold State.coreTo
  dsimp only
  rw [reportFound_only]
  show (s.setCore cl c _).core cl' c' = _
  rw [State.core_setCore_if]
  rfl

theorem coreTo_only (s : State) (cl : Cl) (c : Cn) (t : Nat) :
    s.coreTo cl c t = { s with cores := (s.coreTo cl c t).cores, mgmt := (s.coreTo cl c t).mgmt } := by
  unfold State.coreTo
  dsimp only
  rw [reportFound_only]
  rfl

theorem abortCore_core (s : State) (cl : Cl) (c : Cn) (cl' : Cl) (c' : Cn) :
    (s.abortCore cl c).core cl' c' = if cl' = cl ∧ c' = c then ((s.core cl c).ranTo (s.core cl c).cyc).abort else s.core cl' c' := by
  unfold State.abortCore
  dsimp only
  rw [State.core_setCore_if, coreTo_core, coreTo_core]
  split
  · rw [if_pos ⟨rfl, rfl⟩]
  · rfl

theorem abortCore_only (s : State) (cl : Cl) (c : Cn) :
    s.abortCore cl c = { s with cores := (s.abortCore cl c).cores, mgmt := (s.abortCore cl c).mgmt } := by
  unfold State.abortCore
  dsimp only
  rw [coreTo_only]
  rfl

/-- An aborted core: what was due has become visible, what is in flight is gone. -/
theorem abortCores_core (s : State) (cl : Cl) (m : BitVec 12) (cl' : Cl) (c' : Cn) :
    (s.abortCores cl m).core cl' c' =
      if cl' = cl ∧ m.getLsbD c'.val = true then ((s.core cl' c').ranTo (s.core cl' c').cyc).abort else s.core cl' c' := by
  unfold State.abortCores
  rw [foldl_coreStep cl (fun s c => if m.getLsbD c.val then s.abortCore cl c else s) (fun c => m.getLsbD c.val)
    (fun _ k => (k.ranTo k.cyc).abort) ?_ allCn allCn_nodup]
  · simp [mem_allCn]
  · intro s c cl' c'
    by_cases h : m.getLsbD c.val = true
    · rw [if_pos h, abortCore_core]
      by_cases h2 : cl' = cl ∧ c' = c
      · obtain ⟨rfl, rfl⟩ := h2; simp [h]
      · rw [if_neg h2, if_neg (fun e => h2 ⟨e.1, e.2.1⟩)]
    · rw [if_neg h, if_neg (fun e => h e.2.2)]

theorem abortCores_frame (s : State) (cl : Cl) (m : BitVec 12) :
    s.abortCores cl m = { s with cores := (s.abortCores cl m).cores, mgmt := (s.abortCores cl m).mgmt } := by
  unfold State.abortCores
  generalize allCn = l
  induction l generalizing s with
  | nil => rfl
  | cons a t ih =>
    simp only [List.foldl_cons]
    have h1 := ih (if m.getLsbD a.val then s.abortCore cl a else s)
    generalize hu : (if m.getLsbD a.val then s.abortCore cl a else s) = u at *
    have h2 : u = { s with cores := u.cores, mgmt := u.mgmt } := by
      rw [← hu]; split
      · exact abortCore_only _ _ _
      · rfl
    rw [h1, h2]

/-- Marking the posts of a task leaves the rings' registers, state and held lists alone. -/
theorem voidPosts_ring (s : State) (cl : Cl) (key : Nat) (cl' : Cl) {n' : Nat} (hn' : n' < 16) :
    (s.voidPosts cl key).ring cl' n' = { s.ring cl' n' with postBy := ((s.voidPosts cl key).ring cl' n').postBy } := by
  unfold State.voidPosts
  have h : ∀ (l : List Nat), (∀ x ∈ l, x < 16) → ∀ s : State, ∃ b, ((l.foldl (fun s n =>
      let r := s.ring cl n
      if r.postBy.any fun e => decide (e.2.key = key) then
        s.setRing cl n { r with postBy := r.postBy.map fun e => if e.2.key = key then (e.1, { e.2 with gone := true }) else e }
      else s) s).ring cl' n') = { s.ring cl' n' with postBy := b } := by
    intro l
    induction l with
    | nil => intro _ s; exact ⟨_, rfl⟩
    | cons a t ih =>
      intro hl s
      simp only [List.foldl_cons]
      dsimp only at ih ⊢
      split
      · obtain ⟨b, hb⟩ := ih (fun y h => hl y (by simp [h])) (s.setRing cl a { s.ring cl a with
          postBy := (s.ring cl a).postBy.map fun e => if e.2.key = key then (e.1, { e.2 with gone := true }) else e })
        rw [State.ring_setRing_if _ _ _ (hl a (by simp)) hn'] at hb
        refine ⟨b, hb.trans ?_⟩
        split
        · rename_i h; obtain ⟨rfl, rfl⟩ := h; rfl
        · rfl
      · exact ih (fun y h => hl y (by simp [h])) s
  obtain ⟨b, hb⟩ := h (List.range 16) (fun n h => List.mem_range.mp h) s
  rw [hb]

theorem voidPosts_only (s : State) (cl : Cl) (key : Nat) : s.voidPosts cl key = { s with rings := (s.voidPosts cl key).rings } := by
  unfold State.voidPosts
  generalize List.range 16 = l
  induction l generalizing s with
  | nil => rfl
  | cons a t ih =>
    simp only [List.foldl_cons]
    generalize hu : (if (s.ring cl a).postBy.any fun e => decide (e.2.key = key) then
        s.setRing cl a { s.ring cl a with postBy := (s.ring cl a).postBy.map fun e => if e.2.key = key then (e.1, { e.2 with gone := true }) else e }
      else s) = u
    have h2 : u = { s with rings := u.rings } := by rw [← hu]; split <;> rfl
    have h1 := ih u
    rw [h1, h2]

theorem trace_only (s : State) (cl : Cl) (r : Rec) : s.trace cl r = { s with clusters := (s.trace cl r).clusters } := by
  unfold State.trace
  split <;> rfl

theorem traceFlush_only (s : State) (cl : Cl) : s.traceFlush cl = { s with clusters := (s.traceFlush cl).clusters } := by
  unfold State.traceFlush
  dsimp only
  split <;> rfl

/-- A trace writer is all that a trace record touches of a cluster. -/
theorem trace_clu (s : State) (cl cl' : Cl) (r : Rec) :
    (s.trace cl r).clu cl' = { s.clu cl' with trace := ((s.trace cl r).clu cl').trace } := by
  unfold State.trace
  split
  · dsimp only
    rw [State.clu_setClu_if]
    split
    · rename_i h; subst h; rfl
    · rfl
  · rfl

theorem traceFlush_clu (s : State) (cl cl' : Cl) :
    (s.traceFlush cl).clu cl' = { s.clu cl' with trace := ((s.traceFlush cl).clu cl').trace } := by
  unfold State.traceFlush
  dsimp only
  split
  · rw [State.clu_setClu_if]
    split
    · rename_i h; subst h; rfl
    · rfl
  · rfl

theorem traceEnd_only (s : State) (r : TaskRun) (outcome : Nat) :
    s.traceEnd r outcome = { s with clusters := (s.traceEnd r outcome).clusters, freeCtr := (s.traceEnd r outcome).freeCtr } := by
  unfold State.traceEnd
  dsimp only
  rw [traceFlush_only, trace_only]
  rfl

/-- What a stop of a task does, over the state in which its cores have aborted and its posts are marked. -/
theorem stopTask_eq (s : State) (cl : Cl) (key outcome : Nat) (r : TaskRun) (h : find (s.clu cl).tasks key = some r) :
    ∃ u x y, u = (s.abortCores cl r.coreset).voidPosts cl key ∧
      s.stopTask cl key outcome = { u with clusters := x, accts := (u.trueUp cl r).accts, freeCtr := y } := by
  refine ⟨_, (s.stopTask cl key outcome).clusters, (s.stopTask cl key outcome).freeCtr, rfl, ?_⟩
  unfold State.stopTask
  rw [h]
  dsimp only
  generalize (s.abortCores cl r.coreset).voidPosts cl key = u
  rw [traceEnd_only]
  rfl

/-- A task that is stopped: its cores abort, its entry goes. -/
theorem stopTask_core (s : State) (cl : Cl) (key outcome : Nat) (r : TaskRun) (h : find (s.clu cl).tasks key = some r) (cl' : Cl) (c' : Cn) :
    (s.stopTask cl key outcome).core cl' c' =
      if cl' = cl ∧ r.coreset.getLsbD c'.val = true then ((s.core cl' c').ranTo (s.core cl' c').cyc).abort else s.core cl' c' := by
  obtain ⟨u, x, y, hu, e⟩ := stopTask_eq s cl key outcome r h
  have h2 := abortCores_core s cl r.coreset cl' c'
  have h3 := voidPosts_only (s.abortCores cl r.coreset) cl key
  rw [← hu] at h3
  generalize s.abortCores cl r.coreset = v at h2 h3
  rw [← h2, e, h3]
  rfl

/-- The fields of the state that a stop of a task leaves alone. -/
theorem stopTask_frame (s : State) (cl : Cl) (key outcome : Nat) :
    s.stopTask cl key outcome =
      { s with cores := (s.stopTask cl key outcome).cores, clusters := (s.stopTask cl key outcome).clusters,
               rings := (s.stopTask cl key outcome).rings, mgmt := (s.stopTask cl key outcome).mgmt,
               accts := (s.stopTask cl key outcome).accts, freeCtr := (s.stopTask cl key outcome).freeCtr } := by
  cases h : find (s.clu cl).tasks key with
  | none => unfold State.stopTask; rw [h]
  | some r =>
    obtain ⟨u, x, y, hu, e⟩ := stopTask_eq s cl key outcome r h
    have hf : u = { s with cores := u.cores, rings := u.rings, mgmt := u.mgmt } := by
      have h1 := voidPosts_only (s.abortCores cl r.coreset) cl key
      have h2 := abortCores_frame s cl r.coreset
      rw [← hu] at h1
      generalize s.abortCores cl r.coreset = v at h1 h2
      rw [h1, h2]
    generalize s.stopTask cl key outcome = z at e ⊢
    rw [e, hf]

/-- A stop of a task leaves the rings' registers, state and held lists alone. -/
theorem stopTask_ring (s : State) (cl : Cl) (key outcome : Nat) (cl' : Cl) {n' : Nat} (hn' : n' < 16) :
    (s.stopTask cl key outcome).ring cl' n' = { s.ring cl' n' with postBy := ((s.stopTask cl key outcome).ring cl' n').postBy } := by
  cases h : find (s.clu cl).tasks key with
  | none => unfold State.stopTask; rw [h]
  | some r =>
    obtain ⟨u, x, y, hu, e⟩ := stopTask_eq s cl key outcome r h
    have h1 := voidPosts_ring (s.abortCores cl r.coreset) cl key cl' hn'
    have h2 : (s.abortCores cl r.coreset).ring cl' n' = s.ring cl' n' := by
      have h2 := abortCores_frame s cl r.coreset
      generalize s.abortCores cl r.coreset = v at h2 ⊢
      rw [h2]; rfl
    rw [← hu, h2] at h1
    have hs : (s.stopTask cl key outcome).ring cl' n' = u.ring cl' n' := by rw [e]; rfl
    rw [hs]; exact h1

theorem stopTask_tasks (s : State) (cl : Cl) (key outcome : Nat) (r : TaskRun) (h : find (s.clu cl).tasks key = some r) :
    find ((s.stopTask cl key outcome).clu cl).tasks key = none := by
  unfold State.stopTask
  rw [h]
  dsimp only
  generalize (((s.abortCores cl r.coreset).voidPosts cl key).trueUp cl r).traceEnd r outcome = u
  rw [State.clu_setClu]
  exact find_del_same _ _

/-- A ring whose waits and readiness have been brought up to date: nothing else of it differs. -/
def Ring.Refreshed (a b : Ring) : Prop :=
  b = { a with waitSince := b.waitSince, wait2Since := b.wait2Since, tripped := b.tripped, tripped2 := b.tripped2
               readySince := b.readySince, readyRank := b.readyRank, keptAge := b.keptAge, keptHeld := b.keptHeld }

theorem Ring.Refreshed.refl (a : Ring) : a.Refreshed a := rfl
theorem Ring.Refreshed.trans {a b c : Ring} (h : a.Refreshed b) (k : b.Refreshed c) : a.Refreshed c := by
  unfold Ring.Refreshed at *; rw [k, h]

/-- Bringing a task ring up to date leaves its registers, its state and its held list alone. -/
theorem refreshRing_ring (s : State) (cl cl' : Cl) {n n' : Nat} (hn : n < 16) (hn' : n' < 16) :
    (s.ring cl' n').Refreshed ((s.refreshRing cl n).ring cl' n') := by
  unfold State.refreshRing
  dsimp only
  split
  · split
    all_goals
      rw [State.ring_setRing_if _ _ _ hn hn']
      split
      · rename_i h; obtain ⟨rfl, rfl⟩ := h; rfl
      · exact .refl _
  · exact .refl _

theorem refreshRing_only (s : State) (cl : Cl) (n : Nat) : s.refreshRing cl n = { s with rings := (s.refreshRing cl n).rings } := by
  unfold State.refreshRing
  dsimp only
  split
  · split <;> rfl
  · rfl

theorem refresh_ring (s : State) (cl cl' : Cl) {n' : Nat} (hn' : n' < 16) : (s.ring cl' n').Refreshed ((s.refresh cl).ring cl' n') := by
  unfold State.refresh
  have h : ∀ (l : List Nat), (∀ x ∈ l, x < 16) → ∀ s : State, (s.ring cl' n').Refreshed ((l.foldl (fun s n => s.refreshRing cl n) s).ring cl' n') := by
    intro l
    induction l with
    | nil => intro _ s; exact .refl _
    | cons x t ih =>
      intro hl s
      simp only [List.foldl_cons]
      exact (refreshRing_ring s cl cl' (hl x (by simp)) hn').trans (ih (fun y h => hl y (by simp [h])) _)
  exact h (List.range 16) (fun n h => List.mem_range.mp h) s

theorem refresh_only (s : State) (cl : Cl) : s.refresh cl = { s with rings := (s.refresh cl).rings } := by
  unfold State.refresh
  generalize List.range 16 = l
  induction l generalizing s with
  | nil => rfl
  | cons a t ih =>
    simp only [List.foldl_cons]
    have h1 := ih (s.refreshRing cl a)
    have h2 := refreshRing_only s cl a
    generalize s.refreshRing cl a = u at *
    rw [h1, h2]

@[simp] theorem refresh_core (s : State) (cl cl' : Cl) (c : Cn) : (s.refresh cl).core cl' c = s.core cl' c := by
  rw [refresh_only]; rfl
@[simp] theorem refresh_clu (s : State) (cl cl' : Cl) : (s.refresh cl).clu cl' = s.clu cl' := by
  rw [refresh_only]; rfl
@[simp] theorem refresh_stew (s : State) (cl cl' : Cl) : (s.refresh cl).stew cl' = s.stew cl' := by
  rw [refresh_only]; rfl

theorem abort_fields (k : Core) : k.abort.task = none ∧ k.abort.phase = .free ∧ k.abort.moves = [] ∧ k.abort.outs = [] ∧
    k.abort.hold = none ∧ k.abort.incomplete = 0 := ⟨rfl, rfl, rfl, rfl, rfl, rfl⟩

/-- A task fault stops the task and holds its descriptor (R69, R124). -/
theorem taskFault_held (s : State) (cl : Cl) (key kind core ia : Nat) (ws : List Nat) (status : Nat) (r : TaskRun)
    (h : find (s.clu cl).tasks key = some r) (hn : r.ring < 16) :
    TaskHeld s (s.taskFault cl key kind core ia ws status) cl key r := by
  unfold State.taskFault
  rw [h]
  dsimp only
  generalize hs1 : s.stopTask cl key (if kind = 7 then 2 else 1) = s1
  have hc := fun cl' c' => stopTask_core s cl key (if kind = 7 then 2 else 1) r h cl' c'
  have ht := stopTask_tasks s cl key (if kind = 7 then 2 else 1) r h
  have hr := stopTask_ring s cl key (if kind = 7 then 2 else 1) r.home hn
  rw [hs1] at hc ht hr
  have tail : ∀ (s2 s3 : State), (∀ cl' c', s2.core cl' c' = s1.core cl' c') → (∀ cl' n', s2.ring cl' n' = s1.ring cl' n') →
      find (s2.clu cl).tasks key = none → s3.cores = s2.cores → s3.clusters = s2.clusters →
      s3.rings = (s2.setRing r.home r.ring { s2.ring r.home r.ring with
        held := (s2.ring r.home r.ring).held ++ [⟨r.desc, r.slotAddr⟩], st := .halted, cause := 12 }).rings →
      TaskHeld s ((s3.refresh cl).refresh r.home) cl key r := by
    intro s2 s3 hc2 hr2 ht2 e1 e2 e3
    have hrf := (refresh_ring s3 cl r.home hn).trans (refresh_ring (s3.refresh cl) r.home r.home hn)
    have e4 : s3.ring r.home r.ring = { s2.ring r.home r.ring with
        held := (s2.ring r.home r.ring).held ++ [⟨r.desc, r.slotAddr⟩], st := .halted, cause := 12 } := by
      unfold State.ring; rw [e3]; exact State.ring_setRing _ _ _ _
    refine ⟨?_, ?_, ?_, ?_, ?_⟩
    · rw [refresh_clu, refresh_clu]; unfold State.clu; rw [e2]; exact ht2
    · intro c hcs
      rw [refresh_core, refresh_core]
      have : s3.core cl c = s2.core cl c := by unfold State.core; rw [e1]
      rw [this, hc2, hc, if_pos ⟨rfl, hcs⟩]
      exact abort_fields _
    all_goals
      rw [hrf, e4, hr2, hr]
  split
  · rename_i k _
    exact tail (s1.setClu cl ((s1.clu cl).setSlot k { (s1.clu cl).slot k with st := .discarding, cause := 2 })) _
      (fun _ _ => rfl) (fun _ _ => rfl) (by rw [State.clu_setClu]; exact ht) rfl rfl rfl
  · exact tail s1 _ (fun _ _ => rfl) (fun _ _ => rfl) ht rfl rfl rfl

/-! ### Waking -/

/-- A core after a counter has moved: its held wait on that counter completes if it is satisfied; else nothing. -/
theorem wake_core (s : State) (n : Nat) (cl : Cl) (c : Cn) :
    (s.wake n).core cl c = s.core cl c ∨ (s.wake n).core cl c = (s.core cl c).release := by
  have h : ∀ (m : Bool) (p : Option Hold → Bool), (∀ k : Core, k = Core.init → p k.hold = false) →
      look Core.init (mapS Core.init (fun _ k => if (m && p k.hold) = true then k.release else k) s.cores) (coreKey cl c) =
        if (m && p (s.core cl c).hold) = true then (s.core cl c).release else s.core cl c := by
    intro m p hp
    exact look_mapS _ _ _ _ (by rw [hp Core.init rfl]; simp)
  unfold State.wake
  dsimp only
  have key : ∀ (m : Bool), look Core.init (mapS Core.init (fun _ k => if (m && (match k.hold with
      | some h => decide (h.why = .counter n)
      | none => false)) = true then k.release else k) s.cores) (coreKey cl c) = s.core cl c ∨
      look Core.init (mapS Core.init (fun _ k => if (m && (match k.hold with
      | some h => decide (h.why = .counter n)
      | none => false)) = true then k.release else k) s.cores) (coreKey cl c) = (s.core cl c).release := by
    intro m
    rw [h m (fun x => match x with
      | some h => decide (h.why = .counter n)
      | none => false) (fun k hk => by rw [hk]; rfl)]
    exact (ite_eq_or_eq _ _ _).symm
  split
  · rw [refresh_core]; exact key _
  · exact key _

/-- A wake touches only cores, steward cores and rings. -/
theorem wake_only (s : State) (n : Nat) :
    s.wake n = { s with cores := (s.wake n).cores, stewards := (s.wake n).stewards, rings := (s.wake n).rings } := by
  unfold State.wake
  dsimp only
  split
  · rw [refresh_only]
  · rfl

/-- A sequencer that holds nothing is left alone by a wake. -/
theorem wake_core_idle (s : State) (n : Nat) (cl : Cl) (c : Cn) (h : (s.core cl c).hold = none) : (s.wake n).core cl c = s.core cl c := by
  rcases wake_core s n cl c with h1 | h1
  · exact h1
  · rw [h1]; unfold Core.release; rw [h]

end Sys2Proof.Machine
end

