-- ==== Sys2Proof/Tests/Slice0.lean ====
section
/-! SUPPORT. Tests: ill-formed commands that are refused, the spec's worked examples, and for each statement of the certificate
states and operands that meet the hypotheses of its clauses. -/

namespace Sys2Proof.Tests

open Sys2Proof Sys2Proof.Machine

set_option Elab.async false

/-! ### Small states -/

/-- A core in a task, its first instruction line cached. -/
def kRun : Core := { Core.init with phase := .running, task := some 0, icache := [0], regs := [(1, 64#64)] }

/-- A task of core 0 from ring 2. -/
def run0 : TaskRun := ⟨2, 0, 0, 0, 1#12, none, 0, 0, 0⟩

/-- Cluster 0, running, with one task. -/
def clu0 : Cluster := { Cluster.init with isl := .running, icache := [0], tasks := [(0, run0)] }

/-- A device that is up; partition 0 owns granule (0, 0) and DRAM granule 0 of die 0 and runs a task on core 0 of cluster 0. -/
def base : State :=
  ((({ State.reset with
    boot := { State.reset.boot with phase := .up, watchdog := true }
    fw := { State.reset.fw with up := true }
    clusters := [(0, clu0)]
    parts := [(0, { Part.init with run := .running })] }.setObj 0x3010 1 0).setObj 0x3011 1 (256 ^ 96 - 256)).setCore 0 0 kRun).setStew 0
      { Steward.init with regs := [(1, 0x80#64)] }

/-- An issue of core 0, and of the steward core, of cluster 0. -/
def wc : At := ⟨0, .core 0, 0⟩
def ws : At := ⟨0, .steward, 0⟩

/-- The base with another core 0, cluster 0, steward core, ring n of cluster 0, or partition 0 (with a run on die 0). -/
def onCore (f : Core → Core) : State := base.setCore 0 0 (f kRun)
def onClu (f : Cluster → Cluster) : State := base.setClu 0 (f clu0)
def onStew (f : Steward → Steward) : State := base.setStew 0 (f (base.stew 0))
def onRing (n : Nat) (f : Ring → Ring) : State := base.setRing 0 n (f Ring.init)
def onPart (f : Part → Part) : State := base.setPart 0 (f { base.part 0 with runDies := 1 })

/-- The base with another DRAM. -/
def dramAt (f : DramSt → DramSt) : State := { base with dram := f base.dram }

/-- The base with another boot state, or other firmware. -/
def booting (f : Boot → Boot) : State := { base with boot := f base.boot }
def updating (f : Fw → Fw) : State := { base with fw := f base.fw }

/-- The base with both links of the control ports up and function f in a state of its own; the same with function 0 bound to partition 0. -/
def reached (f : Nat) (g : Fn → Fn) : State :=
  ({ base with ports := { base.ports with portA := { base.ports.portA with gen := 6, width := 4 }, portB := { base.ports.portB with gen := 6, width := 4 } } }).setFn f (g Fn.init)
def bound0 (g : Fn → Fn) : State := (reached 0 g).setObj 0x3030 1 0

/-! ### Witnesses -/

theorem test_wit_ScalarResults :
    (∀ i ∈ [Instr.movi wc 31 (-2147483648), .add wc 31 1 (.imm 0), .sub wc 0 1 (.reg 31), .and wc 2 1 (.reg 1), .or wc 2 1 (.reg 1), .xor wc 2 1 (.reg 1),
      .shl wc 2 1 (.imm 64), .shr wc 2 1 (.imm 63), .sra wc 2 1 (.imm 63), .mul wc 2 31 31], base.readyFor wc i .both = true) ∧
    base.readyFor ws (.movi ws 1 2147483647) .both = true ∧ srcOk (.imm 0) = true ∧ srcOk (.reg 31) = true := by decide +kernel

theorem test_wit_BranchesAndNop :
    ∀ i ∈ [Instr.beq wc 0 31 0, .bne wc 0 31 0, .blt wc 0 31 0, .bge wc 0 31 (2 ^ 48 - 128), .jmp wc (2 ^ 48 - 1), .nop wc], base.readyFor wc i .both = true := by decide +kernel

theorem test_wit_OperandOutOfRangeFaults :
    base.readyFor wc (.add wc 32 0 (.imm 0)) .both = true ∧ base.readyFor wc (.add wc 31 32 (.imm 0)) .both = true ∧ base.readyFor ws (.add ws 32 0 (.imm 0)) .both = true ∧
    (base.core 0 0).task = some 0 ∧ find (base.clu 0).tasks 0 = some run0 ∧ run0.ring < 16 := by decide +kernel

/-- A tile drain to BF16 whose operands lie in range, and a pending output that writes nothing. -/
def drn0 : Drain := ⟨.none, 0, .none, 0, .none, .none, 0, .bf16, false, 0, 0, 0⟩
def out0 : PendOut := ⟨100, 0, false, 0, [], [], none⟩

theorem test_wit_CoreConfiguration :
    base.readyFor wc (.config wc .mxfp4 .mxfp4) .core = true ∧ (Fmt.mxfp4, Fmt.mxfp4) ∈ acceptedPairs ∧ (base.core 0 0).moves = [] ∧ (base.core 0 0).incomplete = 0 ∧
    base.readyFor wc (.config wc .bf16 .fp16) .core = true ∧ (Fmt.bf16, Fmt.fp16) ∉ acceptedPairs ∧ (base.core 0 0).slices = [] ∧
    base.readyFor wc (.setmask wc 0 0) .core = true ∧ base.readyFor wc (.srseed wc 31) .core = true := by decide +kernel

theorem test_wit_ArrayInstructionTiming :
    (base.core 0 0).moves = [] ∧ (base.core 0 0).incomplete = 0 ∧ (base.core 0 0).schedCheck = false ∧ (base.core 0 0).slices = [] ∧
    base.readyFor wc (.tprod wc 3 0 4096 0 0 1 false false none) .core = true ∧ firstBad (tprodOks (base.core 0 0) 3 0 4096 0 0 1 none) 0 = none ∧
    firstBad (tprodOks (base.core 0 0) 0 0 4096 0 0 1 (some drn0)) 0 = none ∧ base.readyFor wc (.tprod wc 0 0 4096 0 0 1 true true (some drn0)) .core = true ∧
    base.readyFor wc (.tdrain wc 3 drn0) .core = true ∧ drainOk drn0 = true ∧
    base.readyFor wc (.tew wc .add 0 4096 0 false drn0) .core = true ∧ firstBad (tewOks (base.core 0 0) .add 0 4096 0 drn0) 0 = none ∧
    (let k := (onCore fun k => { k with schedCheck := true }).core 0 0; k.schedCheck = true ∧ k.outs = []) := by decide +kernel

/-- The core with row 0 masked, and a slice of tile 1. -/
def rowOff : State := onCore fun k => { k with rowMask := 0xFFFFFFFE }
def slice1 : PendSlice := ⟨0, 0, 1, false, false, false, .bf16, .bf16, [], [], 0, 0, none⟩

theorem test_wit_TprodKeepsMaskedAccumulators :
    (∃ t, exec (.tprod wc 0 0 4096 0 0 1 false false none) rowOff = .next t) ∧ (rowOff.core 0 0).rowMask.getLsbD 0 = false ∧ (rowOff.core 0 0).slices = [] ∧
    (∀ p ∈ ({ kRun with slices := [slice1] } : Core).slices, p.acc < 4 ∧ ((2 : Nat) ≠ p.acc ∨ p.rows.getLsbD 0 = false)) := ⟨⟨_, rfl⟩, by decide +kernel⟩

theorem test_wit_ArrayOutputBecomesVisible : ((onCore fun k => { k with outs := [out0] }).core 0 0).outs ≠ [] ∧ (base.core 0 0).outs = [] ∧ (base.core 0 0).slices = [] := by
  decide +kernel

/-- A tile of one operand region, and a move of one line. -/
def args0 : MoveArgs := ⟨0, .oper, 2, 3, .none, false, 2, 0, .keep⟩
def mv : Move :=
  { kind := .load, serial := 0, ia := 0, args := args0, addr := 0, stride := 0, scl := 0, tag := 0, regions := 1, ring := 0, segs := [(0, 128)]
    lines := [0], got := [], rows := 0, buf := Mem.empty, retries := 0, stallSince := none, stalled := none, tripped := false }

theorem test_wit_TileMovesIssue :
    base.readyFor wc (.tload wc args0) .core = true ∧ firstBad (base.moveOks wc true args0) 0 = none ∧
    base.readyFor wc (.tstore wc args0) .core = true ∧ firstBad (base.moveOks wc false args0) 0 = none ∧ (base.core 0 0).moves = [] ∧ (base.core 0 0).incomplete = 0 := by decide +kernel

/-- Core 0 with a move in slot n, in a task of slot 3 of its cluster or not; and the same with 8 shadow lines in the set of line 0 (R132). -/
def movesAt (n : Nat) (v : Move) : State := onCore fun k => { k with moves := [(n, v)] }
def storing : State := movesAt 3 { mv with kind := .store }
def specRun (sl : Slot) : Cluster := { clu0 with tasks := [(0, { run0 with slot := some 3 })], slots := [(3, { sl with st := .running, taskKey := 0 })] }
def storingSpec : State := storing.setClu 0 (specRun Slot.init)
def storingFull : State := storing.setClu 0 (specRun { Slot.init with written := (List.range 8).map fun i => (1536 * (i + 1), 1) })

theorem test_wit_MoveLinesAreAnswered :
    (let s := movesAt 0 mv
     find (s.core 0 0).moves 0 = some mv ∧ PermCoherent s 0 ∧ 0 < mv.lines.length ∧ 0 ∉ mv.got ∧ s.lineBusy 0 (mv.lines.getD 0 0) = false ∧ Allowed s 0 0 false ∧
      ((s.reqStatus 0 0 false).1.clRead 0 (s.slotOf 0 0) 0 128 mv.args.hint mv.tag 2).2.2 = 0) ∧
    (PermCoherent storing 0 ∧ storing.lineBusy 0 0 = false ∧ storing.slotOf 0 0 = none ∧ Allowed storing 0 0 true ∧ find (storing.core 0 0).moves 3 = some { mv with kind := .store }) ∧
    (PermCoherent storingSpec 0 ∧ storingSpec.lineBusy 0 0 = false ∧ storingSpec.slotOf 0 0 = some 3 ∧ Allowed storingSpec 0 0 true ∧ (storingSpec.clu 0).shadowLimit 3 0 = none ∧
      ((storingSpec.reqStatus 0 0 true).1.shadowWrite 0 3 mv.buf 0 (segMask mv.segs 0) mv.args.hint mv.tag).2 = 0) ∧
    (PermCoherent storingFull 0 ∧ storingFull.lineBusy 0 0 = false ∧ storingFull.slotOf 0 0 = some 3 ∧ Allowed storingFull 0 0 true ∧ (storingFull.clu 0).shadowLimit 3 0 ≠ none ∧
      mv.stallSince = none) := by unfold PermCoherent Allowed; decide +kernel

theorem test_wit_MovesRestartAndComplete :
    find ((movesAt 0 { mv with retries := 2 }).core 0 0).moves 0 = some { mv with retries := 2 } ∧ mv.got.length ≠ mv.lines.length ∧
    find ((movesAt 3 { mv with retries := 3 }).core 0 0).moves 3 = some { mv with retries := 3 } ∧
    (base.core 0 0).task = some 0 ∧ find (base.clu 0).tasks 0 = some run0 ∧ run0.ring < 16 ∧ ({ mv with got := [0] } : Move).got.length = mv.lines.length := by decide +kernel

theorem test_wit_MoveFaultsAbortTheTask :
    find ((movesAt 0 mv).core 0 0).moves 0 = some mv ∧ mv.got.length ≠ mv.lines.length ∧ ((movesAt 0 mv).core 0 0).task = some 0 ∧
    find ((movesAt 0 mv).clu 0).tasks 0 = some run0 ∧ run0.coreset.getLsbD 0 = true ∧ run0.ring < 16 := by decide +kernel

/-- Cluster 0 with the first line of device memory in its cache: a MOVE descriptor at 64 whose destination is a tile store (R236). -/
def cluDesc : Cluster :=
  { clu0 with cache := { Cache.init with mem := ⟨[(126, 8), (127, 1)], []⟩, lines := [(0, { Line.init with mask := maskAll })] } }

theorem test_wit_PostsGoOut :
    (base.reg wc 1).toNat % 64 = 0 ∧ (base.ring 0 15).kind = 0 ∧ (base.ring 0 15).sys = false ∧ base.slotOf 0 0 = none ∧
    base.readyFor wc (.rpost wc 15 1 none) .core = true ∧ base.readyFor ws (.rpost ws 0 1 none) .steward = true ∧
    base.readyFor ws (.stewardRpost ws 15 1) .steward = true ∧ base.readyFor ws (.tpost ws 0 1) .steward = true ∧
    (let s := onRing 2 fun r => { r with rcfg := 4096 }
     s.readyFor ws (.tpost ws 2 1) .steward = true ∧ (s.ring 0 2).kind = 1 ∧ s.readyFor ws (.stewardRpost ws 2 1) .steward = true) ∧
    (let s := onClu fun _ => cluDesc
     let d := (s.template wc 0 64 (some 0)).getD 0
     s.template wc 0 64 (some 0) = some d ∧ dOneSide d = true ∧ spanInTs (dTsSpan d) = true ∧ (s.reg wc 1).toNat = 64 ∧
     s.readyFor wc (.rpost wc 15 1 (some 0)) .core = true ∧ (s.core 0 0).moves = [] ∧ (s.core 0 0).incomplete = 0) := by decide +kernel

/-- A post of the steward core on ring 15 that is to write a slot of the ring in a given state; of core 0 on ring 2. -/
def postS : Post := ⟨15, 64, none, ⟨0, 0, 0, none, false⟩⟩
def posting (f : Ring → Ring) : State := (onStew fun k => { k with posts := [postS] }).setRing 0 15 (f Ring.init)
def corePost : State := onCore fun k => { k with posts := [{ postS with ring := 2 }] }

theorem test_wit_PostWritesSlotAndAdvancesTail :
    (∀ s ∈ [posting id, posting fun r => { r with tail := 2 ^ 31, st := .running }, posting fun r => { r with tail := 2 ^ 31, st := .running, ph := .moving }],
      PermCoherent s 0 ∧ (s.stew 0).posts = postS :: [] ∧ s.postWaits 0 postS = false ∧ s.chanDown (lineOf postS.src) = false ∧ Allowed s 0 postS.src false ∧
      Allowed s 0 ((s.ring 0 15).slotAddr (s.ring 0 15).tail.toNat) true ∧ (s.ring 0 15).posted = false ∧ (s.ring 0 15).granted = false) ∧
    ((posting id).ring 0 15).fill < ((posting id).ring 0 15).depth ∧
    (let r := (posting fun r => { r with tail := 2 ^ 31, st := .running }).ring 0 15; r.depth ≤ r.fill ∧ r.ph ≠ .moving ∧ r.st = .running) ∧
    (PermCoherent corePost 0 ∧ (corePost.core 0 0).posts = { postS with ring := 2 } :: [] ∧ corePost.postWaits 0 { postS with ring := 2 } = false ∧
      Allowed corePost 0 ((corePost.ring 0 2).slotAddr (corePost.ring 0 2).tail.toNat) true) := by unfold PermCoherent Allowed; decide +kernel

/-- Slot 3 of cluster 0 holds the speculative task of core 0. -/
def spec0 : State := onClu fun v => { v with tasks := [(0, { run0 with slot := some 3 })], slots := [(3, { Slot.init with st := .running, taskKey := 0 })] }

theorem test_wit_CounterInstructions :
    base.crefOk wc (.own 47) = true ∧ base.crefOk wc (.hub 55) = true ∧ base.amtOk wc (.imm 1) = true ∧ base.amtOk ws (.imm 65535) = true ∧
    (let s := base.setStew 0 { Steward.init with regs := [(1, BitVec.ofNat 64 (nameHub 0 63))] }
     s.crefOk ws (.full 1) = true ∧ s.crefNarrow ws (.full 1) = true ∧ s.readyFor ws (.cinc ws (.full 1) (.imm 1) false) .both = true ∧
     s.readyFor ws (.cexp ws (.full 1) (.imm 1)) .both = true ∧ s.readyFor ws (.cread ws 31 (.full 1) false) .both = true ∧
     s.readyFor ws (.cwait ws (.full 1)) .both = true) ∧
    base.readyFor wc (.cinc wc (.own 47) (.imm 1) false) .both = true ∧ base.slotOf 0 0 = none ∧ base.readyFor wc (.cinc wc (.own 47) (.imm 1) true) .both = true ∧
    base.crefNarrow wc (.own 0) = true ∧ base.readyFor wc (.cexp wc (.own 0) (.imm 1)) .both = true ∧ base.readyFor wc (.cread wc 31 (.own 47) true) .both = true ∧
    base.readyFor ws (.cwstat ws 0) .steward = true ∧
    (spec0.crefOk wc (.hub 55) = true ∧ spec0.amtOk wc (.imm 1) = true ∧ spec0.readyFor wc (.cinc wc (.hub 55) (.imm 1) false) .both = true ∧
      spec0.readyFor wc (.cinc wc (.hub 55) (.imm 1) true) .both = true ∧ spec0.deferSlot 0 0 (spec0.crefName wc (.hub 55)) = some 3 ∧
      ((spec0.clu 0).slot 3).deferq.length < 64) := by decide +kernel

theorem test_wit_WaitsUseTheWrappingComparison :
    (let s := base.setCtr (base.crefName wc (.own 0)) ⟨0, 1, false⟩
     s.crefNarrow wc (.own 0) = true ∧ s.readyFor wc (.cwait wc (.own 0)) .both = true ∧ s.holdOf wc = none ∧
      reaches (s.ctr (s.crefName wc (.own 0))).value (s.ctr (s.crefName wc (.own 0))).expected = false) ∧
    base.crefNarrow wc (.own 0) = true ∧ base.readyFor wc (.cwait wc (.own 0)) .both = true ∧ reaches (base.ctr (base.crefName wc (.own 0))).value (base.ctr (base.crefName wc (.own 0))).expected = true ∧
    reaches 0x7FFFFFFF 0 = true ∧ reaches 0x80000000 0 = false ∧ reaches 0 0 = true := by decide +kernel

theorem test_wit_ReadsAndArmedIncrementsComplete :
    ((onCore fun k => { k with creads := [⟨31, 5, true⟩] }).core 0 0).creads = [⟨31, 5, true⟩] ∧ ((onStew fun k => { k with creads := [⟨0, 5, false⟩] }).stew 0).creads = [⟨0, 5, false⟩] ∧
    (let s := onCore fun k => { k with armed := [⟨5, 1, 0, 0⟩] }; (s.core 0 0).armed = [⟨5, 1, 0, 0⟩] ∧ (∀ e ∈ (s.core 0 0).moves, 0 ≤ e.2.serial) ∧ s.slotOf 0 0 = none) ∧
    (let s := onCore fun k => { k with armed := [⟨5, 1, 0, 1⟩], moves := [(0, ⟨.load, 0, 0, ⟨0, .oper, 2, 3, .none, false, 2, 0, .keep⟩, 0, 0, 0, 0, 1, 0, [], [0], [], 0, Mem.empty, 0, none, none, false⟩)] }
     ∃ e ∈ (s.core 0 0).moves, e.2.serial < 1) := by decide +kernel

/-- The base with packets and acknowledgements on their way. -/
def netOf (f : List Packet) (a : List Sender) : State := { base with net := ⟨f, a⟩ }
/-- Partition 0 frozen. -/
def frozen : State := { base.setPart 0 { base.part 0 with frozen := true } with net := ⟨[⟨nameHub 0 63, 1, .steward 0, 0⟩], []⟩ }

theorem test_wit_SyncNetworkMovesCounters :
    (let s := netOf [⟨nameHub 0 63, 1, .steward 0, 0⟩] [.core 0 0 0, .core 0 0 7, .steward 0, .ring 0 15, .dispatcher 0, .released 0]
     s.power.tripped = false ∧ s.net.flight[0]? = some ⟨nameHub 0 63, 1, .steward 0, 0⟩ ∧ (s.part (s.clPart (nameCl (nameHub 0 63)))).frozen = false ∧
     s.net.acks[0]? = some (.core 0 0 0) ∧ s.net.acks[1]? = some (.core 0 0 7) ∧ s.net.acks[2]? = some (.steward 0) ∧ s.net.acks[3]? = some (.ring 0 15) ∧
     s.net.acks[4]? = some (.dispatcher 0) ∧ s.net.acks[5]? = some (.released 0)) ∧
    (frozen.net.flight[0]? = some ⟨nameHub 0 63, 1, .steward 0, 0⟩ ∧ (frozen.part (frozen.clPart (nameCl (nameHub 0 63)))).frozen = true) ∧
    (nameOk (nameHub 0 63) = true ∧ (((0x7FFFFFFF#32).toNat : Int) - ((base.ctr (nameHub 0 63)).value.toNat : Int)) % 2 ^ 32 < 2 ^ 31 ∧
      2 ^ 31 ≤ (((0x80000000#32).toNat : Int) - ((base.ctr (nameHub 0 63)).value.toNat : Int)) % 2 ^ 32) ∧
    (let s := onCore fun k => { k with toSettle := [5] }; (s.core 0 0).settleWait = 0 ∧ (s.core 0 0).toSettle ≠ []) := by decide +kernel

theorem test_wit_FenceAndEndWaitForTheScoreboard :
    base.readyFor wc (.fence wc) .core = true ∧ base.readyFor wc (.endTask wc) .core = true ∧ (base.core 0 0).moves = [] ∧ (base.core 0 0).incomplete = 0 ∧
    (base.core 0 0).slices = [] ∧
    (let s := movesAt 0 mv
     (s.core 0 0).moves ≠ [] ∧ s.holdOf wc = none ∧ s.readyFor wc (.fence wc) .core = true ∧ s.readyFor wc (.endTask wc) .core = true) := by decide +kernel

/-- Core 0 has executed END, having touched its own counter 0. -/
def ended : State := onCore fun k => { k with phase := .ending, touched := [nameCore 0 0 0] }

theorem test_wit_BalanceCheckEndsTheTask :
    (ended.core 0 0).task = some 0 ∧ find (ended.clu 0).tasks 0 = some run0 ∧ run0.slot = none ∧ run0.coreset.getLsbD 0 = true ∧ (ended.core 0 0).phase = .ending ∧
    (ended.core 0 0).unacked = 0 ∧ (ended.core 0 0).armed = [] ∧
    (∀ n ∈ (ended.core 0 0).touched, isOwn 0 0 n = true → (ended.ctr n).value = (ended.ctr n).expected ∧ ended.heldWaiter n = false) ∧
    run0.passed ||| BitVec.ofNat 12 (2 ^ 0) = run0.coreset ∧
    ({ run0 with coreset := 3 } : TaskRun).passed ||| BitVec.ofNat 12 (2 ^ 0) ≠ ({ run0 with coreset := 3 } : TaskRun).coreset ∧
    (∀ c' : Cn, run0.coreset.getLsbD c'.val = true → ∀ n ∈ (ended.core 0 c').touched, nameIsHub n = true → (ended.ctr n).value = (ended.ctr n).expected ∧ ended.heldWaiter n = false) ∧
    (let s := ended.setCtr (nameCore 0 0 0) ⟨1, 2, false⟩; nameCore 0 0 0 ∈ (s.core 0 0).touched ∧ isOwn 0 0 (nameCore 0 0 0) = true ∧
      (s.ctr (nameCore 0 0 0)).value ≠ (s.ctr (nameCore 0 0 0)).expected) ∧ run0.ring < 16 := by
  decide +kernel

/-- Core 0 asks for a line that is not in its instruction cache, in a page with EXEC or without; the line may be in the cluster's. -/
def wf2 : At := ⟨0, .core 0, 2 ^ 21⟩
def wantLine : State := { (onCore fun k => { k with npc := some (2 ^ 21) }) with dram := { State.reset.dram with permTable := [(1, 7)] } }
def noExec : State := { wantLine with dram := State.reset.dram }

theorem test_wit_InstructionLinesAreFetched :
    (wantLine.seqRuns wf2 = true ∧ wantLine.icHit wf2 = false ∧ wantLine.demand wf2 = true ∧ isDram (2 ^ 21) = true ∧ PermCoherent wantLine 0) ∧
    permX (wantLine.permEntry (wantLine.clPart 0) 1) = true ∧ lineOf (2 ^ 21) ∉ (wantLine.clu 0).icache ∧ wantLine.lineBusy 0 (lineOf (2 ^ 21)) = false ∧
    (let x := (wantLine.permUse 0 1).1.cacheRead 0 none (128 * lineOf (2 ^ 21)) 128 ((wantLine.clu 0).cache.ownHint (lineOf (2 ^ 21))).1
       ((wantLine.clu 0).cache.ownHint (lineOf (2 ^ 21))).2 1 (wantLine.readHits 0 none (128 * lineOf (2 ^ 21)) 128)
     x.2.2 = 0 ∧ x.2.1.anyPoison (128 * lineOf (2 ^ 21)) 128 = false) ∧
    (let s := wantLine.setClu 0 { wantLine.clu 0 with icache := [lineOf (2 ^ 21)] }; s.icHit wf2 = false ∧ s.demand wf2 = true ∧ lineOf (2 ^ 21) ∈ (s.clu 0).icache) ∧
    (permX (noExec.permEntry (noExec.clPart 0) 1) = false ∧ noExec.seqRuns wf2 = true ∧ noExec.icHit wf2 = false ∧ noExec.demand wf2 = true ∧ (noExec.core 0 0).task = some 0 ∧
      find (noExec.clu 0).tasks 0 = some run0) := by unfold PermCoherent; decide +kernel

theorem test_wit_StewardEvents :
    base.readyFor ws (.evwait ws) .steward = true ∧ (base.stew 0).evq = [] ∧ base.holdOf ws = none ∧
    (let s := onStew fun k => { k with evq := [5] }; (s.stew 0).evq = 5 :: [] ∧ s.readyFor ws (.evread ws 31) .steward = true ∧ s.readyFor ws (.evwait ws) .steward = true) ∧
    base.readyFor ws (.evread ws 0) .steward = true ∧ base.readyFor ws (.evarg ws 31 7) .steward = true ∧
    base.readyFor ws (.evarg ws 0 1) .steward = true ∧ base.readyFor ws (.icinv ws) .steward = true := by decide +kernel

theorem test_wit_StewardActsOnTasksAndSlots :
    spec0.readyFor ws (.scommit ws 3) .steward = true ∧ ((spec0.clu 0).slot 3).st = .running ∧ spec0.readyFor ws (.sdiscard ws 3) .steward = true ∧
    find (spec0.clu 0).tasks ((spec0.clu 0).slot 3).taskKey = some { run0 with slot := some 3 } ∧ ((spec0.clu 0).slot 0).st = .free ∧
    spec0.readyFor ws (.scommit ws 0) .steward = true ∧ spec0.readyFor ws (.sdiscard ws 0) .steward = true ∧
    (let s := onClu fun v => { v with slots := [(3, { Slot.init with st := .ended })] }; ((s.clu 0).slot 3).st = .ended ∧ s.readyFor ws (.sdiscard ws 3) .steward = true) ∧
    base.readyFor ws (.tabort ws 4095) .steward = true ∧ ((base.clu 0).tasks.map (·.1)).Nodup ∧ (0, run0) ∈ (base.clu 0).tasks ∧ run0.coreset &&& BitVec.ofNat 12 4095 ≠ 0 ∧
    run0.coreset &&& BitVec.ofNat 12 4094 = 0 ∧ run0.ring < 16 := by decide +kernel

/-- A task descriptor of core 1 with ENTRY in page 1 (R115), and page 1 executable; a task ring of the steward that holds descriptors. -/
def taskD : BitVec 512 := BitVec.ofNat 512 (2 ^ 505 + 2 ^ 477 + 2 ^ 437)
def execPage (s : State) : State := { s with dram := { s.dram with permTable := [(1, 7)] } }
def holdsTasks (l : List Held) : State := onRing 2 fun r => { r with rcfg := 4096, st := .halted, cause := 12, held := l }

theorem test_wit_HeldDescriptorsAreRetriedOrSkipped :
    base.readyFor ws (.tretry ws 15) .steward = true ∧ base.readyFor ws (.tskip ws 15) .steward = true ∧ (base.ring 0 15).kind ≠ 1 ∧
    ((holdsTasks []).ring 0 2).kind = 1 ∧ ((holdsTasks []).ring 0 2).badTask = false ∧
    (let s := execPage (holdsTasks [⟨taskD, 0⟩, ⟨0, 64⟩])
     s.readyFor ws (.tskip ws 2) .steward = true ∧ s.readyFor ws (.tretry ws 2) .steward = true ∧ (s.ring 0 2).kind = 1 ∧ (s.ring 0 2).held = ⟨taskD, 0⟩ :: [⟨0, 64⟩] ∧
     (s.ring 0 2).posted = false ∧ (s.ring 0 2).granted = false ∧ s.taskOk 0 0 taskD = true) ∧
    (let s := holdsTasks [⟨taskD, 0⟩]; s.readyFor ws (.tretry ws 2) .steward = true ∧ s.taskOk 0 0 taskD = false) := by decide +kernel

/-- Cluster 0 with a dirty line 0 alone in its cache. -/
def dirty0 : Line := { Line.init with dirty := true, mask := 1 }
def cluDirty : State := onClu fun v => { v with cache := { Cache.init with lines := [(0, dirty0)] } }

theorem test_wit_StewardCacheInstructions :
    (base.reg ws 1).toNat % 128 = 0 ∧ (base.reg ws 0).toNat % 128 = 0 ∧ base.readyFor ws (.ccdiscard ws 0 1) .steward = true ∧
    base.readyFor ws (.ccmark ws 4095 .dead) .steward = true ∧ base.readyFor ws (.cclean ws 0 1) .steward = true ∧ base.readyFor ws (.ccflush ws 0 1) .steward = true ∧
    (base.clu 0).ccLines = [] ∧ base.holdOf ws = none ∧ (base.clu 0).cache.lines = [] ∧
    cluDirty.holdOf ws = none ∧ cluDirty.readyFor ws (.cclean ws 0 1) .steward = true ∧ cluDirty.readyFor ws (.ccflush ws 0 1) .steward = true ∧
    ((cluDirty.clu 0).cache.lines.map (·.1)).Nodup ∧ (0, dirty0) ∈ (cluDirty.clu 0).cache.lines ∧ dirty0.dirty = true ∧ dirty0.wb = false ∧
    inRange (cluDirty.reg ws 0).toNat (cluDirty.reg ws 1).toNat 0 = true ∧ inRange (cluDirty.reg ws 0).toNat (cluDirty.reg ws 1).toNat 1 = false := by
  decide +kernel

theorem test_wit_RingRegistersAreWrittenAndRead :
    (base.ring 0 15).writable = true ∧ ((onRing 0 fun r => { r with st := .running }).ring 0 0).writable = false ∧ base.readyFor ws (.rset ws 15 .tail 1) .steward = true ∧
    base.clPart 255 ≠ base.clPart 0 ∧ base.readyFor ws (.rget ws 31 15 .donecnt) .steward = true ∧ (base.clu 0).isl ≠ .fenced ∧ (base.clu 0).isl ≠ .gated ∧
    ((onClu fun v => { v with isl := .gated }).clu 0).isl = .gated ∧ ((onClu fun v => { v with isl := .fenced }).clu 0).isl = .fenced := by decide +kernel

/-- R229's worked block: ring (1, 6, 1, 4) at 0xFF00_0138_0400. -/
theorem test_ring_block : 0xFF0000000000 + 2 ^ 24 * 1 + 2 ^ 18 * (8 * 1 + 6) + 2 ^ 8 * 4 = 0xFF0001380400 ∧ ctlAddr (clAt 1 6 1) 4 .rbase = 0xFF0001380400 := by decide +kernel

theorem test_wit_RingCommands :
    (base.ring 0 15).kind = 0 ∧ (base.ring 0 15).posted = false ∧ (base.ring 0 15).granted = false ∧ base.readyFor ws (.rstart ws 15) .steward = true ∧
    base.readyFor ws (.rstop ws 15) .steward = true ∧ base.readyFor ws (.rskip ws 15) .steward = true ∧ base.readyFor ws (.rclear ws 15) .steward = true ∧
    (base.ring 0 15).st = .idle ∧ (base.ring 0 15).overrun = false := by decide +kernel

/-- A MOVE of one byte from line 0 to line 1; the same with a start condition that is not reached, or a transfer sum; a ring that has
read one; and cluster 0 with line 0 whole in its cache. -/
def moveD : BitVec 512 := BitVec.ofNat 512 (2 ^ 504 + 128 * 2 ^ 309)
def waitD : BitVec 512 := BitVec.ofNat 512 (2 ^ 504 + 128 * 2 ^ 309 + 2 ^ 451 + 2 ^ 395)
def sumD : BitVec 512 := BitVec.ofNat 512 (2 ^ 504 + 128 * 2 ^ 309 + 2 ^ 502 + 1)
def bufOf (d : BitVec 512) : Buffered := ⟨0, d, false, 0⟩
def ringOf (d : BitVec 512) (f : Ring → Ring) : State := onRing 2 fun r => f { r with st := .running, tail := 1, buf := [bufOf d] }
def whole0 (s : State) : State := s.setClu 0 { s.clu 0 with cache := { Cache.init with mem := ⟨[(0, 5)], []⟩, lines := [(0, { Line.init with mask := maskAll })] } }

theorem test_wit_RingsReadAndStartDescriptors :
    (base.clu 0).isl = .running ∧ (base.ring 0 2).nextSlot = none ∧
    (let s := onRing 2 fun r => { r with st := .running, tail := 1 }
     let x := (s.reqStatus 0 0 false).1.clRead 0 none 0 64 ((s.clu 0).cache.ownHint 0).1 ((s.clu 0).cache.ownHint 0).2 2
     (s.ring 0 2).kind = 0 ∧ (s.ring 0 2).nextSlot = some 0 ∧ (s.ring 0 2).slotAddr 0 = 0 ∧ PermCoherent s 0 ∧ Allowed s 0 0 false ∧ s.lineBusy 0 (lineOf 0) = false ∧ x.2.2 = 0 ∧
     x.2.1.anyPoison 0 64 = false) ∧
    (let s := whole0 (onRing 2 fun r => { r with st := .running, tail := 1 })
     (s.ring 0 2).nextSlot = some 0 ∧ PermCoherent s 0 ∧ Allowed s 0 0 false ∧ s.lineBusy 0 0 = false ∧ ((s.clu 0).cache.line 0).map (·.mask) = some maskAll ∧ (s.clu 0).cache.mem.syn = []) ∧
    (let s := onRing 2 fun r => { r with st := .running, tail := 1, rbase := 2 ^ 39 }; (s.ring 0 2).nextSlot = some 0 ∧ isDram ((s.ring 0 2).slotAddr 0) = false ∧ PermCoherent s 0) ∧
    (let s := ringOf moveD id
     (s.ring 0 2).headDesc = some (bufOf moveD) ∧ (s.ring 0 2).ph = .unread ∧ (s.clu 0).brk = .none ∧ s.descBad 0 (s.ring 0 2) (bufOf moveD) = none ∧ dType moveD ≠ 6 ∧ dfl moveD 451 451 = 0 ∧
     (s.ring 0 2).overrun = false) ∧
    (let s := ringOf waitD id
     dfl waitD 451 451 = 1 ∧ reaches (s.ctr (dfl waitD 450 427)).value (BitVec.ofNat 32 (dfl waitD 426 395)) = false ∧ s.descBad 0 (s.ring 0 2) (bufOf waitD) = none) ∧
    (let s := ringOf 0 id; s.descBad 0 (s.ring 0 2) (bufOf 0) ≠ none ∧ dTsv 0 = false) ∧ ((ringOf moveD fun r => { r with overrun := true }).ring 0 2).overrun = true := by
  unfold PermCoherent Allowed; decide +kernel

def moving : State := whole0 (ringOf moveD fun r => { r with ph := .moving })

theorem test_wit_RingMovesAnElement :
    (moving.ring 0 2).headDesc = some (bufOf moveD) ∧ (moving.ring 0 2).ph = .moving ∧ (moving.ring 0 2).next < dElems moveD ∧ dType moveD = 1 ∧ dSrcTs moveD = false ∧
    dDstTs moveD = false ∧ dWt moveD = false ∧ runLen moveD 0 = 1 ∧ dSrc moveD 0 = ((0 : Nat) : Int) ∧ dDst moveD 0 = ((128 : Nat) : Int) ∧ 0 % 128 + dEsize moveD ≤ 128 ∧
    lineOf 0 ≠ lineOf 128 ∧ PermCoherent moving 0 ∧ Allowed moving 0 0 false ∧ Allowed moving 0 128 true ∧ moving.lineBusy 0 0 = false ∧ moving.lineBusy 0 1 = false ∧
    ((moving.clu 0).cache.line 0).map (·.mask) = some maskAll ∧ (moving.clu 0).cache.mem.syn = [] := by unfold PermCoherent Allowed; decide +kernel

theorem test_wit_RingsCompleteOrHalt :
    (0 < ((ringOf moveD fun r => { r with wrOld := 1 }).ring 0 2).wrOld ∧ (base.ring 0 2).wrOld = 0) ∧
    (moving.ring 0 2).isTask = false ∧ dTsv moveD = false ∧ (moving.ring 0 2).retries < 3 ∧
    (let r := (ringOf moveD fun r => { r with ph := .moving, retries := 3, wrOut := [1] }).ring 0 2; 3 ≤ r.retries ∧ r.wrOut ++ r.wtOut = 1 :: []) ∧
    (let r := (ringOf moveD fun r => { r with ph := .moving, next := 1 }).ring 0 2
     dElems moveD ≤ r.next ∧ r.wrOut = [] ∧ r.wtOut = [] ∧ r.overrun = false ∧ r.st = .running ∧ r.headDesc = some (bufOf moveD)) ∧
    dSumEn moveD = false ∧ (look PostBy.none (moving.ring 0 2).postBy (bufOf moveD).num).slot = none ∧
    (let r := (ringOf sumD fun r => { r with ph := .moving, next := 1 }).ring 0 2; dSumEn sumD = true ∧ r.sum ≠ dfl sumD 63 0 ∧ r.headDesc = some (bufOf sumD) ∧ dElems sumD ≤ r.next) := by
  decide +kernel

/-- A task ring whose candidate has its grant. -/
def granted : State := execPage (ringOf taskD fun r => { r with rcfg := 4096, ph := .checked, granted := true })

theorem test_wit_TaskStarts :
    (granted.ring 0 2).kind = 1 ∧ (granted.ring 0 2).granted = true ∧ (granted.ring 0 2).posted = false ∧ (granted.ring 0 2).held = [] ∧ (granted.ring 0 2).cand = false ∧
    (granted.ring 0 2).candidate = some taskD ∧ (granted.ring 0 2).headDesc = some (bufOf taskD) ∧ (granted.ring 0 2).overrun = false ∧
    granted.coresMissing ((granted.ring 0 2).runsIn 0) taskD = false ∧ granted.ready 0 ((granted.ring 0 2).runsIn 0) taskD = true ∧
    granted.mayStart 0 ((granted.ring 0 2).runsIn 0) = true ∧ (let s := granted.setCore 0 1 kRun; s.ready 0 0 taskD = false ∧ s.coresMissing 0 taskD = false) := by decide +kernel

/-- Slot 3 with a state of its own, and one written line. -/
def slotIn (st : SlotSt) (f : Slot → Slot) : State :=
  onClu fun v => { v with tasks := [(0, { run0 with slot := some 3 })], slots := [(3, f { Slot.init with st := st, taskKey := 0, written := [(5, 1)] })] }
/-- A discard condition that is met: counter 0 of the cluster at or over 0. -/
def discards (x : Slot) : Slot := { x with desc := BitVec.ofNat 512 (2 ^ 295) }

theorem test_wit_SpeculativeSlotsResolve :
    (let s := slotIn .ended fun x => { x with due := true }
     ((s.clu 0).slot 3).st = .ended ∧ s.discardMet ((s.clu 0).slot 3) = false ∧ ((s.clu 0).slot 3).due = true) ∧
    (let s := slotIn .ended discards; ((s.clu 0).slot 3).st = .ended ∧ s.discardMet ((s.clu 0).slot 3) = true) ∧
    (let s := slotIn .running discards
     ((s.clu 0).slot 3).st = .running ∧ s.discardMet ((s.clu 0).slot 3) = true ∧ find (s.clu 0).tasks ((s.clu 0).slot 3).taskKey = some { run0 with slot := some 3 }) ∧
    (let s := slotIn .committing id
     ((s.clu 0).slot 3).st = .committing ∧ (s.clu 0).commitsAfter 3 = false ∧ (s.stew ((s.clu 0).slot 3).home).evq.length < 32 ∧ ((s.clu 0).slot 3).written = [(5, 1)] ∧
     (s.clu 0).cache.mem.syn = [] ∧ ((s.clu 0).slot 3).shadow.syn = []) ∧
    (let s := slotIn .discarding id; ((s.clu 0).slot 3).st = .discarding ∧ (s.stew ((s.clu 0).slot 3).home).evq.length < 32) := by decide +kernel

/-- Core 0 waits for its counter 0 since time 0, an hour later. -/
def waitsLong : State := { (onCore fun k => { k with hold := some ⟨.cwait wc (.own 0), .counter (nameCore 0 0 0), 0, false⟩ }) with now := 3600000000 }
def dump0 : Dump := { base.dumpOf 0 3 0 [] with cause := 3 }

theorem test_wit_HangsAreDetected :
    waitsLong.clPart 0 < 16 ∧ (waitsLong.part 0).run = .running ∧ waitsLong.anyHalted 0 = false ∧ waitsLong.now % 100 = 0 ∧
    (∃ w ∈ waitsLong.waitsOf 0, waitsLong.obj 0x3022 1 * 1000 ≤ w.age waitsLong) ∧ base.now % 100 = 0 ∧ base.anyHalted 0 = false ∧ (∀ w ∈ base.waitsOf 0, w.age base < base.obj 0x3022 1 * 1000) ∧
    (let s := onPart fun v => { v with hangDue := true }; (s.part 0).hangDue = true ∧ (s.part 0).run = .running) ∧
    (let s := onPart fun v => { v with dump := some dump0, dumpDue := true }; (s.part 0).dump = some dump0 ∧ (s.part 0).dumpDue = true ∧ dump0.cause = 3 ∧ s.mgmt.fencedDue = false) := by
  decide +kernel

/-- Partition 0 of the base with dies 0 and 1 of its step's mask; a die whose rings have halted after its drop. -/
def dropped (v : BitVec 4) : State :=
  let s := onPart fun p => { p with dropDies := 1, dieValid := v }
  { s with dram := { s.dram with touched := [(0, 1)] } }

theorem test_wit_MicrobatchesAreDropped :
    (let s := onPart fun v => { v with dieValid := 3 }; (s.part 0).dieValid.getLsbD 0 = true ∧ (s.part 0).restoring.getLsbD 0 = false ∧ (s.part 0).run = .running) ∧
    (let s := onPart fun v => { v with dieValid := 3, restoring := 1 }; (s.part 0).dieValid.getLsbD 0 = true ∧ (s.part 0).restoring.getLsbD 0 = true) ∧
    (∀ m ∈ [(0 : BitVec 4), 2], ((dropped m).part 0).dropDies.getLsbD 0 = true ∧
      (∀ cl ∈ (dropped m).clustersOn 0 0, ∀ n < 16, ((dropped m).ring cl n).st ≠ .running ∧ ((dropped m).ring cl n).st ≠ .stopping)) ∧
    (((dropped 2).part 0).dieValid ≠ 0 ∧ ((dropped 0).part 0).dieValid = 0 ∧ ((dropped 0).part 0).dropDies = BitVec.ofNat 4 (2 ^ 0) ∧
      look 0 (dropped 0).dram.touched 0 &&& ((dropped 0).part 0).runDies ≠ 0) ∧
    (let s := (dropped 2).setCtr (nameHub 0 60) ⟨1, 2, false⟩
     nameOk (nameHub 0 60) = true ∧ s.clPart (nameCl (nameHub 0 60)) = 0 ∧ (s.part 0).frozen = false ∧ reaches (s.ctr (nameHub 0 60)).expected (s.ctr (nameHub 0 60)).value = true ∧
     (s.ctr (nameHub 0 60)).settled = false) := by
  decide +kernel

/-- The candidate of ring 2 waits for the ledger. -/
def asks : State := execPage (ringOf taskD fun r => { r with rcfg := 4096, ph := .checked, readySince := some 0 })

theorem test_wit_LedgerRequestsComeAndGo :
    (let u := asks.refreshRing 0 2
     asks.power.tripped = false ∧ (u.ring 0 2).candidate = some taskD ∧ (u.ring 0 2).readySince = some 0 ∧ u.postable 0 2 = true ∧ (u.placedRings 0).length < 4 ∧
     (asks.clu 0).dispStopped = false ∧ (∀ m < 16, m ≠ 2 → u.postable 0 m = false) ∧ tReloc taskD = false) ∧
    (let s := (asks.setCore 0 1 kRun).setRing 0 2 { asks.ring 0 2 with posted := true }
     ((s.refreshRing 0 2).ring 0 2).readySince = none ∧ (s.ring 0 2).posted = true ∧ (s.ring 0 2).granted = false) ∧
    (let s := granted.setRing 0 2 { granted.ring 0 2 with posted := true }
     (s.ring 0 2).candidate = some taskD ∧ (s.ring 0 2).granted = true ∧ s.ready 0 0 taskD = true ∧ (s.clu 0).dispStopped = false ∧ (s.setCore 0 1 kRun).ready 0 0 taskD = false) := by
  decide +kernel

/-- Account 0 with one entry, or one true-up, at a time. -/
def entry0 : LReq := ⟨0, 2, 0, 0, 0, 0⟩
def acctAt (now : Nat) (f : Acct → Acct) : State := { base with now := now, accts := [(0, f Acct.init)] }
def due0 : TrueUp := ⟨100, 4, false, false, 0, 2, 0⟩
def holding (s : State) : State := { s with power := { s.power with hold := true } }

theorem test_wit_LedgerCyclesAdmitAndTrueUp :
    base.power.tripped = false ∧
    (let s := acctAt 999 fun a => { a with reqs := [entry0] }
     (s.acct 0).reqs = [entry0] ∧ (s.acct 0).dues = [] ∧ s.power.hold = false ∧ (∀ x ∈ (s.acct 0).reqs, x ≠ entry0 → entry0.before x = true) ∧
     (∀ x ∈ (s.acct 0).reqs, s.now - x.ready < 1000) ∧ (declared 0 : Int) ≤ (s.acct 0).credit) ∧
    (let s := acctAt 1000 fun a => { a with reqs := [entry0], credit := 0 }; 1000 ≤ s.now - entry0.ready ∧ 0 ≤ (s.acct 0).credit) ∧
    (let s := acctAt 1000 fun a => { a with reqs := [entry0], credit := -1 }; 1000 ≤ s.now - entry0.ready ∧ (s.acct 0).credit < 0) ∧
    (let s := holding (acctAt 0 fun a => { a with dues := [due0], score := 59 }); (s.acct 0).dues = [due0] ∧ s.power.hold = true ∧ (s.acct 0).score < 60) ∧
    (let s := holding (acctAt 0 fun a => { a with dues := [due0], score := 60 }); (s.acct 0).dues = [due0] ∧ due0.refund = false ∧ due0.selftest = false ∧ due0.d ≠ 0 ∧ 5 * due0.d < 4 * due0.em ∧
      60 ≤ (s.acct 0).score ∧ (s.stew due0.home).evq.length < 32) ∧ (holding base).power.hold = true ∧ (base.acct 0).dues = [] := by decide +kernel

theorem test_wit_CreditIsRefilled :
    base.now % 10 = 0 ∧ base.power.tripped = false ∧ (acctAt 9 id).now % 10 ≠ 0 ∧ base.granOwner 0 < 16 ∧ base.hasRun (base.granOwner 0) = true ∧ base.hasRun (base.granOwner 15) = false ∧
    ((acctAt 0 fun a => { a with starved := 99 }).acct 0).starved = 99 ∧ ((acctAt 0 fun a => { a with starvedDue := true }).acct 0).starvedDue = true := by decide +kernel

/-- The base with another power state. -/
def powered (f : Power → Power) : State := { base with power := f base.power }

theorem test_wit_GuardHoldsThePackageLimit :
    base.obj 0x2001 1 = 1800 ∧ 1800 < 1801 + 0 + 0 + 0 + 0 ∧ 1800 + 0 + 0 + 0 + 0 ≤ base.obj 0x2001 1 ∧ base.power.hold = false ∧ (powered fun p => { p with hold := true }).power.hold = true ∧
    80 ≤ (powered fun p => { p with aboveRun := 80 }).power.aboveRun ∧ (powered fun p => { p with lastAbove2100 := true }).power.lastAbove2100 = true ∧
    (powered fun p => { p with aboveRun := 79 }).power.aboveRun < 80 ∧ base.power.lastAbove2100 = false ∧
    (let p := (powered fun p => { p with g := 1, goodRun := 10 }).power; p.hold = false ∧ 0 < p.g ∧ 10 ≤ p.goodRun) ∧ base.power.goodRun < 10 := by decide +kernel

theorem test_wit_HeatLowersTheClock :
    10 ≤ ((onClu fun v => { v with coolRun := 10 }).clu 0).coolRun ∧ ((onClu fun v => { v with coolRun := 9 }).clu 0).coolRun < 10 ∧ base.power.tripped = false ∧
    (powered fun p => { p with tripped := true }).power.tripped = true := by decide +kernel

/-- Only core 0 of cluster 0 is enabled. -/
def oneCore : State := { base with fabric := { base.fabric with coreMap := (List.range 11).map fun i => (i + 1, 24576#16) } }

theorem test_wit_MeasuredEnergyIsBooked :
    (∀ c : Cn, base.mapEntry (12 * 1 + c.val) = 0 ∧ (base.phy (12 * 1 + c.val)).testing = false ∧ (base.core 1 c).task = none) ∧
    oneCore.mapEntry 0 = 0 ∧ (oneCore.phy 0).testing = false ∧ (∀ c : Cn, c ≠ 0 → mapState (oneCore.mapEntry (12 * 0 + c.val)) = 3 ∧ (oneCore.phy (12 * 0 + c.val)).testing = false) ∧
    (oneCore.core 0 0).task = some 0 ∧ find (oneCore.clu 0).tasks 0 = some run0 := by decide +kernel

/-- Core 1 of cluster 0 with its physical state, core-map entry and time of its own. -/
def phyAt (now : Nat) (e : BitVec 16) (f : Phys → Phys) : State :=
  { base with now := now, fabric := { base.fabric with phys := [(1, f Phys.init)], coreMap := if e = 0 then [] else [(1, e)] } }

theorem test_wit_SelfTestsRepairOrRetire :
    (let s := phyAt 300000000 0 id
     servedName (coreKey 0 1) (s.mapEntry (coreKey 0 1)) = (0, 1) ∧ s.coreState (coreKey 0 1) = 0 ∧ s.clPart 0 < 16 ∧ (s.part (s.clPart 0)).run = .running ∧
     (s.phy (coreKey 0 1)).testing = false ∧ (s.phy (coreKey 0 1)).prevStart = 0 ∧ (s.part (s.clPart 0)).startAt + (1 : Cn).val * (s.obj 0x3024 (s.clPart 0 + 1) * 1000) / 12 ≤ s.now) ∧
    (let s := phyAt 5 0 fun v => { v with prevStart := 1 }
     (s.part 0).startAt ≤ (s.phy 1).prevStart ∧ (s.phy 1).prevStart ≠ 0 ∧ s.now < (s.phy 1).prevStart + s.obj 0x3024 1 * 1000) ∧
    (let s := phyAt 0 0 fun v => { v with testDue := true }
     (s.phy 1).testDue = true ∧ (s.phy 1).testing = false ∧ (s.clu 0).isl = .running ∧ (s.core 0 1).task = none ∧ (s.core 0 1).phase = .free ∧ ((s.setCore 0 1 kRun).core 0 1).task ≠ none) ∧
    (let s := phyAt 0 0 fun v => { v with testing := true }
     (s.phy 1).testing = true ∧ ifrValid (s.phy 1).repair = false ∧ testRow (s.phy 1).repair = 32 ∧ testCol (s.phy 1).repair = 32 ∧ (s.phy 1).spareRowSpent = false ∧
     (s.phy 1).spareColSpent = false ∧ (∀ p < 16, (s.part p).releaseDue = false) ∧
     (∀ g ∈ [(⟨3, 1⟩ : BadCell), ⟨3, 2⟩, ⟨4, 1⟩], g.row ≠ rowSkip (s.phy 1).repair ∧ g.col ≠ colSkip (s.phy 1).repair)) ∧
    (let s := phyAt 0 0 fun v => { v with testing := true, repair := 5 * 64 + 5 * 4096 }; testRow (s.phy 1).repair ≠ 32 ∧ testCol (s.phy 1).repair ≠ 32 ∧ ifrValid (s.phy 1).repair = false ∧
      (∀ g ∈ [(⟨3, 1⟩ : BadCell), ⟨3, 2⟩, ⟨4, 1⟩], g.row ≠ rowSkip (s.phy 1).repair ∧ g.col ≠ colSkip (s.phy 1).repair)) ∧
    (let s := phyAt 0 0 fun v => { v with testing := true, repair := v.repair ||| 0x02000000#32 }; ifrValid (s.phy 1).repair = true) ∧
    (let s := phyAt 0 8192 fun v => { v with testing := true }; s.coreState (coreKey 0 1) = 1 ∧ (s.phy 1).testing = true ∧ 0 ≠ rowSkip (s.phy 1).repair ∧ 0 ≠ colSkip (s.phy 1).repair) ∧
    (let s := phyAt 0 0 fun v => { v with fuseWait := some (true, 32) }; (s.phy 1).fuseWait = some (true, 32)) := by decide +kernel

/-- Die 0 released, its core map as given, with core 0 of cluster 0 waiting for its remap. -/
def lostCore (m : SMap (BitVec 16)) : State :=
  { base with
    clusters := (List.range 64).map fun i => (i, { Cluster.init with isl := .running })
    fabric := { base.fabric with coreMap := m, remapDue := [0] } }

theorem test_wit_RemapsAndPowerGating :
    (let s := lostCore [(0, 24576#16), (29, 8192#16)]
     coreKey 0 0 ∈ s.fabric.remapDue ∧ s.coreState 29 = 1 ∧ (s.phy 29).busy = false ∧ 29 / 768 = dieOf 0 ∧ ((List.range 3072).all fun j => decide (j = 29) || decide (s.coreState j ≠ 1)) = true ∧
     s.fabric.remapped.getLsbD 0 = false ∧ s.dieReleased 0 = true ∧ s.coreState 0 = 3 ∧ mapState (look 0 s.fw.fuses.coreMap 0) = 0 ∧ ((List.range 3072).all fun i => decide (i = 0) || decide (s.coreState i ≠ 3)) = true ∧
     (∀ p < 16, (s.part p).startReq = false ∧ (s.part p).releaseDue = false)) ∧
    (let s := lostCore [(0, 24576#16)]; s.sparesOf (dieOf 0) = 0 ∧ s.coreState 0 = 3) ∧ (let s := lostCore []; ((List.range 768).all fun i => decide (s.coreState i ≠ 3)) = true) ∧
    (let s := { lostCore [(5, 8192#16)] with now := 600000000 }
     s.coreState (coreKey 0 5) = 1 ∧ (s.phy (coreKey 0 5)).testing = false ∧ (s.phy (coreKey 0 5)).prevStart + 600000000 ≤ s.now ∧ (s.clu 0).isl = .running) ∧
    (let s := lostCore []; (s.clu 63).isl = .running ∧ s.clPart 63 = 0xFF ∧ s.clusterIdle 63 = true ∧ (s.clu 63).cache.lines = [] ∧ s.dram.wq = [] ∧ s.clPart 0 < 16) := by decide +kernel

/-- Link 5 with a state of its own; a flit of cluster 1 for cluster 0 with one good, corrected or uncorrectable word. -/
def onLink (f : Link → Link) : State := { base with fabric := { base.fabric with links := [(5, f Link.init)] } }
def flit (k : FlitKind) (p : Nat) (c : BitVec 16) : Flit := ⟨k, p, some 1, 0, 7, 0, [⟨0, c⟩]⟩

theorem test_wit_CrossingsAndLinks :
    base.power.tripped = false ∧
    (∀ f ∈ [flit .request 1 0, flit .request 0 0, flit .request 0 0xAE62, flit .response 1 0x0630, flit .write 0 0], base.flitRoute f ≠ [] ∧ base.flitStops f = none ∧
      (base.clu 1).isl ≠ .fenced ∧ base.pathFenced (dieOf 1) (dieOf 0) = false ∧ verdict f.header = .clean) ∧
    (let f : Flit := ⟨.request, 0, some 255, 0, 7, 0, []⟩; base.flitRoute f ≠ [] ∧ base.flitStops f ≠ none) ∧
    wordVerdict ⟨0, 0⟩ = .clean ∧ wordVerdict ⟨0, 0xAE62⟩ = .corrected 5 2 ∧ wordVerdict ⟨0, 0x0630⟩ = .uncorrectable ∧
    (base.clu 0).isl = .running ∧ 1 ≠ base.clPart 0 ∧ 0 = base.clPart 0 ∧ ((onClu fun v => { v with isl := .gated }).clu 0).isl = .gated ∧
    (let s := onClu fun v => { v with isl := .held }; (s.clu 0).isl = .held ∧ (s.clu 0).xing.length < 8) ∧
    ((onLink fun l => { l with st := .up }).link 5).st = .up ∧ base.dram.wq = [] ∧ base.dram.wacks = [] ∧ base.fabric.buffers = [] ∧
    16 < (((onLink fun l => { l with st := .up, winReplays := List.replicate 17 0 }).link 5).winReplays.filter fun x => base.now < x + 1000).length ∧
    (((onLink fun l => { l with st := .up, winReplays := List.replicate 16 0 }).link 5).winReplays.filter fun x => base.now < x + 1000).length ≤ 16 ∧
    (base.link 5).st = .untrained ∧ base.releasedTo 4 = true ∧ ((onLink fun l => { l with st := .retraining, recent := [0, 0] }).link 5).st = .retraining ∧
    (((onLink fun l => { l with st := .retraining, recent := [0, 0] }).link 5).recent.filter fun x => base.now < x + 1000000).length < 3 ∧
    3 ≤ (((onLink fun l => { l with st := .retraining, recent := [0, 0, 0] }).link 5).recent.filter fun x => base.now < x + 1000000).length := by decide +kernel

/-- A cache request, and cluster 0 with one permission entry and line 0 whole in its cache, or line 0 concerned by a commit. -/
def req (k : ReqKind) : CReq := ⟨.core 1 0, 0, k, .keep, 0, 0⟩
def perm0 (e : BitVec 4) (l : List (Nat × Line)) : State := onClu fun v => { v with cache := { Cache.init with mem := ⟨[(0, 5)], []⟩, lines := l, perm := [(0, e)] } }
def line0 : List (Nat × Line) := [(0, { Line.init with mask := maskAll })]
def committing3 (s : State) : State := s.setClu 0 { s.clu 0 with slots := [(3, { Slot.init with st := .committing, written := [(0, 1)] })] }

theorem test_wit_CacheRequestsAreServed :
    (base.clu 0).isl = .running ∧ isDram (2 ^ 39) = false ∧ isDram 0 = true ∧ (base.clu 0).cache.perm = [] ∧ base.clPart 255 ≠ base.clPart 0 ∧
    (((perm0 4 line0).clu 0).cache.perm.find? fun e => e.1 = 0) = some (0, 4) ∧ permR 4 = false ∧ permW 4 = false ∧ permX 4 = true ∧ permR 3 = true ∧ permW 3 = true ∧ permX 3 = false ∧
    (let s := perm0 3 line0
     s.requesterSlot 0 (.core 1 0) = none ∧ s.lineBusy 0 0 = false ∧ ((s.clu 0).cache.line 0).map (·.mask) = some maskAll ∧ (s.clu 0).cache.mem.syn = []) ∧
    ((perm0 3 []).clu 0).cache.line 0 = none ∧ (committing3 (perm0 3 [])).lineBusy 0 0 = true ∧ ([1] : List Byte) ≠ [] := by decide +kernel

/-- Requests that wait for a permission entry, or for line 0. -/
def waitsP (r : CReq) (t : BitVec 4) : State :=
  let s := onClu fun v => { v with cache := { Cache.init with permWaits := [r] } }
  { s with dram := { s.dram with permTable := [(0, t)] } }
def waitsF (r : CReq) : State := onClu fun v => { v with cache := { Cache.init with fillWaits := [r] } }

theorem test_wit_CacheFillsAndInvalidations :
    (let s := waitsP (req (.write [1])) 3
     (s.clu 0).isl = .running ∧ ((s.clu 0).cache.permWaits.filter fun q => q.addr / 2 ^ 21 = 0) = [req (.write [1])] ∧ (s.clu 0).cache.perm = [] ∧ s.requesterSlot 0 (.core 1 0) = none ∧
     s.lineBusy 0 0 = false ∧ permW (s.permEntry (s.clPart 0) 0) = true) ∧
    (let s := waitsP (req (.write [1])) 1; permW (s.permEntry (s.clPart 0) 0) = false) ∧
    (∀ r ∈ [req .read, { req .read with hint := .dead }, { req .read with who := .peer 1 0 }, req .prefetch, req .ifetch, req .runahead],
      (let s := waitsF r
       ((s.clu 0).cache.fillWaits.filter fun q => lineOf q.addr = 0) = [r] ∧ s.requesterSlot 0 r.who = none ∧ (s.clu 0).cache.line 0 = none ∧ s.dram.mem.syn = [] ∧ (s.clu 0).cache.mem.syn = [] ∧
       s.lineBusy 0 0 = false ∧ s.chanDown 0 = false ∧ s.lineHeld 0 = false)) ∧ base.power.tripped = false := by decide +kernel

/-- Writes of line 0 that wait at the channel: a write-back, and a ring's. -/
def wr0 : WReq := ⟨0, 1, Mem.empty, .writeBack 0 0⟩
def wrR (num : Nat) : WReq := ⟨0, 1, Mem.empty, .ring 0 2 num⟩
def moveR (s : State) : State := s.setRing 0 2 { Ring.init with st := .running, tail := 1, buf := [⟨0, BitVec.ofNat 512 (2 ^ 504 + 128 * 2 ^ 309), false, 0⟩] }

theorem test_wit_ChannelsReadWriteAndScrub :
    base.power.tripped = false ∧
    (let s := dramAt fun d => { d with wq := [wr0] }
     s.dram.wq.find? s.writeMay = some wr0 ∧ s.chanDown 0 = false ∧ s.lineHeld 0 = false ∧ s.dram.mem.syn = [] ∧ wr0.data.syn = []) ∧
    (∀ q ∈ [wr0, wrR 0, wrR 1],
      (let s := moveR (dramAt fun d => { d with wq := [q], fenced := [base.lineChan 0] }); s.dram.wq.find? s.writeMay = some q ∧ s.chanDown q.line = true ∧ s.lineHeld 0 = false)) ∧
    (let s := moveR base; ((s.ring 0 2).headDesc).isSome = true ∧ (s.ring 0 2).head.toNat = 0 ∧ (1 : Nat) ≠ (s.ring 0 2).head.toNat ∧
      ((s.ring 0 2).headDesc.map fun b => dTsv b.desc) = some false) ∧
    (let s := dramAt fun d => { d with wq := [wr0], scrub := [(base.lineChan 0, ⟨0, some 0, []⟩)] }
     s.dram.wq.find? s.writeMay = some wr0 ∧ s.chanDown 0 = false ∧ s.lineHeld 0 = true) ∧
    (∀ q ∈ [wr0, wrR 0, wrR 1], (dramAt fun d => { d with wacks := [q] }).dram.wacks = q :: []) ∧ isDram 0 = true ∧
    (let s := dramAt fun d => { d with mem := ⟨[], [(base.phys 0 / 16, 0x0630#16)]⟩ }; verdict (s.dram.mem.synAt (s.phys 0 / 16)) = .uncorrectable) := by decide +kernel

theorem test_wit_ChannelsReadWriteAndScrub_scrub :
    (base.scrubber 63).held = none ∧ (∀ k < 8, base.dram.mem.synAt ((63 * 2 ^ 33 + (base.scrubber 63).pos) / 16 + k) = 0) ∧ (base.scrubber 63).pos + 128 < chanBytes ∧
    (let s := dramAt fun d => { d with scrub := [(63, ⟨chanBytes - 128, none, []⟩)] }; chanBytes ≤ (s.scrubber 63).pos + 128) ∧
    (let s := dramAt fun d => { d with mem := ⟨[], [(7, 0xAE62#16)]⟩ }
     (∀ j < 8, j ≠ 7 → s.dram.mem.synAt (((0 : Ch).val * 2 ^ 33 + (s.scrubber 0).pos) / 16 + j) = 0) ∧ verdict (s.dram.mem.synAt ((0 * 2 ^ 33 + (s.scrubber 0).pos) / 16 + 7)) = .corrected 5 2) ∧
    (let s := dramAt fun d => { d with mem := ⟨[], [(7, 0x0630#16)]⟩ }; verdict (s.dram.mem.synAt ((0 * 2 ^ 33 + (s.scrubber 0).pos) / 16 + 7)) = .uncorrectable) ∧
    (let s := dramAt fun d => { d with scrub := [(63, ⟨0, some 5, []⟩)] }; (s.scrubber 63).held = some 5 ∧ (s.scrubber 63).pendWrites = []) := by decide +kernel

/-- The test window with command k due; its target is the first word of a DRAM granule that no partition owns, or none. -/
def twAt (k : Nat) (dram : Bool) : State :=
  let s := base.setObj 0x9010 1 (if dram then 2 ^ 30 else 2 ^ 63)
  { s with dict := { s.dict with twDue := k } }

theorem test_wit_TestWindowActsOnOneWord :
    (∀ k < 5, (twAt k false).twTarget = .refused ∧ (twAt k false).dict.twDue = k) ∧ (∀ k < 5, (twAt k true).dict.twDue = k ∧ (twAt k true).twTarget = .dram ((twAt k true).phys (2 ^ 30) / 16)) ∧
    (twAt 4 true).obj 0x9010 2 < 2 ^ 128 := by decide +kernel

/-- An error of a class, and a management processor whose handler has class 1. -/
def err (cls : Nat) : ErrIn := ⟨1, cls, 0, 0, 0, 0, 0, 0, 0⟩
def handling (n : Nat) : State := { base with mgmt := { base.mgmt with running := [⟨err 1, .none, false⟩], queue := List.replicate n ⟨err 0, .none, false⟩ } }
/-- Reports of a program fault, of a bus refusal, and of a poison fault of core 0. -/
def program0 : ErrIn := ⟨0, 2, 0, 0, 0, 1, 0, 0, 0⟩
def refused0 : ErrIn := ⟨8, 2, 0, 0, 0, 0, 0, 2, 0⟩
def fault0 : ErrIn := ⟨0, 2, 0, 0, 0, 7, 0, 0, 0⟩

theorem test_wit_ErrorsReachTheManagementProcessor :
    base.mgmt.inbox.find? (fun x => x.1 = err 2) = none ∧ ({ base with mgmt := { base.mgmt with inbox := [(err 2, .none)] } } : State).mgmt.inbox.find? (fun x => x.1 = err 2) = some (err 2, .none) ∧
    (err 2).source ≠ 0 ∧ (err 2).cls < 3 ∧ (err 2).source ≠ 8 ∧ base.mgmt.running = [] ∧ (handling 63).mgmt.running = ⟨err 1, .none, false⟩ :: [] ∧ (handling 63).mgmt.queue.length < 64 ∧
    64 ≤ (handling 64).mgmt.queue.length ∧ (err 1).cls < (err 2).cls ∧ (err 0).cls ≤ (err 1).cls ∧
    3 ≤ (err 3).cls ∧ (∀ x ∈ (handling 1).mgmt.running, x.err.cls < 3) ∧ scopeOf { err 3 with unit := 0x4000 } = .channel 0 ∧ scopeOf { err 3 with unit := 0x6000 } = .linkEnd 0 0 ∧
    (program0.part < 16 ∧ (base.part program0.part).run = .running ∧ programKind program0.syndrome program0.status = true) ∧
    (refused0.source = 8 ∧ refused0.cls < 3 ∧ 2 ≤ refused0.status ∧ refused0.status ≤ 4 ∧ (base.part refused0.part).run = .running) ∧
    (programKind fault0.syndrome fault0.status = false ∧ bits 15 8 fault0.unit < 12 ∧ base.clPart (nameCl fault0.unit) < 16 ∧ (base.part (base.clPart (nameCl fault0.unit))).run = .running) := by
  decide +kernel

theorem test_wit_HandlersCompleteAndErrorsEscalate :
    (handling 0).mgmt.running = ⟨err 1, .none, false⟩ :: [] ∧ (handling 0).mgmt.queue = [] ∧ (handling 2).mgmt.queue = [⟨err 0, .none, false⟩] ++ ⟨err 0, .none, false⟩ :: [] ∧
    (let s := { base with mgmt := { base.mgmt with running := [⟨err 0, .none, false⟩, ⟨err 0, .none, true⟩], storms := [0] } }
     ∃ h rest, s.mgmt.running = h :: rest ∧ rest ≠ [] ∧ h.err.cls = 0 ∧ h.err.unit ∈ s.mgmt.storms) ∧
    ((look [] base.mgmt.urUnits (urKey (unitName 0 0))).filter fun t => base.now < t + 1000000).length ≤ 8 ∧
    (∀ u ∈ [0x4000, 0x6000],
      (let s := { base with mgmt := { base.mgmt with urUnits := [(urKey u, List.replicate 9 0)] } }
       8 < ((look [] s.mgmt.urUnits (urKey u)).filter fun t => s.now < t + 1000000).length ∧ (∀ x ∈ s.mgmt.running, x.err.cls < 3))) ∧
    unitName 0 0x40 = 0x4000 ∧ unitName 0 0x60 = 0x6000 ∧ unitScope (urKey 0x4000) = .channel 0 ∧ unitScope (urKey 0x6000) = .linkEnd 0 0 ∧
    (let s := { base with mgmt := { base.mgmt with ceUnits := [(7, 2 ^ 32)] } }; s.obj 0x5012 1 < look 0 s.mgmt.ceUnits 7 ∧ 7 ∉ s.mgmt.storms) ∧
    look 0 base.mgmt.ceUnits 7 ≤ base.obj 0x5012 1 ∧ base.now % 1000000 = 0 := by
  refine ⟨by decide +kernel, by decide +kernel, by decide +kernel, ⟨_, _, rfl, by decide, by decide, by decide⟩, ?_⟩
  decide +kernel

/-- The base with a valid slot of step 3 of die 0 at 2^21, and with the given part of partition 0. -/
def slotted (f : Part → Part) : State :=
  let s := ((onPart f).setObj 0x6011 1 1).setObj 0x6013 1 (2 ^ 21)
  s.setSlotHeader (2 ^ 21) (slotBits 0 1 0 0 3 0 0 0)

/-- The storage ports of die 0 are up, with a job of the given direction finished on each. -/
def jobsFinished (write : Bool) (s : State) : State :=
  let v : SPort := { SPort.init with st := 2, jobs := [⟨0, 0, write, [], 0, 6⟩] }
  (s.setSport 0 v).setSport 1 v

theorem test_wit_MirrorsFlashCopiesAndWatches :
    base.stepEnded 0 = false ∧
    (let s := { onPart id with counters := [(nameHub (clAt 0 0 0) 57, ⟨1, 1, false⟩)] }
     (s.part 0).run = .running ∧ (s.part 0).mirroring = [] ∧ (s.part 0).watching = false ∧ (s.part 0).restoring = 0 ∧ (s.part 0).rolling = none ∧ s.stepEnded 0 = true) ∧
    (let s := onPart fun v => { v with mirroring := [(0, 4096)] }; find (s.part 0).mirroring 0 = some 4096 ∧ (s.part 0).watching = false ∧ s.faultsPending 0 = false) ∧
    (let s := onPart fun v => { v with mirroring := [(0, 4096)], faults := [0] }
     ({ s with fabric := { s.fabric with remapDue := [0] } } : State).faultsPending 0 = true) ∧
    (let s := jobsFinished true (onPart fun v => { v with flash := [(0, 2 ^ 21)] })
     find (s.part 0).flash 0 = some (2 ^ 21) ∧ s.carries 0 0 = false ∧ s.copyDone 0 0 = true ∧ s.rangePoison (2 ^ 21) (4096 + bits 191 128 (s.slotHeader (2 ^ 21))) = [] ∧ s.dram.mem.syn = []) ∧
    ((onPart fun v => { v with watching := true }).part 0).watching = true := by decide +kernel

theorem test_wit_RestoresRollbacksAndHolds :
    (∀ r ∈ [(1 : BitVec 4), 3, 2],
      (let s := slotted fun v => { v with stepNow := 3, restoring := r }
       (s.part 0).run = .running ∧ (s.part 0).runDies.getLsbD 0 = true ∧ (s.part 0).mirroring = [] ∧ (s.part 0).rolling = none ∧ s.restorable 0 0 = some (2 ^ 21) ∧
       (s.part 0).restoring.getLsbD 0 = r.getLsbD 0 ∧ (s.part 0).dropLater = 0)) ∧
    (onPart id).restorable 0 0 = none ∧
    (let s := jobsFinished false (onPart fun v => { v with rolling := some 5 })
     let u := s.setImage 0 1 ⟨true, 5, 0, 0, Mem.empty⟩
     (s.part 0).rolling = some 5 ∧ s.commonImage (diesIn (s.diesOf 0)) = none ∧ u.commonImage (diesIn (u.diesOf 0)) = some 5 ∧
     ((diesIn (u.diesOf 0)).any fun d => (u.areaOf d 5).isNone || !u.jobsDone d 0 d false) = false) ∧
    (base.part 0).ckptSince = none ∧ ((onPart fun v => { v with ckptSince := some 0 }).part 0).ckptSince = some 0 ∧
    (0 : Nat) < 0 + base.obj 0x601D 1 * 1000000 ∧ 0 + base.obj 0x601D 1 * 1000000 ≤ ({ base with now := 10 ^ 18 } : State).now ∧
    (base.fabric.mapGen = 0 ∧ (let s := onPart fun v => { v with ackDue := true }; (s.part 0).ackDue = true ∧ (s.part 0).restartCause ≠ 2 ∧ (s.part 0).run = .running ∧ (s.part 0).rolling = none ∧
      (0 : Cl) ∈ s.clustersOf 0 ∧ (s.clu 0).isl ≠ .fenced ∧ (s.clu 0).brk = .none)) := by decide +kernel

/-- Port A's host holds semaphore k; the same with its write waiting for the commit. -/
def held (k : Nat) : State := (reached 0 id).setSema k { Sema.init with holder := some false, gen := 65535 }
def w1700 : DWrite := ⟨false, 0, 0, 0, 0x2001, 1, 0, 4, 1700⟩
def heldW (k : Nat) : State := let s := held k; { s with dict := { s.dict with waiting := [w1700] } }

theorem test_wit_ObjectRequestsAndSemaphores :
    (let s := reached 0 fun v => { v with objIndex := 0x2001, objSub := 1 }
     s.reach 0 = true ∧ (s.fn 0).objBusy = 0 ∧ s.readCause 0 (s.fn 0).objIndex (s.fn 0).objSub = 0 ∧ s.writeCause 0 (s.fn 0).objIndex (s.fn 0).objSub ≠ 0 ∧
     (s.setSema 1 { Sema.init with holder := some false }).writeCause 0 (s.fn 0).objIndex (s.fn 0).objSub = 0) ∧
    (let s := reached 0 fun v => { v with objBusy := 2 }; s.reach 0 = true ∧ (s.fn 0).objBusy ≠ 0) ∧
    16 ≤ ((reached 0 fun v => { v with objBusy := 17 }).fn 0).objBusy ∧ ((reached 0 fun v => { v with objBusy := 1 }).fn 0).objBusy = 1 ∧
    (let s := reached 0 fun v => { v with objBusy := 3, reqIndex := 0x3013, reqSub := 1 }; (s.fn 0).objBusy = 3 ∧ (s.fn 0).reqIndex = 0x3013 ∧ s.permSettled ((s.fn 0).reqSub - 1) = true) ∧
    (let s := (reached 0 fun v => { v with objBusy := 3, reqIndex := 0x3013, reqSub := 1 }).setClu 0 { clu0 with cache := { Cache.init with perm := [(1, 7)] } }
     (s.fn 0).reqIndex = 0x3013 ∧ s.permSettled ((s.fn 0).reqSub - 1) = false) ∧
    accessOk 4 8 = false ∧ accessOk 4 4 = true ∧ accessOk 0 8 = true ∧ accessOk 0 2 = false ∧ (0 : Fx).val % 8 = 0 ∧ ((reached 0 id).sema 9).holder = none ∧
    ((reached 9 id).setPart 0 Part.init).reach 8 = true ∧ 9 % 8 ≠ 0 ∧
    (let s := held 9
     s.reach 0 = true ∧ s.tokenFits 0 9 ((s.sema 9).token 9 true) = true ∧ s.tokenFits 0 9 0 = false ∧ (s.sema 9).holder = some false ∧ s.now < (s.sema 9).since + s.obj 0x7010 1 * 1000000 ∧
     (s.sema 9).since + s.obj 0x7010 1 * 1000000 ≤ ({ s with now := 10 ^ 18 } : State).now) ∧ (held 9).heldWrite 9 = false ∧ (heldW 1).heldWrite 1 = true := by decide +kernel

theorem test_wit_PortsAndFunctionsReset :
    (reached 0 id).reach 8 = true ∧ (held 0).holds 0 0 = true ∧ (reached 0 id).holds 0 0 = false ∧ (heldW 1).holds 0 1 = true ∧ (heldW 1).heldWrite 1 = true ∧ ((held 0).sema 0).holder = some false ∧
    base.uses false false = true ∧ base.releasedTo 25 = true ∧ (base.cport false).down = false ∧
    (if base.uses false false then base.ports.portA.refPresent else base.ports.portB.refPresent) = true := by decide +kernel

/-- Function 0 with one doorbell that waits, and the one before it; a device that is fenced, or in recovery. -/
def bell (v : W32) (p : Nat) : Bell := ⟨63, v, 0, 0, p⟩
def fencedDev (s : State) : State := { s with mgmt := { s.mgmt with fenced := true } }
def recovering (o : Option Nat) : State :=
  let s := bound0 id
  { s with fw := { s.fw with inRecovery := true, recOwner := o } }

theorem test_wit_DoorbellsEventsAndWindow :
    (bound0 id).bound 0 < 16 ∧ 16 ≤ (reached 0 id).bound 0 ∧ (bound0 id).reach 0 = true ∧ (fencedDev (bound0 id)).reach 0 = true ∧ (bound0 id).mgmt.fenced = false ∧
    (bound0 id).lowGran 0 = some 0 ∧ (bound0 id).lowGran 5 = none ∧
    (let s := bound0 fun v => { v with bells := [bell 5 0] }; (s.fn 0).bells = bell 5 0 :: [] ∧ (s.fn 0).lastBell = none ∧ (s.stew (granLead 0)).evq.length < 32) ∧
    (let s := (bound0 fun v => { v with bells := [bell 5 0], lastBell := some (bell 4 0) }).setStew (granLead 0) { Steward.init with evq := [bellRecord (granLead 0) 0 (bell 4 0)] }
     (s.fn 0).lastBell = some (bell 4 0) ∧ (bell 5 0).at_ < (bell 4 0).at_ + 1 ∧ bellRecord (granLead 0) 0 (bell 4 0) ∈ (s.stew (granLead 0)).evq) ∧
    ((bound0 fun v => { v with bells := [bell 5 5] }).fn 0).bells = bell 5 5 :: [] ∧
    (let s := bound0 fun v => { v with evWait := [1], evSize := 4 }
     (s.fn 0).evWait = 1 :: [] ∧ (s.cport (portB 0)).up = true ∧ (s.fn 0).evSize ≠ 0 ∧ ((s.fn 0).evTail - (s.fn 0).evHead).toNat < 2 ^ (s.fn 0).evSize) ∧
    (let s := bound0 fun v => { v with evWait := [1], evSize := 4, evTail := 16 }; 2 ^ (s.fn 0).evSize ≤ ((s.fn 0).evTail - (s.fn 0).evHead).toNat) := by
  decide +kernel

theorem test_wit_DoorbellsEventsAndWindow_window :
    (bound0 id).fw.inRecovery = false ∧ (bound0 id).dram.mem.syn = [] ∧ (((bound0 id).setPart 0 { Part.init with ckptSince := some 0 }).part 0).ckptSince ≠ none ∧
    ((bound0 id).part 0).ckptSince = none ∧ (∀ w ∈ wordPieces (2 ^ 30) 1, (bound0 id).windowAddr 0 w.1 = none) ∧ (bound0 id).windowAddr 0 (2 ^ 30 - 16) = some (2 ^ 30 - 16) ∧
    (bound0 id).lineHeld ((2 ^ 30 - 16) / 128) = false ∧ (2 ^ 30 - 16) % 16 + [(1 : Byte)].length ≤ 16 ∧
    ((recovering none).reach 0 = true ∧ (recovering none).fw.inRecovery = true ∧ (recovering none).fw.recOwner = none) ∧ (recovering (some 1)).fw.recOwner = some 1 ∧
    (1 : Nat) ≠ (0 : Fx).val / 8 := by decide +kernel

/-- A storage port of the base in a state of its own; a controller that meets every requirement. -/
def onSport (k : Nat) (f : SPort → SPort) : State := base.setSport k (f SPort.init)
def good : BringUp := ⟨true, true, 0x104, true, true, 4096, 0, 0, 4096, 2 ^ 41, true, true⟩

theorem test_wit_StoragePortsComeAndGo :
    base.storageServed = true ∧ (onSport 7 id).storageServed = true ∧ ((onSport 7 fun v => { v with st := 1 }).sport 7).st = 1 ∧ ((onSport 7 fun v => { v with st := 2 }).sport 7).st = 2 ∧
    (base.needCapacity (7 / 2) ≤ good.capacity ∧ 0x104 ≤ good.version ∧ (good.lbaBytes = 512 ∨ good.lbaBytes = 4096) ∧ (good.mdts = 0 ∨ 131072 ≤ good.mdts)) ∧
    base.bringUpCause 7 good = 0 ∧ base.bringUpCause 7 { good with version := 0x103 } = 1 ∧ base.bringUpCause 7 { good with nsActive := false } = 2 ∧
    base.bringUpCause 7 { good with metadata := 8 } = 3 ∧ base.bringUpCause 7 { good with mdts := 131071 } = 4 ∧ base.bringUpCause 7 { good with mpsMin := 8192 } = 5 ∧
    base.bringUpCause 7 { good with capacity := 0 } = 6 ∧ base.bringUpCause 7 { good with trained := false } = 7 ∧
    (let s := onSport 7 fun v => { v with st := 2, resets := [0, 0, 0], violations := 3 }
     (s.sport 7).st ≠ 0 ∧ 3 ≤ ((s.sport 7).resets.filter fun u => s.now < u + 60000000).length ∧ 3 ≤ (s.sport 7).violations) ∧
    ((base.sport 7).resets.filter fun u => base.now < u + 60000000).length < 3 ∧ (base.sport 7).violations < 3 := by decide +kernel

/-- The areas' places are Config's: a request longer than an area is never let in; the pages of an outstanding Write may be read. -/
theorem test_wit_StoragePortsComeAndGo_inbound :
    (onSport 7 fun v => { v with st := 2 }).inboundMay 7 0 20000 true = false ∧
    (onSport 7 fun v => { v with st := 2, cmds := [⟨0, .write, 4096, 512⟩] }).inboundMay 7 4096 512 false = true := by
  have a : ((onSport 7 fun v => { v with st := 2 }).sport 7).cmds = [] := by decide +kernel
  have b : ((onSport 7 fun v => { v with st := 2, cmds := [⟨0, .write, 4096, 512⟩] }).sport 7).cmds.any (fun c => c.allows 4096 512 false) = true := by decide +kernel
  simp only [State.inboundMay, a, b]
  simp
  omega

/-- A frame of one slot with right header check, addressed to no slot of this device. -/
def frame0 : Frame :=
  let h : List Byte := [1, 0, 0, 7, 0, 1, 0, 0, 0, 0, 0, 0, 0, 0]
  let p := h ++ [0, 0] ++ List.replicate 32 0
  let c := hdrCrc p
  ⟨0x88B5, h ++ [BitVec.ofNat 8 (c / 256), BitVec.ofNat 8 c] ++ List.replicate 32 0, true⟩

/-- A host's write to the power limit at a whole 5 µs. -/
def committing0 (v : Nat) : State :=
  let s := reached 0 fun f => { f with objBusy := 2, objIndex := 0x2001, objSub := 1 }
  { s with now := 10, dict := { s.dict with waiting := [{ w1700 with val := v }] } }

theorem test_wit_FieldLinkAndCommit :
    (base.power.tripped = false ∧ base.field.down = false ∧ ({ base.field with down := true } : Field).down = true ∧ base.releasedTo 2 = true ∧ base.dictUp = true) ∧
    base.tooEarly = false ∧ ({ base with field := { base.field with lastExec := some 0 } }).tooEarly = true ∧ base.frameOk { frame0 with etherType := 0x800 } = false ∧
    base.frameOk frame0 = true ∧ base.fw.inRecovery = false ∧ base.field.turned = false ∧ ({ base.field with turned := true } : Field).turned = true ∧ base.field.lost = false ∧
    base.now < base.field.lastGood + base.obj 0x7040 3 * 1000 ∧ base.field.lastGood + base.obj 0x7040 3 * 1000 ≤ ({ base with now := 10 ^ 18 } : State).now ∧
    ({ base with now := 4 } : State).now % 5 ≠ 0 ∧
    (let s := committing0 1700
     let r := (objRow 0x2001 1).getD ⟨0, 0, 0, 0, .ro, false⟩
     s.now % 5 = 0 ∧ s.dictUp = true ∧ s.dict.waiting = [w1700] ∧ w1700.field = false ∧ objRow w1700.idx w1700.sub = some r ∧ (s.fn w1700.fn).objBusy = 2 ∧
     (State.mergedWrite { s with dict := { s.dict with waiting := [] } } w1700 r).2 = [] ∧
     (State.mergedWrite { s with dict := { s.dict with waiting := [] } } { w1700 with val := 5000 } r).2.length = 1) ∧
    ((heldW 1).setSema 1 { (heldW 1).sema 1 with lossDue := true }).sema 1 = { Sema.init with holder := some false, gen := 65535, lossDue := true } ∧
    ({ base.field with outDown := true } : Field).outDown = true ∧ base.field.outDown = false ∧ (base.link 5).st ≠ .down ∧ (∀ x ∈ base.mgmt.running, x.err.cls < 3) := by decide +kernel

/-- The base before a run of partition 1, its remaps done or not. -/
def noRun (b : BitVec 4) : State := { base with fabric := { base.fabric with remapped := b } }

theorem test_wit_RunsOwnershipAndSupervision :
    (base.part 0).run ≠ .noRun ∧ (base.part 1).run = .noRun ∧ base.mgmt.fenced = false ∧ base.remapsDone = false ∧ (noRun 15).remapsDone = true ∧
    ((onPart fun v => { v with run := .hung }).part 0).run = .hung ∧
    (let s := onPart fun v => { v with run := .stopping }; (s.part 0).run = .stopping ∧ s.committing 0 = false) ∧
    (let s := (onPart fun v => { v with run := .stopping }).setClu 0 { clu0 with slots := [(0, { Slot.init with st := .committing })] }; s.committing 0 = true) ∧
    (base.ownerOf (511 * 2097152) = 0 ∧ 511 / 65536 < 4 ∧ 511 % 65536 / 512 < 95) ∧ base.ownerOf (512 * 2097152) ≠ 0 ∧
    base.granOwner (4 * 3 + 3) = 255 ∧ base.granOwner 0 < 16 ∧ base.hasRun (base.granOwner 0) = true ∧
    (bits 0 0 1 = 1 ∧ base.clPart (Fin.ofNat 256 (0 / 12)) = 0 ∧ base.coreState 0 = 0) ∧ base.clPart (Fin.ofNat 256 (3071 / 12)) ≠ 0 ∧ base.boot.phase = .up := by decide +kernel

/-- A breakpoint entry of slot k for an address in cluster 0. -/
def bpAt (k ia : Nat) : Nat := 2 ^ 127 + k * 2 ^ 125 + ia * 2 ^ 64

theorem test_wit_BreakpointsSamplesAndTraceLines :
    (let v := 2 ^ 127 + 3 * 2 ^ 120; bits 127 127 (sliceNat v (16 * 0) 16) = 1 ∧ base.clPart (bpCluster (sliceNat v (16 * 0) 16)) ≠ 0) ∧
    (let v := bpAt 0 256 * 256 ^ (16 * 255); base.clPart (bpCluster (sliceNat v (16 * 255) 16)) = 0 ∧
      ((List.range 255).all fun e' => decide (bits 127 127 (sliceNat v (16 * e') 16) = 0)) = true) ∧
    (let s := base.setObj 0x8023 1 (bpAt 3 256)
     s.bpFor 0 256 = some 0 ∧ s.seqRuns ⟨0, .steward, 256⟩ = true ∧ s.bpStops ⟨0, .steward, 256⟩ = true ∧ (s.stew 0).npc = none ∧ (s.stew 0).hold = none) ∧
    (let s := base.setObj 0x8023 1 (bpAt 3 256 + 2 ^ 32); s.bpFor 0 256 = some 0 ∧ s.bpStops ⟨0, .steward, 256⟩ = false) ∧
    (let s := onClu fun v => { v with brk := .halting 3 }
     (s.clu 0).brk = .halting 3 ∧ (∀ n < 16, (s.ring 0 n).st ≠ .running ∧ (s.ring 0 n).st ≠ .stopping) ∧ (∀ c : Cn, (s.core 0 c).movesClear = true ∧ (s.core 0 c).outs = []) ∧
     (∀ e ∈ (s.clu 0).slots, e.2.st ≠ .committing) ∧ (1 : Cl) ≠ 0 ∧ s.clPart 1 = s.clPart 0 ∧ (s.stew 1).evq.length < 32) ∧
    ((onRing 15 fun r => { r with st := .stopping }).ring 0 15).st = .stopping ∧ (base.clu 0).brk = .none ∧
    (let s := (onClu fun v => { v with brk := .halted 3 }).setObj 0x8023 1 (bpAt 3 256 + 2 ^ 124)
     bits 127 127 (s.bpEntry (s.clPart 0) 0) = 1 ∧ bits 124 124 (s.bpEntry (s.clPart 0) 0) = 1 ∧ bits 126 125 (s.bpEntry (s.clPart 0) 0) = 3 ∧ bpCluster (s.bpEntry (s.clPart 0) 0) = 0) ∧
    (let s := (onClu fun v => { v with brk := .halted 3, brkRings := 1 }).setObj 0x8023 1 (bpAt 3 256)
     ((List.range 256).all fun e => decide (bits 127 127 (s.bpEntry (s.clPart 0) e) = 0 ∨ bits 124 124 (s.bpEntry (s.clPart 0) e) = 0)) = true ∧ (s.part (s.clPart 0)).ackDue = false ∧
     (s.part (s.clPart 0)).rolling = none) ∧
    base.tracing 0 = false ∧
    (let s := onPart fun v => { v with trace := { v.trace with on := true, segLen := 4096 } }
     s.coreEnabled 0 11 = true ∧ s.tracing 0 = true ∧ 4096 ≤ (s.part (s.clPart 0)).trace.segLen ∧ (s.clu 0).trace.held < 64 ∧ (s.clu 0).trace.buf.length < 3 ∧ (s.clu 0).trace.lost = 0) ∧
    (let s := (onPart fun v => { v with trace := { v.trace with on := true, segLen := 4096 } }).setClu 0 { clu0 with trace := ⟨[], [[1]], 0, 0, 0⟩ }
     (s.clu 0).trace.lines = [1] :: [] ∧ (s.part (s.clPart 0)).trace.segLen ≠ 0) ∧
    (let s := base.setPhy (base.physOf 0 0) { base.phy (base.physOf 0 0) with testing := true }; (s.phy (s.physOf 0 0)).testing = true) ∧
    (let s := onCore fun k => { k with hold := none, moves := [] }
     (s.phy (s.physOf 0 0)).testing = false ∧ (s.core 0 0).phase = .running ∧ (s.core 0 0).deferStall = none ∧ (s.core 0 0).moves = [] ∧ (s.core 0 0).hold = none) := by decide +kernel

/-- R375's rows: a running core as the command tells, a wait as the state shows it, a free core that no task names. -/
theorem test_sample_classes :
    (onCore fun k => { k with hold := none, moves := [] }).sampleClass 0 0 9 = 9 ∧
    (onCore fun k => { k with hold := some ⟨.nop ⟨0, .core 0, 0⟩, .scoreboard, 0, false⟩, moves := [] }).sampleClass 0 0 1 = 1 ∧
    (onCore fun k => { k with hold := some ⟨.nop ⟨0, .core 0, 0⟩, .icache, 0, false⟩, moves := [] }).sampleClass 0 0 3 = 2 ∧
    (onCore fun k => { k with phase := .free, task := none, moves := [] }).sampleClass 0 0 0 = 7 := by decide +kernel

/-- The base with another trust state. -/
def trusting (f : Trust → Trust) : State := { base with trust := f base.trust }

theorem test_wit_TestPort :
    (booting fun b => { b with pwrgd := false }).boot.pwrgd = false ∧ base.boot.pwrgd = true ∧ base.boot.phase = .up ∧ base.debugOpen = false ∧
    (let s := trusting fun v => { v with service := true, scope := 1 }; s.trust.service = true ∧ s.trust.scope % 2 = 1) := by decide +kernel

/-- The token of serial 0, opening 1, scope 1 over the challenge c. -/
def token0 (c : Nat) : Nat := spliceNat (0x54554C47 + 2 ^ 32 + 2 ^ 48 + 2 ^ 56) 16 32 c

/-- What a token says; whether its signature verifies is for Config.falconVerify to say. -/
theorem test_wit_QuotesMeasurementsAndUnlocking :
    (base.fn 0).quoteDue = false ∧
    (let s := base.setFn 0 { Fn.init with quoteDue := true }
     (s.fn 0).quoteDue = true ∧ (s.part (s.bound 0)).pages = [] ∧ s.fw.fuses.openings < 256 ∧ s.fw.svn < 256 ∧ s.fw.fuses.svn < 256 ∧ s.bound 0 < 256 ∧
     (trusting fun v => { v with hasIdentity := false }).trust.hasIdentity = false) ∧
    (base.part 0).pages = [] ∧ ((onPart fun v => { v with pages := [511] }).part 0).pages = 511 :: [] ∧
    (let s := ({ base with fw := { base.fw with state := 5 } } : State); 1 ≤ s.fw.state ∧ s.fw.state ≤ 5) ∧
    (base.fw.state = 0 ∧ base.trust.opening = none ∧ sliceNat 1 0 4 ≠ 0x54554C47) ∧
    (let s := { (trusting fun v => { v with challenge := 1 }) with parts := [] }
     let v := token0 1
     v < 2 ^ 16384 ∧ sliceNat v 0 4 = 0x54554C47 ∧ sliceNat v 4 2 = 1 ∧ sliceNat v 8 8 = s.fw.fuses.serial.toNat ∧ sliceNat v 16 32 = s.trust.challenge.toNat ∧ sliceNat v 48 720 = 0 ∧
     sliceNat v 6 1 = s.fw.fuses.openings + 1 ∧ s.fw.fuses.openings < 8 ∧ (∀ p < 16, s.hasRun p = false) ∧ (∃ p, p < 16 ∧ base.hasRun p = true)) ∧
    (let s := trusting fun v => { v with opening := some 1 }; s.trust.opening.isSome = true ∧ s.trust.erased = false) ∧
    (let s := trusting fun v => { v with opening := some 1, erased := true }; s.trust.opening = some 1 ∧ s.trust.erased = true) := by
  refine ⟨by decide +kernel, by decide +kernel, by decide +kernel, by decide +kernel, by decide +kernel, ⟨by decide +kernel, by decide +kernel, by decide +kernel⟩, ?_,
    by decide +kernel, by decide +kernel⟩
  refine ⟨by decide +kernel, by decide +kernel, by decide +kernel, by decide +kernel, by decide +kernel, by decide +kernel, by decide +kernel, by decide +kernel, by decide +kernel, 0, by decide, by decide +kernel⟩

/-- An image of one page whose body digest is d. -/
def image0 (d : List Byte) : Mem :=
  (([0x47, 0x4C, 0x46, 0x57, 1, 0, 0, 0, 7, 0, 0, 0, 0, 0x10, 0, 0, 0, 0, 0, 0] ++ d : List Byte).zipIdx.foldl (fun m b => m.setRaw b.2 b.1) Mem.empty)

/-- The staging range and the images; an image is without cause if its signature and digest are right. -/
theorem test_wit_FirmwareUpdate :
    base.fw.state = 0 ∧ (updating fun w => { w with state := 5 }).fw.state = 5 ∧ (updating fun w => { w with inRecovery := true }).fw.inRecovery = true ∧ base.fw.inRecovery = false ∧
    base.stageOk 0 0 = false ∧ ({ base with parts := [] } : State).stageOk (2 ^ 30 - 8192) 8192 = true ∧ base.stageOk (2 ^ 30 - 8192) 8192 = false ∧ base.trust.tokenWaiting = false ∧
    (let s := updating fun w => { w with state := 1 }; s.fw.state = 1 ∧ s.dram.mem.syn = []) ∧
    imageCause base.fw.fuses Mem.empty 8192 = 2 ∧ (updating fun w => { w with state := 2, cmd := 2 }).fw.cmd = 2 ∧
    (let s := updating fun w => { w with state := 5 }; s.fw.flash.span 0 4096 = s.fw.hold.span 0 4096) ∧
    (let s := { (updating fun w => { w with up := true }) with now := 60000000 }; s.fw.up = true ∧ s.fw.upSince + 60000000 ≤ s.now) := by decide +kernel

theorem test_wit_FirmwareUpdate_image (h : Config.falconVerify 0 ((image0 []).field 0 768) ((image0 []).field 768 1280) = true)
    (d : (Config.shake256 4096 ((image0 []).span 4096 4096)).toNat = (image0 []).field 20 64) : imageCause Fuses.init (image0 []) 8192 = 0 := by
  have b : (image0 []).field 12 4 = 4096 := by decide +kernel
  have c : (image0 []).field 6 1 = 0 := by decide +kernel
  have e : (image0 []).field 0 4 = 0x57464C47 ∧ (image0 []).field 4 2 = 1 ∧ (image0 []).span 84 684 = [] ∧ (image0 []).span 2048 2048 = [] ∧ (image0 []).field 7 1 = 0 ∧
    (image0 []).field 16 4 = 0 := by decide +kernel
  simp [imageCause, b, c, e, h, d, Fuses.init]

theorem test_wit_DeviceResetsClearTheState :
    base.boot.pwrgd = true ∧ (booting fun b => { b with pwrgd := false }).boot.pwrgd = false ∧ base.boot.watchdog = true ∧ State.reset.boot.watchdog = false ∧
    (let s := trusting fun v => { v with service := true, scope := 1 }; s.debugOpen = true ∧ s.boot.pwrgd = true) ∧ base.boot.phase = .up ∧
    (let s := booting fun b => { b with phase := .hold, source := 5 }; s.boot.phase = .hold ∧ s.boot.source = 5) ∧ (State.reset.boot.phase = .hold ∧ State.reset.boot.source = 1) ∧
    (let s := booting fun b => { b with phase := .optionLoading }; s.boot.phase = .optionLoading ∧ s.boot.holdOff = false ∧ s.power.tripped = false) ∧
    base.fw.state < 4 ∧ (updating fun w => { w with state := 4 }).fw.state = 4 ∧
    (let s := booting fun b => { b with edges := List.replicate 8 0 }; 8 ≤ (s.boot.edges.filter fun e => decide (s.boot.base + s.now < e + 1000000)).length) ∧
    (let s := booting fun b => { b with holdOff := true, base := 100000 }; s.boot.holdOff = true ∧ s.boot.edges.getLastD 0 + 100000 ≤ s.boot.base + s.now) := by decide +kernel

theorem test_wit_PhasesAndBoot :
    (let s := State.reset; s.boot.phase = .hold ∧ s.boot.pwrgd = true ∧ s.boot.holdOff = false ∧ s.boot.jtagHold = false ∧ s.power.tripped = false) ∧
    base.boot.phase ≠ .hold ∧ base.boot.phase ≠ .optionLoading ∧
    (let s := booting fun b => { b with phase := .optionLoading }; s.boot.phase = .optionLoading ∧ s.boot.pwrgd = true ∧ s.boot.jtagHold = false ∧ s.power.tripped = false) ∧
    (let st : StrapSamples := ⟨[3, 3, 0], [2, 2, 0], [1, 1, 0], [15, 15, 15, 15, 15, 15, 15, 15]⟩; st.wf = true ∧ st.strapSelN = [1, 1, 0] ∧ st.bootSrc = [3, 3, 0] ∧ (3 : Nat) < 4) ∧
    (∀ k < 26, (booting fun b => { b with phase := .release k }).boot.phase = .release k) ∧ base.fabric.buffers = [] ∧ (∀ cl, acctOf cl = 0 → (base.clu cl).xing = []) ∧ acctOf 0 = 8 - 8 ∧ acctOf 0 ≠ 23 - 8 ∧
    (let s := booting fun b => { b with phase := .release 8 }
     s.releasedTo (5 + 3) = true ∧ s.boot.calStopped = false ∧ s.boot.calOk.getLsbD 3 = false ∧ s.boot.calBad.getLsbD 3 = false ∧ s.releasedTo 8 = true ∧ s.boot.calOk = 0) ∧
    (let s := booting fun b => { b with calOk := 15, watchdog := false }
     s.fw.inRecovery = false ∧ s.boot.watchdog = false ∧ s.boot.calStopped = false ∧ s.boot.calOk ≠ 0 ∧ s.releasedTo 1 = true ∧ s.boot.bootSrc = 0 ∧
     imageCause s.fw.fuses ⟨s.fw.flash.span 0 sealedBase, []⟩ sealedBase ≠ 0) ∧
    (booting fun b => { b with bootSrc := 1 }).boot.bootSrc ≠ 0 ∧ (updating fun w => { w with up := false }).fw.up = false ∧ base.boot.watchdog = true := by decide +kernel

theorem test_wit_StepRunsTheFrontCommand : ({ base with pending := [.nop wc] }).pending = .nop wc :: [] ∧ base.pending = [] := by decide +kernel

theorem test_wit_WordCodeVerdicts :
    (∃ h1 h2 h3, codeCols[31]? = some (h1, h2, h3)) ∧
    (let s0 := 1; let s1 := 1; ∀ h ∈ codeCols, ¬(s1 = gfmul h.1 s0 ∧ 0 = gfmul h.2.1 s0 ∧ 0 = gfmul h.2.2 s0)) ∧
    verdict ((⟨[], [(0, 0xAE62#16)]⟩ : Mem).synAt (5 / 16)) = .corrected 5 2 ∧ verdict ((⟨[], [(0, 0x0030#16)]⟩ : Mem).synAt 0) = .corrected 33 0 := by
  refine ⟨⟨_, _, _, rfl⟩, ?_⟩; decide +kernel

theorem test_wit_EveryStepKeepsTheInvariant : State.reset.Inv ∧ base.Inv ∧ ∃ t, step base = .next t :=
  ⟨by unfold State.Inv; decide +kernel, by unfold State.Inv; decide +kernel, _, rfl⟩

theorem test_wit_FusedCountsNeverFall : base.fw.fuses.openings ≤ 8 ∧ ∃ t, step { base with pending := [.openingFuseBlown true] } = .next t :=
  ⟨by decide +kernel, _, rfl⟩

/-! ### Examples that the spec works out -/

/-- Answers of a command that is done. -/
def after (c : Instr) (s : State) : State := match exec c s with
  | .next t => t
  | _ => s

/-- R370: the identification code of silicon revision 0. -/
theorem test_idcode : (after .idcode base).jtag.tdr = 0x03072973 := by decide +kernel

/-- R250: the check symbols of the data 0x300000, and the syndrome that corrects symbol 5 by 2. -/
theorem test_checkBits : checkBits 0x300000 = 0xF953#16 ∧ verdict 0xAE62#16 = .corrected 5 2 := by decide +kernel

/-- R299: the token of a section held by port A, generation 0x41. -/
theorem test_token : ({ Sema.init with holder := some false, gen := 0x41 } : Sema).token 1 true = 0x8000000100000041 := by decide +kernel

/-- The numbering's worked example: core (2, 5, 6, 9) lies over channel (2, 14), in granule (2, 3). -/
theorem test_numbering : chanOf (clAt 2 5 6) = 16 * 2 + 14 ∧ acctOf (clAt 2 5 6) = 4 * 2 + 3 := by decide +kernel

/-- R186's worked example: from cluster (0, 2, 5) to cluster (1, 6, 1) over DL01 by port D-N on lane 2: 5 hops along y, the link, 4 hops along x and
one along y, and the way into the island. -/
theorem test_route : base.flitRoute ⟨.request, 0, some (clAt 0 2 5), clAt 1 6 1, 0, 0, []⟩ =
    ((List.range 5).map fun i => ⟨0, 2, 5 - i, .north, .outbound⟩) ++ [⟨0, 2, 0, .dN, .outbound⟩] ++
      ((List.range 4).map fun i => ⟨1, 2 + i, 0, .east, .inbound⟩) ++ [⟨1, 6, 0, .south, .inbound⟩, ⟨1, 6, 1, .island, .inbound⟩] := by decide +kernel

/-- R360: the code 9 of the strap resistor. -/
theorem test_cfgRes : (let t := after (.optionLoadingComplete ⟨[0, 0, 0], [0, 0, 0], [0, 0, 0], [9, 9, 9, 9, 9, 9, 9, 9]⟩) (booting fun b => { b with phase := .optionLoading })
    (t.boot.bootSrc, t.boot.clkMode)) = (1, 1) := by decide +kernel

/-- A command whose occasion is absent leaves the state as it is, and on an empty queue a microsecond passes. -/
theorem test_idle : step base = .next { base with now := 1 } ∧ exec .fwReadbackComplete base = .next base := ⟨rfl, rfl⟩

/-- R68: a write to s0 is discarded. -/
theorem test_s0 : (after (.movi wc 0 5) base).reg wc 0 = 0 ∧ (after (.movi wc 31 (-1)) base).reg wc 31 = 0xFFFFFFFFFFFFFFFF#64 := by decide +kernel

/-! ### Ill-formed commands are refused -/

theorem test_wf_instructions :
    (Instr.movi wc 32 0).wf = false ∧ (Instr.movi ⟨0, .core 0, 2 ^ 48⟩ 0 0).wf = false ∧ (Instr.movi wc 0 (2 ^ 31)).wf = false ∧ (Instr.add wc 0 0 (.reg 32)).wf = false ∧
    (Instr.mul wc 0 0 32).wf = false ∧ (Instr.beq wc 0 32 0).wf = false ∧ (Instr.jmp wc (2 ^ 48)).wf = false ∧ (Instr.srseed wc 32).wf = false ∧
    (Instr.tprod wc 4 0 0 0 0 1 true true none).wf = false ∧ (Instr.tdrain wc 0 { drn0 with dst := 2 ^ 18 }).wf = false ∧ (Instr.tew wc .add (2 ^ 18) 0 0 true drn0).wf = false ∧
    (Instr.tload wc { args0 with ew := 33 }).wf = false ∧ (Instr.tstore wc { args0 with stride := 32 }).wf = false ∧ (Instr.rpost wc 16 0 none).wf = false ∧
    (Instr.cinc wc (.own 48) (.imm 0) false).wf = false ∧ (Instr.cexp wc (.hub 64) (.imm 0)).wf = false ∧ (Instr.cread wc 0 (.full 32) false).wf = false ∧
    (Instr.tpost wc 16 0).wf = false ∧ (Instr.tretry wc 16).wf = false ∧ (Instr.tabort wc 4096).wf = false ∧ (Instr.scommit wc 4).wf = false ∧ (Instr.evarg wc 0 8).wf = false ∧
    (Instr.cclean wc 32 0).wf = false ∧ (Instr.ccmark wc 4096 .keep).wf = false ∧ (Instr.rset wc 16 .rbase 0).wf = false ∧ (Instr.nop wc).wf = true := by decide +kernel

theorem test_wf_commands :
    (Instr.moveLineResponse 0 0 4 0).wf = false ∧ (Instr.moveComplete 0 0 4).wf = false ∧ (Instr.moveBusError 0 0 0 0 256).wf = false ∧ (Instr.registerWrite (.bar0 0 65535 2) 0).wf = false ∧
    (Instr.ringBusError 0 0 (2 ^ 48) 0).wf = false ∧ (Instr.managementRaise (2 ^ 24) 0).wf = false ∧ (arrives ⟨.request, 0, none, 0, 0, 0, List.replicate 9 ⟨0, 0⟩⟩).wf = false ∧
    (Instr.cacheRequest 0 { req .read with tag := 4096 }).wf = false ∧ (Instr.permissionCacheFill 0 (2 ^ 27)).wf = false ∧ (Instr.cacheFill 0 (2 ^ 41)).wf = false ∧
    (Instr.dramRead (2 ^ 48)).wf = false ∧ (reported (err 4)).wf = false ∧ (Instr.urEscalation 0 256).wf = false ∧ (Instr.ceStorm (2 ^ 24)).wf = false ∧ (Instr.permWrite 0 0 0 16).wf = false ∧
    (Instr.granuleOwner 0 0 256).wf = false ∧ (Instr.selftestReq 0 (2 ^ 3072)).wf = false ∧ (Instr.semaRelease 0 0 9 0).wf = false ∧ (Instr.bar4Read 0 (2 ^ 36) 1).wf = false ∧
    (Instr.controlLinkUp false 7 4 ⟨true, 0⟩).wf = false ∧ (Instr.controlLinkUp false 6 4 ⟨false, 0⟩).wf = false ∧ (Instr.storagePortBringup 0 { good with version := 65536 }).wf = false ∧ (Instr.ssdInboundRequest 0 (2 ^ 64) 1 true).wf = false ∧
    (Instr.storagePortDown 0 7).wf = false ∧ (Instr.fieldFrame { frame0 with etherType := 65536 }).wf = false ∧ (Instr.breakpointWrite 0 (2 ^ 32768)).wf = false ∧
    (Instr.pcSample 0 0 16).wf = false ∧ (Instr.unlockToken (2 ^ 16384)).wf = false ∧ (Instr.ckptHold 0 256).wf = false ∧ (Instr.guardSample 65536 0 0 0 0).wf = false ∧
    (Instr.optionLoadingComplete ⟨[], [], [], []⟩).wf = false ∧ (Instr.selftestEnd 0 0 [⟨33, 0⟩] false).wf = false ∧ (Instr.selftestEnd 0 0 (List.replicate 9 ⟨3, 0⟩) false).wf = false ∧
    (Instr.selftestEnd 0 0 [⟨3, 0⟩] true).wf = false ∧ (Instr.semaRead 0 0 ⟨8, 4, false⟩).wf = false ∧ (Instr.dropRingsHalted 0 ⟨0, 65536, []⟩).wf = false ∧ (Instr.ledgerCountsClear 256).wf = false ∧ Instr.holdEnd.wf = true := by decide +kernel

end Sys2Proof.Tests
end

namespace Sys2Proof.Machine

open Sys2Proof

/-! ### What a core's banks and edges touch (R71 to R75) -/

/-- Two cores that differ at most in the bookkeeping of the banks and of the edges' latches (R71 to R75). -/
def Core.SameButBanks (a b : Core) : Prop :=
  b = { a with
    grants := b.grants, readq := b.readq, writeq := b.writeq, bankCyc := b.bankCyc
    bankConf := b.bankConf, reuseHits := b.reuseHits, latchA := b.latchA, latchB := b.latchB }

theorem Core.SameButBanks.trans {a b c : Core} (h : a.SameButBanks b) (k : b.SameButBanks c) : a.SameButBanks c := by
  unfold Core.SameButBanks at *
  rw [k, h]

theorem clients_sameButBanks (f : Nat) (k : Core) (t : Nat) : k.SameButBanks (Core.clients f k t) := by
  induction f generalizing k with
  | zero => rfl
  | succ f ih =>
    unfold Core.clients
    split
    · rfl
    · exact .trans (b := k.bankCycle) rfl (ih _)

theorem gatherNext_sameButBanks (k : Core) (p : PendSlice) (rest : List PendSlice) : k.SameButBanks (k.gatherNext p rest) := by
  unfold Core.gatherNext
  dsimp only
  have h : k.SameButBanks (if p.ix = 0 then k else k.deliver p.at_ p.left p.top) := by split <;> rfl
  generalize (if p.ix = 0 then k else k.deliver p.at_ p.left p.top) = k1 at *
  refine h.trans ?_
  split
  · split <;> rfl
  · rfl

theorem gather_sameButBanks (a : ArrayAsk) (k : Core) (t : Nat) : k.SameButBanks (a.gather k t) := by
  have h : k.SameButBanks (k.collectSlice (a.begin k) t a.first.1 a.first.2 a.vecs).1 := rfl
  unfold ArrayAsk.gather
  dsimp only
  have h1 := h.trans (c := if a.edges = true then
      (k.collectSlice (a.begin k) t a.first.1 a.first.2 a.vecs).1.deliver t a.first.1 a.first.2
    else (k.collectSlice (a.begin k) t a.first.1 a.first.2 a.vecs).1) (by split <;> rfl)
  split
  · exact h1.trans rfl
  · exact h1

/-- The outputs due by cycle t become visible; all else that `land` touches is the banks' bookkeeping (R29, R42). -/
theorem land_spec (k : Core) (t : Nat) : ({ k with
      ts := (k.outs.filter fun o => decide (o.vis ≤ t)).foldl PendOut.apply k.ts
      outs := k.outs.filter fun o => !decide (o.vis ≤ t)
      areads := k.areads.filter fun r => decide (t < r.point) } : Core).SameButBanks (k.land t).1 := by
  have h := clients_sameButBanks k.bankFuel k t
  unfold Core.land
  generalize Core.clients k.bankFuel k t = k' at *
  unfold Core.SameButBanks at *
  rw [h]

/-! ### What settling a core leaves alone -/

/-- Two cores that differ at most in what the passing of cycles moves (R29): tile store, accumulators, pending outputs, slices and
read marks, and the banks' bookkeeping. -/
def Core.SameButArray (a b : Core) : Prop :=
  b = { a with
    ts := b.ts, acc := b.acc, accPoison := b.accPoison, outs := b.outs, slices := b.slices, areads := b.areads
    grants := b.grants, readq := b.readq, writeq := b.writeq, bankCyc := b.bankCyc
    bankConf := b.bankConf, reuseHits := b.reuseHits, latchA := b.latchA, latchB := b.latchB }

theorem Core.SameButArray.trans {a b c : Core} (h : a.SameButArray b) (k : b.SameButArray c) : a.SameButArray c := by
  unfold Core.SameButArray at *
  rw [k, h]

theorem Core.SameButBanks.array {a b : Core} (h : a.SameButBanks b) : a.SameButArray b := by
  unfold Core.SameButBanks at h
  unfold Core.SameButArray
  rw [h]

theorem land_sameButArray (k : Core) (t : Nat) : k.SameButArray (k.land t).1 :=
  .trans (b := { k with
      ts := (k.outs.filter fun o => decide (o.vis ≤ t)).foldl PendOut.apply k.ts
      outs := k.outs.filter fun o => !decide (o.vis ≤ t)
      areads := k.areads.filter fun r => decide (t < r.point) }) rfl (land_spec k t).array

/-- The core behind the slice p that is due: the outputs visible by its read point, the slice, the next one's collection. -/
def Core.afterSlice (k : Core) (p : PendSlice) (rest : List PendSlice) : Core :=
  { (((k.land p.at_).1.readSlice p).1.gatherNext p rest) with slices := rest }

theorem afterSlice_sameButArray (k : Core) (p : PendSlice) (rest : List PendSlice) : k.SameButArray (k.afterSlice p rest) :=
  ((land_sameButArray k p.at_).trans (b := (k.land p.at_).1) (c := ((k.land p.at_).1.readSlice p).1) rfl).trans
    ((gatherNext_sameButBanks _ p rest).array.trans rfl)

/-- A property that every slice due by cycle t keeps holds behind all that are due. -/
theorem readSlices_inv {P : List PendSlice → Core → Prop} {t : Nat}
    (step : ∀ k p rest, p.at_ ≤ t → P (p :: rest) k → P rest (k.afterSlice p rest))
    (l : List PendSlice) (a : Core × List Found) (h : P l a.1) :
    P (l.dropWhile fun p => decide (p.at_ ≤ t)) (Core.readSlices t l a).1 := by
  induction l generalizing a with
  | nil => exact h
  | cons p rest ih =>
    unfold Core.readSlices
    by_cases hp : t < p.at_
    · rw [if_pos hp, List.dropWhile_cons_of_neg (by simpa using hp)]
      exact h
    · rw [if_neg hp, List.dropWhile_cons_of_pos (by simpa using hp)]
      exact ih _ (step a.1 p rest (by omega) h)

theorem settle_sameButArray (k : Core) (t : Nat) : k.SameButArray (k.settle t).1 := by
  have h := readSlices_inv (P := fun _ x => k.SameButArray x) (t := t)
    (fun x p rest _ hx => hx.trans (afterSlice_sameButArray x p rest)) k.slices (k, []) rfl
  exact h.trans (land_sameButArray _ t)
end Sys2Proof.Machine

namespace Sys2Proof.Machine

open Sys2Proof

/-! ### What settling does to slices, pending outputs, read marks and accumulators -/

theorem land_slices (k : Core) (t : Nat) : (k.land t).1.slices = k.slices := (congrArg Core.slices (land_spec k t) :)
theorem land_acc (k : Core) (t : Nat) : (k.land t).1.acc = k.acc := (congrArg Core.acc (land_spec k t) :)
theorem land_ts (k : Core) (t : Nat) :
    (k.land t).1.ts = (k.outs.filter fun o => decide (o.vis ≤ t)).foldl PendOut.apply k.ts := (congrArg Core.ts (land_spec k t) :)
theorem land_areads (k : Core) (t : Nat) : (k.land t).1.areads = k.areads.filter fun r => decide (t < r.point) := (congrArg Core.areads (land_spec k t) :)

/-- The keys of the outputs that are still pending behind cycle t. -/
def Core.keysAfter (k : Core) (t : Nat) : List (Nat × Nat × BitVec 64) := (k.outs.map PendOut.key).filter fun o => decide (t < o.1)

theorem land_keys (k : Core) (t : Nat) : (k.land t).1.outs.map PendOut.key = k.keysAfter t := by
  rw [show (k.land t).1.outs = _ from (congrArg Core.outs (land_spec k t) :)]
  simp only [Core.keysAfter, List.filter_map, ← decide_not, Nat.not_le]
  rfl

theorem keysAfter_keysAfter {k k' : Core} {u t : Nat} (hut : u ≤ t) (h : k'.outs.map PendOut.key = k.keysAfter u) :
    k'.keysAfter t = k.keysAfter t := by
  unfold Core.keysAfter at *
  rw [h, List.filter_filter]
  congr 1
  funext o
  have : t < o.1 → u < o.1 := by omega
  simpa using this

theorem fill_key (k : Core) (o : PendOut) : (k.fill o).key = o.key := by
  unfold Core.fill
  split <;> rfl

theorem readSlice_keys (k : Core) (p : PendSlice) : (k.readSlice p).1.outs.map PendOut.key = k.outs.map PendOut.key := by
  unfold Core.readSlice
  simp only [List.map_map]
  refine List.map_congr_left fun o _ => ?_
  dsimp only [Function.comp]
  split
  · exact fill_key _ o
  · rfl

theorem afterSlice_keys (k : Core) (p : PendSlice) (rest : List PendSlice) :
    (k.afterSlice p rest).outs.map PendOut.key = k.keysAfter p.at_ := by
  have h : (k.afterSlice p rest).outs = ((k.land p.at_).1.readSlice p).1.outs := (congrArg Core.outs (gatherNext_sameButBanks _ p rest) :)
  rw [h, readSlice_keys, land_keys]

/-- Behind cycle t exactly the outputs whose L is later are pending (R29, R82). -/
theorem settle_keys (k : Core) (t : Nat) : (k.settle t).1.outs.map PendOut.key = k.keysAfter t := by
  have h := readSlices_inv (P := fun _ x => x.keysAfter t = k.keysAfter t) (t := t)
    (fun x p rest hp hx => (keysAfter_keysAfter hp (afterSlice_keys x p rest)).trans hx) k.slices (k, []) rfl
  exact (land_keys _ t).trans h

/-- Behind cycle t the slices are those from the first one on whose read point is later (R29). -/
theorem settle_slices (k : Core) (t : Nat) : (k.settle t).1.slices = k.slices.dropWhile fun p => decide (p.at_ ≤ t) :=
  (land_slices _ t).trans
    (readSlices_inv (P := fun l x => x.slices = l) (t := t) (fun _ _ _ _ _ => rfl) k.slices (k, []) rfl)

theorem mem_of_mem_settle_areads {k : Core} {t : Nat} {r : AReadMark} (h : r ∈ (k.settle t).1.areads) :
    r ∈ k.areads ∧ t < r.point := by
  have hs := readSlices_inv (P := fun _ x => ∀ r ∈ x.areads, r ∈ k.areads) (t := t)
    (fun x p rest _ hx r hr => by
      have e : (x.afterSlice p rest).areads = (x.land p.at_).1.areads := (congrArg Core.areads (gatherNext_sameButBanks _ p rest) :)
      rw [e, land_areads] at hr
      exact hx r (List.mem_of_mem_filter hr)) k.slices (k, []) fun _ hr => hr
  rw [show (k.settle t).1.areads = _ from land_areads _ t, List.mem_filter] at h
  exact ⟨hs r h.1, by simpa using h.2⟩

/-- Where no slice waits, exactly the outputs that are due are stored, in their order, and no accumulator changes (R29, R42). -/
theorem settle_of_no_slices (k : Core) (t : Nat) (h : k.slices = []) :
    (k.settle t).1.ts = (k.outs.filter fun o => decide (o.vis ≤ t)).foldl PendOut.apply k.ts ∧ (k.settle t).1.acc = k.acc := by
  have e : (k.settle t).1 = (k.land t).1 := by unfold Core.settle; rw [h]; rfl
  rw [e]
  exact ⟨land_ts k t, land_acc k t⟩

/-! ### Masked cells (R32, R33) -/

theorem mem_maskLines {m : W32} {i : Nat} : i ∈ maskLines m ↔ i < 32 ∧ m.getLsbD i = true := by simp [maskLines]

theorem accIx_inj {t t' i i' j j' : Nat} (hi : i < 32) (hi' : i' < 32) (hj : j < 32) (hj' : j' < 32) :
    accIx t i j = accIx t' i' j' ↔ t = t' ∧ i = i' ∧ j = j' := by
  unfold accIx
  omega

/-- A slice into the accumulators touches no element but those of its lines. -/
theorem look_accSlice_ne (acc : SMap Num) (t : Nat) (replace int8 : Bool) (left top : List (Nat × List Num)) (n : Nat)
    (h : ∀ l ∈ left, ∀ u ∈ top, n ≠ accIx t l.1 u.1) : look Num.zero (accSlice acc t replace int8 left top) n = look Num.zero acc n :=
  foldl_inv (p := fun m => look Num.zero m n = look Num.zero acc n) left acc rfl fun _ l hl hm =>
    foldl_inv (p := fun m => look Num.zero m n = look Num.zero acc n) top _ hm fun _ u hu hm' =>
      (look_put_ne _ _ _ (h l hl u hu)).trans hm'

/-- Whether a slice leaves element (i, j) of tile a alone: it is of another tile, or its masks turn the cell off. -/
def PendSlice.spares (p : PendSlice) (a i j : Nat) : Prop := a ≠ p.acc ∨ p.rows.getLsbD i = false ∨ p.cols.getLsbD j = false

theorem readSlice_acc_spared (k : Core) (p : PendSlice) {a i j : Nat} (hi : i < 32) (hj : j < 32) (h : p.spares a i j) :
    look Num.zero (k.readSlice p).1.acc (accIx a i j) = look Num.zero k.acc (accIx a i j) := by
  refine look_accSlice_ne _ _ _ _ _ _ _ fun l hl u hu e => ?_
  simp only [List.mem_map, mem_maskLines] at hl hu
  obtain ⟨r, ⟨hr, hrow⟩, rfl⟩ := hl
  obtain ⟨c, ⟨hc, hcol⟩, rfl⟩ := hu
  obtain ⟨rfl, rfl, rfl⟩ := (accIx_inj hi hr hj hc).1 e
  rcases h with h | h | h
  · exact h rfl
  · rw [h] at hrow; cases hrow
  · rw [h] at hcol; cases hcol

/-- A core that runs on leaves alone an accumulator element that every waiting slice spares. -/
theorem settle_acc_spared (k : Core) (t : Nat) {a i j : Nat} (hi : i < 32) (hj : j < 32) (h : ∀ p ∈ k.slices, p.spares a i j) :
    look Num.zero (k.settle t).1.acc (accIx a i j) = look Num.zero k.acc (accIx a i j) := by
  have hs := readSlices_inv (t := t)
    (P := fun l x => (∀ p ∈ l, p.spares a i j) ∧ look Num.zero x.acc (accIx a i j) = look Num.zero k.acc (accIx a i j))
    (fun x p rest _ hx => by
      refine ⟨fun q hq => hx.1 q (List.mem_cons_of_mem p hq), ?_⟩
      have e : (x.afterSlice p rest).acc = ((x.land p.at_).1.readSlice p).1.acc := (congrArg Core.acc (gatherNext_sameButBanks _ p rest) :)
      rw [e, readSlice_acc_spared _ p hi hj (hx.1 p (List.mem_cons_self ..)), land_acc]
      exact hx.2) k.slices (k, []) ⟨h, rfl⟩
  rw [show (k.settle t).1.acc = _ from land_acc _ t]
  exact hs.2

/-! ### A core that has run on -/

theorem ranTo_sameButArray (k : Core) (t : Nat) : ({ k with cyc := max k.cyc t } : Core).SameButArray (k.ranTo t) := by
  have h := settle_sameButArray k (max k.cyc t)
  unfold Core.SameButArray Core.ranTo at *
  rw [h]

section
variable (k : Core) (t : Nat)

@[simp] theorem ranTo_cyc : (k.ranTo t).cyc = max k.cyc t := rfl
@[simp] theorem ranTo_regs : (k.ranTo t).regs = k.regs := (congrArg Core.regs (ranTo_sameButArray k t) :)
@[simp] theorem ranTo_npc : (k.ranTo t).npc = k.npc := (congrArg Core.npc (ranTo_sameButArray k t) :)
@[simp] theorem ranTo_hold : (k.ranTo t).hold = k.hold := (congrArg Core.hold (ranTo_sameButArray k t) :)
@[simp] theorem ranTo_lastIa : (k.ranTo t).lastIa = k.lastIa := (congrArg Core.lastIa (ranTo_sameButArray k t) :)
@[simp] theorem ranTo_fmtA : (k.ranTo t).fmtA = k.fmtA := (congrArg Core.fmtA (ranTo_sameButArray k t) :)
@[simp] theorem ranTo_fmtB : (k.ranTo t).fmtB = k.fmtB := (congrArg Core.fmtB (ranTo_sameButArray k t) :)
@[simp] theorem ranTo_rowMask : (k.ranTo t).rowMask = k.rowMask := (congrArg Core.rowMask (ranTo_sameButArray k t) :)
@[simp] theorem ranTo_colMask : (k.ranTo t).colMask = k.colMask := (congrArg Core.colMask (ranTo_sameButArray k t) :)
@[simp] theorem ranTo_seed : (k.ranTo t).seed = k.seed := (congrArg Core.seed (ranTo_sameButArray k t) :)
@[simp] theorem ranTo_srCount : (k.ranTo t).srCount = k.srCount := (congrArg Core.srCount (ranTo_sameButArray k t) :)
@[simp] theorem ranTo_moves : (k.ranTo t).moves = k.moves := (congrArg Core.moves (ranTo_sameButArray k t) :)
@[simp] theorem ranTo_incomplete : (k.ranTo t).incomplete = k.incomplete := (congrArg Core.incomplete (ranTo_sameButArray k t) :)
@[simp] theorem ranTo_edgeFree : (k.ranTo t).edgeFree = k.edgeFree := (congrArg Core.edgeFree (ranTo_sameButArray k t) :)
@[simp] theorem ranTo_drainFree : (k.ranTo t).drainFree = k.drainFree := (congrArg Core.drainFree (ranTo_sameButArray k t) :)
@[simp] theorem ranTo_wbDone : (k.ranTo t).wbDone = k.wbDone := (congrArg Core.wbDone (ranTo_sameButArray k t) :)
@[simp] theorem ranTo_accDrained : (k.ranTo t).accDrained = k.accDrained := (congrArg Core.accDrained (ranTo_sameButArray k t) :)
@[simp] theorem ranTo_accDone : (k.ranTo t).accDone = k.accDone := (congrArg Core.accDone (ranTo_sameButArray k t) :)
@[simp] theorem ranTo_schedCheck : (k.ranTo t).schedCheck = k.schedCheck := (congrArg Core.schedCheck (ranTo_sameButArray k t) :)

theorem ranTo_keys : (k.ranTo t).outs.map PendOut.key = k.keysAfter (max k.cyc t) := settle_keys k _

theorem ranTo_slices : (k.ranTo t).slices = k.slices.dropWhile fun p => decide (p.at_ ≤ max k.cyc t) := settle_slices k _

theorem ranTo_acc_of_no_slices (h : k.slices = []) : (k.ranTo t).acc = k.acc := (settle_of_no_slices k _ h).2

theorem ranTo_slices_of_no_slices (h : k.slices = []) : (k.ranTo t).slices = [] := by rw [ranTo_slices, h]; rfl

end

/-- A core that has run on behind every L has no output pending. -/
theorem ranTo_outs_nil {k : Core} {t : Nat} (h : ∀ o ∈ k.outs, o.vis ≤ max k.cyc t) : (k.ranTo t).outs = [] := by
  have e := ranTo_keys k t
  rw [Core.keysAfter, List.filter_eq_nil_iff.2 ?_, List.map_eq_nil_iff] at e
  · exact e
  · simp only [List.mem_map, decide_eq_true_eq, Nat.not_lt]
    rintro _ ⟨o, ho, rfl⟩
    exact h o ho

/-- A core that has run on behind every read point has no array read pending. -/
theorem ranTo_areads_nil {k : Core} {t : Nat} (h : ∀ r ∈ k.areads, r.point ≤ max k.cyc t) : (k.ranTo t).areads = [] :=
  List.eq_nil_iff_forall_not_mem.2 fun r hr => by
    obtain ⟨hm, hp⟩ := mem_of_mem_settle_areads (k := k) (t := max k.cyc t) hr
    have := h r hm
    omega

end Sys2Proof.Machine

namespace Sys2Proof.Machine

open Sys2Proof

/-! ### Frames of one core -/

theorem OnlyCoreM.trans {cl : Cl} {c : Cn} {s t u : State} (h : OnlyCoreM cl c s t) (k : OnlyCoreM cl c t u) : OnlyCoreM cl c s u := by
  obtain ⟨h1, h2⟩ := h
  obtain ⟨k1, k2⟩ := k
  exact ⟨by rw [k1, h1], fun cl' c' hn => (k2 cl' c' hn).trans (h2 cl' c' hn)⟩

theorem OnlyCore.toM {cl : Cl} {c : Cn} {s t : State} (h : OnlyCore cl c s t) : OnlyCoreM cl c s t := by
  obtain ⟨h1, h2⟩ := h
  exact ⟨by rw [h1], h2⟩

theorem onlyCore_setCore (s : State) (cl : Cl) (c : Cn) (v : Core) : OnlyCore cl c s (s.setCore cl c v) :=
  ⟨rfl, fun cl' c' hn => by rw [State.core_setCore_if, if_neg hn]⟩

theorem onlyCoreM_coreTo (s : State) (cl : Cl) (c : Cn) (t : Nat) : OnlyCoreM cl c s (s.coreTo cl c t) :=
  ⟨coreTo_only s cl c t, fun cl' c' hn => by rw [coreTo_core, if_neg hn]⟩

@[simp] theorem core_coreTo (s : State) (cl : Cl) (c : Cn) (t : Nat) : (s.coreTo cl c t).core cl c = (s.core cl c).ranTo t := by
  rw [coreTo_core, if_pos ⟨rfl, rfl⟩]

theorem core_reportFound (s : State) (cl cl' : Cl) (c c' : Cn) (fs : List Found) : (s.reportFound cl c fs).core cl' c' = s.core cl' c' := by
  rw [reportFound_only]
  rfl

theorem onlyCoreM_reportFound (s : State) (cl : Cl) (c : Cn) (fs : List Found) : OnlyCoreM cl c s (s.reportFound cl c fs) :=
  ⟨by rw [reportFound_only], fun _ _ _ => core_reportFound ..⟩

/-- A core whose instruction at `ia` has issued in one cycle (R68). -/
def Core.issued (k : Core) (ia : Nat) : Core :=
  { k with npc := none, hold := none, lastIa := ia, cyc := k.cyc + 1, icache := lruPut 64 4 (lineOf ia) k.icache }

theorem next1_eq (s : State) (w : At) (c : Cn) (hw : w.who = .core c) : s.next1 w = s.setCore w.cl c ((s.core w.cl c).issued w.ia) := by
  unfold State.next1 State.advance
  rw [hw]
  rfl

theorem coreIssued_issued (k : Core) (ia : Nat) : CoreIssued (k.issued ia) ia := ⟨rfl, rfl, rfl⟩

theorem reg_core (s : State) (w : At) (c : Cn) (hw : w.who = .core c) (n : Nat) : s.reg w n = (s.core w.cl c).reg n := by
  unfold State.reg
  rw [hw]

/-- A core that writes into itself and lets the next instruction follow. -/
theorem core_setCore_next1 (s : State) (w : At) (c : Cn) (hw : w.who = .core c) (v : Core) :
    ((s.setCore w.cl c v).next1 w).core w.cl c = v.issued w.ia := by
  rw [next1_eq _ _ _ hw, State.core_setCore, State.core_setCore]

theorem onlyCore_next1 (s : State) (w : At) (c : Cn) (hw : w.who = .core c) : OnlyCore w.cl c s (s.next1 w) := by
  rw [next1_eq _ _ _ hw]
  exact onlyCore_setCore ..

/-! ### CONFIG, SETMASK, SRSEED -/

theorem pairOk_iff (fa fb : Fmt) : pairOk fa fb = true ↔ (fa, fb) ∈ acceptedPairs := by
  cases fa <;> cases fb <;> decide

/-- A running maximum is at least where it starts and at least every value it meets. -/
theorem le_foldl_max {α : Type} (f : α → Nat) (l : List α) (b : Nat) :
    b ≤ l.foldl (fun t x => max t (f x)) b ∧ ∀ x ∈ l, f x ≤ l.foldl (fun t x => max t (f x)) b := by
  induction l generalizing b with
  | nil => simp
  | cons a l ih =>
    obtain ⟨h1, h2⟩ := ih (max b (f a))
    rw [List.foldl_cons]
    refine ⟨by omega, fun x hx => ?_⟩
    rcases List.mem_cons.1 hx with rfl | hx
    · omega
    · exact h2 x hx

theorem vis_le_arrayClear {k : Core} {o : PendOut} (h : o ∈ k.outs) : o.vis ≤ k.arrayClear :=
  ((le_foldl_max PendOut.vis k.outs 0).2 o h).trans (le_foldl_max AReadMark.point k.areads _).1

theorem point_le_arrayClear {k : Core} {r : AReadMark} (h : r ∈ k.areads) : r.point ≤ k.arrayClear :=
  (le_foldl_max AReadMark.point k.areads _).2 r h

/-- An instruction that waits for a clear scoreboard issues, once no move is pending and no region is incomplete (R83). -/
theorem whenClear_eq {s : State} {w : At} {c : Cn} (hw : w.who = .core c) (hm : (s.core w.cl c).moves = [])
    (hi : (s.core w.cl c).incomplete = 0) (i : Instr) (f : Core → Core) :
    s.whenClear w i f = ((s.coreTo w.cl c (s.core w.cl c).arrayClear).setCore w.cl c (f ((s.core w.cl c).ranTo (s.core w.cl c).arrayClear))).next1 w := by
  have hc : (s.core w.cl c).movesClear = true := by unfold Core.movesClear; rw [hm, hi]; rfl
  unfold State.whenClear
  rw [hw]
  simp only [hc, Bool.not_true, Bool.false_eq_true, if_false, core_coreTo]

theorem config_accepted {s : State} {w : At} {c : Cn} (hw : w.who = .core c) {fa fb : Fmt}
    (h : s.readyFor w (.config w fa fb) .core = true) (hp : (fa, fb) ∈ acceptedPairs) (hm : (s.core w.cl c).moves = [])
    (hi : (s.core w.cl c).incomplete = 0) : Done (.config w fa fb) s fun t =>
      t.core w.cl c = ({ (s.core w.cl c).ranTo (s.core w.cl c).arrayClear with fmtA := fa, fmtB := fb } : Core).issued w.ia ∧ OnlyCoreM w.cl c s t := by
  refine done_issue rfl h (by simp [firstBad, (pairOk_iff fa fb).2 hp]) ?_
  rw [whenClear_eq hw hm hi]
  exact ⟨core_setCore_next1 _ w c hw _,
    (onlyCoreM_coreTo ..).trans ((onlyCore_setCore ..).toM.trans (onlyCore_next1 _ w c hw).toM)⟩

theorem config_other {s : State} {w : At} {c : Cn} (hw : w.who = .core c) {fa fb : Fmt}
    (h : s.readyFor w (.config w fa fb) .core = true) (hp : (fa, fb) ∉ acceptedPairs) :
    exec (.config w fa fb) s = .next (s.coreFault w.cl c 1 w.ia [16, 1] 0) := by
  have hk : pairOk fa fb = false := by rw [← Bool.not_eq_true, pairOk_iff]; exact hp
  have hb : firstBad [true, pairOk fa fb] 0 = some 1 := by rw [hk]; rfl
  refine (congrArg Host.Outcome.next (issue_bad _ h hb)).trans ?_
  unfold State.instrFault
  rw [hw]
  rfl

/-- Settles O5: CONFIG, SETMASK and SRSEED by what each leaves of the core, read field by field. -/
theorem coreConfiguration : Obligations.CoreConfiguration := by
  unfold Obligations.CoreConfiguration
  intro s w c hw
  refine ⟨fun fa fb h => ⟨fun hp hm hi => ?_, config_other hw h⟩, fun row col h => ?_, fun sa hsa h => ?_⟩
  · obtain ⟨t, hx, hk, hf⟩ := config_accepted hw h hp hm hi
    refine ⟨t, hx, ?_⟩
    beta_reduce
    rw [hk]
    refine ⟨rfl, rfl, ?_, ?_, coreIssued_issued .., ?_, ?_, ?_, ?_, ?_, ?_, hf⟩ <;> simp only [Core.issued, ranTo_regs, ranTo_rowMask, ranTo_colMask, ranTo_seed, ranTo_srCount]
    · exact ranTo_outs_nil fun o ho => (vis_le_arrayClear ho).trans (le_max_right ..)
    · exact ranTo_areads_nil fun r hr => (point_le_arrayClear hr).trans (le_max_right ..)
    · exact ranTo_acc_of_no_slices _ _
  · refine done_issue rfl h rfl ?_
    simp only [hw]
    rw [core_setCore_next1 _ w c hw]
    refine ⟨rfl, rfl, ?_, rfl, rfl, rfl, coreIssued_issued ..⟩
    rw [next1_eq _ w c hw]
    refine ⟨rfl, fun cl' c' hn => ?_⟩
    rw [State.core_setCore_if, if_neg hn, State.core_setCore_if, if_neg hn]
  · refine done_issue rfl h (by simp [firstBad, regOk, hsa]) ?_
    simp only [hw]
    rw [core_setCore_next1 _ w c hw, core_coreTo]
    refine ⟨?_, rfl, ?_, ?_, ?_, ?_, ?_, ?_, coreIssued_issued .., (onlyCoreM_coreTo ..).trans ((onlyCore_setCore ..).toM.trans (onlyCore_next1 _ w c hw).toM)⟩ <;>
      simp only [Core.issued, Core.reg, reg_core s w c hw, ranTo_regs, ranTo_fmtA, ranTo_fmtB, ranTo_rowMask, ranTo_colMask, ranTo_cyc]
    omega

/-! ### ARRAY_OUTPUT_VISIBLE -/

/-- The earliest of some numbers is one of them, and none is smaller. -/
theorem foldl_min_mem {α : Type} (f : α → Nat) (a : α) (l : List α) :
    (∃ x ∈ a :: l, f x = l.foldl (fun m x => min m (f x)) (f a)) ∧ ∀ x ∈ a :: l, l.foldl (fun m x => min m (f x)) (f a) ≤ f x := by
  induction l using List.reverseRecOn with
  | nil => simp
  | append_singleton l b ih =>
    obtain ⟨⟨x, hx, he⟩, hle⟩ := ih
    rw [List.foldl_append, List.foldl_cons, List.foldl_nil]
    generalize l.foldl (fun m x => min m (f x)) (f a) = m at *
    refine ⟨?_, fun y hy => ?_⟩
    · rcases le_total m (f b) with hb | hb
      · exact ⟨x, by simp only [List.mem_cons, List.mem_append] at hx ⊢; tauto, by omega⟩
      · exact ⟨b, by simp, by omega⟩
    · rw [← List.cons_append, List.mem_append, List.mem_singleton] at hy
      rcases hy with hy | rfl
      · have := hle y hy; omega
      · omega

/-- Settles O8: the core runs on to the earliest L; what is due is then exactly what settling stores. -/
theorem arrayOutputBecomesVisible : Obligations.ArrayOutputBecomesVisible := by
  unfold Obligations.ArrayOutputBecomesVisible
  intro s cl c
  refine ⟨fun h => ?_, fun h => ?_⟩
  · show execArrayOutputVisible cl c s = _
    simp only [execArrayOutputVisible, h]
  · obtain ⟨o, l, ho⟩ := List.exists_cons_of_ne_nil h
    obtain ⟨hmem, hle⟩ := foldl_min_mem PendOut.vis o l
    refine ⟨_, show execArrayOutputVisible cl c s = .next (s.coreTo cl c (l.foldl (fun m x => min m x.vis) o.vis)) by
      simp only [execArrayOutputVisible, ho], l.foldl (fun m x => min m x.vis) o.vis, by rwa [ho], by rwa [ho], ?_⟩
    rw [core_coreTo]
    exact ⟨rfl, ranTo_keys .., settle_of_no_slices _ _, ranTo_regs .., onlyCoreM_coreTo ..⟩

end Sys2Proof.Machine

namespace Sys2Proof.Machine

open Sys2Proof

/-! ### The issue of an array instruction (R26, R83, R85) -/

theorem le_collectedAt (outs : List PendOut) (c base : Nat) (plan : List (List Nat)) : base ≤ collectedAt outs c base plan :=
  foldl_inv (p := fun t => base ≤ t) outs _ (le_max_left ..) fun t o _ h => by omega

/-- An array instruction issues no earlier than the core stands, and no earlier than R26 allows. -/
theorem le_issueAt (a : ArrayAsk) (k : Core) : k.cyc ≤ a.issueAt k ∧ a.from_ ≤ a.issueAt k := by
  have h : max (a.begin k) a.from_ ≤ a.issueAt k := le_collectedAt ..
  have hb : k.cyc ≤ a.begin k := by
    unfold ArrayAsk.begin
    split <;> omega
  omega

/-- The core as an array instruction that issues at cycle t finds it: its slices collected, all that is due settled. -/
def ArrayAsk.found (a : ArrayAsk) (k : Core) (t : Nat) : Core := (a.gather k t).ranTo t

section
variable (a : ArrayAsk) (k : Core) (t : Nat)

theorem found_sameButArray : ({ k with cyc := max k.cyc t } : Core).SameButArray (a.found k t) := by
  have h := gather_sameButBanks a k t
  unfold Core.SameButBanks at h
  refine .trans (b := { a.gather k t with cyc := max k.cyc t }) ?_ ?_
  · unfold Core.SameButArray
    rw [h]
  · have hc : (a.gather k t).cyc = k.cyc := (congrArg Core.cyc (gather_sameButBanks a k t) :)
    rw [← hc]
    exact ranTo_sameButArray ..

@[simp] theorem found_cyc : (a.found k t).cyc = max k.cyc t := (congrArg Core.cyc (found_sameButArray a k t) :)
@[simp] theorem found_regs : (a.found k t).regs = k.regs := (congrArg Core.regs (found_sameButArray a k t) :)
@[simp] theorem found_fmtA : (a.found k t).fmtA = k.fmtA := (congrArg Core.fmtA (found_sameButArray a k t) :)
@[simp] theorem found_fmtB : (a.found k t).fmtB = k.fmtB := (congrArg Core.fmtB (found_sameButArray a k t) :)
@[simp] theorem found_rowMask : (a.found k t).rowMask = k.rowMask := (congrArg Core.rowMask (found_sameButArray a k t) :)
@[simp] theorem found_colMask : (a.found k t).colMask = k.colMask := (congrArg Core.colMask (found_sameButArray a k t) :)
@[simp] theorem found_srCount : (a.found k t).srCount = k.srCount := (congrArg Core.srCount (found_sameButArray a k t) :)
@[simp] theorem found_edgeFree : (a.found k t).edgeFree = k.edgeFree := (congrArg Core.edgeFree (found_sameButArray a k t) :)
@[simp] theorem found_drainFree : (a.found k t).drainFree = k.drainFree := (congrArg Core.drainFree (found_sameButArray a k t) :)
@[simp] theorem found_accDrained : (a.found k t).accDrained = k.accDrained := (congrArg Core.accDrained (found_sameButArray a k t) :)
@[simp] theorem found_schedCheck : (a.found k t).schedCheck = k.schedCheck := (congrArg Core.schedCheck (found_sameButArray a k t) :)

theorem found_keys : (a.found k t).outs.map PendOut.key = k.keysAfter (max k.cyc t) := by
  have h := gather_sameButBanks a k t
  unfold ArrayAsk.found
  rw [ranTo_keys, (congrArg Core.cyc h :)]
  unfold Core.keysAfter
  rw [(congrArg Core.outs h :)]

variable {k} in
/-- Where no slice waits, none waits at the issue, and the accumulators are as they were. -/
theorem found_of_no_slices (hs : k.slices = []) : (a.found k t).slices = [] ∧ (a.found k t).acc = k.acc := by
  have h := gather_sameButBanks a k t
  have hg : (a.gather k t).slices = [] := (congrArg Core.slices h :).trans hs
  exact ⟨ranTo_slices_of_no_slices _ t hg, (ranTo_acc_of_no_slices _ t hg).trans (congrArg Core.acc h :)⟩

end

/-- A core x that has issued an array instruction at cycle t, behind what was due by then; `now` is read at the issue. -/
def Core.behindIssue (x : Core) (t : Nat) (reads now : List TileRead) (ia : Nat) : Core :=
  ({ x.markReads t reads with ts := tilesFix x.ts now } : Core).ranTo t |>.issued ia

/-- The core that an array instruction leaves which nothing keeps waiting. -/
def ArrayAsk.leaves (a : ArrayAsk) (k : Core) (now : List TileRead) (act : Core → Nat → Core) (ia : Nat) : Core :=
  (act (a.found k (a.issueAt k)) (a.issueAt k)).behindIssue (a.issueAt k) a.reads now ia

theorem arrayMay_of_no_moves {k : Core} (hm : k.moves = []) (hi : k.incomplete = 0) (rd wr : BitVec 64) : k.arrayMay rd wr = true := by
  simp [Core.arrayMay, Core.moveWrites, Core.ringReads, hm, hi]

/-- Nothing is read early where no output is pending (R85). -/
theorem earlyRead_of_no_outs {k : Core} (h : k.outs = []) (t : Nat) (ts : List TileRead) : earlyRead k t ts = none := by
  unfold earlyRead
  rw [h, List.findSome?_eq_none_iff]
  intro _ _
  rfl

theorem ranTo_settle_outs {k : Core} (h : k.outs = []) (u t : Nat) : ((k.ranTo u).settle t).1.outs = [] := by
  rw [← List.map_eq_nil_iff (f := PendOut.key), settle_keys, Core.keysAfter, ranTo_keys, Core.keysAfter, h]
  rfl

/-- The common course of the array instructions where no move and no incomplete region keeps them waiting, with schedule-check mode
off or no output pending. -/
theorem arrayIssue_core {s : State} {w : At} {c : Cn} (hw : w.who = .core c) (hm : (s.core w.cl c).moves = [])
    (hi : (s.core w.cl c).incomplete = 0) (hc : (s.core w.cl c).schedCheck = false ∨ (s.core w.cl c).outs = [])
    (i : Instr) (ask : Core → ArrayAsk) (now : List TileRead) (act : Core → Nat → Core) :
    (s.arrayIssue w i c ask now act).core w.cl c =
      (ask ((s.core w.cl c).ranTo (s.core w.cl c).cyc)).leaves ((s.core w.cl c).ranTo (s.core w.cl c).cyc) now act w.ia ∧
    OnlyCoreM w.cl c s (s.arrayIssue w i c ask now act) := by
  have hmay := fun rd wr => arrayMay_of_no_moves (k := (s.core w.cl c).ranTo (s.core w.cl c).cyc) (by simpa using hm) (by simpa using hi) rd wr
  have hearly : ∀ t ts, (if ((s.core w.cl c).ranTo (s.core w.cl c).cyc).schedCheck then
      earlyRead (((s.core w.cl c).ranTo (s.core w.cl c).cyc).settle t).1 t ts else none) = none := by
    intro t ts
    rcases hc with hc | hc
    · simp [hc]
    · rw [earlyRead_of_no_outs (ranTo_settle_outs hc _ _), ite_self]
  unfold State.arrayIssue
  simp only [core_coreTo, hmay, hearly, Bool.not_true, Bool.false_eq_true, if_false]
  constructor
  · simp only [next1_eq _ w c hw, core_coreTo, core_reportFound, State.core_setCore]
    rfl
  · exact (onlyCoreM_coreTo ..).trans <| (onlyCore_setCore ..).toM.trans <| (onlyCoreM_coreTo ..).trans <|
      (onlyCore_setCore ..).toM.trans <| (onlyCoreM_reportFound ..).trans <| (onlyCoreM_coreTo ..).trans (onlyCore_next1 _ w c hw).toM

end Sys2Proof.Machine

namespace Sys2Proof.Machine

open Sys2Proof

/-! ### What the array instructions leave of a core -/

section
variable (x : Core) (t : Nat) (reads now : List TileRead) (ia : Nat)

@[simp] theorem behindIssue_cyc : (x.behindIssue t reads now ia).cyc = max x.cyc t + 1 := rfl
@[simp] theorem behindIssue_regs : (x.behindIssue t reads now ia).regs = x.regs := ranTo_regs ..
@[simp] theorem behindIssue_srCount : (x.behindIssue t reads now ia).srCount = x.srCount := ranTo_srCount ..
@[simp] theorem behindIssue_edgeFree : (x.behindIssue t reads now ia).edgeFree = x.edgeFree := ranTo_edgeFree ..
@[simp] theorem behindIssue_drainFree : (x.behindIssue t reads now ia).drainFree = x.drainFree := ranTo_drainFree ..
@[simp] theorem behindIssue_wbDone : (x.behindIssue t reads now ia).wbDone = x.wbDone := ranTo_wbDone ..
@[simp] theorem behindIssue_accDone : (x.behindIssue t reads now ia).accDone = x.accDone := ranTo_accDone ..
@[simp] theorem behindIssue_accDrained : (x.behindIssue t reads now ia).accDrained = x.accDrained := ranTo_accDrained ..
theorem behindIssue_slices : (x.behindIssue t reads now ia).slices = x.slices.dropWhile fun p => decide (p.at_ ≤ max x.cyc t) := ranTo_slices ..

variable {x t} in
theorem behindIssue_acc_of_no_slices (h : x.slices = []) : (x.behindIssue t reads now ia).acc = x.acc := ranTo_acc_of_no_slices _ _ h

variable {x t} in
/-- What is pending behind an issue at cycle t: what was pending then, and the outputs that come later. -/
theorem behindIssue_keys (ht : x.cyc = t) {k : Core} {l : List (Nat × Nat × BitVec 64)} (hx : x.outs.map PendOut.key = k.keysAfter t ++ l)
    (hl : ∀ o ∈ l, t < o.1) : (x.behindIssue t reads now ia).outs.map PendOut.key = k.keysAfter t ++ l := by
  have e : (x.behindIssue t reads now ia).outs.map PendOut.key = x.keysAfter (max x.cyc t) := ranTo_keys ..
  have hl' : (l.filter fun o => decide (t < o.1)) = l := List.filter_eq_self.2 fun o ho => by simpa using hl o ho
  rw [e, ht, max_self, Core.keysAfter, hx, List.filter_append, hl', Core.keysAfter, List.filter_filter]
  simp only [Bool.and_self]

end

theorem drainTo_keys (k : Core) (d : Drain) (rows cols : W32) (m : Mem) (poison : Bool) (ia vis : Nat) (later : Option Nat) (src : Nat → Nat → Num) :
    (k.drainTo d rows cols m poison ia vis later src).outs.map PendOut.key = k.outs.map PendOut.key ++ [(vis, ia, drainRegions d)] := by
  simp [Core.drainTo, PendOut.key]

section
variable (k : Core) (ia i acc srcA srcB sclA sclB n : Nat) (ad tb : Bool) (drn : Option Drain)

@[simp] theorem tprod_cyc : (k.tprod ia i acc srcA srcB sclA sclB n ad tb drn).cyc = k.cyc := by cases drn <;> rfl
@[simp] theorem tprod_regs : (k.tprod ia i acc srcA srcB sclA sclB n ad tb drn).regs = k.regs := by cases drn <;> rfl
@[simp] theorem tprod_acc : (k.tprod ia i acc srcA srcB sclA sclB n ad tb drn).acc = k.acc := by cases drn <;> rfl
@[simp] theorem tprod_edgeFree : (k.tprod ia i acc srcA srcB sclA sclB n ad tb drn).edgeFree = i + 32 * n + (if k.schedCheck then 1 else 0) := by
  cases drn <;> rfl
@[simp] theorem tprod_accDone : (k.tprod ia i acc srcA srcB sclA sclB n ad tb drn).accDone = ins k.accDone acc (i + 32 * n + 62) := by cases drn <;> rfl
theorem tprod_slices : (k.tprod ia i acc srcA srcB sclA sclB n ad tb drn).slices =
    k.slices ++ k.slicesOf i acc srcA srcB sclA sclB n ad tb (drn.map fun _ => i + 32 * n + 102) := by cases drn <;> rfl

theorem tprod_keys : (k.tprod ia i acc srcA srcB sclA sclB n ad tb drn).outs.map PendOut.key =
    k.outs.map PendOut.key ++ (drn.toList.map fun d => (i + 32 * n + 102, ia, drainRegions d)) := by
  cases drn with
  | none => exact (List.append_nil _).symm
  | some d => exact drainTo_keys ..

/-- Slice j of a TPROD: its read point, its tile, and the tiles of its edges (R24, R25, R35). -/
theorem mem_slicesOf {j : Nat} (hj : j < n) (vis : Option Nat) : ∃ p ∈ k.slicesOf i acc srcA srcB sclA sclB n ad tb vis,
    p.at_ = i + 32 * j ∧ p.ix = j ∧ p.acc = acc ∧
    p.left = (if tb then sliceTiles srcB sclB (elBlocks k.fmtB) j else sliceTiles srcA sclA (elBlocks k.fmtA) j) ∧
    p.top = (if tb then sliceTiles srcA sclA (elBlocks k.fmtA) j else sliceTiles srcB sclB (elBlocks k.fmtB) j) :=
  ⟨_, List.mem_map.2 ⟨j, List.mem_range.2 hj, rfl⟩, rfl, rfl, rfl, rfl, rfl⟩

/-- Every slice of a TPROD carries its tile and the masks at its issue (R32, R33). -/
theorem masks_of_mem_slicesOf {vis : Option Nat} {p : PendSlice} (h : p ∈ k.slicesOf i acc srcA srcB sclA sclB n ad tb vis) :
    p.acc = acc ∧ p.rows = k.rowMask ∧ p.cols = k.colMask := by
  obtain ⟨j, _, rfl⟩ := List.mem_map.1 h
  exact ⟨rfl, rfl, rfl⟩

end

theorem tdrain_keys (k : Core) (ia i acc : Nat) (d : Drain) :
    (k.tdrain ia i acc d).outs.map PendOut.key = k.outs.map PendOut.key ++ [(i + 40, ia, drainRegions d)] := by
  unfold Core.tdrain
  dsimp only
  rw [drainTo_keys]
  split <;> rfl

/-- A TDRAIN frees the drain and the accumulator 32 cycles later, and writes back in 8 more (R26, R29); it touches no accumulator. -/
theorem tdrain_fields (k : Core) (ia i acc : Nat) (d : Drain) :
    (k.tdrain ia i acc d).cyc = k.cyc ∧ (k.tdrain ia i acc d).edgeFree = k.edgeFree ∧ (k.tdrain ia i acc d).drainFree = i + 32 ∧
    look 0 (k.tdrain ia i acc d).accDrained acc = i + 32 ∧ (k.tdrain ia i acc d).wbDone = i + 40 ∧ (k.tdrain ia i acc d).regs = k.regs ∧
    (k.tdrain ia i acc d).slices = k.slices ∧ (k.tdrain ia i acc d).acc = k.acc := by
  unfold Core.tdrain
  dsimp only
  split <;> exact ⟨rfl, rfl, rfl, look_ins_same .., rfl, rfl, rfl, rfl⟩

theorem tew_keys (k : Core) (ia i : Nat) (op : TewOp) (srcX srcY vec : Nat) (neg : Bool) (d : Drain) (poison : Bool) :
    (k.tew ia i op srcX srcY vec neg d poison).outs.map PendOut.key = k.outs.map PendOut.key ++ [(i + 134, ia, drainRegions d)] :=
  drainTo_keys ..

/-- A TEW frees the edges 32 cycles later and the drain behind it, and writes back in 8 more (R36); it touches no accumulator. -/
theorem tew_fields (k : Core) (ia i : Nat) (op : TewOp) (srcX srcY vec : Nat) (neg : Bool) (d : Drain) (poison : Bool) :
    (k.tew ia i op srcX srcY vec neg d poison).cyc = k.cyc ∧
    (k.tew ia i op srcX srcY vec neg d poison).edgeFree = i + 32 + (if k.schedCheck then 1 else 0) ∧
    (k.tew ia i op srcX srcY vec neg d poison).drainFree = i + 126 ∧ (k.tew ia i op srcX srcY vec neg d poison).wbDone = i + 134 ∧
    (k.tew ia i op srcX srcY vec neg d poison).regs = k.regs ∧ (k.tew ia i op srcX srcY vec neg d poison).slices = k.slices ∧
    (k.tew ia i op srcX srcY vec neg d poison).acc = k.acc := ⟨rfl, rfl, rfl, rfl, rfl, rfl, rfl⟩

theorem mem_dropWhile_of_not {α : Type} {q : α → Bool} {l : List α} {x : α} (h : x ∈ l) (hx : q x = false) : x ∈ l.dropWhile q := by
  rw [← List.takeWhile_append_dropWhile (p := q) (l := l), List.mem_append] at h
  rcases h with h | h
  · rw [List.mem_takeWhile_imp h] at hx
    cases hx
  · exact h

/-! ### TPROD, TDRAIN and TEW of a core that nothing keeps waiting -/

/-- An instruction that issues at cycle I has found the core `J` of the core k: all that was due is settled, all else is k's. -/
structure FoundAt (k J : Core) (I : Nat) : Prop where
  from_ : k.cyc ≤ I
  cyc : J.cyc = I
  regs : J.regs = k.regs
  fmtA : J.fmtA = k.fmtA
  fmtB : J.fmtB = k.fmtB
  rowMask : J.rowMask = k.rowMask
  colMask : J.colMask = k.colMask
  srCount : J.srCount = k.srCount
  edgeFree : J.edgeFree = k.edgeFree
  drainFree : J.drainFree = k.drainFree
  schedCheck : J.schedCheck = k.schedCheck
  keys : J.outs.map PendOut.key = k.keysAfter I
  noSlices : k.slices = [] → J.slices = [] ∧ J.acc = k.acc

theorem foundAt_issueAt (a : ArrayAsk) (k : Core) : FoundAt k (a.found (k.ranTo k.cyc) (a.issueAt (k.ranTo k.cyc))) (a.issueAt (k.ranTo k.cyc)) := by
  have hI : k.cyc ≤ a.issueAt (k.ranTo k.cyc) := by simpa using (le_issueAt a (k.ranTo k.cyc)).1
  generalize a.issueAt (k.ranTo k.cyc) = I at *
  have hm : max (k.ranTo k.cyc).cyc I = I := by simpa using hI
  exact {
    from_ := hI
    cyc := by simpa using hI
    regs := by simp
    fmtA := by simp
    fmtB := by simp
    rowMask := by simp
    colMask := by simp
    srCount := by simp
    edgeFree := by simp
    drainFree := by simp
    schedCheck := by simp
    keys := by
      rw [found_keys, hm]
      exact keysAfter_keysAfter (by simpa using hI) (ranTo_keys ..)
    noSlices := fun h =>
      have hf := found_of_no_slices a I (ranTo_slices_of_no_slices k k.cyc h)
      ⟨hf.1, hf.2.trans (ranTo_acc_of_no_slices k k.cyc h)⟩ }

/-- The common course of the array instructions where nothing keeps them waiting: at a cycle I that R26 allows, on the core as found. -/
theorem arrayIssue_free {s : State} {w : At} {c : Cn} (hw : w.who = .core c) (hm : (s.core w.cl c).moves = [])
    (hi : (s.core w.cl c).incomplete = 0) (hc : (s.core w.cl c).schedCheck = false ∨ (s.core w.cl c).outs = [])
    (i : Instr) (ask : Core → ArrayAsk) (now : List TileRead) (act : Core → Nat → Core) : ∃ J I reads,
      FoundAt (s.core w.cl c) J I ∧ (ask ((s.core w.cl c).ranTo (s.core w.cl c).cyc)).from_ ≤ I ∧
      (s.arrayIssue w i c ask now act).core w.cl c = (act J I).behindIssue I reads now w.ia ∧
      OnlyCoreM w.cl c s (s.arrayIssue w i c ask now act) := by
  obtain ⟨hk, hf⟩ := arrayIssue_core hw hm hi hc i ask now act
  exact ⟨_, _, _, foundAt_issueAt _ _, (le_issueAt _ _).2, hk, hf⟩

theorem doTprod_eq (s : State) {w : At} {c : Cn} (hw : w.who = .core c) (i : Instr) (acc srcA srcB sclA sclB n : Nat) (ad tb : Bool)
    (drn : Option Drain) : ∃ ask now,
      (∀ k, (ask k).from_ = max k.edgeFree (max (look 0 k.accDrained acc) (if drn.isSome then k.drainFree - (32 * n + 62) else 0))) ∧
      s.doTprod w i acc srcA srcB sclA sclB n ad tb drn =
        s.arrayIssue w i c ask now fun k t => k.tprod w.ia t acc srcA srcB sclA sclB n ad tb drn := by
  unfold State.doTprod
  rw [hw]
  exact ⟨_, _, fun _ => rfl, rfl⟩

theorem doTdrain_eq (s : State) {w : At} {c : Cn} (hw : w.who = .core c) (i : Instr) (acc : Nat) (d : Drain) : ∃ ask now,
      (∀ k, (ask k).from_ = max k.drainFree (look 0 k.accDone acc)) ∧
      s.doTdrain w i acc d = s.arrayIssue w i c ask now fun k t => k.tdrain w.ia t acc d := by
  unfold State.doTdrain
  rw [hw]
  exact ⟨_, _, fun _ => rfl, rfl⟩

theorem doTew_eq (s : State) {w : At} {c : Cn} (hw : w.who = .core c) (i : Instr) (op : TewOp) (srcX srcY vec : Nat) (neg : Bool) (d : Drain) :
    ∃ (ask : Core → ArrayAsk) (now : List TileRead) (poison : Core → Bool), (∀ k, (ask k).from_ = max k.edgeFree (k.drainFree - 94)) ∧
      s.doTew w i op srcX srcY vec neg d = s.arrayIssue w i c ask now fun k t => k.tew w.ia t op srcX srcY vec neg d (poison k) := by
  unfold State.doTew
  rw [hw]
  exact ⟨_, _, _, fun _ => rfl, rfl⟩

/-- TPROD's clause of O6 and O7: the core it leaves, and the cycle at which it issues. -/
theorem tprod_free {s : State} {w : At} {c : Cn} (hw : w.who = .core c) (hm : (s.core w.cl c).moves = [])
    (hi : (s.core w.cl c).incomplete = 0) (hc : (s.core w.cl c).schedCheck = false ∨ (s.core w.cl c).outs = [])
    {acc srcA srcB sclA sclB n : Nat} {ad tb : Bool} {drn : Option Drain}
    (h : s.readyFor w (.tprod w acc srcA srcB sclA sclB n ad tb drn) .core = true)
    (hok : firstBad (tprodOks (s.core w.cl c) acc srcA srcB sclA sclB n drn) 0 = none) :
    Done (.tprod w acc srcA srcB sclA sclB n ad tb drn) s fun t => ∃ J I reads now, FoundAt (s.core w.cl c) J I ∧
      (s.core w.cl c).edgeFree ≤ I ∧ look 0 (s.core w.cl c).accDrained acc ≤ I ∧
      (drn.isSome = true → (s.core w.cl c).drainFree ≤ I + 32 * n + 62) ∧
      t.core w.cl c = (J.tprod w.ia I acc srcA srcB sclA sclB n ad tb drn).behindIssue I reads now w.ia ∧ OnlyCoreM w.cl c s t := by
  obtain ⟨ask, now, hfrom, he⟩ := doTprod_eq s hw (.tprod w acc srcA srcB sclA sclB n ad tb drn) acc srcA srcB sclA sclB n ad tb drn
  obtain ⟨J, I, reads, hF, hle, hk, hO⟩ := arrayIssue_free hw hm hi hc (.tprod w acc srcA srcB sclA sclB n ad tb drn) ask now
    fun k t => k.tprod w.ia t acc srcA srcB sclA sclB n ad tb drn
  have hwho : s.whoCore w = s.core w.cl c := by unfold State.whoCore; rw [hw]
  refine done_issue (run := fun s => s.doTprod w _ acc srcA srcB sclA sclB n ad tb drn) rfl h (by rwa [hwho]) ⟨J, I, reads, now, hF, ?_⟩
  rw [hfrom, ranTo_edgeFree, ranTo_accDrained, ranTo_drainFree] at hle
  rw [he]
  refine ⟨by omega, by omega, fun hd => ?_, hk, hO⟩
  rw [hd] at hle
  simp only [if_true] at hle
  omega

/-- TDRAIN's clause of O6: the core it leaves, and the cycle at which it issues. -/
theorem tdrain_free {s : State} {w : At} {c : Cn} (hw : w.who = .core c) (hm : (s.core w.cl c).moves = [])
    (hi : (s.core w.cl c).incomplete = 0) (hc : (s.core w.cl c).schedCheck = false ∨ (s.core w.cl c).outs = [])
    {acc : Nat} {d : Drain} (h : s.readyFor w (.tdrain w acc d) .core = true) (hacc : acc < 4) (hd : drainOk d = true) :
    Done (.tdrain w acc d) s fun t => ∃ J I reads now, FoundAt (s.core w.cl c) J I ∧
      (s.core w.cl c).drainFree ≤ I ∧ look 0 (s.core w.cl c).accDone acc ≤ I ∧
      t.core w.cl c = (J.tdrain w.ia I acc d).behindIssue I reads now w.ia ∧ OnlyCoreM w.cl c s t := by
  obtain ⟨ask, now, hfrom, he⟩ := doTdrain_eq s hw (.tdrain w acc d) acc d
  obtain ⟨J, I, reads, hF, hle, hk, hO⟩ := arrayIssue_free hw hm hi hc (.tdrain w acc d) ask now fun k t => k.tdrain w.ia t acc d
  refine done_issue (run := fun s => s.doTdrain w _ acc d) rfl h (by simp [firstBad, hacc, hd]) ⟨J, I, reads, now, hF, ?_⟩
  rw [hfrom, ranTo_drainFree, ranTo_accDone] at hle
  rw [he]
  exact ⟨by omega, by omega, hk, hO⟩

/-- TEW's clause of O6: the core it leaves, and the cycle at which it issues. -/
theorem tew_free {s : State} {w : At} {c : Cn} (hw : w.who = .core c) (hm : (s.core w.cl c).moves = [])
    (hi : (s.core w.cl c).incomplete = 0) (hc : (s.core w.cl c).schedCheck = false ∨ (s.core w.cl c).outs = [])
    {op : TewOp} {srcX srcY vec : Nat} {neg : Bool} {d : Drain} (h : s.readyFor w (.tew w op srcX srcY vec neg d) .core = true)
    (hok : firstBad (tewOks (s.core w.cl c) op srcX srcY vec d) 0 = none) :
    Done (.tew w op srcX srcY vec neg d) s fun t => ∃ J I reads now poison, FoundAt (s.core w.cl c) J I ∧
      (s.core w.cl c).edgeFree ≤ I ∧ (s.core w.cl c).drainFree ≤ I + 94 ∧
      t.core w.cl c = (J.tew w.ia I op srcX srcY vec neg d poison).behindIssue I reads now w.ia ∧ OnlyCoreM w.cl c s t := by
  obtain ⟨ask, now, poison, hfrom, he⟩ := doTew_eq s hw (.tew w op srcX srcY vec neg d) op srcX srcY vec neg d
  obtain ⟨J, I, reads, hF, hle, hk, hO⟩ := arrayIssue_free hw hm hi hc (.tew w op srcX srcY vec neg d) ask now
    fun k t => k.tew w.ia t op srcX srcY vec neg d (poison k)
  have hwho : s.whoCore w = s.core w.cl c := by unfold State.whoCore; rw [hw]
  refine done_issue (run := fun s => s.doTew w _ op srcX srcY vec neg d) rfl h (by rwa [hwho]) ⟨J, I, reads, now, poison J, hF, ?_⟩
  rw [hfrom, ranTo_edgeFree, ranTo_drainFree] at hle
  rw [he]
  exact ⟨by omega, by omega, hk, hO⟩

theorem coreIssued_behindIssue (x : Core) (t : Nat) (reads now : List TileRead) (ia : Nat) : CoreIssued (x.behindIssue t reads now ia) ia :=
  coreIssued_issued ..

/-- Behind the issue, slice j of a TPROD still waits for its read point at I + 32 j (R24, R25). -/
theorem slice_behindIssue {k J : Core} {I : Nat} (hF : FoundAt k J I) (reads now : List TileRead) (ia acc srcA srcB sclA sclB : Nat) {n j : Nat}
    (ad tb : Bool) (drn : Option Drain) (hj : 1 ≤ j) (hjn : j < n) :
    ∃ p ∈ ((J.tprod ia I acc srcA srcB sclA sclB n ad tb drn).behindIssue I reads now ia).slices, p.at_ = I + 32 * j ∧ p.ix = j ∧ p.acc = acc ∧
      p.left = (if tb then sliceTiles srcB sclB (elBlocks k.fmtB) j else sliceTiles srcA sclA (elBlocks k.fmtA) j) ∧
      p.top = (if tb then sliceTiles srcA sclA (elBlocks k.fmtA) j else sliceTiles srcB sclB (elBlocks k.fmtB) j) := by
  obtain ⟨p, hp, hat, hix, hpa, hl, ht⟩ := mem_slicesOf J I acc srcA srcB sclA sclB n ad tb hjn (drn.map fun _ => I + 32 * n + 102)
  rw [hF.fmtA, hF.fmtB] at hl ht
  refine ⟨p, ?_, hat, hix, hpa, hl, ht⟩
  rw [behindIssue_slices, tprod_slices]
  refine mem_dropWhile_of_not (List.mem_append_right _ hp) ?_
  simp only [tprod_cyc, hF.cyc, max_self, hat, decide_eq_false_iff_not]
  omega

/-- Settles O6: each instruction issues on the core as found at a cycle that R26 allows, and what it leaves is read off field by field. -/
theorem arrayInstructionTiming : Obligations.ArrayInstructionTiming := by
  unfold Obligations.ArrayInstructionTiming
  intro s w c hw hm hi hc
  refine ⟨fun acc srcA srcB sclA sclB n ad tb drn h hok => ?_, fun acc d hacc hd h => ?_, fun op srcX srcY vec neg d hok h => ?_⟩
  · obtain ⟨t, hx, J, I, reads, now, hF, h1, h2, h3, hk, hO⟩ := tprod_free hw hm hi hc h hok
    refine ⟨t, hx, I, hF.from_, h1, h2, ?_⟩
    rw [hk]
    have hkeys := behindIssue_keys reads now w.ia ((tprod_cyc J w.ia I acc srcA srcB sclA sclB n ad tb drn).trans hF.cyc)
      (k := s.core w.cl c) (l := drn.toList.map fun d => (I + 32 * n + 102, w.ia, drainRegions d)) (by rw [tprod_keys, hF.keys])
      (by cases drn <;> simp; omega)
    refine ⟨?_, ?_, ?_, fun j hj hjn => slice_behindIssue hF reads now w.ia acc srcA srcB sclA sclB ad tb drn hj hjn, ?_, ?_,
      coreIssued_behindIssue .., ?_, hO⟩
    · simp [hF.cyc]
    · simp [hF.schedCheck]
    · simp [look_ins_same]
    · rintro rfl
      exact ⟨(behindIssue_drainFree ..).trans hF.drainFree, (behindIssue_srCount ..).trans hF.srCount, hkeys.trans (List.append_nil _)⟩
    · rintro d rfl
      exact ⟨h3 rfl, behindIssue_drainFree .., by rw [behindIssue_accDrained]; exact look_ins_same .., behindIssue_wbDone .., hkeys⟩
    · simp [hF.regs]
  · obtain ⟨t, hx, J, I, reads, now, hF, h1, h2, hk, hO⟩ := tdrain_free hw hm hi hc h hacc hd
    refine ⟨t, hx, I, hF.from_, h1, h2, ?_⟩
    rw [hk]
    obtain ⟨f1, f2, f3, f4, f5, f6, f7, f8⟩ := tdrain_fields J w.ia I acc d
    refine ⟨?_, ?_, ?_, ?_, ?_, fun hs => ?_, ?_, coreIssued_behindIssue .., ?_, hO⟩
    · simp [f1, hF.cyc]
    · simp [f2, hF.edgeFree]
    · simp [f3]
    · simp [f4]
    · simp [f5]
    · obtain ⟨hJ, ha⟩ := hF.noSlices hs
      rw [behindIssue_acc_of_no_slices _ _ _ (f7.trans hJ), f8, ha]
    · exact behindIssue_keys reads now w.ia (f1.trans hF.cyc) (by rw [tdrain_keys, hF.keys]) (by simp)
    · simp [f6, hF.regs]
  · obtain ⟨t, hx, J, I, reads, now, poison, hF, h1, h2, hk, hO⟩ := tew_free hw hm hi hc h hok
    refine ⟨t, hx, I, hF.from_, h1, h2, ?_⟩
    rw [hk]
    obtain ⟨f1, f2, f3, f4, f5, f6, f7⟩ := tew_fields J w.ia I op srcX srcY vec neg d poison
    refine ⟨?_, ?_, ?_, ?_, fun hs => ?_, ?_, coreIssued_behindIssue .., ?_, hO⟩
    · simp [f1, hF.cyc]
    · simp [f2, hF.schedCheck]
    · simp [f3]
    · simp [f4]
    · obtain ⟨hJ, ha⟩ := hF.noSlices hs
      rw [behindIssue_acc_of_no_slices _ _ _ (f6.trans hJ), f7, ha]
    · exact behindIssue_keys reads now w.ia (f1.trans hF.cyc) (by rw [tew_keys, hF.keys]) (by simp)
    · simp [f5, hF.regs]

/-- Settles O7: every slice that a TPROD leaves waiting carries its tile and masks, and settling spares an element that every slice spares. -/
theorem tprodKeepsMaskedAccumulators : Obligations.TprodKeepsMaskedAccumulators := by
  unfold Obligations.TprodKeepsMaskedAccumulators
  refine ⟨fun s t w c acc srcA srcB sclA sclB n ad tb drn hw h hok hm hi hc hs hx => ?_, fun k T a i j _ hi hj h => ?_⟩
  · obtain ⟨t', hx', J, I, reads, now, hF, -, -, -, hk, -⟩ := tprod_free hw hm hi hc h hok
    obtain rfl : t = t' := by rw [hx] at hx'; injection hx'
    obtain ⟨hJ, ha⟩ := hF.noSlices hs
    have hmask : ∀ p ∈ (J.tprod w.ia I acc srcA srcB sclA sclB n ad tb drn).slices,
        p.acc = acc ∧ p.rows = (s.core w.cl c).rowMask ∧ p.cols = (s.core w.cl c).colMask := fun p hp => by
      rw [tprod_slices, hJ, List.nil_append] at hp
      rw [← hF.rowMask, ← hF.colMask]
      exact masks_of_mem_slicesOf _ _ _ _ _ _ _ _ _ _ hp
    rw [hk]
    refine ⟨fun p hp => hmask p ?_, fun a i j _ hi hj hsp => ?_⟩
    · rw [behindIssue_slices] at hp
      exact List.dropWhile_subset _ hp
    · refine (settle_acc_spared _ _ hi hj fun p hp => ?_).trans ?_
      · obtain ⟨h1, h2, h3⟩ := hmask p hp
        unfold PendSlice.spares
        rwa [h1, h2, h3]
      · show look _ (Core.acc _) _ = _
        rw [← ha, ← tprod_acc J w.ia I acc srcA srcB sclA sclB n ad tb drn]
        rfl
  · exact settle_acc_spared k T hi hj fun p hp => (h p hp).2

end Sys2Proof.Machine

namespace Sys2Proof.Machine

open Sys2Proof

/-! ### Runs: what a stop leaves of the others (R125, R156, R266) -/

/-- What partitions' runs and the device's fence show: RUN_STATE of every partition, and whether the device is fenced. -/
def State.runView (s : State) : (Nat → RunSt) × Bool := (fun q => (s.part q).run, s.mgmt.fenced)

theorem runView_of {s t : State} (h : t.parts = s.parts) (k : t.mgmt.fenced = s.mgmt.fenced) : t.runView = s.runView := by
  unfold State.runView State.part
  rw [h, k]

section
variable (s : State)

@[simp] theorem runView_setClu (cl : Cl) (v : Cluster) : (s.setClu cl v).runView = s.runView := rfl
@[simp] theorem runView_setCore (cl : Cl) (c : Cn) (v : Core) : (s.setCore cl c v).runView = s.runView := rfl
@[simp] theorem runView_setStew (cl : Cl) (v : Steward) : (s.setStew cl v).runView = s.runView := rfl
@[simp] theorem runView_setRing (cl : Cl) (n : Nat) (v : Ring) : (s.setRing cl n v).runView = s.runView := rfl
@[simp] theorem runView_setAcct (a : Nat) (v : Acct) : (s.setAcct a v).runView = s.runView := rfl
@[simp] theorem runView_setCtr (n : Nat) (v : Counter) : (s.setCtr n v).runView = s.runView := rfl
@[simp] theorem runView_setSport (k : Nat) (v : SPort) : (s.setSport k v).runView = s.runView := rfl
@[simp] theorem runView_setDram (m : Mem) : (s.setDram m).runView = s.runView := rfl
@[simp] theorem runView_raise (e : ErrIn) (sc : Scope) : (s.raise e sc).runView = s.runView := rfl
@[simp] theorem runView_report (unit part ia kind status taskId : Nat) : (s.report unit part ia kind status taskId).runView = s.runView := rfl
@[simp] theorem runView_logEvent (type part unit step detail aux : Nat) : (s.logEvent type part unit step detail aux).runView = s.runView := rfl
@[simp] theorem runView_fresh : s.fresh.2.runView = s.runView := rfl
@[simp] theorem runView_pushEv (cl : Cl) (r : BitVec 512) : (s.pushEv cl r).runView = s.runView := rfl
@[simp] theorem runView_trueUp (cl : Cl) (r : TaskRun) : (s.trueUp cl r).runView = s.runView := rfl

/-- A partition that is rewritten with its RUN_STATE as it was. -/
theorem runView_setPart (p : Nat) {v : Part} (h : v.run = (s.part p).run) : (s.setPart p v).runView = s.runView := by
  unfold State.runView
  refine Prod.ext (funext fun q => ?_) rfl
  dsimp only
  rw [State.part_setPart_if]
  split
  · next e => rw [h, e]
  · rfl

@[simp] theorem runView_hostEv (p code die unit detail aux : Nat) : (s.hostEv p code die unit detail aux).runView = s.runView := by
  unfold State.hostEv
  split <;> rfl

@[simp] theorem runView_reportFound (cl : Cl) (c : Cn) (fs : List Found) : (s.reportFound cl c fs).runView = s.runView := by
  unfold State.reportFound
  refine foldl_proj fs s fun u f => ?_
  dsimp only
  split <;> rfl

@[simp] theorem runView_coreTo (cl : Cl) (c : Cn) (t : Nat) : (s.coreTo cl c t).runView = s.runView := by
  simp [State.coreTo]

@[simp] theorem runView_abortCores (cl : Cl) (m : BitVec 12) : (s.abortCores cl m).runView = s.runView := by
  unfold State.abortCores
  refine foldl_proj allCn s fun u c => ?_
  split
  · simp [State.abortCore]
  · rfl

@[simp] theorem runView_voidPosts (cl : Cl) (key : Nat) : (s.voidPosts cl key).runView = s.runView := by
  rw [voidPosts_only]; exact runView_of rfl rfl
@[simp] theorem runView_trace (cl : Cl) (r : Rec) : (s.trace cl r).runView = s.runView := by
  rw [trace_only]; exact runView_of rfl rfl
@[simp] theorem runView_traceFlush (cl : Cl) : (s.traceFlush cl).runView = s.runView := by
  rw [traceFlush_only]; exact runView_of rfl rfl
@[simp] theorem runView_traceEnd (r : TaskRun) (outcome : Nat) : (s.traceEnd r outcome).runView = s.runView := by
  rw [traceEnd_only]; exact runView_of rfl rfl
@[simp] theorem runView_refresh (cl : Cl) : (s.refresh cl).runView = s.runView := by
  rw [refresh_only]; exact runView_of rfl rfl
@[simp] theorem runView_wake (n : Nat) : (s.wake n).runView = s.runView := by
  rw [wake_only]; exact runView_of rfl rfl

@[simp] theorem runView_stopTask (cl : Cl) (key outcome : Nat) : (s.stopTask cl key outcome).runView = s.runView := by
  unfold State.stopTask
  split
  · rfl
  · simp

@[simp] theorem runView_taskFault (cl : Cl) (key kind core ia : Nat) (ws : List Nat) (status : Nat) :
    (s.taskFault cl key kind core ia ws status).runView = s.runView := by
  unfold State.taskFault
  split
  · rfl
  · dsimp only
    split <;> simp

@[simp] theorem runView_coreFault (cl : Cl) (c : Cn) (kind ia : Nat) (ws : List Nat) (status : Nat) :
    (s.coreFault cl c kind ia ws status).runView = s.runView := by
  unfold State.coreFault
  split
  · simp
  · rfl

@[simp] theorem runView_haltRing (cl : Cl) (n cause erraddr status : Nat) : (s.haltRing cl n cause erraddr status).runView = s.runView := by
  unfold State.haltRing
  dsimp only
  generalize hu : (if cause = 1 ∨ (s.ring cl n).isTask = true then _ else _ : State) = u
  have h : u.runView = s.runView := by
    rw [← hu]
    split <;> rfl
  split
  · split
    · rw [runView_coreFault]
      split
      · exact h
      · exact h
    · exact h
  · exact h

@[simp] theorem runView_abandonRings (cl : Cl) : (s.abandonRings cl).runView = s.runView := by
  unfold State.abandonRings
  refine foldl_proj _ s fun u n => ?_
  dsimp only
  split <;> simp

@[simp] theorem runView_hangRings (cl : Cl) : (s.hangRings cl).runView = s.runView := by
  unfold State.hangRings
  refine foldl_proj _ s fun u n => ?_
  dsimp only
  split
  · rfl
  · split <;> simp

@[simp] theorem runView_stopDispatch (p : Nat) : (s.stopDispatch p).runView = s.runView :=
  foldl_proj _ s fun _ _ => rfl

@[simp] theorem runView_withdraw (cl : Cl) (n : Nat) : (s.withdraw cl n).runView = s.runView := by
  unfold State.withdraw
  dsimp only
  split <;> rfl

@[simp] theorem runView_abortAll (cl : Cl) : (s.abortAll cl).runView = s.runView := by
  unfold State.abortAll
  dsimp only
  rw [foldl_proj (g := State.runView) _ _ fun u k => ?_, foldl_proj (g := State.runView) _ _ fun u e => ?_]
  · simp
  · split <;> rfl

@[simp] theorem runView_endStewWait (cl : Cl) (outcome : Nat) : (s.endStewWait cl outcome).runView = s.runView := by
  unfold State.endStewWait
  dsimp only
  split
  · split <;> rfl
  · rfl

@[simp] theorem runView_applyInc (k : Packet) : (s.applyInc k).runView = s.runView := by
  unfold State.applyInc
  dsimp only
  split
  · exact runView_setPart _ _ rfl
  · rw [runView_wake]
    rfl

@[simp] theorem runView_landAll (p : Nat) : (s.landAll p).runView = s.runView :=
  foldl_proj (g := State.runView) _ _ fun u k => runView_applyInc u k

@[simp] theorem runView_liftStalls (cl : Cl) (key : Nat) : (s.liftStalls cl key).runView = s.runView :=
  foldl_proj allCn s fun u c => by
    dsimp only
    split <;> rfl

@[simp] theorem runView_resolve (cl : Cl) (k outcome cause : Nat) : (s.resolve cl k outcome cause).runView = s.runView := by
  simp [State.resolve]

theorem runView_reprotect (p : Nat) : (s.reprotect p).runView = s.runView := by
  unfold State.reprotect
  dsimp only
  split
  · rfl
  · rw [runView_logEvent, runView_hostEv]
    exact runView_setPart _ _ rfl

theorem runView_dropJobs (d : Nat) (f : NvmeJob → Bool) : (s.dropJobs d f).runView = s.runView := by
  unfold State.dropJobs
  exact foldl_proj _ s fun u k => runView_setSport u k _

theorem runView_dramBytesWr (a : Nat) (bs : List Byte) : (s.dramBytesWr a bs).runView = s.runView := by
  unfold State.dramBytesWr
  exact foldl_proj _ s fun u _ => runView_setDram u _

theorem runView_flashFail (p d a : Nat) : (s.flashFail p d a).runView = s.runView := by
  unfold State.flashFail State.ckptEv
  dsimp only
  rw [runView_reprotect, runView_logEvent, runView_hostEv]
  refine (runView_setPart _ p ?_).trans ?_
  · rfl
  rw [runView_dropJobs, runView_dropJobs]
  exact runView_dramBytesWr ..

theorem runView_flashAbandon (p : Nat) (f : Nat → Bool) : (s.flashAbandon p f).runView = s.runView :=
  foldl_proj _ s fun u e => runView_flashFail u p e.1 e.2

end

end Sys2Proof.Machine

namespace Sys2Proof.Machine

open Sys2Proof

/-! ### Stops, fences and supervisory resets -/

/-- What a stop makes of a RUN_STATE (R125, R324). -/
def RunSt.stopped (r : RunSt) : RunSt := if r = .running ∨ r = .hung then .stopping else r

theorem run_of_runView {s t : State} (h : t.runView = s.runView) (q : Nat) : (t.part q).run = (s.part q).run :=
  congrFun (congrArg Prod.fst h) q

theorem fenced_of_runView {s t : State} (h : t.runView = s.runView) : t.mgmt.fenced = s.mgmt.fenced := congrArg Prod.snd h

/-- A partition that is rewritten: its own RUN_STATE is that of the new record, the others' stay. -/
theorem run_setPart (s : State) (p q : Nat) (v : Part) : ((s.setPart p v).part q).run = if q = p then v.run else (s.part q).run := by
  rw [State.part_setPart_if]
  split <;> rfl

theorem run_beginStop (s : State) (p q : Nat) : ((s.beginStop p).part q).run = if q = p then .stopping else (s.part q).run := by
  unfold State.beginStop
  dsimp only
  rw [run_of_runView (foldl_proj (g := State.runView) _ _ fun u cl => by simp),
    run_of_runView (foldl_proj (g := State.runView) _ _ fun u cl => foldl_proj (g := State.runView) _ u fun x n => runView_withdraw x cl n),
    run_setPart, run_of_runView (runView_stopDispatch s p)]

/-- STOP and PREEMPT stop a partition whose run goes on or hangs; every other run stays as it is. -/
theorem run_runStop (s : State) (p v q : Nat) : ((s.runStop p v).part q).run = if q = p then (s.part q).run.stopped else (s.part q).run := by
  unfold State.runStop RunSt.stopped
  dsimp only
  by_cases hr : (s.part p).run = .running ∨ (s.part p).run = .hung
  · rw [if_pos hr, run_beginStop, run_of_runView (runView_flashAbandon _ p _), State.logRun, run_of_runView (runView_logEvent ..)]
    split
    · next e => rw [e, if_pos hr]
    · rfl
  · rw [if_neg hr]
    split
    · next e => rw [e, if_neg hr]
    · rfl

theorem stopped_stopped (r : RunSt) : r.stopped.stopped = r.stopped := by cases r <;> rfl

theorem run_partResets (s : State) (mask q : Nat) (hq : q < 16) :
    ((s.partResets mask).part q).run = if bits q q mask = 1 then (s.part q).run.stopped else (s.part q).run := by
  have h : ∀ (l : List Nat) (s : State), ((l.foldl (fun s p => if bits p p mask = 1 then s.runStop p 2 else s) s).part q).run =
      if q ∈ l ∧ bits q q mask = 1 then (s.part q).run.stopped else (s.part q).run := by
    intro l
    induction l with
    | nil => simp
    | cons a l ih =>
      intro s
      rw [List.foldl_cons, ih]
      by_cases ha : bits a a mask = 1
      · rw [if_pos ha, run_runStop]
        by_cases hqa : q = a
        · subst hqa
          simp [ha, stopped_stopped]
        · simp [hqa]
      · rw [if_neg ha]
        by_cases hqa : q = a
        · subst hqa
          simp [ha]
        · simp [hqa]
  unfold State.partResets
  simpa [List.mem_range.2 hq] using h (List.range 16) s

theorem bits_eq_one_iff {w : Nat} (m : BitVec w) (i : Nat) : bits i i m.toNat = 1 ↔ m.getLsbD i = true := by
  rw [BitVec.getLsbD, Nat.testBit_eq_decide_div_mod_eq, decide_eq_true_eq]
  simp [bits]

theorem fenced_hangStop (s : State) (p cause unit : Nat) : (s.hangStop p cause unit).mgmt.fenced = s.mgmt.fenced := by
  unfold State.hangStop State.takeDump
  dsimp only
  rw [fenced_of_runView (foldl_proj (g := State.runView) _ _ fun u cl => by simp)]
  refine Eq.trans (b := ((s.stopDispatch p).landAll p).mgmt.fenced) rfl ?_
  exact fenced_of_runView ((runView_landAll _ p).trans (runView_stopDispatch s p))

/-- A device fence leaves the device fenced (R266). -/
theorem fenced_deviceFence (s : State) (causes : List ErrIn) (field : Bool) : (s.deviceFence causes field).mgmt.fenced = true := by
  have told : ∀ u : State, u.fenceTold.mgmt.fenced = u.mgmt.fenced := fun u => by
    unfold State.fenceTold
    split <;> rfl
  unfold State.deviceFence
  by_cases h : s.mgmt.fenced = true
  · rw [if_pos h]
    exact h
  · rw [if_neg h]
    dsimp only
    rw [told]
    refine (foldl_proj (g := fun u : State => u.mgmt.fenced) _ _ fun u p => ?_).trans
      (foldl_proj (g := fun u : State => u.mgmt.fenced) _ _ fun u cl => ?_)
    · split
      · rw [fenced_of_runView (runView_logEvent ..), State.setPart_mgmt, fenced_hangStop]
      · rfl
    · rfl

/-! ### The end of a run -/

theorem run_emptyCache (s : State) (cl : Cl) (q : Nat) : ((s.emptyCache cl).part q).run = (s.part q).run :=
  (congrArg (fun u : State => (u.part q).run) (emptyCache_only s cl).1 :)

/-- PARTITION_STOP, where no commit is left: the partition's record ends its run; the runs of the others stay. -/
theorem partitionStop_spec (s : State) (p : Pn) (hr : (s.part p.val).run = .stopping) (hc : s.committing p.val = false) :
    Done (.partitionStop p) s fun t => (∃ v : Part, t.part p.val = { v with run := .noRun, pm := 0, pages := [], trace := { v.trace with on := false } }) ∧
      ∀ q : Pn, q ≠ p → (t.part q.val).run = (s.part q.val).run := by
  refine ⟨_, rfl, ?_⟩
  dsimp only
  rw [if_neg (by simp [hr, hc])]
  refine ⟨⟨_, State.part_setPart ..⟩, fun q hq => ?_⟩
  rw [run_setPart, if_neg fun e => hq (Fin.ext e)]
  refine (congrFun (foldl_proj (g := fun (u : State) q => (u.part q).run) _ _ fun u cl => funext fun q => ?_) q.val).trans
    (run_of_runView (runView_landAll s p.val) q.val)
  rw [run_of_runView (runView_traceFlush ..), run_emptyCache, run_of_runView (foldl_proj (g := State.runView) _ _ fun x k => ?_)]
  · exact run_of_runView (by simp) q
  · split <;> simp

/-! ### The start of a run -/

/-- What the start of a partition's run reads of the state: its partitions, its objects, and the permission table. -/
def State.startView (s : State) : SMap Part × Dict × SMap (BitVec 4) × Nat := (s.parts, s.dict, s.dram.permTable, s.now)

theorem part_of_startView {s t : State} (h : t.startView = s.startView) (q : Nat) : t.part q = s.part q :=
  congrArg (look Part.init · q) (congrArg Prod.fst h : t.parts = s.parts)

theorem startView_startCluster (s : State) (cl : Cl) : (s.startCluster cl).startView = s.startView := by
  have core : ∀ (u : State) c v, (u.setCore cl c v).startView = u.startView := fun _ _ _ => rfl
  have ring : ∀ (u : State) n v, (u.setRing cl n v).startView = u.startView := fun _ _ _ => rfl
  have stew : ∀ (u : State) v, (u.setStew cl v).startView = u.startView := fun _ _ => rfl
  have clu : ∀ (u : State) v, (u.setClu cl v).startView = u.startView := fun _ _ => rfl
  unfold State.startCluster
  dsimp only
  refine (foldl_proj (g := State.startView) _ _ fun u c => core u c _).trans ?_
  rw [stew]
  exact (foldl_proj (g := State.startView) _ _ fun u n => ring u n _).trans (clu s _)

theorem execPages_of_startView {s t : State} (h : t.startView = s.startView) (p : Nat) : t.execPages p = s.execPages p := by
  injection h with _ h
  injection h with hd h
  injection h with hm _
  unfold State.execPages State.permEntry State.ownerOf State.dramOwner State.obj
  rw [hd, hm]

theorem startView_setDram (s : State) (m : Mem) : (s.setDram m).startView = s.startView := rfl

theorem startView_dramBytesWr (s : State) (a : Nat) (bs : List Byte) : (s.dramBytesWr a bs).startView = s.startView := by
  unfold State.dramBytesWr
  exact foldl_proj _ s fun u _ => startView_setDram u _

theorem startView_traceHeaders (s : State) (p : Nat) : (s.traceHeaders p).startView = s.startView := by
  unfold State.traceHeaders
  dsimp only
  split
  · rfl
  · exact (foldl_proj (g := State.startView) _ _ fun u cl => startView_dramBytesWr u _ _).trans (startView_dramBytesWr ..)

/-- A new protection level is all that reprotection changes of the partitions. -/
theorem part_reprotect (s : State) (p q : Nat) :
    (s.reprotect p).part q = if q = p then { s.part p with prot := s.protectionOf p } else s.part q := by
  unfold State.reprotect
  dsimp only
  split
  · next h =>
    rw [h]
    split
    · next e => rw [e]
    · rfl
  · have hh : ∀ (u : State) (code die unit detail aux : Nat), (u.hostEv p code die unit detail aux).part q = u.part q := fun u code die unit detail aux => by
      unfold State.hostEv
      split <;> rfl
    refine (hh ..).trans ?_
    rw [State.part_setPart_if]

/-- A run that starts: the partition's record, fresh; the other partitions' records stay (R324). -/
theorem part_startRun (s : State) (p : Nat) :
    ((s.startRun p).part p).run = .running ∧ ((s.startRun p).part p).startReq = false ∧ ((s.startRun p).part p).startAt = s.now ∧
    ((s.startRun p).part p).dropped = 0 ∧ ((s.startRun p).part p).pm = 0 ∧ ((s.startRun p).part p).pages = s.execPages p ∧
    ((s.startRun p).part p).dieValid = s.diesOf p &&& ~~~s.fabric.dieFenced ∧ ∀ q, q ≠ p → (s.startRun p).part q = s.part q := by
  unfold State.startRun
  dsimp only
  generalize hu : (List.range 16).foldl _ _ = u
  have hv : u.startView = s.startView := by
    rw [← hu]
    refine (foldl_proj (g := State.startView) _ _ fun x a => ?_).trans ?_
    · split <;> rfl
    · exact foldl_proj (g := State.startView) (s.clustersOf p) (s.clearTouched p) startView_startCluster
  have hn : u.now = s.now := congrArg (fun x => x.2.2.2) hv
  have log : ∀ (x : State) (q : Nat), (x.logRun p 1).part q = x.part q := fun _ _ => rfl
  have hdr : ∀ (x : State) (q : Nat), (x.traceHeaders p).part q = x.part q := fun x => part_of_startView (startView_traceHeaders x p)
  simp only [log, part_reprotect, hdr, State.part_setPart, if_true]
  refine ⟨trivial, trivial, hn, trivial, trivial, execPages_of_startView hv p, trivial, fun q hq => ?_⟩
  rw [if_neg hq, State.part_setPart_if, if_neg hq]
  exact part_of_startView hv q

end Sys2Proof.Machine

namespace Sys2Proof.Machine

open Sys2Proof

/-! ### Permissions and granules (R201, R205, R211) -/

/-- What a table reads as after one value has been written at every number of a list. -/
theorem look_foldl_put {α : Type} [DecidableEq α] (d v : α) (l : List Nat) (m : SMap α) (k : Nat) :
    look d (l.foldl (fun m i => put d m i v) m) k = if k ∈ l then v else look d m k := by
  induction l generalizing m with
  | nil => simp
  | cons a l ih =>
    rw [List.foldl_cons, ih, look_put]
    by_cases h : k ∈ l
    · simp [h]
    · simp [h]

/-- The pages of a range that a partition owns, as PERM_WRITE lists them (R211). -/
def State.pagesOf (s : State) (p first count : Nat) : List Nat :=
  (s.dramOf p).flatMap fun dg =>
    ((List.range 512).map fun i => dg.1 * 65536 + dg.2 * 512 + i).filter fun k => decide (first ≤ k) && decide (k < first + count)

theorem mem_pagesOf {s : State} {p first count k : Nat} : k ∈ s.pagesOf p first count ↔
    (first ≤ k ∧ k < first + count) ∧ k / 65536 < 4 ∧ k % 65536 / 512 < 95 ∧ s.dramOwner (k / 65536) (k % 65536 / 512) = p := by
  simp only [State.pagesOf, State.dramOf, List.mem_flatMap, List.mem_map, List.mem_filter, List.mem_range, Bool.and_eq_true, decide_eq_true_eq, Prod.exists]
  constructor
  · rintro ⟨d, g, ⟨d', hd, g', ⟨hg, ho⟩, he⟩, ⟨i, hi, rfl⟩, hk⟩
    obtain ⟨rfl, rfl⟩ := Prod.mk.inj he
    have h1 : (d' * 65536 + g' * 512 + i) / 65536 = d' := by omega
    have h2 : (d' * 65536 + g' * 512 + i) % 65536 / 512 = g' := by omega
    rw [h1, h2]
    exact ⟨hk, hd, hg, ho⟩
  · rintro ⟨hk, hd, hg, ho⟩
    exact ⟨_, _, ⟨_, hd, _, ⟨hg, ho⟩, rfl⟩, ⟨k % 512, Nat.mod_lt _ (by omega), by omega⟩, hk⟩

/-- The owner of a page of a DRAM granule is the granule's (R205). -/
theorem ownerOf_page (s : State) {k : Nat} (hd : k / 65536 < 4) (hg : k % 65536 / 512 < 96) :
    s.ownerOf (k * 2097152) = s.dramOwner (k / 65536) (k % 65536 / 512) := by
  have h1 : bits 38 37 (k * 2097152) = k / 65536 := by unfold bits; omega
  have h2 : bits 36 30 (k * 2097152) = k % 65536 / 512 := by unfold bits; omega
  have h3 : isDram (k * 2097152) = true := by
    unfold isDram
    rw [h2]
    simp only [Bool.and_eq_true, decide_eq_true_eq]
    omega
  unfold State.ownerOf
  rw [if_pos h3, h1, h2]

/-- A permission change writes the table's entries of the partition's pages in the range, and no other. -/
theorem permWrite_spec (s : State) (p addr count entry : Nat) : ∃ m, s.permWrite p addr count entry =
      { s with dram := { s.dram with permTable := m }, parts := (s.permWrite p addr count entry).parts } ∧
    (∀ k, look 3 m k = if k ∈ s.pagesOf p (addr / 2097152) count then BitVec.ofNat 4 entry else look 3 s.dram.permTable k) ∧
    ∀ q, q ≠ p → (s.permWrite p addr count entry).part q = s.part q := by
  refine ⟨(s.pagesOf p (addr / 2097152) count).foldl (fun m k => put 3 m k (BitVec.ofNat 4 entry)) s.dram.permTable, ?_, look_foldl_put _ _ _ _, fun q hq => ?_⟩
  · unfold State.permWrite
    dsimp only
    split <;> rfl
  · unfold State.permWrite
    dsimp only
    split
    · rw [State.part_setPart_if, if_neg hq]
      rfl
    · rfl

theorem granOwner_setObj (s : State) (g v : Nat) : (s.setObj 0x3010 (1 + g) v).granOwner g = v := State.obj_setObj ..

/-- A granule passes to its new owner, unless its present one has a run (R201). -/
theorem granOwner_setGranule (s : State) {g owner : Nat} (h : s.granOwner g = 255 ∨ s.hasRun (s.granOwner g) = false) (ho : owner < 16 ∨ owner = 255) :
    (s.setGranule g owner).granOwner g = owner := by
  unfold State.setGranule
  dsimp only
  by_cases he : s.granOwner g = owner
  · rw [if_pos (.inr (.inl he))]
    exact he
  · rw [if_neg ?_]
    · split
      · exact granOwner_setObj ..
      · refine (foldl_proj (g := fun u : State => u.granOwner g) _ _ fun u cl => ?_).trans (granOwner_setObj ..)
        split <;> rfl
    · rintro (⟨h1, h2⟩ | h1 | h1)
      · rcases h with h | h
        · omega
        · rw [h] at h2; cases h2
      · exact he h1
      · exact h1 ho

/-! ### Self-tests on demand (R46) -/

/-- Marking tests as due, core by core, where a condition holds that the marks do not touch. -/
theorem foldl_markDue (c : State → Nat → Prop) [∀ s i, Decidable (c s i)] (hc : ∀ s i v j, c (s.setPhy i v) j ↔ c s j) (l : List Nat) (s : State) :
    (∀ j, (l.foldl (fun s i => if c s i then s.setPhy i { s.phy i with testDue := true } else s) s).phy j =
      if j ∈ l ∧ c s j then { s.phy j with testDue := true } else s.phy j) ∧
    l.foldl (fun s i => if c s i then s.setPhy i { s.phy i with testDue := true } else s) s =
      { s with fabric := { s.fabric with
          phys := (l.foldl (fun s i => if c s i then s.setPhy i { s.phy i with testDue := true } else s) s).fabric.phys } } := by
  induction l generalizing s with
  | nil => exact ⟨fun j => by simp, rfl⟩
  | cons a l ih =>
    rw [List.foldl_cons]
    by_cases ha : c s a
    · obtain ⟨h1, h2⟩ := ih (s.setPhy a { s.phy a with testDue := true })
      rw [if_pos ha]
      refine ⟨fun j => ?_, h2⟩
      rw [h1 j, State.phy_setPhy_if]
      simp only [hc]
      by_cases hj : j = a
      · subst hj
        simp [ha]
      · simp [hj]
    · rw [if_neg ha]
      refine ⟨fun j => ?_, (ih s).2⟩
      rw [(ih s).1 j]
      by_cases hj : j = a
      · subst hj
        simp [ha]
      · simp [hj]

/-- SELFTEST_REQ makes the named tests in the partition's granules due, and does nothing else. -/
theorem selftestReq_spec (s : State) (p mask : Nat) :
    (∀ i, (s.selftestReq p mask).phy i =
      if i ∈ List.range 3072 ∧ bits i i mask = 1 ∧ s.clPart (Fin.ofNat 256 (i / 12)) = p ∧ (s.coreState i = 0 ∨ s.coreState i = 1 ∨ s.coreState i = 4) then
        { s.phy i with testDue := true }
      else s.phy i) ∧
    s.selftestReq p mask = { s with fabric := { s.fabric with phys := (s.selftestReq p mask).fabric.phys } } := by
  unfold State.selftestReq
  generalize List.range 3072 = l
  exact foldl_markDue (fun s i => bits i i mask = 1 ∧ s.clPart (Fin.ofNat 256 (i / 12)) = p ∧
    (s.coreState i = 0 ∨ s.coreState i = 1 ∨ s.coreState i = 4)) (fun _ _ _ _ => Iff.rfl) l s

/-- LEDGER_COUNTS_CLEAR clears two counts of every account (R331). -/
theorem acct_clearLedger (s : State) (a : Nat) : s.clearLedger.acct a = { s.acct a with admissions := 0, guardAdmits := 0 } := by
  unfold State.clearLedger State.acct
  exact look_mapS Acct.init (fun _ a => { a with admissions := 0, guardAdmits := 0 }) s.accts a rfl

/-- Settles O50: each act by the lemma that says what it leaves of the partitions, the table, the granules or the accounts. -/
theorem runsOwnershipAndSupervision : Obligations.RunsOwnershipAndSupervision := by
  unfold Obligations.RunsOwnershipAndSupervision
  intro s p
  have idle : ∀ {c : Instr} {u : State}, exec c s = .next u → u = s → Done c s fun t => t = s := fun hx hu => ⟨_, hx, hu⟩
  refine ⟨fun h => idle rfl ?_, fun hr hf hd => ⟨_, rfl, ?_⟩, fun hr hf hd => ⟨_, rfl, ?_⟩, fun c hc => ⟨fun hr => ?_, fun hr => ?_⟩,
    fun h => idle rfl (if_pos h), fun hr hc => ?_, fun addr count entry => ⟨_, rfl, ?_⟩, fun d q owner h ho => ⟨_, rfl, granOwner_setGranule s h ho⟩,
    fun d q owner h h' => idle rfl (if_pos (.inl ⟨h, h'⟩)), fun mask i hi => ⟨_, rfl, ?_⟩, ⟨_, rfl, fenced_deviceFence ..⟩,
    fun mask => ⟨_, rfl, fun q => ?_⟩, fun v hv => idle rfl (if_neg ?_), fun hb => ⟨_, rfl, ?_⟩, fun v hv => ⟨_, rfl, ?_⟩, idle rfl rfl⟩
  · exact if_pos h
  · unfold State.runStart
    simp [hr, hf, hd]
  · have e : s.runStart p.val = s.startRun p.val := by
      unfold State.runStart
      simp [hr, hf, hd]
    obtain ⟨h1, h2, h3, h4, h5, h6, h7, h8⟩ := part_startRun s p.val
    rw [e]
    exact ⟨h1, h2, h3, h4, h5, h6, h7, fun q hq => h8 q.val fun e => hq (Fin.ext e)⟩
  · have stop : ∀ v, ((s.runStop p.val v).part p.val).run = .stopping ∧ ∀ q : Pn, q ≠ p → ((s.runStop p.val v).part q.val).run = (s.part q.val).run := fun v => by
      refine ⟨?_, fun q hq => ?_⟩
      · rw [run_runStop, if_pos rfl, RunSt.stopped, if_pos hr]
      · rw [run_runStop, if_neg fun e => hq (Fin.ext e)]
    rcases hc with rfl | rfl
    · exact ⟨_, rfl, stop 2⟩
    · exact ⟨_, rfl, stop 3⟩
  · have stay : ∀ v, s.runStop p.val v = s := fun v => if_neg (by rcases hr with h | h <;> simp [h])
    rcases hc with rfl | rfl
    · exact idle rfl (stay 2)
    · exact idle rfl (stay 3)
  · obtain ⟨t, hx, ⟨v, hv⟩, hq⟩ := partitionStop_spec s p hr hc
    exact ⟨t, hx, by rw [hv], by rw [hv], by rw [hv], by rw [hv], hq⟩
  · obtain ⟨m, he, hm, hq⟩ := permWrite_spec s p.val addr count (entry % 16)
    have hent : BitVec.ofNat 4 (entry % 16) = BitVec.ofNat 4 entry := BitVec.eq_of_toNat_eq (by simp)
    have hp : (s.permWrite p.val addr count (entry % 16)).dram.permTable = m := by rw [he]
    refine ⟨fun k h1 h2 ho hd hg => ?_, fun k hk => ?_, ?_, fun q hqp => hq q.val fun e => hqp (Fin.ext e)⟩
    · rw [hp, hm, if_pos, hent]
      rw [mem_pagesOf, ← ownerOf_page s hd (by omega)]
      exact ⟨⟨h1, h2⟩, hd, hg, ho⟩
    · rw [hp, hm, if_neg]
      rw [mem_pagesOf]
      rintro ⟨⟨h1, h2⟩, hd, hg, ho⟩
      rw [← ownerOf_page s hd (by omega)] at ho
      rcases hk with hk | hk | hk
      · omega
      · omega
      · exact hk ho
    · rw [hp]
      exact he
  · obtain ⟨h1, h2⟩ := selftestReq_spec s p.val mask
    refine ⟨fun hb hp hst => (h1 i).trans (if_pos ⟨List.mem_range.2 hi, hb, hp, hst⟩), fun h => (h1 i).trans (if_neg ?_), h2⟩
    rintro ⟨-, hb, hp, -⟩
    rcases h with h | h
    · omega
    · exact h hp
  · rw [run_partResets s _ _ q.isLt]
    refine ⟨fun hm hr => ?_, fun hm => if_neg ?_⟩
    · rw [if_pos ((bits_eq_one_iff mask q.val).2 hm), RunSt.stopped, if_pos hr]
    · rw [bits_eq_one_iff, hm]
      decide
  · intro e
    exact hv (BitVec.eq_of_toNat_eq e)
  · unfold State.supReset State.deviceReset State.resetBy
    simp only [hb]
    exact ⟨rfl, rfl⟩
  · dsimp only
    rw [if_neg hv]
    refine ⟨fun a => ?_, rfl⟩
    rw [acct_clearLedger]
    exact ⟨rfl, rfl, rfl, rfl⟩

end Sys2Proof.Machine

namespace Sys2Proof.Machine

open Sys2Proof

/-! ### The start of held steps, and the loss of a core (R198, R272, R280) -/

/-- Two cores that differ at most in what the end of a held wait touches. -/
def Core.SameButRelease (a b : Core) : Prop := b = { a with hold := b.hold, npc := b.npc, lastIa := b.lastIa, cyc := b.cyc }

theorem Core.SameButRelease.trans {a b c : Core} (h : a.SameButRelease b) (k : b.SameButRelease c) : a.SameButRelease c := by
  unfold Core.SameButRelease at *
  rw [k, h]

theorem wake_sameButRelease (s : State) (n : Nat) (cl : Cl) (c : Cn) : (s.core cl c).SameButRelease ((s.wake n).core cl c) := by
  rcases wake_core s n cl c with h | h
  · rw [h]; rfl
  · rw [h]
    unfold Core.release
    split <;> rfl

/-- What the start of held steps leaves alone. -/
def State.heldView (s : State) : State := { s with cores := [], stewards := [], rings := [], counters := [], parts := [] }

theorem heldView_release58 (s : State) (p : Nat) : (s.release58 p).heldView = s.heldView := by
  unfold State.release58
  refine (foldl_proj (g := State.heldView) _ _ fun u cl => ?_).trans rfl
  dsimp only
  rw [wake_only]
  rfl

theorem heldView_heldSteps (s : State) : s.heldSteps.heldView = s.heldView := by
  unfold State.heldSteps
  refine foldl_proj (g := State.heldView) _ _ fun u p => ?_
  split
  · exact heldView_release58 u p
  · rfl

theorem only_of_heldView {s u : State} (h : u.heldView = s.heldView) : u = { s with
    cores := u.cores, stewards := u.stewards, rings := u.rings, counters := u.counters, parts := u.parts } :=
  calc u = { u.heldView with
        cores := u.cores, stewards := u.stewards, rings := u.rings, counters := u.counters, parts := u.parts } := rfl
    _ = _ := by rw [h]; rfl

/-- The start of held steps touches cores, steward cores, rings, counters and partitions only. -/
theorem heldSteps_only (s : State) : s.heldSteps = { s with
    cores := s.heldSteps.cores, stewards := s.heldSteps.stewards, rings := s.heldSteps.rings
    counters := s.heldSteps.counters, parts := s.heldSteps.parts } := only_of_heldView (heldView_heldSteps s)

theorem heldSteps_core (s : State) (cl : Cl) (c : Cn) : (s.core cl c).SameButRelease (s.heldSteps.core cl c) := by
  unfold State.heldSteps
  refine foldl_inv (p := fun u : State => (s.core cl c).SameButRelease (u.core cl c)) _ s rfl fun u p _ hu => ?_
  split
  · unfold State.release58
    exact foldl_inv (p := fun x : State => (s.core cl c).SameButRelease (x.core cl c)) _ _ hu fun x d _ hx =>
      hx.trans (wake_sameButRelease (x.setCtr _ _) _ cl c)
  · exact hu

/-- Where no step is held, none is started. -/
theorem heldSteps_idle {s : State} (h : ∀ p < 16, (s.part p).releaseDue = false) : s.heldSteps = s := by
  unfold State.heldSteps
  refine foldl_inv (p := fun u : State => u = s) _ s rfl fun u p hp hu => ?_
  subst hu
  rw [h p (List.mem_range.1 hp)]
  rfl

/-- What the loss of a core without a spare leaves alone. -/
def State.lossView (s : State) : SMap Core × SMap Cluster × SMap Counter × Fabric × DramSt × Fw × SMap Part :=
  (s.cores, s.clusters, s.counters, s.fabric, s.dram, s.fw, s.parts)

theorem lossView_withdraw (s : State) (cl : Cl) (n : Nat) : (s.withdraw cl n).lossView = s.lossView := by
  unfold State.withdraw
  dsimp only
  split <;> rfl

theorem lossView_failMissing (s : State) (cl : Cl) (n : Nat) : (s.failMissing cl n).lossView = s.lossView := by
  have hw := lossView_withdraw s cl n
  unfold State.failMissing
  dsimp only
  generalize s.withdraw cl n = u at *
  split
  · split
    · rfl
    · split
      · split
        · rw [← hw]; rfl
        · exact hw
      · split
        · rw [← hw]; rfl
        · exact hw
  · rfl

theorem lossView_degradedEvent (s : State) (cl : Cl) (core : Nat) : (s.degradedEvent cl core).lossView = s.lossView :=
  foldl_proj (g := State.lossView) _ s fun _ _ => rfl

/-- A core that is lost without a spare: the map generation rises and the grade is degraded (R198, R200). -/
theorem degrade_spec (s : State) (cl : Cl) (core : Nat) :
    (s.degrade cl core).cores = s.cores ∧ (s.degrade cl core).clusters = s.clusters ∧ (s.degrade cl core).counters = s.counters ∧
    (s.degrade cl core).fabric = { s.fabric with mapGen := s.fabric.mapGen + 1, gradeNow := 0x44 } ∧ (s.degrade cl core).dram = s.dram ∧
    (s.degrade cl core).fw = s.fw ∧ (s.degrade cl core).parts = s.parts := by
  have h : (s.degrade cl core).lossView = { s with fabric := { s.fabric with mapGen := s.fabric.mapGen + 1, gradeNow := 0x44 } : State }.lossView := by
    unfold State.degrade
    exact (foldl_proj (g := State.lossView) _ _ fun u d => foldl_proj (g := State.lossView) _ u fun x n => lossView_failMissing x d n).trans
      (lossView_degradedEvent ..)
  simpa only [State.lossView, Prod.mk.injEq] using h

end Sys2Proof.Machine

namespace Sys2Proof.Machine

open Sys2Proof

/-! ### R44's decision -/

/-- Failing cells in one row, which a column skip does not settle: a free spare row takes it, else the core retires. -/
theorem repairChoice_oneRow {v : Phys} {f : BadCell} {rest : List BadCell} (hv : ifrValid v.repair = false) (hr : ∀ g ∈ rest, g.row = f.row)
    (hc : (∃ g ∈ rest, g.col ≠ f.col) ∨ testCol v.repair ≠ 32) : repairChoice v (f :: rest) =
      if testRow v.repair = 32 ∧ v.spareRowSpent = false then some (false, f.row) else none := by
  have h1 : (rest.all fun g => decide (g.row = f.row)) = true := List.all_eq_true.2 fun g hg => by simpa using hr g hg
  have h2 : ((rest.all fun g => decide (g.col = f.col)) && (decide (testCol v.repair = 32) && !v.spareColSpent)) = false := by
    rcases hc with ⟨g, hg, hne⟩ | hne
    · rw [List.all_eq_false.2 ⟨g, hg, by simpa using hne⟩, Bool.false_and]
    · simp [hne]
  unfold repairChoice
  simp only [hv, h1, Bool.true_and, Bool.false_eq_true, if_false, if_true]
  by_cases hcol : (rest.all fun g => decide (g.col = f.col)) = true
  · rw [hcol, Bool.true_and] at h2
    simp only [hcol, h2, if_true, Bool.false_eq_true, if_false, Bool.and_eq_true, decide_eq_true_eq, Bool.not_eq_true']
  · rw [Bool.not_eq_true] at hcol
    simp only [hcol, Bool.false_eq_true, if_false, Bool.and_eq_true, decide_eq_true_eq, Bool.not_eq_true']

/-- Failing cells in one column, with the spare column free: it takes the column. -/
theorem repairChoice_oneCol {v : Phys} {f : BadCell} {rest : List BadCell} (hv : ifrValid v.repair = false) (hc : ∀ g ∈ rest, g.col = f.col)
    (ht : testCol v.repair = 32) (hs : v.spareColSpent = false) : repairChoice v (f :: rest) = some (true, f.col) := by
  have h1 : (rest.all fun g => decide (g.col = f.col)) = true := List.all_eq_true.2 fun g hg => by simpa using hc g hg
  unfold repairChoice
  simp [hv, h1, ht, hs]

/-- Failing cells of more than one row in one column, with the spare column in use: the core retires. -/
theorem repairChoice_oneCol_spent {v : Phys} {f : BadCell} {rest : List BadCell} (hr : ∃ g ∈ rest, g.row ≠ f.row) (ht : testCol v.repair ≠ 32) :
    repairChoice v (f :: rest) = none := by
  obtain ⟨g, hg, hne⟩ := hr
  have h1 : (rest.all fun g => decide (g.row = f.row)) = false := List.all_eq_false.2 ⟨g, hg, by simpa using hne⟩
  unfold repairChoice
  simp [h1, ht]

/-- A core with an in-field repair, or with failing cells in several rows and columns, retires. -/
theorem repairChoice_none {v : Phys} {f : BadCell} {rest : List BadCell}
    (h : ifrValid v.repair = true ∨ ((∃ g ∈ rest, g.row ≠ f.row) ∧ ∃ g ∈ rest, g.col ≠ f.col)) : repairChoice v (f :: rest) = none := by
  unfold repairChoice
  rcases h with h | ⟨⟨g, hg, hne⟩, g', hg', hne'⟩
  · simp [h]
  · have h1 : (rest.all fun g => decide (g.row = f.row)) = false := List.all_eq_false.2 ⟨g, hg, by simpa using hne⟩
    have h2 : (rest.all fun g => decide (g.col = f.col)) = false := List.all_eq_false.2 ⟨g', hg', by simpa using hne'⟩
    simp [h1, h2]

/-! ### The end of a self-test -/

/-- The self-test's record behind its end: a failing cell in a skipped line marks a spare line spent (R44). -/
def Phys.tested (v : Phys) (fails : List BadCell) : Phys :=
  { v with
    testing := false
    spareRowSpent := v.spareRowSpent || (decide (rowSkip v.repair = 32) && fails.any fun f => f.row = 32)
    spareColSpent := v.spareColSpent || (decide (colSkip v.repair = 32) && fails.any fun f => f.col = 32) }

/-- The state behind the test of a logical core: its accumulators cleared, its masks full, its energy booked (R45, R161). -/
def State.tested (s : State) (home : Cl) (name : Cn) (energy : Nat) : State :=
  (s.setCore home name { s.core home name with acc := [], accPoison := 0, rowMask := 0xFFFFFFFF#32, colMask := 0xFFFFFFFF#32 }).setAcct (acctOf home)
    { s.acct (acctOf home) with dues := (s.acct (acctOf home)).dues ++ [⟨energy, 0, true, false, home, 0, 0⟩] }

/-- Cells outside the skipped lines mark no spare line spent. -/
theorem tested_of_used {v : Phys} {fails : List BadCell} (h : ∀ g ∈ fails, g.row ≠ rowSkip v.repair ∧ g.col ≠ colSkip v.repair) :
    v.tested fails = { v with testing := false } := by
  have hr : (decide (rowSkip v.repair = 32) && fails.any fun f => decide (f.row = 32)) = false := by
    rw [Bool.and_eq_false_iff, decide_eq_false_iff_not]
    refine or_iff_not_imp_left.2 fun h32 => List.any_eq_false.2 fun g hg => ?_
    have h1 := (h g hg).1
    rw [not_not.1 h32] at h1
    simpa using h1
  have hc : (decide (colSkip v.repair = 32) && fails.any fun f => decide (f.col = 32)) = false := by
    rw [Bool.and_eq_false_iff, decide_eq_false_iff_not]
    refine or_iff_not_imp_left.2 fun h32 => List.any_eq_false.2 fun g hg => ?_
    have h1 := (h g hg).2
    rw [not_not.1 h32] at h1
    simpa using h1
  unfold Phys.tested
  rw [hr, hc, Bool.or_false, Bool.or_false]

/-- What R44 makes of a core that has failed: a repair is programmed, or the core retires. -/
def Phys.decided (v : Phys) (fails : List BadCell) : Phys :=
  match repairChoice v fails with
  | some r => { v with fuseWait := some r }
  | none => { v with retireDue := true }

section
variable {s : State} {cl : Cl} {c : Cn} {home : Cl} {name : Cn}

/-- A passing test of an enabled core. -/
theorem selftestEnd_pass (hn : servedName (coreKey cl c) (s.mapEntry (coreKey cl c)) = (home, name))
    (hst : s.coreState (coreKey cl c) = 0 ∨ s.coreState (coreKey cl c) = 4) (ht : (s.phy (coreKey cl c)).testing = true) :
    exec (.selftestEnd cl c [] false) s = .next ((s.tested home name (s.phy (coreKey cl c)).testEnergy).setPhy (coreKey cl c)
      { (s.phy (coreKey cl c)).tested [] with lastPass := s.now, passStep := s.nextStep (s.clPart home) }).heldSteps := by
  have hsp : ¬ s.coreState (coreKey cl c) = 1 := by omega
  show execSelftestEnd cl c [] false s = _
  unfold execSelftestEnd
  simp only [hn, ht, hsp, Bool.not_true, Bool.false_eq_true, if_false, List.filter_nil, Bool.not_false, and_true, if_true]
  rfl

/-- A failing test of an enabled core whose failing cells are all in use. -/
theorem selftestEnd_fail (hn : servedName (coreKey cl c) (s.mapEntry (coreKey cl c)) = (home, name))
    (hst : s.coreState (coreKey cl c) = 0 ∨ s.coreState (coreKey cl c) = 4) (ht : (s.phy (coreKey cl c)).testing = true)
    {f : BadCell} {rest : List BadCell} (more : Bool)
    (hu : ∀ g ∈ f :: rest, g.row ≠ rowSkip (s.phy (coreKey cl c)).repair ∧ g.col ≠ colSkip (s.phy (coreKey cl c)).repair) :
    exec (.selftestEnd cl c (f :: rest) more) s = .next (({ s.tested home name (s.phy (coreKey cl c)).testEnergy with
        fabric := { s.fabric with selftestFails := sat32 s.fabric.selftestFails 1 } } : State).selftestFailed (home, name)
          ((s.phy (coreKey cl c)).tested (f :: rest)) |>.setPhy (coreKey cl c) (((s.phy (coreKey cl c)).tested (f :: rest)).decided (f :: rest))) := by
  have hsp : ¬ s.coreState (coreKey cl c) = 1 := by omega
  have hf : ((f :: rest).filter fun f => decide (f.row ≠ rowSkip (s.phy (coreKey cl c)).repair ∧ f.col ≠ colSkip (s.phy (coreKey cl c)).repair)) = f :: rest :=
    List.filter_eq_self.2 fun g hg => by simpa using hu g hg
  show execSelftestEnd cl c (f :: rest) more s = _
  unfold execSelftestEnd
  simp only [hn, ht, hsp, hf, Bool.not_true, Bool.false_eq_true, if_false, reduceCtorEq, false_and]
  unfold Phys.decided Phys.tested
  generalize repairChoice _ (f :: rest) = r
  cases r <;> rfl

end

end Sys2Proof.Machine

namespace Sys2Proof.Machine

open Sys2Proof

theorem Phys.decided_some {v : Phys} {fails : List BadCell} {r : Bool × Nat} (h : repairChoice v fails = some r) :
    (v.decided fails).fuseWait = some r := by
  unfold Phys.decided
  rw [h]

theorem Phys.decided_none {v : Phys} {fails : List BadCell} (h : repairChoice v fails = none) :
    (v.decided fails).retireDue = true ∧ (v.decided fails).fuseWait = v.fuseWait := by
  unfold Phys.decided
  rw [h]
  exact ⟨rfl, rfl⟩

theorem Phys.decided_testing (v : Phys) (fails : List BadCell) : (v.decided fails).testing = v.testing := by
  unfold Phys.decided
  split <;> rfl

/-! ### Telling the host, and the fault of a step (R280, R281, R294) -/

/-- A partition's event reaches its bound function. -/
theorem hostEv_told {s : State} {p f : Nat} (hf : s.fnOf p = some f) (code die unit detail aux : Nat) :
    Told s (s.hostEv p code die unit detail aux) f (hostRecord code p (s.part p).stepNow.toNat die unit detail aux s.now) := by
  intro h
  unfold State.hostEv
  rw [hf]
  dsimp only
  unfold State.fnEvent
  rw [State.fn_setFn, if_pos h]

theorem noteFault_only (s : State) (cl : Cl) (c : Cn) : s.noteFault cl c = { s with parts := (s.noteFault cl c).parts } := by
  unfold State.noteFault
  dsimp only
  split <;> rfl

theorem mem_faults_noteFault {s : State} {cl : Cl} (c : Cn) (hp : s.clPart cl < 16) (hr : (s.part (s.clPart cl)).run = .running) :
    coreKey cl c ∈ ((s.noteFault cl c).part (s.clPart cl)).faults := by
  unfold State.noteFault
  dsimp only
  split
  · rw [State.part_setPart]
    simp
  · next h =>
    have : (s.part (s.clPart cl)).faults.contains (coreKey cl c) = true := by simpa [hp, hr] using h
    simpa using this

theorem hostEv_only (s : State) (p code die unit detail aux : Nat) :
    s.hostEv p code die unit detail aux = { s with ports := (s.hostEv p code die unit detail aux).ports } := by
  unfold State.hostEv
  split <;> rfl

/-- A failed test is told to the host and counts as a fault of the step; all else stays. -/
theorem selftestFailed_only (s : State) (nm : Cl × Cn) (v : Phys) :
    s.selftestFailed nm v = { s with ports := (s.selftestFailed nm v).ports, parts := (s.selftestFailed nm v).parts } := by
  unfold State.selftestFailed
  dsimp only
  generalize hu : s.hostEv _ _ _ _ _ _ = u
  have h1 : u = { s with ports := u.ports } := by rw [← hu]; exact hostEv_only ..
  rw [noteFault_only]
  generalize (u.noteFault nm.1 nm.2).parts = ps
  rw [h1]

/-- Behind a test whose record is v: the core cleared, its energy booked, and nothing else but the record changed. -/
theorem tested_setPhy (s : State) (home : Cl) (name : Cn) (energy i : Nat) (v : Phys) :
    ((s.tested home name energy).setPhy i v).core home name =
      { s.core home name with acc := [], accPoison := 0, rowMask := 0xFFFFFFFF#32, colMask := 0xFFFFFFFF#32 } ∧
    (((s.tested home name energy).setPhy i v).acct (acctOf home)).dues = (s.acct (acctOf home)).dues ++ [⟨energy, 0, true, false, home, 0, 0⟩] ∧
    ((s.tested home name energy).setPhy i v).phy i = v ∧
    (s.tested home name energy).setPhy i v = { s with
      cores := (s.tested home name energy).cores, accts := (s.tested home name energy).accts
      fabric := { s.fabric with phys := put Phys.init s.fabric.phys i v } } :=
  ⟨State.core_setCore .., congrArg Acct.dues (State.acct_setAcct ..), State.phy_setPhy .., rfl⟩

section
variable {s : State} {cl : Cl} {c : Cn} {home : Cl} {name : Cn}

/-- What a passing test of an enabled core leaves (R45 to R47). -/
theorem selftestPasses (hn : servedName (coreKey cl c) (s.mapEntry (coreKey cl c)) = (home, name))
    (hst : s.coreState (coreKey cl c) = 0 ∨ s.coreState (coreKey cl c) = 4) (ht : (s.phy (coreKey cl c)).testing = true) :
    Done (.selftestEnd cl c [] false) s fun t => (t.phy (coreKey cl c)).testing = false ∧ (t.phy (coreKey cl c)).lastPass = s.now ∧
      (t.core home name).acc = [] ∧ (t.core home name).accPoison = 0 ∧
      (t.core home name).rowMask = BitVec.allOnes 32 ∧ (t.core home name).colMask = BitVec.allOnes 32 ∧
      (t.acct (acctOf home)).dues = (s.acct (acctOf home)).dues ++ [⟨(s.phy (coreKey cl c)).testEnergy, 0, true, false, home, 0, 0⟩] ∧
      t.coreState (coreKey cl c) = s.coreState (coreKey cl c) ∧
      t = { s with cores := t.cores, stewards := t.stewards, rings := t.rings, counters := t.counters, accts := t.accts, fabric := t.fabric, parts := t.parts } ∧
      ((∀ p < 16, (s.part p).releaseDue = false) → t = { s with cores := t.cores, accts := t.accts, fabric := t.fabric }) := by
  refine ⟨_, selftestEnd_pass hn hst ht, ?_⟩
  dsimp only
  generalize hv : ({ (s.phy (coreKey cl c)).tested [] with lastPass := s.now, passStep := s.nextStep (s.clPart home) } : Phys) = v
  obtain ⟨hu, ha, hp, hf⟩ := tested_setPhy s home name (s.phy (coreKey cl c)).testEnergy (coreKey cl c) v
  generalize (s.tested home name (s.phy (coreKey cl c)).testEnergy).setPhy (coreKey cl c) v = u at *
  have hh := heldSteps_only u
  have hk := heldSteps_core u home name
  rw [hu] at hk
  have hi : (∀ p < 16, (s.part p).releaseDue = false) → u.heldSteps = u := fun h => heldSteps_idle fun p hp => by
    rw [show u.part p = s.part p by rw [hf]; rfl]
    exact h p hp
  generalize u.heldSteps = x at *
  have hphy : x.phy (coreKey cl c) = v := by rw [hh]; exact hp
  refine ⟨?_, ?_, (congrArg Core.acc hk :), (congrArg Core.accPoison hk :), (congrArg Core.rowMask hk :), (congrArg Core.colMask hk :), ?_, ?_, ?_, fun h => ?_⟩
  · rw [hphy, ← hv]; rfl
  · rw [hphy, ← hv]
  · rw [hh]; exact ha
  · rw [hh, hf]; rfl
  · rw [hh, hf]
  · rw [hi h, hf]

/-- What a failing test of an enabled core leaves: the host told, the fault of the step, and R44's decision on the record. -/
theorem selftestFails (hn : servedName (coreKey cl c) (s.mapEntry (coreKey cl c)) = (home, name))
    (hst : s.coreState (coreKey cl c) = 0 ∨ s.coreState (coreKey cl c) = 4) (ht : (s.phy (coreKey cl c)).testing = true)
    (f : BadCell) (rest : List BadCell) (more : Bool)
    (hu : ∀ g ∈ f :: rest, g.row ≠ rowSkip (s.phy (coreKey cl c)).repair ∧ g.col ≠ colSkip (s.phy (coreKey cl c)).repair) :
    Done (.selftestEnd cl c (f :: rest) more) s fun t =>
      t.phy (coreKey cl c) = ({ s.phy (coreKey cl c) with testing := false } : Phys).decided (f :: rest) ∧
      t.fabric.selftestFails = min (s.fabric.selftestFails + 1) 4294967295 ∧ t.dram = s.dram ∧ t.rings = s.rings ∧
      Event s t (s.clPart home) 0x0C (dieOf home) (unitName home name.val)
        (Config.selftestWords (s.phy (coreKey cl c)).lastPass (s.phy (coreKey cl c)).passStep % 65536)
        (Config.selftestWords (s.phy (coreKey cl c)).lastPass (s.phy (coreKey cl c)).passStep / 65536 % 2 ^ 32) ∧
      (s.clPart home < 16 → (s.part (s.clPart home)).run = .running → coreKey home name ∈ (t.part (s.clPart home)).faults) := by
  refine ⟨_, selftestEnd_fail hn hst ht more hu, ?_⟩
  rw [tested_of_used hu]
  dsimp only
  generalize hw : ({ s.tested home name (s.phy (coreKey cl c)).testEnergy with
    fabric := { s.fabric with selftestFails := sat32 s.fabric.selftestFails 1 } } : State) = w
  have hfab : w.fabric = { s.fabric with selftestFails := sat32 s.fabric.selftestFails 1 } := by rw [← hw]
  have hd : w.dram = s.dram := by rw [← hw]; rfl
  have hr : w.rings = s.rings := by rw [← hw]; rfl
  have hpart : w.part = s.part := by rw [← hw]; rfl
  have hcl : w.clPart = s.clPart := by rw [← hw]; rfl
  have hfn : w.fnOf = s.fnOf := by rw [← hw]; rfl
  have hfs : w.fn = s.fn := by rw [← hw]; rfl
  have hnow : w.now = s.now := by rw [← hw]; rfl
  have ho := selftestFailed_only w (home, name) { s.phy (coreKey cl c) with testing := false }
  refine ⟨State.phy_setPhy .., ?_, ?_, ?_, fun g hg hlen => ?_, fun hp hrun => ?_⟩
  · show (w.selftestFailed _ _).fabric.selftestFails = _
    rw [ho]
    exact congrArg Fabric.selftestFails hfab
  · show (w.selftestFailed _ _).dram = _
    rw [ho]
    exact hd
  · show (w.selftestFailed _ _).rings = _
    rw [ho]
    exact hr
  · have h := hostEv_told (s := w) (p := s.clPart home) (f := g) (by rw [hfn]; exact hg) 0x0C (dieOf home) (unitName home name.val)
      (Config.selftestWords (s.phy (coreKey cl c)).lastPass (s.phy (coreKey cl c)).passStep % 65536)
      (Config.selftestWords (s.phy (coreKey cl c)).lastPass (s.phy (coreKey cl c)).passStep / 65536 % 2 ^ 32) (by rw [hfs]; exact hlen)
    rw [hfs, hpart, hnow] at h
    refine Eq.trans ?_ h
    show ((w.selftestFailed _ _).fn g).evWait = _
    unfold State.selftestFailed
    dsimp only
    rw [noteFault_only, hcl]
    rfl
  · show _ ∈ ((w.selftestFailed _ _).part _).faults
    unfold State.selftestFailed
    dsimp only
    rw [hcl]
    generalize hx : w.hostEv _ _ _ _ _ _ = x
    have hx' : x = { w with ports := x.ports } := by rw [← hx]; exact hostEv_only ..
    have e1 : x.clPart home = s.clPart home := by rw [hx', ← hcl]; rfl
    have e2 : x.part (x.clPart home) = s.part (s.clPart home) := by rw [e1, ← hpart, hx']; rfl
    have h := mem_faults_noteFault (s := x) (cl := home) name (by rw [e1]; exact hp) (by rw [e2]; exact hrun)
    rwa [e1] at h

end

end Sys2Proof.Machine

namespace Sys2Proof.Machine

open Sys2Proof

/-! ### Repair words and retirement (R43, R44, R195) -/

/-- The repair word once an in-field repair of line idx has been programmed. -/
def repaired (w : W32) (col : Bool) (idx : Nat) : W32 :=
  (w &&& 0xF803FFFF#32) ||| BitVec.ofNat 32 (2 ^ 25 + (if col then 2 ^ 24 else 0) + idx * 2 ^ 18)

/-- Bits 18 to 25 of a programmed repair word: the index, which line, and IFR_VALID. -/
theorem repaired_field (w : W32) (col : Bool) {idx : Nat} (h : idx ≤ 32) :
    (repaired w col idx).toNat / 2 ^ 18 % 2 ^ 8 = 128 + (if col then 64 else 0) + idx := by
  have e : (repaired w col idx).extractLsb' 18 8 = BitVec.ofNat 8 (128 + (if col then 64 else 0) + idx) := by
    have hm : (0xF803FFFF#32).extractLsb' 18 8 = 0#8 := by decide
    unfold repaired
    rw [BitVec.extractLsb'_or, BitVec.extractLsb'_and, hm, BitVec.and_zero, BitVec.zero_or]
    apply BitVec.eq_of_toNat_eq
    rw [BitVec.extractLsb'_toNat, BitVec.toNat_ofNat, BitVec.toNat_ofNat, Nat.shiftRight_eq_div_pow]
    split <;> omega
  have e' := congrArg BitVec.toNat e
  rw [BitVec.extractLsb'_toNat, BitVec.toNat_ofNat, Nat.shiftRight_eq_div_pow] at e'
  rw [e']
  split <;> omega

theorem repaired_spec (w : W32) (col : Bool) {idx : Nat} (h : idx ≤ 32) :
    ifrValid (repaired w col idx) = true ∧ (repaired w col idx).getLsbD 24 = col ∧ (repaired w col idx).toNat / 2 ^ 18 % 64 = idx ∧
    (if col then colSkip (repaired w col idx) = idx else rowSkip (repaired w col idx) = idx) := by
  have hf := repaired_field w col h
  generalize repaired w col idx = x at *
  have hv : ifrValid x = true := by
    unfold ifrValid
    rw [BitVec.getLsbD, Nat.testBit_eq_decide_div_mod_eq, decide_eq_true_eq]
    split at hf <;> omega
  have hc : x.getLsbD 24 = col := by
    rw [BitVec.getLsbD, Nat.testBit_eq_decide_div_mod_eq]
    cases col
    · rw [if_neg (by decide)] at hf
      rw [decide_eq_false_iff_not]
      omega
    · rw [if_pos rfl] at hf
      rw [decide_eq_true_eq]
      omega
  have hi : x.toNat / 2 ^ 18 % 64 = idx := by split at hf <;> omega
  refine ⟨hv, hc, hi, ?_⟩
  unfold colSkip rowSkip
  cases col
  · rw [if_neg (by decide), hv, hc]
    exact hi
  · rw [if_pos rfl, hv, hc]
    exact hi

section
variable (s : State) (i what : Nat)

@[simp] theorem logCore_cores : (s.logCore i what).cores = s.cores := rfl
@[simp] theorem logCore_clusters : (s.logCore i what).clusters = s.clusters := rfl
@[simp] theorem logCore_fabric : (s.logCore i what).fabric = s.fabric := rfl
@[simp] theorem logCore_dram : (s.logCore i what).dram = s.dram := rfl
@[simp] theorem logCore_fw : (s.logCore i what).fw = s.fw := rfl
@[simp] theorem logCore_parts : (s.logCore i what).parts = s.parts := rfl

end

/-- The loss of a core leaves cores, clusters, counters, DRAM, fuses, partitions, the core map and the physical cores alone. -/
theorem loseCore_spec (s : State) (cl : Cl) (c : Cn) :
    (s.loseCore cl c).cores = s.cores ∧ (s.loseCore cl c).clusters = s.clusters ∧ (s.loseCore cl c).dram = s.dram ∧ (s.loseCore cl c).fw = s.fw ∧
    (s.loseCore cl c).fabric.coreMap = s.fabric.coreMap ∧ (s.loseCore cl c).fabric.phys = s.fabric.phys := by
  unfold State.loseCore
  split
  · exact ⟨rfl, rfl, rfl, rfl, rfl, rfl⟩
  · obtain ⟨h1, h2, -, h4, h5, h6, -⟩ := degrade_spec s cl c.val
    exact ⟨h1, h2, h5, h6, (congrArg Fabric.coreMap h4 :), (congrArg Fabric.phys h4 :)⟩

section
variable {s : State} {cl : Cl} {c : Cn} {home : Cl} {name : Cn}

/-- A core in no task is retired: STATE 3, RETIRED blown, its logical name cleared (R195, R197). -/
theorem coreRetires (hn : servedName (coreKey cl c) (s.mapEntry (coreKey cl c)) = (home, name))
    (hst : s.coreState (coreKey cl c) = 0 ∨ s.coreState (coreKey cl c) = 4) (ht : (s.core home name).task = none) :
    Done (.coreRetire cl c) s fun t => t.coreState (coreKey cl c) = 3 ∧
      (t.phy (coreKey cl c)).repair = (s.phy (coreKey cl c)).repair ||| 0x80000000#32 ∧
      look Phys.init.repair t.fw.fuses.repair (coreKey cl c) = (s.phy (coreKey cl c)).repair ||| 0x80000000#32 ∧
      (t.core home name).acc = [] ∧ (t.core home name).phase = Core.init.phase ∧ t.dram = s.dram ∧ t.clusters = s.clusters := by
  refine ⟨_, rfl, ?_⟩
  simp only [hn, ht, hst, Option.isSome_none, Bool.false_eq_true, not_true_eq_false, or_self, if_false]
  generalize hu : State.logCore _ _ _ = u
  have h1 : u.mapEntry (coreKey cl c) = BitVec.ofNat 16 (3 * 8192) := by
    rw [← hu, State.mapEntry, logCore_fabric]
    exact State.mapEntry_setMapEntry ..
  have h2 : (u.phy (coreKey cl c)).repair = (s.phy (coreKey cl c)).repair ||| 0x80000000#32 := by
    rw [← hu]
    simp [State.phy, State.setMapState, State.setMapEntry, State.keepCounts, State.setPhy]
  have h3 : look Phys.init.repair u.fw.fuses.repair (coreKey cl c) = (s.phy (coreKey cl c)).repair ||| 0x80000000#32 := by
    rw [← hu, logCore_fw]
    exact look_put_same ..
  have h4 : u.core home name = { Core.init with toSettle := (s.core home name).toSettle, settleWait := (s.core home name).settleWait } := by
    rw [← hu, State.core, logCore_cores]
    exact State.core_setCore ..
  have h5 : u.dram = s.dram := by
    rw [← hu, logCore_dram]
    rfl
  have h6 : u.clusters = s.clusters := by
    rw [← hu, logCore_clusters]
    rfl
  obtain ⟨l1, l2, l3, l4, l5, l6⟩ := loseCore_spec u home name
  generalize u.loseCore home name = v at *
  have hh := heldSteps_only v
  have hk := heldSteps_core v home name
  rw [show v.core home name = u.core home name by unfold State.core; rw [l1], h4] at hk
  generalize v.heldSteps = x at *
  refine ⟨?_, ?_, ?_, (congrArg Core.acc hk :), (congrArg Core.phase hk :), ?_, ?_⟩
  · unfold State.coreState State.mapEntry
    rw [hh]
    show mapState (look 0 v.fabric.coreMap _) = 3
    rw [l5]
    exact (congrArg mapState h1).trans (by decide)
  · unfold State.phy
    rw [hh]
    show (look _ v.fabric.phys _).repair = _
    rw [l6]
    exact h2
  · rw [hh]
    show look _ v.fw.fuses.repair _ = _
    rw [l4]
    exact h3
  · rw [hh]
    exact l3.trans h5
  · rw [hh]
    exact l2.trans h6

end

end Sys2Proof.Machine

namespace Sys2Proof.Machine

open Sys2Proof

/-! ### The choice of a spare (R193) -/

/-- One step of the choice of a spare: a later one replaces it only where it is preferred. -/
def pickSpare (w : Nat → Nat) (b : Option (Nat × Nat)) (i : Nat) : Option (Nat × Nat) :=
  match b with
  | none => some (i, w i)
  | some (j, v) => if w i < v then some (i, w i) else some (j, v)

/-- The spares of a die that may be chosen, in ascending order. -/
def State.spares (s : State) (d : Nat) : List Nat :=
  ((List.range 768).map fun k => 768 * d + k).filter fun i => decide (s.coreState i = 1) && !(s.phy i).busy

theorem chooseSpare_eq (s : State) (home : Cl) : s.chooseSpare home =
    ((s.spares (dieOf home)).foldl (pickSpare fun i => sparePreference home (Fin.ofNat 256 (i / 12))) none).map (·.1) := rfl

theorem mem_spares {s : State} {d i : Nat} : i ∈ s.spares d ↔ i / 768 = d ∧ s.coreState i = 1 ∧ (s.phy i).busy = false := by
  simp only [State.spares, List.mem_filter, List.mem_map, List.mem_range, Bool.and_eq_true, decide_eq_true_eq, Bool.not_eq_true']
  refine and_congr_left' ⟨?_, fun h => ⟨i % 768, by omega, by omega⟩⟩
  rintro ⟨k, hk, rfl⟩
  omega

theorem spares_sorted (s : State) (d : Nat) : (s.spares d).Pairwise (· < ·) := by
  refine List.Pairwise.filter _ ((List.pairwise_map).2 (List.pairwise_lt_range.imp fun h => ?_))
  omega

theorem pickSpare_mem (w : Nat → Nat) (l : List Nat) : l.foldl (pickSpare w) none = none ∨ ∃ j ∈ l, l.foldl (pickSpare w) none = some (j, w j) := by
  induction l using List.reverseRecOn with
  | nil => exact .inl rfl
  | append_singleton l a ih =>
    rw [List.foldl_append, List.foldl_cons, List.foldl_nil]
    right
    rcases ih with h | ⟨j, hj, h⟩
    · exact ⟨a, by simp, by rw [h]; rfl⟩
    · rw [h]
      unfold pickSpare
      dsimp only
      split
      · exact ⟨a, by simp, rfl⟩
      · exact ⟨j, by simp [hj], rfl⟩

/-- Of an ascending list the preferred one is chosen, the first of those that are preferred alike. -/
theorem pickSpare_best {w : Nat → Nat} {l : List Nat} {i : Nat} (hs : l.Pairwise (· < ·)) (hi : i ∈ l)
    (hb : ∀ j ∈ l, j ≠ i → w i < w j ∨ w i = w j ∧ i < j) : l.foldl (pickSpare w) none = some (i, w i) := by
  obtain ⟨a, b, rfl⟩ := List.append_of_mem hi
  rw [List.foldl_append, List.foldl_cons]
  have ha : pickSpare w (a.foldl (pickSpare w) none) i = some (i, w i) := by
    rcases pickSpare_mem w a with h | ⟨j, hj, h⟩
    · rw [h]; rfl
    · have hji : j < i := (List.pairwise_append.1 hs).2.2 j hj i (List.mem_cons_self ..)
      have := hb j (by simp [hj]) (by omega)
      rw [h]
      exact if_pos (by omega)
  rw [ha]
  refine foldl_inv (p := fun x => x = some (i, w i)) b _ rfl fun x j hj hx => ?_
  have hij : i < j := List.rel_of_pairwise_cons (List.pairwise_append.1 hs).2.1 hj
  have := hb j (by simp [hj]) (by omega)
  rw [hx]
  exact if_neg (by omega)

theorem chooseSpare_best {s : State} {home : Cl} {i : Nat} (hd : i / 768 = dieOf home) (hst : s.coreState i = 1) (hb : (s.phy i).busy = false)
    (h : ∀ j, j / 768 = dieOf home → j ≠ i → s.coreState j = 1 → (s.phy j).busy = false →
      sparePreference home (Fin.ofNat 256 (i / 12)) < sparePreference home (Fin.ofNat 256 (j / 12)) ∨
      sparePreference home (Fin.ofNat 256 (i / 12)) = sparePreference home (Fin.ofNat 256 (j / 12)) ∧ i < j) : s.chooseSpare home = some i := by
  rw [chooseSpare_eq, pickSpare_best (i := i) (spares_sorted s _) (mem_spares.2 ⟨hd, hst, hb⟩)]
  · rfl
  · intro j hj hne
    obtain ⟨h1, h2, h3⟩ := mem_spares.1 hj
    exact h j h1 hne h2 h3

/-- A die without a spare offers none. -/
theorem chooseSpare_none {s : State} {home : Cl} (h : s.sparesOf (dieOf home) = 0) : s.chooseSpare home = none := by
  have hn : s.spares (dieOf home) = [] := by
    refine List.eq_nil_iff_forall_not_mem.2 fun i hi => ?_
    obtain ⟨h1, h2, -⟩ := mem_spares.1 hi
    unfold State.sparesOf at h
    rw [List.length_eq_zero_iff, List.filter_eq_nil_iff] at h
    refine h (i % 768) (List.mem_range.2 (by omega)) ?_
    rw [decide_eq_true_eq, show 768 * dieOf home + i % 768 = i by omega]
    exact h2
  rw [chooseSpare_eq, hn]
  rfl

/-! ### A spare takes a logical name (R193, R195) -/

/-- The core-map entry of a spare that serves a name. -/
def nameEntry (home : Cl) (c : Cn) : BitVec 16 := BitVec.ofNat 16 (4 * 8192 + xOf home * 128 + yOf home * 16 + c.val)

theorem clAt_coords (cl : Cl) : clAt (dieOf cl) (xOf cl) (yOf cl) = cl := by
  refine Fin.ext ?_
  unfold clAt dieOf xOf yOf
  have := cl.isLt
  rw [Fin.val_ofNat]
  omega

/-- The fields of a core-map entry that names (x, y, c). -/
theorem nameBits {x y c : Nat} (hx : x < 8) (hy : y < 8) (hc : c < 16) : bits 9 7 (4 * 8192 + x * 128 + y * 16 + c) = x ∧
    bits 6 4 (4 * 8192 + x * 128 + y * 16 + c) = y ∧ bits 3 0 (4 * 8192 + x * 128 + y * 16 + c) = c := by
  unfold bits
  omega

theorem nameEntry_spec {i : Nat} {home : Cl} (c : Cn) (hd : i / 768 = dieOf home) :
    mapState (nameEntry home c) = 4 ∧ servedName i (nameEntry home c) = (home, c) := by
  have hx : xOf home < 8 := by unfold xOf; omega
  have hy : yOf home < 8 := by unfold yOf; omega
  have hc := c.isLt
  have ht : (nameEntry home c).toNat = 4 * 8192 + xOf home * 128 + yOf home * 16 + c.val := by
    unfold nameEntry
    rw [BitVec.toNat_ofNat]
    omega
  have hm : mapState (nameEntry home c) = 4 := by
    unfold mapState
    omega
  obtain ⟨b1, b2, b3⟩ := nameBits hx hy (show c.val < 16 by omega)
  refine ⟨hm, ?_⟩
  unfold servedName
  rw [if_pos hm, ht, hd, b1, b2, b3, clAt_coords]
  exact Prod.ext rfl (Fin.ext (Nat.mod_eq_of_lt hc))

/-- What a spare that takes a name leaves: its map entry, the core's tile store, the requests for a remap, and its island powered. -/
theorem giveSpare_spec (s : State) (i : Nat) (home : Cl) (c : Cn) :
    (∀ j, (s.giveSpare i home c).mapEntry j = if j = i then nameEntry home c else s.mapEntry j) ∧
    ((s.giveSpare i home c).core home c).ts = Mem.empty ∧ ((s.giveSpare i home c).core home c).regs = (s.core home c).regs ∧
    (s.giveSpare i home c).fabric.remapDue = s.fabric.remapDue.filter (fun k => k ≠ coreKey home c) ∧
    ((s.clu (Fin.ofNat 256 (i / 12))).isl = .gated → ((s.giveSpare i home c).clu (Fin.ofNat 256 (i / 12))).isl = .running) ∧
    (s.giveSpare i home c).dram = s.dram ∧ (s.giveSpare i home c).fabric.mapGen = s.fabric.mapGen ∧
    (s.giveSpare i home c).counters = s.counters ∧ (s.giveSpare i home c).parts = s.parts ∧
    (s.giveSpare i home c).fabric.remapped = s.fabric.remapped := by
  unfold State.giveSpare
  dsimp only
  generalize hu : State.setCore _ home c _ = u
  have h1 : ∀ j, u.mapEntry j = if j = i then nameEntry home c else s.mapEntry j := fun j => by rw [← hu, State.mapEntry, State.setCore_fabric]; exact look_put ..
  have h2 : u.core home c = { s.core home c with ts := Mem.empty, bankConf := 0, reuseHits := 0 } := by rw [← hu]; exact State.core_setCore ..
  have h3 : u = { s with cores := u.cores, fabric := u.fabric } := by rw [← hu]; rfl
  have h4 : u.fabric = { s.fabric with coreMap := u.fabric.coreMap, remapDue := s.fabric.remapDue.filter fun k => k ≠ coreKey home c } := by rw [← hu]; rfl
  have hc : u.clusters = s.clusters := by rw [h3]
  split
  · refine ⟨h1, (congrArg Core.ts h2 :), (congrArg Core.regs h2 :), (congrArg Fabric.remapDue h4 :), fun _ => by rw [State.clu_setClu], ?_,
      (congrArg Fabric.mapGen h4 :), ?_, ?_, (congrArg Fabric.remapped h4 :)⟩ <;> (rw [h3]; rfl)
  · next hg =>
    refine ⟨h1, (congrArg Core.ts h2 :), (congrArg Core.regs h2 :), (congrArg Fabric.remapDue h4 :), fun h => absurd ?_ hg, ?_,
      (congrArg Fabric.mapGen h4 :), ?_, ?_, (congrArg Fabric.remapped h4 :)⟩
    · rw [State.clu, hc]; exact h
    all_goals rw [h3]

end Sys2Proof.Machine

namespace Sys2Proof.Machine

open Sys2Proof

/-! ### COPPICE_REMAP and REMAP_REESTABLISH (R193, R195, R197) -/

section
variable {s : State} {cl : Cl} {c : Cn}

/-- A remap gives the name to the spare that is chosen. -/
theorem coppiceRemap_spare (hk : coreKey cl c ∈ s.fabric.remapDue) {i : Nat} (hi : s.chooseSpare cl = some i) (hd : i / 768 = dieOf cl) :
    Done (.coppiceRemap cl c) s fun t => mapState (t.mapEntry i) = 4 ∧ servedName i (t.mapEntry i) = (cl, c) ∧
      (∀ j, j ≠ i → t.mapEntry j = s.mapEntry j) ∧ (t.core cl c).ts = Mem.empty ∧ (t.core cl c).regs = (s.core cl c).regs ∧
      coreKey cl c ∉ t.fabric.remapDue ∧ ((s.clu (Fin.ofNat 256 (i / 12))).isl = .gated → (t.clu (Fin.ofNat 256 (i / 12))).isl = .running) ∧
      t.dram = s.dram ∧ t.fabric.mapGen = s.fabric.mapGen ∧ ((∀ p < 16, (s.part p).releaseDue = false) → t.counters = s.counters) := by
  have hx : exec (.coppiceRemap cl c) s = .next (((s.giveSpare i cl c).logCore (coreKey cl c) 2).refresh cl).heldSteps := by
    show execCoppiceRemap cl c s = _
    unfold execCoppiceRemap
    simp [hk, hi]
  obtain ⟨g1, g2, g3, g4, g5, g6, g7, g8, g9, -⟩ := giveSpare_spec s i cl c
  refine ⟨_, hx, ?_⟩
  generalize s.giveSpare i cl c = u at *
  have hv := refresh_only (u.logCore (coreKey cl c) 2) cl
  generalize (u.logCore (coreKey cl c) 2).refresh cl = v at *
  have hcore : v.core cl c = u.core cl c := by rw [hv]; rfl
  have hpart : v.part = s.part := by unfold State.part; rw [hv]; exact congrArg (fun m p => look Part.init m p) g9
  have hh := heldSteps_only v
  have hc := heldSteps_core v cl c
  have hidle : (∀ p < 16, (s.part p).releaseDue = false) → v.heldSteps = v := fun h => heldSteps_idle (by rw [hpart]; exact h)
  rw [hcore] at hc
  generalize v.heldSteps = x at *
  have hfab : x.fabric = u.fabric := by rw [hh, hv]; rfl
  have hmap : x.mapEntry = u.mapEntry := by unfold State.mapEntry; rw [hfab]
  obtain ⟨n1, n2⟩ := nameEntry_spec c hd
  refine ⟨?_, ?_, fun j hj => ?_, (congrArg Core.ts hc :).trans g2, (congrArg Core.regs hc :).trans g3, ?_, fun hg => ?_, ?_, ?_, fun h => ?_⟩
  · rw [hmap, g1, if_pos rfl, n1]
  · rw [hmap, g1, if_pos rfl, n2]
  · rw [hmap, g1, if_neg hj]
  · rw [hfab, g4]
    simp
  · have hclu : x.clu = u.clu := by unfold State.clu; rw [hh, hv]; rfl
    rw [hclu]
    exact g5 hg
  · rw [hh, hv]
    exact g6
  · rw [hfab, g7]
  · rw [hidle h, hv]
    exact g8

/-- A remap on a die without a spare lowers the enabled count (R198). -/
theorem coppiceRemap_none (hk : coreKey cl c ∈ s.fabric.remapDue) (hs : s.sparesOf (dieOf cl) = 0) :
    Done (.coppiceRemap cl c) s fun t => t.fabric.coreMap = s.fabric.coreMap ∧
      t.fabric.mapGen = s.fabric.mapGen + 1 ∧ t.fabric.gradeNow = 0x44 ∧ coreKey cl c ∉ t.fabric.remapDue ∧
      t.clusters = s.clusters ∧ t.dram = s.dram ∧ ((∀ p < 16, (s.part p).releaseDue = false) → t.cores = s.cores ∧ t.counters = s.counters) := by
  have hx : exec (.coppiceRemap cl c) s = .next (((({ s with
      fabric := { s.fabric with remapDue := s.fabric.remapDue.filter fun x => x ≠ coreKey cl c } } : State).degrade cl c.val).logCore (coreKey cl c) 3).heldSteps) := by
    show execCoppiceRemap cl c s = _
    unfold execCoppiceRemap
    simp [hk, chooseSpare_none hs, hs]
  refine ⟨_, hx, ?_⟩
  obtain ⟨h1, h2, h3, hf, h4, -, h5⟩ :=
    degrade_spec { s with fabric := { s.fabric with remapDue := s.fabric.remapDue.filter fun x => x ≠ coreKey cl c } } cl c.val
  generalize State.degrade _ cl c.val = u at *
  have hh := heldSteps_only (u.logCore (coreKey cl c) 3)
  have hidle : (∀ p < 16, (s.part p).releaseDue = false) → (u.logCore (coreKey cl c) 3).heldSteps = u.logCore (coreKey cl c) 3 :=
    fun h => heldSteps_idle (by unfold State.part at h ⊢; rw [logCore_parts, h5]; exact h)
  generalize (u.logCore (coreKey cl c) 3).heldSteps = x at *
  have hfab : x.fabric = u.fabric := by rw [hh]; rfl
  rw [hfab, hf]
  refine ⟨rfl, rfl, rfl, by simp, ?_, ?_, fun h => ?_⟩
  · rw [hh]
    exact h2
  · rw [hh]
    exact h4
  · rw [hidle h]
    exact ⟨h1, h3⟩

end

/-- A retired core's name goes to the spare that is chosen; without one the grade is degraded. -/
def State.reestablish (s : State) (r : Nat) : State :=
  match s.chooseSpare (Fin.ofNat 256 (r / 12)) with
  | some j => s.giveSpare j (Fin.ofNat 256 (r / 12)) (Fin.ofNat 12 (r % 12))
  | none => { s with fabric := { s.fabric with gradeNow := 0x44 } }

/-- The retired cores of a die that the fused map enables, in ascending order. -/
def State.retiredOf (s : State) (d : Nat) : List Nat :=
  ((List.range 768).map fun k => 768 * d + k).filter fun i => decide (s.coreState i = 3) && decide (mapState (look 0 s.fw.fuses.coreMap i) = 0)

theorem mem_retiredOf {s : State} {d i : Nat} :
    i ∈ s.retiredOf d ↔ i / 768 = d ∧ s.coreState i = 3 ∧ mapState (look 0 s.fw.fuses.coreMap i) = 0 := by
  simp only [State.retiredOf, List.mem_filter, List.mem_map, List.mem_range, Bool.and_eq_true, decide_eq_true_eq]
  refine and_congr_left' ⟨?_, fun h => ⟨i % 768, by omega, by omega⟩⟩
  rintro ⟨k, hk, rfl⟩
  omega

theorem retiredOf_nodup (s : State) (d : Nat) : (s.retiredOf d).Nodup :=
  ((List.nodup_range (n := 768)).map fun _ _ h => Nat.add_left_cancel h).filter _

/-- Marks the remaps of a die as re-established. -/
def State.markRemapped (s : State) (d : Nat) : State :=
  { s with fabric := { s.fabric with remapped := s.fabric.remapped ||| BitVec.ofNat 4 (2 ^ d) } }

theorem remapped_markRemapped (s : State) (d : Dn) : (s.markRemapped d.val).fabric.remapped.getLsbD d.val = true := by
  have h : ∀ d : Dn, (BitVec.ofNat 4 (2 ^ d.val)).getLsbD d.val = true := by decide
  show (s.fabric.remapped ||| BitVec.ofNat 4 (2 ^ d.val)).getLsbD d.val = true
  rw [BitVec.getLsbD_or, h, Bool.or_true]

theorem parts_reestablish (s : State) (r : Nat) : (s.reestablish r).parts = s.parts := by
  unfold State.reestablish
  split
  · obtain ⟨-, -, -, -, -, -, -, -, h, -⟩ := giveSpare_spec s _ (Fin.ofNat 256 (r / 12)) (Fin.ofNat 12 (r % 12))
    exact h
  · rfl

/-- Behind the last remap of a die: it is marked, and the starts that waited for the remaps go on (R197). -/
def afterRemaps (d : Nat) (s : State) : State :=
  if (s.markRemapped d).remapsDone then (List.range 16).foldl (fun s p => if (s.part p).startReq then s.startRun p else s) (s.markRemapped d)
  else s.markRemapped d

/-- The remaps of a released die whose spares have been tested, where no start waits. -/
theorem remapReestablish_eq {s : State} {d : Dn} (hm : s.fabric.remapped.getLsbD d.val = false) (hr : s.dieReleased d.val = true)
    (hb : ∀ i, i / 768 = d.val → s.coreState i = 1 → (s.phy i).busy = false) (hs : ∀ p, p < 16 → (s.part p).startReq = false) :
    exec (.remapReestablish d) s = .next (((s.retiredOf d.val).foldl State.reestablish s).markRemapped d.val) := by
  have hany : (((List.range 768).map fun k => 768 * d.val + k).any fun i => decide (s.coreState i = 1) && (s.phy i).busy) = false := by
    refine List.any_eq_false.2 fun i hi => ?_
    obtain ⟨k, hk, rfl⟩ := List.mem_map.1 hi
    rw [List.mem_range] at hk
    by_cases h1 : s.coreState (768 * d.val + k) = 1
    · simp [hb _ (by omega) h1]
    · simp [h1]
  have hp : ((s.retiredOf d.val).foldl State.reestablish s).parts = s.parts := foldl_proj (g := State.parts) _ s parts_reestablish
  have hx : execRemapReestablish d s = .next (afterRemaps d.val ((s.retiredOf d.val).foldl State.reestablish s)) := by
    unfold execRemapReestablish
    refine congrArg Host.Outcome.next ((if_neg ?_).trans ?_)
    · rw [hm, hr, hany]
      decide
    refine congrArg (afterRemaps d.val) (List.foldl_ext _ _ s fun u i _ => ?_)
    dsimp only
    unfold State.reestablish
    generalize u.chooseSpare _ = o
    cases o <;> rfl
  refine hx.trans (congrArg _ ?_)
  generalize (s.retiredOf d.val).foldl State.reestablish s = u at *
  unfold afterRemaps
  split
  · refine foldl_inv (p := fun x => x = u.markRemapped d.val) _ _ rfl fun x p hp' hx => ?_
    subst hx
    have : (u.markRemapped d.val).part p = s.part p := congrArg (look Part.init · p) hp
    rw [this, hs p (List.mem_range.1 hp')]
    rfl
  · rfl

/-- The one retired core of a die. -/
theorem retiredOf_one {s : State} {d r : Nat} (hd : r / 768 = d) (hst : s.coreState r = 3) (hf : mapState (look 0 s.fw.fuses.coreMap r) = 0)
    (ho : ∀ i, i / 768 = d → i ≠ r → s.coreState i ≠ 3) : s.retiredOf d = [r] := by
  refine List.perm_singleton.1 ((List.perm_ext_iff_of_nodup (retiredOf_nodup s d) (List.nodup_singleton r)).2 fun i => ?_)
  rw [mem_retiredOf, List.mem_singleton]
  refine ⟨fun ⟨h1, h2, _⟩ => ?_, fun h => by rw [h]; exact ⟨hd, hst, hf⟩⟩
  by_contra hne
  exact ho i h1 hne h2

end Sys2Proof.Machine

namespace Sys2Proof.Machine

open Sys2Proof

/-! ### The clauses of a self-test (R44, R46, R195) -/

section
variable {s : State} {cl : Cl} {c : Cn} {home : Cl} {name : Cn}

/-- When the test of a core falls due after its last start, or c/12 of an interval after the start of the run (R46). -/
def State.testDueAt (s : State) (i : Nat) (home : Cl) (name : Cn) : Nat :=
  if (s.part (s.clPart home)).startAt ≤ (s.phy i).prevStart ∧ (s.phy i).prevStart ≠ 0 then (s.phy i).prevStart + s.testInterval (s.clPart home)
  else (s.part (s.clPart home)).startAt + name.val * s.testInterval (s.clPart home) / 12

theorem testDueAt_eq {i due : Nat} (h : (s.phy i).prevStart = 0 ∧ due = (s.part (s.clPart home)).startAt + name.val * (s.obj 0x3024 (s.clPart home + 1) * 1000) / 12 ∨
    (s.part (s.clPart home)).startAt ≤ (s.phy i).prevStart ∧ (s.phy i).prevStart ≠ 0 ∧
      due = (s.phy i).prevStart + s.obj 0x3024 (s.clPart home + 1) * 1000) : s.testDueAt i home name = due := by
  unfold State.testDueAt State.testInterval
  rcases h with ⟨h0, rfl⟩ | ⟨h1, h2, rfl⟩
  · exact if_neg fun h => h.2 h0
  · exact if_pos ⟨h1, h2⟩

/-- SELFTEST_DUE marks the test of an enabled core of a running partition once it is due, and not before. -/
theorem selftestDue_eq (hn : servedName (coreKey cl c) (s.mapEntry (coreKey cl c)) = (home, name)) (hst : s.coreState (coreKey cl c) = 0 ∨ s.coreState (coreKey cl c) = 4)
    (hp : s.clPart home < 16) (hr : (s.part (s.clPart home)).run = .running) (ht : (s.phy (coreKey cl c)).testing = false) :
    exec (.selftestDue cl c) s = .next (if s.testDueAt (coreKey cl c) home name ≤ s.now then
      s.setPhy (coreKey cl c) { s.phy (coreKey cl c) with testDue := true } else s) := by
  show execSelftestDue cl c s = _
  unfold execSelftestDue
  simp only [hn, hp, hr, hst, ht, true_and, Bool.not_false]
  rfl

/-- SELFTEST_START starts a test that is due in a core that holds no task, and leaves a core with a task alone. -/
theorem selftestStart_eq (hn : servedName (coreKey cl c) (s.mapEntry (coreKey cl c)) = (home, name)) (hst : s.coreState (coreKey cl c) = 0 ∨ s.coreState (coreKey cl c) = 4)
    (hd : (s.phy (coreKey cl c)).testDue = true) (ht : (s.phy (coreKey cl c)).testing = false) (hi : (s.clu cl).isl = .running) :
    exec (.selftestStart cl c) s = .next (if (s.core home name).task = none ∧ (s.core home name).phase = .free then
      { s.setPhy (coreKey cl c) { s.phy (coreKey cl c) with testDue := false, testing := true, testEnergy := 0, prevStart := s.now } with
        fabric := { (s.setPhy (coreKey cl c) { s.phy (coreKey cl c) with testDue := false, testing := true, testEnergy := 0, prevStart := s.now }).fabric with
          selftestRuns := sat32 s.fabric.selftestRuns 1 } }
      else s) := by
  have hsp : ¬ s.coreState (coreKey cl c) = 1 := by omega
  show execSelftestStart cl c s = _
  unfold execSelftestStart
  simp only [hn, hsp, hst, hd, ht, hi, false_or, true_and, and_true, Bool.not_false, Option.isNone_iff_eq_none]
  rfl

/-- A spare that fails its test is set to STATE 2. -/
theorem spareFails (hst : s.coreState (coreKey cl c) = 1) (ht : (s.phy (coreKey cl c)).testing = true) {f : BadCell}
    (hr : f.row ≠ rowSkip (s.phy (coreKey cl c)).repair) (hc : f.col ≠ colSkip (s.phy (coreKey cl c)).repair) :
    Done (.selftestEnd cl c [f] false) s fun t => t.coreState (coreKey cl c) = 2 ∧ t.cores = s.cores ∧ t.accts = s.accts ∧ t.dram = s.dram := by
  have hf : ([f].filter fun f => decide (f.row ≠ rowSkip (s.phy (coreKey cl c)).repair ∧ f.col ≠ colSkip (s.phy (coreKey cl c)).repair)) = [f] :=
    List.filter_eq_self.2 fun g hg => by rw [List.mem_singleton.1 hg]; simp [hr, hc]
  refine ⟨_, rfl, ?_⟩
  simp only [ht, hst, hf, Bool.not_true, Bool.false_eq_true, if_false, if_true, reduceCtorEq, false_and]
  refine ⟨?_, rfl, rfl, rfl⟩
  unfold State.coreState State.setMapState
  rw [State.mapEntry_setMapEntry]
  decide

/-- A fuse that reads back takes effect, and the test runs again (R44). -/
theorem fuseProgrammed {col : Bool} {idx : Nat} (hw : (s.phy (coreKey cl c)).fuseWait = some (col, idx)) :
    Done (.ifrFuseProgrammed cl c true) s fun t => (t.phy (coreKey cl c)).repair = repaired (s.phy (coreKey cl c)).repair col idx ∧
      (t.phy (coreKey cl c)).testDue = true ∧ (t.phy (coreKey cl c)).fuseWait = none ∧ t.cores = s.cores ∧
      look Phys.init.repair t.fw.fuses.repair (coreKey cl c) = (t.phy (coreKey cl c)).repair := by
  refine ⟨_, rfl, ?_⟩
  simp only [hw, if_true]
  generalize hu : State.logCore _ _ _ = u
  have hp : u.phy (coreKey cl c) = { s.phy (coreKey cl c) with
      repair := repaired (s.phy (coreKey cl c)).repair col idx, fuseWait := none, testDue := true } := by
    rw [← hu, State.phy, logCore_fabric]
    exact look_put_same ..
  have hf : look Phys.init.repair u.fw.fuses.repair (coreKey cl c) = repaired (s.phy (coreKey cl c)).repair col idx := by
    rw [← hu, logCore_fw]
    exact look_put_same ..
  rw [hp, hf]
  refine ⟨rfl, rfl, rfl, ?_, rfl⟩
  rw [← hu, logCore_cores]
  rfl

/-- A fuse that does not read back: the core is to retire. -/
theorem fuseFailed {r : Bool × Nat} (hw : (s.phy (coreKey cl c)).fuseWait = some r) :
    Done (.ifrFuseProgrammed cl c false) s fun t => (t.phy (coreKey cl c)).retireDue = true ∧ (t.phy (coreKey cl c)).fuseWait = none ∧
      (t.phy (coreKey cl c)).repair = (s.phy (coreKey cl c)).repair ∧ t.cores = s.cores := by
  refine ⟨_, rfl, ?_⟩
  simp only [hw, Bool.false_eq_true, if_false]
  rw [State.phy_setPhy]
  exact ⟨rfl, rfl, rfl, rfl⟩

end

end Sys2Proof.Machine

namespace Sys2Proof.Machine

open Sys2Proof

/-! ### The remaps of a die behind a reset (R193, R197) -/

section
variable {s : State} {d : Dn} {r : Nat}

theorem dieOf_coreCluster (hd : r / 768 = d.val) : dieOf (Fin.ofNat 256 (r / 12)) = d.val := by
  have := d.isLt
  unfold dieOf
  rw [Fin.val_ofNat]
  omega

theorem reestablish_none (hd : r / 768 = d.val) (hs : s.sparesOf d.val = 0) :
    s.reestablish r = { s with fabric := { s.fabric with gradeNow := 0x44 } } := by
  unfold State.reestablish
  rw [chooseSpare_none (by rw [dieOf_coreCluster hd]; exact hs)]

/-- The one spare of a die takes the name of its one retired core. -/
theorem reestablish_spare (hd : r / 768 = d.val) {i : Nat} (hi : i / 768 = d.val) (hst : s.coreState i = 1) (hb : (s.phy i).busy = false)
    (ho : ∀ j, j / 768 = d.val → j ≠ i → s.coreState j ≠ 1) :
    s.reestablish r = s.giveSpare i (Fin.ofNat 256 (r / 12)) (Fin.ofNat 12 (r % 12)) := by
  have hdie := dieOf_coreCluster hd
  unfold State.reestablish
  rw [chooseSpare_best (by rw [hdie]; exact hi) hst hb fun j hj hne h1 _ => absurd h1 (ho j (by rw [← hdie]; exact hj) hne)]

/-- Without a retired core the die is marked and nothing else changes. -/
theorem remapReestablish_intact (hm : s.fabric.remapped.getLsbD d.val = false) (hr : s.dieReleased d.val = true)
    (hb : ∀ i, i / 768 = d.val → s.coreState i = 1 → (s.phy i).busy = false) (hs : ∀ p, p < 16 → (s.part p).startReq = false)
    (hn : ∀ i, i / 768 = d.val → s.coreState i ≠ 3) : exec (.remapReestablish d) s = .next (s.markRemapped d.val) := by
  rw [remapReestablish_eq hm hr hb hs, show s.retiredOf d.val = [] from List.eq_nil_iff_forall_not_mem.2 fun i hi => ?_]
  · rfl
  · obtain ⟨h1, h2, -⟩ := mem_retiredOf.1 hi
    exact hn i h1 h2

/-- With one retired core its name is given anew, and the die is marked. -/
theorem remapReestablish_one (hm : s.fabric.remapped.getLsbD d.val = false) (hr : s.dieReleased d.val = true)
    (hb : ∀ i, i / 768 = d.val → s.coreState i = 1 → (s.phy i).busy = false) (hs : ∀ p, p < 16 → (s.part p).startReq = false)
    (hd : r / 768 = d.val) (hst : s.coreState r = 3) (hf : mapState (look 0 s.fw.fuses.coreMap r) = 0)
    (ho : ∀ i, i / 768 = d.val → i ≠ r → s.coreState i ≠ 3) :
    exec (.remapReestablish d) s = .next ((s.reestablish r).markRemapped d.val) := by
  rw [remapReestablish_eq hm hr hb hs, retiredOf_one hd hst hf ho, List.foldl_cons, List.foldl_nil]

end

/-! ### The islands (R46, R184, R196) -/

section
variable {s : State} {cl : Cl}

/-- The spares of a cluster whose test is due. -/
def State.spareDue (s : State) (cl : Cl) : List Nat :=
  ((List.range 12).map fun c => 12 * cl.val + c).filter fun i =>
    decide (s.coreState i = 1) && !(s.phy i).testing && decide ((s.phy i).prevStart + 600000000 ≤ s.now)

theorem mem_spareDue {k : Cn} : coreKey cl k ∈ s.spareDue cl ↔ s.coreState (coreKey cl k) = 1 ∧ (s.phy (coreKey cl k)).testing = false ∧
    (s.phy (coreKey cl k)).prevStart + 600000000 ≤ s.now := by
  have h : coreKey cl k ∈ (List.range 12).map fun c => 12 * cl.val + c :=
    List.mem_map.2 ⟨k.val, List.mem_range.2 k.isLt, by unfold coreKey; omega⟩
  unfold State.spareDue
  rw [List.mem_filter]
  simp only [h, true_and, Bool.and_eq_true, decide_eq_true_eq, Bool.not_eq_true', and_assoc]

/-- The island runs for the tests of its spares, which are marked as due. -/
theorem spareTestsDue (hk : ∃ k : Cn, s.coreState (coreKey cl k) = 1 ∧ (s.phy (coreKey cl k)).testing = false ∧ (s.phy (coreKey cl k)).prevStart + 600000000 ≤ s.now)
    (hi : (s.clu cl).isl = .running ∨ (s.clu cl).isl = .gated) :
    Done (.spareSelftestDue cl) s fun t => (t.clu cl).isl = .running ∧
      (∀ i, t.phy i = if i ∈ s.spareDue cl then { s.phy i with testDue := true } else s.phy i) ∧
      t = { s with clusters := t.clusters, fabric := t.fabric } := by
  obtain ⟨k, hk⟩ := hk
  have hne : ¬ s.spareDue cl = [] := List.ne_nil_of_mem (mem_spareDue.2 hk)
  have hx : exec (.spareSelftestDue cl) s = .next ((s.spareDue cl).foldl (fun s i => s.setPhy i { s.phy i with testDue := true })
      (s.setClu cl { s.clu cl with isl := .running })) := by
    refine congrArg Host.Outcome.next (if_neg ?_)
    rintro (h | h)
    · exact hne h
    · exact h hi
  refine ⟨_, hx, ?_⟩
  obtain ⟨h1, h2⟩ := foldl_markDue (fun _ _ => True) (fun _ _ _ _ => Iff.rfl) (s.spareDue cl) (s.setClu cl { s.clu cl with isl := .running })
  simp only [if_true, and_true] at h1 h2
  generalize List.foldl _ _ _ = t at *
  refine ⟨?_, h1, ?_⟩
  · have hc : t.clu cl = (s.setClu cl { s.clu cl with isl := .running }).clu cl := congrArg (look Cluster.init · cl.val) (congrArg State.clusters h2 :)
    rw [hc, State.clu_setClu]
  · rw [h2]
    rfl

theorem mem_of_find {α : Type} {m : SMap α} {k : Nat} {v : α} (h : find m k = some v) : ∃ j, (j, v) ∈ m := by
  induction m with
  | nil => cases h
  | cons e t ih =>
    obtain ⟨j, w⟩ := e
    unfold find at h
    split at h
    · cases h
      exact ⟨j, List.mem_cons_self ..⟩
    · obtain ⟨i, hi⟩ := ih h
      exact ⟨i, List.mem_cons_of_mem _ hi⟩

/-- A cache without a dirty line writes nothing back. -/
theorem writeBack_clean (h : ∀ e ∈ (s.clu cl).cache.lines, e.2.dirty = false) (l : Nat) : s.writeBack cl l = s := by
  have hd : (s.clu cl).cache.isDirty l = false := by
    unfold Cache.isDirty Cache.line
    split
    · next e he =>
      obtain ⟨j, hj⟩ := mem_of_find he
      exact h _ hj
    · rfl
  unfold State.writeBack
  rw [hd]
  rfl

theorem landWrites_nil (h : s.dram.wq = []) (p : WReq → Bool) : s.landWrites p = s := by
  have hd : ({ s.dram with wq := [] } : DramSt) = s.dram := by rw [← h]
  unfold State.landWrites
  rw [h]
  simp only [List.filter_nil, List.foldl_nil]
  rw [hd]

/-- An emptied cache holds no line and no byte; clean and with no write on its way, it leaves DRAM alone. -/
theorem emptyCache_spec (s : State) (cl : Cl) : ((s.emptyCache cl).clu cl).cache.lines = [] ∧ ((s.emptyCache cl).clu cl).cache.mem = Mem.empty ∧
    ((∀ e ∈ (s.clu cl).cache.lines, e.2.dirty = false) → s.dram.wq = [] → (s.emptyCache cl).dram = s.dram) := by
  unfold State.emptyCache
  dsimp only
  rw [State.clu_setClu]
  refine ⟨rfl, rfl, fun hc hw => ?_⟩
  rw [landWrites_nil hw]
  have hf : (s.clu cl).cache.lines.foldl (fun s e => s.writeBack cl e.1) s = s :=
    foldl_inv (p := fun u : State => u = s) _ s rfl fun u e _ hu => by rw [hu]; exact writeBack_clean hc e.1
  rw [hf]
  rfl

/-- An idle island that no partition owns is gated with its cache empty (R184). -/
theorem islandGated (hr : (s.clu cl).isl = .running) (hp : s.clPart cl = 0xFF) (hi : s.clusterIdle cl = true) :
    Done (.clusterPowerGate cl) s fun t => (t.clu cl).isl = .gated ∧ (t.clu cl).cache.lines = [] ∧ (t.clu cl).cache.mem = Mem.empty ∧ OnlyMemory s t ∧
      ((∀ e ∈ (s.clu cl).cache.lines, e.2.dirty = false) → s.dram.wq = [] → t.dram = s.dram) := by
  obtain ⟨h1, h2, h3⟩ := emptyCache_spec s cl
  refine ⟨_, congrArg Host.Outcome.next (if_pos ⟨hr, hp, hi⟩), ?_⟩
  dsimp only
  rw [State.clu_setClu]
  exact ⟨rfl, h1, h2, (emptyCache_only s cl).trans (.setClu ..), h3⟩

end

end Sys2Proof.Machine

namespace Sys2Proof.Machine

open Sys2Proof

section
variable {s : State} {d : Dn} {r : Nat}

/-- A retired core whose die has no spare: the grade is degraded (R198). -/
theorem remapReestablish_degrades (hm : s.fabric.remapped.getLsbD d.val = false) (hr : s.dieReleased d.val = true)
    (hb : ∀ i, i / 768 = d.val → s.coreState i = 1 → (s.phy i).busy = false) (hs : ∀ p, p < 16 → (s.part p).startReq = false)
    (hd : r / 768 = d.val) (hst : s.coreState r = 3) (hf : mapState (look 0 s.fw.fuses.coreMap r) = 0)
    (ho : ∀ i, i / 768 = d.val → i ≠ r → s.coreState i ≠ 3) (h0 : s.sparesOf d.val = 0) :
    Done (.remapReestablish d) s fun t => t.fabric.gradeNow = 0x44 ∧ t.fabric.coreMap = s.fabric.coreMap ∧
      t.fabric.remapped.getLsbD d.val = true ∧ t.cores = s.cores := by
  refine ⟨_, remapReestablish_one hm hr hb hs hd hst hf ho, ?_⟩
  rw [reestablish_none hd h0]
  exact ⟨rfl, rfl, remapped_markRemapped _ d, rfl⟩

/-- A retired core whose die has one spare: the spare serves its name (R193, R197). -/
theorem remapReestablish_names (hm : s.fabric.remapped.getLsbD d.val = false) (hr : s.dieReleased d.val = true)
    (hb : ∀ i, i / 768 = d.val → s.coreState i = 1 → (s.phy i).busy = false) (hs : ∀ p, p < 16 → (s.part p).startReq = false)
    (hd : r / 768 = d.val) (hst : s.coreState r = 3) (hf : mapState (look 0 s.fw.fuses.coreMap r) = 0)
    (ho : ∀ i, i / 768 = d.val → i ≠ r → s.coreState i ≠ 3) {i : Nat} (hi : i / 768 = d.val) (h1 : s.coreState i = 1)
    (hu : ∀ j, j / 768 = d.val → j ≠ i → s.coreState j ≠ 1) :
    Done (.remapReestablish d) s fun t => servedName i (t.mapEntry i) = servedName r 0 ∧ mapState (t.mapEntry i) = 4 ∧
      (∀ j, j ≠ i → t.mapEntry j = s.mapEntry j) ∧ t.fabric.remapped.getLsbD d.val = true ∧ t.fabric.mapGen = s.fabric.mapGen := by
  refine ⟨_, remapReestablish_one hm hr hb hs hd hst hf ho, ?_⟩
  obtain ⟨g1, -, -, -, -, -, g7, -, -, -⟩ := giveSpare_spec s i (Fin.ofNat 256 (r / 12)) (Fin.ofNat 12 (r % 12))
  obtain ⟨n1, n2⟩ := nameEntry_spec (i := i) (home := Fin.ofNat 256 (r / 12)) (Fin.ofNat 12 (r % 12)) (by rw [dieOf_coreCluster hd, hi])
  have hname : servedName r 0 = (Fin.ofNat 256 (r / 12), Fin.ofNat 12 (r % 12)) := if_neg (by decide)
  rw [reestablish_spare hd hi h1 (hb i hi h1) hu]
  generalize s.giveSpare i _ _ = u at *
  have hmap : ∀ j, (u.markRemapped d.val).mapEntry j = u.mapEntry j := fun j => rfl
  simp only [hmap]
  refine ⟨?_, ?_, fun j hj => ?_, remapped_markRemapped u d, g7⟩
  · rw [g1, if_pos rfl, n2, hname]
  · rw [g1, if_pos rfl, n1]
  · rw [g1, if_neg hj]

end

section
variable {s : State} {cl : Cl} {c : Cn} {home : Cl} {name : Cn}

/-- A failing test of an enabled core, with R44's decision by the lines that fail. -/
theorem selftestFails_decides (hn : servedName (coreKey cl c) (s.mapEntry (coreKey cl c)) = (home, name))
    (hst : s.coreState (coreKey cl c) = 0 ∨ s.coreState (coreKey cl c) = 4) (ht : (s.phy (coreKey cl c)).testing = true)
    (f : BadCell) (rest : List BadCell) (more : Bool)
    (hu : ∀ g ∈ f :: rest, g.row ≠ rowSkip (s.phy (coreKey cl c)).repair ∧ g.col ≠ colSkip (s.phy (coreKey cl c)).repair) :
    Done (.selftestEnd cl c (f :: rest) more) s fun t => (t.phy (coreKey cl c)).testing = false ∧
      t.fabric.selftestFails = min (s.fabric.selftestFails + 1) 4294967295 ∧ t.dram = s.dram ∧ t.rings = s.rings ∧
      Event s t (s.clPart home) 0x0C (dieOf home) (unitName home name.val)
        (Config.selftestWords (s.phy (coreKey cl c)).lastPass (s.phy (coreKey cl c)).passStep % 65536)
        (Config.selftestWords (s.phy (coreKey cl c)).lastPass (s.phy (coreKey cl c)).passStep / 65536 % 2 ^ 32) ∧
      (s.clPart home < 16 → (s.part (s.clPart home)).run = .running → coreKey home name ∈ (t.part (s.clPart home)).faults) ∧
      (ifrValid (s.phy (coreKey cl c)).repair = false → (∀ g ∈ rest, g.row = f.row) →
        ((∃ g ∈ rest, g.col ≠ f.col) ∨ testCol (s.phy (coreKey cl c)).repair ≠ 32) →
        (testRow (s.phy (coreKey cl c)).repair = 32 → (s.phy (coreKey cl c)).spareRowSpent = false →
          (t.phy (coreKey cl c)).fuseWait = some (false, f.row)) ∧
        (testRow (s.phy (coreKey cl c)).repair ≠ 32 → (t.phy (coreKey cl c)).retireDue = true)) ∧
      (ifrValid (s.phy (coreKey cl c)).repair = false → (∀ g ∈ rest, g.col = f.col) →
        (testCol (s.phy (coreKey cl c)).repair = 32 → (s.phy (coreKey cl c)).spareColSpent = false →
          (t.phy (coreKey cl c)).fuseWait = some (true, f.col)) ∧
        (testCol (s.phy (coreKey cl c)).repair ≠ 32 → (∃ g ∈ rest, g.row ≠ f.row) → (t.phy (coreKey cl c)).retireDue = true)) ∧
      (ifrValid (s.phy (coreKey cl c)).repair = true ∨ ((∃ g ∈ rest, g.row ≠ f.row) ∧ ∃ g ∈ rest, g.col ≠ f.col) →
        (t.phy (coreKey cl c)).retireDue = true ∧ (t.phy (coreKey cl c)).fuseWait = (s.phy (coreKey cl c)).fuseWait) := by
  obtain ⟨t, hx, hp, hfails, hd, hr, hev, hfault⟩ := selftestFails hn hst ht f rest more hu
  refine ⟨t, hx, ?_, hfails, hd, hr, hev, hfault, ?_⟩
  · rw [hp, Phys.decided_testing]
  rw [hp]
  refine ⟨fun hv hrow hcol => ?_, fun hv hcol => ⟨fun ht' hs => ?_, fun ht' hrow => ?_⟩, fun h => ?_⟩
  · have hc := repairChoice_oneRow (v := { s.phy (coreKey cl c) with testing := false }) hv hrow hcol
    exact ⟨fun h1 h2 => Phys.decided_some (hc.trans (if_pos ⟨h1, h2⟩)), fun h1 => (Phys.decided_none (hc.trans (if_neg fun h => h1 h.1))).1⟩
  · exact Phys.decided_some (repairChoice_oneCol hv hcol ht' hs)
  · exact (Phys.decided_none (repairChoice_oneCol_spent (v := { s.phy (coreKey cl c) with testing := false }) hrow ht')).1
  · exact Phys.decided_none (repairChoice_none h)

end

/-- Settles O36: each clause by the lemma on its command; R44's decision by the lines in which the failing cells lie, the remaps by
the spare that is preferred. -/
theorem selfTestsRemapsAndPowerGating : Obligations.SelfTestsRemapsAndPowerGating := by
  unfold Obligations.SelfTestsRemapsAndPowerGating
  refine ⟨fun s cl c home name hn => ⟨fun hst => ⟨fun due hp hr ht hdue => ?_, fun hd ht hi => ?_,
    fun ht => ⟨selftestPasses hn hst ht, fun f rest more hu => selftestFails_decides hn hst ht f rest more hu⟩, fun h => coreRetires hn hst h⟩,
    fun hst ht f hr hc => spareFails hst ht hr hc, fun col idx hw hidx => ⟨?_, fuseFailed hw⟩⟩,
    fun s cl c => ⟨fun hk => ⟨?_, fun h => coppiceRemap_none hk h⟩, fun d hm hr hb hs => ⟨fun hn => ?_, fun r hd hst hf ho =>
      ⟨fun h0 => remapReestablish_degrades hm hr hb hs hd hst hf ho h0, fun i hi h1 hu => remapReestablish_names hm hr hb hs hd hst hf ho hi h1 hu⟩⟩,
      fun hk hi => ?_, fun hr hp hi => islandGated hr hp hi, fun h => ?_⟩⟩
  · have hx := selftestDue_eq hn hst hp hr ht
    rw [testDueAt_eq hdue] at hx
    refine ⟨fun h => ⟨_, hx.trans (congrArg _ (if_pos h)), State.phy_setPhy .., rfl⟩, fun h => hx.trans (congrArg _ (if_neg (Nat.not_le.2 h)))⟩
  · have hx := selftestStart_eq hn hst hd ht hi
    refine ⟨fun h1 h2 => ⟨_, hx.trans (congrArg _ (if_pos ⟨h1, h2⟩)), ?_⟩, fun h => hx.trans (congrArg _ (if_neg fun h' => h h'.1))⟩
    have hv := State.phy_setPhy s (coreKey cl c) { s.phy (coreKey cl c) with testDue := false, testing := true, testEnergy := 0, prevStart := s.now }
    exact ⟨(congrArg Phys.testing hv :), (congrArg Phys.testDue hv :), (congrArg Phys.prevStart hv :), rfl, rfl⟩
  · obtain ⟨t, hx, hrep, hdue, hwait, hcores, hfuse⟩ := fuseProgrammed hw
    obtain ⟨r1, r2, r3, r4⟩ := repaired_spec (s.phy (coreKey cl c)).repair col hidx
    rw [← hrep] at r1 r2 r3 r4
    exact ⟨t, hx, r1, r2, r3, r4, hdue, hwait, hcores, hfuse⟩
  · rintro i _ hd rfl hst hb hpref
    exact coppiceRemap_spare hk (chooseSpare_best hd hst hb hpref) hd
  · exact ⟨_, remapReestablish_intact hm hr hb hs hn, rfl⟩
  · obtain ⟨t, hx, hisl, hphy, hrest⟩ := spareTestsDue hk hi
    refine ⟨t, hx, hisl, fun k => ⟨fun h => ?_, fun h => ?_⟩, hrest⟩
    · rw [hphy, if_pos (mem_spareDue.2 h)]
    · rw [hphy, if_neg fun h' => h (mem_spareDue.1 h')]
  · exact congrArg Host.Outcome.next (if_neg fun h' => by omega)

end Sys2Proof.Machine

namespace Sys2Proof.Machine

open Sys2Proof

/-! ### Scalar instructions of cores and steward cores (R68, R89) -/

theorem immOk_of_range {i : Int} (h : -2 ^ 31 ≤ i) (h' : i < 2 ^ 31) : immOk i = true := by
  simp only [immOk, Bool.and_eq_true, decide_eq_true_eq]
  omega

theorem firstBad_alu {sd sa : Nat} {b : Src} (hsd : sd < 32) (hsa : sa < 32) (hb : srcOk b = true) :
    firstBad [regOk sd, regOk sa, srcOk b] 0 = none := by simp [firstBad, regOk, hsd, hsa, hb]

/-- A two-operand scalar instruction with operands in range writes f of its operands, and nothing else. -/
theorem done_alu {s : State} {w : At} {i : Instr} {sd sa : Nat} {b : Src} {f : Word → Word → Word}
    (hx : exec i s = .next (s.alu w i sd sa b f)) (hsd : sd < 32) (hsa : sa < 32) (hb : srcOk b = true)
    (h : s.readyFor w i .both = true) : Done i s fun t => Result w s t sd (f (s.reg w sa) (s.src w b)) :=
  done_issue hx h (firstBad_alu hsd hsa hb) (result_spec ..)

/-- Settles O3: every two-operand form is `done_alu` of its function; MOVI and MUL issue by their own operands. -/
theorem scalarResults : Obligations.ScalarResults := by
  unfold Obligations.ScalarResults
  intro s w sd sa sb b imm hsd hsa hsb hb hlo hhi
  refine ⟨fun h => ?movi, done_alu rfl hsd hsa hb, done_alu rfl hsd hsa hb, done_alu rfl hsd hsa hb, done_alu rfl hsd hsa hb,
    done_alu rfl hsd hsa hb, done_alu (f := fun x y => x <<< shamt y) rfl hsd hsa hb, done_alu (f := fun x y => x >>> shamt y) rfl hsd hsa hb,
    done_alu (f := fun x y => x.sshiftRight (shamt y)) rfl hsd hsa hb, fun h => ?mul⟩
  case movi => exact done_issue rfl h (by simp [firstBad, regOk, hsd, immOk_of_range hlo hhi]) (result_spec ..)
  case mul =>
    rw [BitVec.ofNat_mul, BitVec.ofNat_toNat, BitVec.ofNat_toNat, BitVec.setWidth_eq, BitVec.setWidth_eq]
    exact done_issue rfl h (by simp [firstBad, regOk, hsd, hsa, hsb]) (result_spec ..)

end Sys2Proof.Machine

namespace Sys2Proof.Machine

open Sys2Proof

/-! ### Branches, JMP and NOP (R68) -/

/-- A branch goes on where it should: at its target where it is taken, behind itself where it is not. -/
theorem branch_spec (s : State) (w : At) (taken : Bool) (target : Nat) :
    Passed w s (s.branch w taken target) (if taken then some target else none) := by
  unfold State.branch
  split <;> exact advance_spec ..

theorem targetOk_of_lt {target : Nat} (h : target < 2 ^ 48) : targetOk target = true := decide_eq_true h

/-- A comparing branch with operands in range is taken where its comparison holds. -/
theorem done_cmpBranch {s : State} {w : At} {i : Instr} {sa sb target : Nat} {f : Int → Int → Bool} {npc : Option Nat}
    (hx : exec i s = .next (s.cmpBranch w i sa sb target f)) (hsa : sa < 32) (hsb : sb < 32) (ht : target < 2 ^ 48)
    (hn : (if f (s.reg w sa).toInt (s.reg w sb).toInt then some target else none) = npc)
    (h : s.readyFor w i .both = true) : Done i s fun t => Passed w s t npc :=
  done_issue hx h (by simp [firstBad, regOk, hsa, hsb, targetOk_of_lt ht]) (hn ▸ branch_spec ..)

/-- An issue moves a core's clock by the cycles that it takes. -/
theorem cyc_advance {s : State} {w : At} {c : Cn} (hw : w.who = .core c) (npc : Option Nat) (n : Nat) :
    ((s.advance w npc n).core w.cl c).cyc = (s.core w.cl c).cyc + n := by
  unfold State.advance
  simp only [hw, State.core_setCore]

/-! ### Faults (R69, R385) -/

/-- A core's fault aborts the task that it runs and holds its descriptor (R69, R124). -/
theorem coreFault_held {s : State} {cl : Cl} {c : Cn} {key : Nat} {r : TaskRun} (hk : (s.core cl c).task = some key)
    (h : find (s.clu cl).tasks key = some r) (hn : r.ring < 16) (kind ia : Nat) (ws : List Nat) (status : Nat) :
    TaskHeld s (s.coreFault cl c kind ia ws status) cl key r := by
  unfold State.coreFault
  rw [hk]
  exact taskFault_held s cl key kind c.val ia ws status r h hn

theorem stewardFault_stew (s : State) (cl : Cl) (ia : Nat) :
    (s.stewardFault cl ia).stew cl = { s.stew cl with stopped := true, hold := none } := State.stew_setStew ..

theorem instrFault_core {s : State} {w : At} {c : Cn} (hw : w.who = .core c) {i : Instr} {n : Nat} (hi : mnemonicNumber i = some n)
    (pos : Nat) : s.instrFault w i pos = s.coreFault w.cl c 1 w.ia [n, pos] 0 := by
  unfold State.instrFault
  rw [hw, hi]

theorem instrFault_steward {s : State} {w : At} (hw : w.who = .steward) (i : Instr) (pos : Nat) :
    s.instrFault w i pos = s.stewardFault w.cl w.ia := by
  unfold State.instrFault
  rw [hw]

theorem firstBad_alu_dest {sd sa : Nat} (b : Src) (hsd : 32 ≤ sd) : firstBad [regOk sd, regOk sa, srcOk b] 0 = some 0 := by
  simp [firstBad, regOk, Nat.not_lt.2 hsd]

theorem firstBad_alu_left {sd sa : Nat} (b : Src) (hsd : sd < 32) (hsa : 32 ≤ sa) : firstBad [regOk sd, regOk sa, srcOk b] 0 = some 1 := by
  simp [firstBad, regOk, hsd, Nat.not_lt.2 hsa]

/-- A register operand of a two-operand form that is out of range is found at one of the first two positions. -/
theorem firstBad_alu_of_or {sd sa : Nat} (b : Src) (h : 32 ≤ sd ∨ 32 ≤ sa) : ∃ n, firstBad [regOk sd, regOk sa, srcOk b] 0 = some n := by
  rcases Nat.lt_or_ge sd 32 with hd | hd
  · exact ⟨1, firstBad_alu_left b hd (h.resolve_left (Nat.not_le.2 hd))⟩
  · exact ⟨0, firstBad_alu_dest b hd⟩

/-- ADD with a bad operand is an instruction fault at that operand's position. -/
theorem add_bad {s : State} {w : At} {sd sa : Nat} {b : Src} (h : s.readyFor w (.add w sd sa b) .both = true) {n : Nat}
    (hn : firstBad [regOk sd, regOk sa, srcOk b] 0 = some n) :
    exec (.add w sd sa b) s = .next (s.instrFault w (.add w sd sa b) n) :=
  congrArg Host.Outcome.next (issue_bad _ h hn)

/-- Settles O4: each branch by `branch_spec` of its comparison; ADD's faults by where its first bad operand lies. -/
theorem branchesAndOperandFaults : Obligations.BranchesAndOperandFaults := by
  unfold Obligations.BranchesAndOperandFaults
  refine ⟨fun s w sa sb target hsa hsb ht => ⟨?beq, ?bne, ?blt, ?bge, fun h => ?jmp, fun h => ?nop⟩,
    fun s w sd sa b h => ⟨fun c hw hsd => ?dest, fun c hw hsd hsa => ?left, fun c key r hw hbad hk hr hn => ?held, fun hw hbad => ?steward⟩⟩
  case beq => exact done_cmpBranch rfl hsa hsb ht (by simp only [decide_eq_true_eq])
  case bne => exact done_cmpBranch rfl hsa hsb ht (by simp only [decide_eq_true_eq, ne_eq, ite_not])
  case blt => exact done_cmpBranch rfl hsa hsb ht (by simp only [decide_eq_true_eq])
  case bge => exact done_cmpBranch rfl hsa hsb ht (by simp only [decide_eq_true_eq, ge_iff_le, ← not_lt, ite_not])
  case jmp => exact done_issue rfl h (by simp [firstBad, targetOk_of_lt ht]) ⟨branch_spec s w true target, fun c hw => cyc_advance hw ..⟩
  case nop => exact done_issue rfl h rfl ⟨advance_spec .., fun c hw => cyc_advance hw ..⟩
  case dest => rw [add_bad h (firstBad_alu_dest b hsd), instrFault_core hw rfl]
  case left => rw [add_bad h (firstBad_alu_left b hsd hsa), instrFault_core hw rfl]
  case held =>
    obtain ⟨n, hb⟩ := firstBad_alu_of_or b hbad
    refine ⟨_, add_bad h hb, ?_⟩
    rw [instrFault_core hw rfl]
    exact coreFault_held hk hr hn ..
  case steward =>
    obtain ⟨n, hb⟩ := firstBad_alu_of_or b hbad
    refine ⟨_, add_bad h hb, ?_⟩
    beta_reduce
    rw [instrFault_steward hw, stewardFault_stew]
    refine ⟨rfl, rfl, fun n => ?_, fun _ _ => rfl⟩
    unfold State.reg
    simp only [hw, stewardFault_stew, Steward.reg]

end Sys2Proof.Machine

namespace Sys2Proof.Machine

open Sys2Proof

/-! ### FENCE and END (R83, R89) -/

/-- What an instruction that waits for a clear scoreboard leaves, where no move is pending and no region is incomplete: the core has run
on behind every array entry, f acts on it, and the instruction has issued. -/
theorem core_whenClear {s : State} {w : At} {c : Cn} (hw : w.who = .core c) (hm : (s.core w.cl c).moves = [])
    (hi : (s.core w.cl c).incomplete = 0) (i : Instr) (f : Core → Core) :
    (s.whenClear w i f).core w.cl c = (f ((s.core w.cl c).ranTo (s.core w.cl c).arrayClear)).issued w.ia ∧
      OnlyCoreM w.cl c s (s.whenClear w i f) := by
  rw [whenClear_eq hw hm hi]
  exact ⟨core_setCore_next1 _ w c hw _, (onlyCoreM_coreTo ..).trans ((onlyCore_setCore ..).toM.trans (onlyCore_next1 _ w c hw).toM)⟩

/-- Behind every array entry of its scoreboard a core has no output and no array read pending. -/
theorem ranTo_arrayClear (k : Core) : (k.ranTo k.arrayClear).outs = [] ∧ (k.ranTo k.arrayClear).areads = [] :=
  ⟨ranTo_outs_nil fun _ ho => (vis_le_arrayClear ho).trans (le_max_right ..),
    ranTo_areads_nil fun _ hr => (point_le_arrayClear hr).trans (le_max_right ..)⟩

theorem ranTo_phase (k : Core) (t : Nat) : (k.ranTo t).phase = k.phase := (congrArg Core.phase (ranTo_sameButArray k t) :)
theorem ranTo_task (k : Core) (t : Nat) : (k.ranTo t).task = k.task := (congrArg Core.task (ranTo_sameButArray k t) :)

/-- A core that is not running issues nothing. -/
theorem seqRuns_of_not_running {s : State} {w : At} {c : Cn} (hw : w.who = .core c) (h : (s.core w.cl c).phase ≠ .running) :
    s.seqRuns w = false := by
  unfold State.seqRuns
  simp [hw, h]

/-- A free sequencer of a core that holds an instruction at issue. -/
theorem holdFor_core {s : State} {w : At} {c : Cn} (hw : w.who = .core c) (hn : s.holdOf w = none) (i : Instr) (why : HoldWhy) :
    s.holdFor w i why = s.setCore w.cl c { s.core w.cl c with hold := some ⟨i, why, s.now, false⟩ } := by
  unfold State.holdFor State.setHold
  rw [hn, hw]

/-- A move in flight holds an instruction that waits for a clear scoreboard (R83). -/
theorem whenClear_moving {s : State} {w : At} {c : Cn} (hw : w.who = .core c) (hm : (s.core w.cl c).moves ≠ []) (hn : s.holdOf w = none)
    (i : Instr) (f : Core → Core) :
    s.whenClear w i f = s.setCore w.cl c { s.core w.cl c with hold := some ⟨i, .scoreboard, s.now, false⟩ } := by
  have hc : (s.core w.cl c).movesClear = false := by
    unfold Core.movesClear
    rw [List.isEmpty_eq_false_iff.2 hm]
    rfl
  rw [← holdFor_core hw hn]
  unfold State.whenClear
  rw [hw]
  simp only [hc, Bool.not_false, if_true]

/-- Settles O18: both wait with `whenClear`; END's core then stands free of issue in its phase `ending`. -/
theorem fenceAndEndWaitForTheScoreboard : Obligations.FenceAndEndWaitForTheScoreboard := by
  unfold Obligations.FenceAndEndWaitForTheScoreboard
  intro s w c hw
  obtain ⟨ho, ha⟩ := ranTo_arrayClear (s.core w.cl c)
  refine ⟨fun hm hi => ⟨fun h => ?fence, fun h => ?endTask⟩, fun hm hn => ⟨fun h => ?fenceHeld, fun h => ?endHeld⟩⟩
  case fence =>
    obtain ⟨hk, hf⟩ := core_whenClear hw hm hi (.fence w) id
    refine done_issue rfl h rfl ?_
    rw [hk]
    exact ⟨ho, ha, ranTo_phase .., ranTo_regs .., ranTo_acc_of_no_slices _ _, coreIssued_issued .., hf⟩
  case endTask =>
    obtain ⟨hk, hf⟩ := core_whenClear hw hm hi (.endTask w) fun k => { k with phase := .ending }
    refine done_issue rfl h rfl ?_
    have hp : ((s.whenClear w (.endTask w) fun k => { k with phase := .ending }).core w.cl c).phase = .ending := by rw [hk]; rfl
    refine ⟨?_, ?_, hp, seqRuns_of_not_running hw (by rw [hp]; decide), ?_, ?_, ?_, hf⟩ <;> rw [hk]
    · exact ho
    · exact ha
    · exact ranTo_regs ..
    · exact ranTo_task ..
    · exact coreIssued_issued ..
  case fenceHeld => exact done_issue rfl h rfl (whenClear_moving hw hm hn ..)
  case endHeld => exact done_issue rfl h rfl (whenClear_moving hw hm hn ..)

end Sys2Proof.Machine

namespace Sys2Proof.Machine

open Sys2Proof

/-! ### What a move into or from regions waits for (R81, R83) -/

/-- A running maximum over the entries that meet a condition is at least the value of each of them. -/
theorem le_foldl_max_if {α : Type} (p : α → Prop) [DecidablePred p] (f : α → Nat) {l : List α} {x : α} (hx : x ∈ l) (hp : p x) (b : Nat) :
    f x ≤ l.foldl (fun t a => if p a then max t (f a) else t) b := by
  have h := (le_foldl_max f (l.filter fun a => decide (p a)) b).2 x (List.mem_filter.2 ⟨hx, decide_eq_true hp⟩)
  rw [List.foldl_filter] at h
  simpa only [decide_eq_true_eq] using h

theorem vis_le_outsClear {k : Core} {o : PendOut} {m : BitVec 64} (ho : o ∈ k.outs) (h : o.regions &&& m ≠ 0) : o.vis ≤ k.outsClear m :=
  le_foldl_max_if (fun o : PendOut => o.regions &&& m ≠ 0) PendOut.vis ho h 0

theorem point_le_readsClear {k : Core} {r : AReadMark} {m : BitVec 64} (hr : r ∈ k.areads) (h : m.getLsbD r.region = true) :
    r.point ≤ k.readsClear m :=
  le_foldl_max_if (fun r : AReadMark => m.getLsbD r.region = true) AReadMark.point hr h 0

/-- A core that has run on behind every output into regions has none of them pending. -/
theorem ranTo_outs_clear {k : Core} {t : Nat} {m : BitVec 64} (ht : k.outsClear m ≤ t) {o : PendOut} (ho : o ∈ (k.ranTo t).outs) :
    o.regions &&& m = 0 := by
  have hk : o.key ∈ k.keysAfter (max k.cyc t) := ranTo_keys k t ▸ List.mem_map_of_mem ho
  obtain ⟨hm, hv⟩ := List.mem_filter.1 hk
  obtain ⟨o', ho', he⟩ := List.mem_map.1 hm
  have hlt : max k.cyc t < o'.vis := by
    have e : o'.vis = o.vis := (congrArg Prod.fst he :)
    rw [e]
    exact of_decide_eq_true hv
  have hr : o'.regions = o.regions := (congrArg (fun x => x.2.2) he :)
  by_contra hne
  have := vis_le_outsClear ho' (hr ▸ hne)
  omega

/-- A core that has run on behind every array read of regions has none of them pending. -/
theorem ranTo_areads_clear {k : Core} {t : Nat} {m : BitVec 64} (ht : k.readsClear m ≤ t) {r : AReadMark} (hr : r ∈ (k.ranTo t).areads) :
    m.getLsbD r.region = false := by
  obtain ⟨hm, hp⟩ := mem_of_mem_settle_areads (k := k) (t := max k.cyc t) hr
  by_contra hne
  have := point_le_readsClear hm (Bool.not_eq_false _ ▸ hne)
  omega

theorem ranTo_moveSerial (k : Core) (t : Nat) : (k.ranTo t).moveSerial = k.moveSerial := (congrArg Core.moveSerial (ranTo_sameButArray k t) :)

theorem freeSlot_of_no_moves {k : Core} (h : k.moves = []) : k.freeSlot = some 0 := by
  unfold Core.freeSlot
  rw [h]
  rfl

theorem intoMay_of_no_moves {k : Core} (h : k.moves = []) (m : BitVec 64) : k.intoMay m = true := by
  simp [Core.intoMay, Core.moveWrites, Core.ringReads, h]

theorem fromMay_of_no_moves {k : Core} (h : k.moves = []) (hi : k.incomplete = 0) (m : BitVec 64) : k.fromMay m = true := by
  simp [Core.fromMay, Core.moveWrites, h, hi]

/-- The cycle from which nothing that a move into regions waits for is pending. -/
def Core.intoClear (k : Core) (m : BitVec 64) : Nat := max (k.readEnd m) (max (k.outsClear m) (k.readsClear m))

theorem outsClear_le_intoClear (k : Core) (m : BitVec 64) : k.outsClear m ≤ k.intoClear m := by unfold Core.intoClear; omega
theorem readsClear_le_intoClear (k : Core) (m : BitVec 64) : k.readsClear m ≤ k.intoClear m := by unfold Core.intoClear; omega

/-! ### TLOAD and TSTORE -/

theorem askBanks_sameButBanks (k : Core) (read : Bool) (n : Nat) (ws : List Nat) : k.SameButBanks (k.askBanks read n ws) := by
  unfold Core.askBanks
  refine (clients_sameButBanks k.bankFuel k k.cyc).trans ?_
  dsimp only
  split <;> rfl

/-- TLOAD of a core that no move keeps waiting: the move stands in slot 0 of the core that has run on to what R83 waits for. -/
theorem doTload_core {s : State} {w : At} {c : Cn} (hw : w.who = .core c) (hm : (s.core w.cl c).moves = []) (i : Instr) (m : MoveArgs) :
    (s.doTload w i m).core w.cl c =
      (((s.core w.cl c).ranTo ((s.core w.cl c).intoClear (regionMask m.region (shapeBytes m.shape)))).addMove 0
        (s.newMove w true m (s.core w.cl c).moveSerial)).issued w.ia ∧
    OnlyCoreM w.cl c s (s.doTload w i m) := by
  unfold State.doTload
  rw [hw]
  simp only [freeSlot_of_no_moves hm, intoMay_of_no_moves hm, Bool.not_true, Bool.false_eq_true, if_false, core_coreTo]
  exact ⟨core_setCore_next1 _ w c hw _, (onlyCoreM_coreTo ..).trans ((onlyCore_setCore ..).toM.trans (onlyCore_next1 _ w c hw).toM)⟩

/-- The tile store once a TSTORE has met the tile of a move: bad words are rewritten (R252). -/
def Core.tileMet (k : Core) (v : Move) : Mem := tilesFix k.ts [⟨v.args.region, shapeBytes v.args.shape, 0⟩]

/-- A store's move with the image of its tile, as it stands in a tile store (R83). -/
def Move.withImage (v : Move) (ts : Mem) : Move :=
  let img := storeImage ts v.args v.addr v.stride v.scl
  { v with buf := img.1, segs := img.2, lines := segLines img.2 }

/-- A core that has sent a TSTORE on its way: the store has its tile's image, and asks the banks for the tile's words. -/
def Core.storing (k : Core) (v : Move) : Core :=
  (({ k with ts := k.tileMet v } : Core).askBanks true v.serial (wordsOf v.args.region (shapeBytes v.args.shape))).addMove 0
    (v.withImage (k.tileMet v))

/-- TSTORE of a core that no move and no incomplete region keeps waiting: the move stands in slot 0 of the core that has run on to what
R83 waits for. -/
theorem doTstore_core {s : State} {w : At} {c : Cn} (hw : w.who = .core c) (hm : (s.core w.cl c).moves = [])
    (hi : (s.core w.cl c).incomplete = 0) (i : Instr) (m : MoveArgs) :
    (s.doTstore w i m).core w.cl c =
      (((s.core w.cl c).ranTo ((s.core w.cl c).outsClear (regionMask m.region (shapeBytes m.shape)))).storing
        (s.newMove w false m (s.core w.cl c).moveSerial)).issued w.ia ∧
    OnlyCoreM w.cl c s (s.doTstore w i m) := by
  unfold State.doTstore
  rw [hw]
  simp only [freeSlot_of_no_moves hm, fromMay_of_no_moves hm hi, Bool.not_true, Bool.false_eq_true, if_false, core_coreTo]
  exact ⟨core_setCore_next1 _ w c hw _, (onlyCoreM_coreTo ..).trans ((onlyCoreM_reportFound ..).trans
    ((onlyCore_setCore ..).toM.trans (onlyCore_next1 _ w c hw).toM))⟩

/-- What a core's TSTORE leaves of it beside the new move. -/
theorem storing_fields (k : Core) (v : Move) : (k.storing v).outs = k.outs ∧ (k.storing v).regs = k.regs ∧
    (k.storing v).moveSerial = k.moveSerial + 1 ∧ (k.storing v).ts = k.tileMet v := by
  have h := askBanks_sameButBanks ({ k with ts := k.tileMet v } : Core) true v.serial (wordsOf v.args.region (shapeBytes v.args.shape))
  exact ⟨(congrArg Core.outs h :), (congrArg Core.regs h :), (congrArg (fun x => x.moveSerial + 1) h :), (congrArg Core.ts h :)⟩

/-- Settles O9: each move issues on the core that has run on to what it waits for, and its fields are those of `newMove`. -/
theorem tileMovesIssue : Obligations.TileMovesIssue := by
  unfold Obligations.TileMovesIssue
  intro s w c m hw hm hi
  refine ⟨fun h hok => ?load, fun h hok => ?store⟩
  case load =>
    obtain ⟨hk, hf⟩ := doTload_core hw hm (.tload w m) m
    refine done_issue rfl h hok ⟨s.newMove w true m (s.core w.cl c).moveSerial, ?_⟩
    rw [hk]
    refine ⟨find_ins_same .., rfl, rfl, rfl, rfl, rfl, rfl, rfl, rfl, rfl, fun o ho => ?_, fun r hr => ?_, ?_, ranTo_regs ..,
      coreIssued_issued .., hf⟩
    · exact ranTo_outs_clear (outsClear_le_intoClear ..) ho
    · exact ranTo_areads_clear (readsClear_le_intoClear ..) hr
    · exact congrArg (· + 1) (ranTo_moveSerial ..)
  case store =>
    obtain ⟨hk, hf⟩ := doTstore_core hw hm hi (.tstore w m) m
    refine done_issue rfl h hok ?_
    rw [hk]
    generalize hx : (s.core w.cl c).ranTo _ = x at *
    obtain ⟨ho, hr, hn, ht⟩ := storing_fields x (s.newMove w false m (s.core w.cl c).moveSerial)
    refine ⟨(s.newMove w false m (s.core w.cl c).moveSerial).withImage (x.tileMet (s.newMove w false m (s.core w.cl c).moveSerial)),
      find_ins_same .., rfl, rfl, rfl, rfl, rfl, rfl, rfl, ?_, rfl, fun o hm => ?_, ?_, ?_, coreIssued_issued .., hf⟩
    · show _ = storeImage (x.storing _).ts _ _ _ _
      rw [ht]
      rfl
    · subst hx
      exact ranTo_outs_clear le_rfl (ho ▸ hm)
    · exact hn.trans (congrArg (· + 1) (hx ▸ ranTo_moveSerial ..))
    · exact hr.trans (hx ▸ ranTo_regs ..)

end Sys2Proof.Machine

namespace Sys2Proof.Machine

open Sys2Proof

/-! ### What an issue of one cycle leaves -/

/-- A steward core whose instruction at `ia` has issued (R68). -/
def Steward.issued (k : Steward) (ia : Nat) : Steward := { k with npc := none, hold := none, lastIa := ia, passBreak := none }

/-- A cluster whose steward core has issued an instruction from its instruction cache (R127). -/
def Cluster.fetched (v : Cluster) (ia : Nat) : Cluster :=
  { v with icache := if v.icache.contains (lineOf ia) then lruPut 256 8 (lineOf ia) v.icache else v.icache }

theorem next1_steward {w : At} (hw : w.who = .steward) (s : State) :
    s.next1 w = (s.setStew w.cl ((s.stew w.cl).issued w.ia)).setClu w.cl ((s.clu w.cl).fetched w.ia) := by
  unfold State.next1 State.advance
  rw [hw]
  rfl

/-- An instruction that has issued in one cycle has changed no register, and only sequencers and instruction caches (R68, R127). -/
theorem next1_passed (s : State) (w : At) : Passed w s (s.next1 w) none := advance_spec ..

theorem next1_only (s : State) (w : At) :
    s.next1 w = { s with cores := (s.next1 w).cores, stewards := (s.next1 w).stewards, clusters := (s.next1 w).clusters } :=
  (onlySequencer_advance s w none 1).1

theorem issued_next1 (s : State) (w : At) : Issued w (s.next1 w) none := issued_advance ..

theorem core_next1 {w : At} {c : Cn} (hw : w.who = .core c) (s : State) : (s.next1 w).core w.cl c = (s.core w.cl c).issued w.ia := by
  rw [next1_eq s w c hw, State.core_setCore]

theorem stew_next1 {w : At} (hw : w.who = .steward) (s : State) : (s.next1 w).stew w.cl = (s.stew w.cl).issued w.ia := by
  rw [next1_steward hw, State.stew_of_setClu, State.stew_setStew]

theorem slot_setSlot (v : Cluster) (k j : Nat) (x : Slot) : (v.setSlot k x).slot j = if j = k then x else v.slot j := look_put ..

theorem OnlyCore.trans {cl : Cl} {c : Cn} {s t u : State} (h : OnlyCore cl c s t) (k : OnlyCore cl c t u) : OnlyCore cl c s u := by
  obtain ⟨h1, h2⟩ := h
  obtain ⟨k1, k2⟩ := k
  exact ⟨by rw [k1, h1], fun cl' c' hn => (k2 cl' c' hn).trans (h2 cl' c' hn)⟩

/-! ### CINC (R133, R144, R148) -/

/-- A core that has noted counter n where it is one of its own (R148). -/
def Core.noted (k : Core) (cl : Cl) (c : Cn) (n : Nat) : Core := if isOwn cl c n then k.touch n else k

/-- To note a counter changes nothing but the touched set. -/
theorem noted_only (k : Core) (cl : Cl) (c : Cn) (n : Nat) : k.noted cl c n = { k with touched := (k.noted cl c n).touched } := by
  unfold Core.noted Core.touch
  split
  · split <;> rfl
  · rfl

theorem mem_touched_touch (k : Core) (n : Nat) : n ∈ (k.touch n).touched := by
  unfold Core.touch
  split
  · rename_i h
    exact List.contains_iff_mem.1 h
  · exact List.mem_append_right _ (List.mem_singleton_self n)

theorem mem_touched_noted (k : Core) {cl : Cl} {c : Cn} {n : Nat} (h : isOwn cl c n = true) : n ∈ (k.noted cl c n).touched := by
  unfold Core.noted
  rw [if_pos h]
  exact mem_touched_touch k n

@[simp] theorem noted_task (k : Core) (cl : Cl) (c : Cn) (n : Nat) : (k.noted cl c n).task = k.task := by rw [noted_only]
@[simp] theorem noted_regs (k : Core) (cl : Cl) (c : Cn) (n : Nat) : (k.noted cl c n).regs = k.regs := by rw [noted_only]
@[simp] theorem noted_unacked (k : Core) (cl : Cl) (c : Cn) (n : Nat) : (k.noted cl c n).unacked = k.unacked := by rw [noted_only]
@[simp] theorem noted_armed (k : Core) (cl : Cl) (c : Cn) (n : Nat) : (k.noted cl c n).armed = k.armed := by rw [noted_only]
@[simp] theorem noted_outs (k : Core) (cl : Cl) (c : Cn) (n : Nat) : (k.noted cl c n).outs = k.outs := by rw [noted_only]
@[simp] theorem noted_moveSerial (k : Core) (cl : Cl) (c : Cn) (n : Nat) : (k.noted cl c n).moveSerial = k.moveSerial := by rw [noted_only]

/-- A task that is not speculative defers nothing (R133). -/
theorem deferSlot_of_not_speculative {s : State} {cl : Cl} {c : Cn} (h : s.slotOf cl c = none) (n : Nat) : s.deferSlot cl c n = none := by
  unfold State.slotOf at h
  unfold State.deferSlot
  split
  · rename_i key hk
    rw [hk] at h
    dsimp only at h
    split
    · rename_i t ht
      rw [ht] at h
      split
      · rfl
      · exact h
    · rfl
  · rfl

/-- The slot that takes a core's increment depends on the core's task alone. -/
theorem deferSlot_setCore (s : State) (cl : Cl) (c : Cn) {v : Core} (h : v.task = (s.core cl c).task) (n : Nat) :
    (s.setCore cl c v).deferSlot cl c n = s.deferSlot cl c n := by
  unfold State.deferSlot
  rw [State.core_setCore, h]
  rfl

/-- The packet of a core's increment (R138, R144). -/
def State.incPacket (s : State) (cl : Cl) (c : Cn) (n amt : Nat) : Packet :=
  ⟨n, amt, .core cl c ((s.core cl c).task.getD 0), s.clPart cl⟩

/-- An increment that no slot defers is sent and awaits its acknowledgement. -/
theorem coreInc_sent {s : State} {cl : Cl} {c : Cn} {n : Nat} (h : s.deferSlot cl c n = none) (amt : Nat) :
    s.coreInc cl c n amt =
      ((s.setCore cl c { s.core cl c with unacked := (s.core cl c).unacked + 1 }).send (s.incPacket cl c n amt), true) := by
  unfold State.coreInc
  rw [h]
  rfl

/-- An increment that a slot defers enters its queue, which has room (R133). -/
theorem coreInc_deferred {s : State} {cl : Cl} {c : Cn} {n k : Nat} (h : s.deferSlot cl c n = some k)
    (hq : ((s.clu cl).slot k).deferq.length < 64) (amt : Nat) :
    s.coreInc cl c n amt = (s.setClu cl ((s.clu cl).setSlot k { (s.clu cl).slot k with
      deferq := ((s.clu cl).slot k).deferq ++ [s.incPacket cl c n amt] }), true) := by
  have hd : s.defer cl k (s.incPacket cl c n amt) = (s.setClu cl ((s.clu cl).setSlot k { (s.clu cl).slot k with
      deferq := ((s.clu cl).slot k).deferq ++ [s.incPacket cl c n amt] }), true) := if_pos hq
  unfold State.coreInc
  rw [h]
  dsimp only
  exact (if_pos (congrArg Prod.snd hd)).trans hd

/-- An increment that is not armed acts at issue: with an answer true, the instruction has issued behind it. -/
theorem doCinc_acts {s : State} {w : At} {c : Cn} (hw : w.who = .core c) {n amt : Nat} {whenDone : Bool}
    (hd : whenDone = false ∨ (s.deferSlot w.cl c n).isSome = true) (i : Instr)
    {u : State} (hu : (s.setCore w.cl c ((s.core w.cl c).noted w.cl c n)).coreInc w.cl c n amt = (u, true)) :
    s.doCinc w i n amt whenDone = u.next1 w := by
  have hc : (whenDone && (s.deferSlot w.cl c n).isNone) = false := by
    rcases hd with h | h
    · rw [h, Bool.false_and]
    · rw [Option.isSome_iff_ne_none, ne_eq, ← Option.isNone_iff_eq_none, Bool.not_eq_true] at h
      rw [h, Bool.and_false]
  unfold Core.noted at hu
  unfold State.doCinc
  rw [hw]
  simp only [hc, hu, Bool.false_eq_true, if_false, if_true]

/-- A CINC with WHEN = DONE of a task that is not speculative is armed, behind every output that is pending. -/
theorem doCinc_arms {s : State} {w : At} {c : Cn} (hw : w.who = .core c) {n : Nat} (amt : Nat) (hd : s.deferSlot w.cl c n = none) (i : Instr) :
    s.doCinc w i n amt true = (s.setCore w.cl c { (s.core w.cl c).noted w.cl c n with
      armed := (s.core w.cl c).armed ++ [⟨n, amt, (s.core w.cl c).outs.foldl (fun t o => max t o.vis) 0, (s.core w.cl c).moveSerial⟩] }).next1 w := by
  rw [← noted_armed _ w.cl c n, ← noted_outs _ w.cl c n, ← noted_moveSerial _ w.cl c n]
  unfold State.doCinc
  rw [hw]
  simp only [hd, Option.isNone_none, Bool.and_self, if_true]
  rfl

/-- The packet of a core's increment depends on the core's task alone. -/
theorem incPacket_setCore (s : State) (cl : Cl) (c : Cn) {v : Core} (h : v.task = (s.core cl c).task) (n amt : Nat) :
    (s.setCore cl c v).incPacket cl c n amt = s.incPacket cl c n amt := by
  unfold State.incPacket
  rw [State.core_setCore, h]
  rfl

/-- CINC of a task that is not speculative, without WHEN: its packet is sent at issue. -/
theorem cinc_sent {s : State} {w : At} {c : Cn} (hw : w.who = .core c) {ctr : CRef} {amt : Src} (hc : s.crefOk w ctr = true)
    (ha : s.amtOk w amt = true) (h : s.readyFor w (.cinc w ctr amt false) .both = true) (hs : s.slotOf w.cl c = none) :
    Done (.cinc w ctr amt false) s fun t =>
      t.net.flight = s.net.flight ++ [s.incPacket w.cl c (s.crefName w ctr) (s.amt w amt)] ∧
      t.core w.cl c = ({ (s.core w.cl c).noted w.cl c (s.crefName w ctr) with unacked := (s.core w.cl c).unacked + 1 } : Core).issued w.ia ∧
      t = { s with cores := t.cores, net := t.net } := by
  have hd := deferSlot_of_not_speculative hs (s.crefName w ctr)
  have hk := noted_task (s.core w.cl c) w.cl c (s.crefName w ctr)
  refine done_issue rfl h (by simp [firstBad, hc, ha]) ?_
  rw [doCinc_acts hw (.inl rfl) _ (coreInc_sent ((deferSlot_setCore s w.cl c hk _).trans hd) _), incPacket_setCore s w.cl c hk, core_next1 hw,
    next1_eq _ w c hw, State.core_of_send, State.core_setCore, State.core_setCore, noted_unacked]
  exact ⟨rfl, rfl, rfl⟩

/-- CINC with WHEN = DONE of a task that is not speculative: it is armed. -/
theorem cinc_armed {s : State} {w : At} {c : Cn} (hw : w.who = .core c) {ctr : CRef} {amt : Src} (hc : s.crefOk w ctr = true)
    (ha : s.amtOk w amt = true) (h : s.readyFor w (.cinc w ctr amt true) .both = true) (hs : s.slotOf w.cl c = none) :
    Done (.cinc w ctr amt true) s fun t => ∃ a, (t.core w.cl c).armed = (s.core w.cl c).armed ++ [a] ∧
      a.ctr = s.crefName w ctr ∧ a.amt = s.amt w amt ∧ a.before = (s.core w.cl c).moveSerial ∧
      (∀ o ∈ (s.core w.cl c).outs, o.vis ≤ a.vis) ∧ CoreIssued (t.core w.cl c) w.ia ∧ OnlyCore w.cl c s t := by
  have hd := deferSlot_of_not_speculative hs (s.crefName w ctr)
  refine done_issue rfl h (by simp [firstBad, hc, ha, hw]) ?_
  rw [doCinc_arms hw _ hd, core_setCore_next1 _ w c hw]
  exact ⟨_, rfl, rfl, rfl, rfl, (le_foldl_max PendOut.vis _ 0).2, coreIssued_issued .., (onlyCore_setCore ..).trans (onlyCore_next1 _ w c hw)⟩

/-- CINC of a speculative task on a counter outside its cores enters the slot's deferral queue, at issue, where that has room (R133). -/
theorem cinc_deferred {s : State} {w : At} {c : Cn} (hw : w.who = .core c) {ctr : CRef} {amt : Src} {whenDone : Bool} {k : Nat}
    (hc : s.crefOk w ctr = true) (ha : s.amtOk w amt = true) (h : s.readyFor w (.cinc w ctr amt whenDone) .both = true)
    (hd : s.deferSlot w.cl c (s.crefName w ctr) = some k) (hq : ((s.clu w.cl).slot k).deferq.length < 64) :
    Done (.cinc w ctr amt whenDone) s fun t =>
      t = ((s.setCore w.cl c ((s.core w.cl c).noted w.cl c (s.crefName w ctr))).setClu w.cl ((s.clu w.cl).setSlot k { (s.clu w.cl).slot k with
        deferq := ((s.clu w.cl).slot k).deferq ++ [s.incPacket w.cl c (s.crefName w ctr) (s.amt w amt)] })).next1 w := by
  have hk := noted_task (s.core w.cl c) w.cl c (s.crefName w ctr)
  refine done_issue rfl h (by simp [firstBad, hc, ha, hw]) ?_
  rw [doCinc_acts hw (.inr (by rw [hd]; rfl)) _ (coreInc_deferred ((deferSlot_setCore s w.cl c hk _).trans hd) hq _), incPacket_setCore s w.cl c hk]
  rfl

/-- CINC of a steward core: its packet is sent at issue. -/
theorem cinc_steward {s : State} {w : At} (hw : w.who = .steward) {ctr : CRef} {amt : Src} (hc : s.crefOk w ctr = true)
    (ha : s.amtOk w amt = true) (h : s.readyFor w (.cinc w ctr amt false) .both = true) :
    Done (.cinc w ctr amt false) s fun t =>
      t.net.flight = s.net.flight ++ [⟨s.crefName w ctr, s.amt w amt, .steward w.cl, s.clPart w.cl⟩] ∧
      (t.stew w.cl).unacked = (s.stew w.cl).unacked + 1 ∧ Issued w t none ∧
      t = { s with stewards := t.stewards, clusters := t.clusters, net := t.net } := by
  refine done_issue rfl h (by simp [firstBad, hc, ha]) ?_
  unfold State.doCinc
  simp only [hw]
  refine ⟨?_, ?_, issued_next1 .., ?_⟩
  · rw [next1_steward hw]
    rfl
  · rw [stew_next1 hw, State.stew_of_send, State.stew_setStew]
    rfl
  · rw [next1_steward hw]
    rfl

/-! ### CEXP and CREAD (R145, R146, R148, R151) -/

section
variable (s : State) (w : At) (n : Nat) (b : W32)

theorem expect_only : s.expect w n b = { s with cores := (s.expect w n b).cores, counters := (s.expect w n b).counters } := by
  unfold State.expect
  cases w.who <;> rfl

/-- CEXP and CWAIT move the expected register alone; a core's clears SETTLED (R151). -/
theorem ctr_expect : ((s.expect w n b).ctr n).value = (s.ctr n).value ∧ ((s.expect w n b).ctr n).expected = (s.ctr n).expected + b ∧
    ((s.expect w n b).ctr n).settled = (match w.who with
      | .core _ => false
      | .steward => (s.ctr n).settled) := by
  unfold State.expect
  cases w.who with
  | core c => simp
  | steward => simp

theorem ctr_expect_ne {m : Nat} (h : m ≠ n) : (s.expect w n b).ctr m = s.ctr m := by
  unfold State.expect
  cases w.who with
  | core c => simp [State.ctr_setCtr_if, h]
  | steward => simp [State.ctr_setCtr_if, h]

variable {w} in
theorem core_expect {c : Cn} (hw : w.who = .core c) : (s.expect w n b).core w.cl c = (s.core w.cl c).touch n := by
  unfold State.expect
  simp only [hw, State.core_setCore]

/-- A wake moves no counter. -/
theorem ctr_wake (m : Nat) : (s.wake n).ctr m = s.ctr m := by
  rw [wake_only]
  rfl

/-- An issue moves no counter. -/
theorem ctr_next1 (m : Nat) : (s.next1 w).ctr m = s.ctr m := by
  rw [next1_only]
  rfl

/-- What CEXP leaves: only sequencers, instruction caches, waits and the counter differ. -/
theorem cexp_only : (((s.expect w n b).wake n).next1 w) = { s with
    cores := (((s.expect w n b).wake n).next1 w).cores, stewards := (((s.expect w n b).wake n).next1 w).stewards
    clusters := (((s.expect w n b).wake n).next1 w).clusters, rings := (((s.expect w n b).wake n).next1 w).rings
    counters := (((s.expect w n b).wake n).next1 w).counters } := by
  have h1 := expect_only s w n b
  generalize s.expect w n b = u at *
  have h2 := wake_only u n
  generalize u.wake n = v at *
  have h3 := next1_only v w
  generalize v.next1 w = t at *
  rw [h3, h2, h1]

/-- The counter of a CEXP has joined the core's touched set (R148). -/
theorem mem_touched_cexp {w : At} {c : Cn} (hw : w.who = .core c) : n ∈ ((((s.expect w n b).wake n).next1 w).core w.cl c).touched := by
  rw [core_next1 hw, show (((s.expect w n b).wake n).core w.cl c |>.issued w.ia).touched = ((s.expect w n b).core w.cl c).touched from
    (congrArg Core.touched (wake_sameButRelease (s.expect w n b) n w.cl c) :), core_expect s n b hw]
  exact mem_touched_touch ..

end

/-- A sequencer that has sent a CREAD waits for its result (R146). -/
def State.addCread (s : State) (w : At) (r : CRead) : State :=
  match w.who with
  | .core c => s.setCore w.cl c { s.core w.cl c with creads := (s.core w.cl c).creads ++ [r] }
  | .steward => s.setStew w.cl { s.stew w.cl with creads := (s.stew w.cl).creads ++ [r] }

/-- A CREAD on its way has touched no register, and neither what issue holds nor where it goes on. -/
theorem addCread_keeps (s : State) (w : At) (r : CRead) :
    (∀ n, (s.addCread w r).reg w n = s.reg w n) ∧ (s.addCread w r).npcOf w = s.npcOf w ∧ (s.addCread w r).holdOf w = s.holdOf w := by
  unfold State.addCread State.reg State.npcOf State.holdOf
  cases w.who with
  | core c => simp [Core.reg]
  | steward => simp [Steward.reg]

theorem cread_sent {s : State} {w : At} {sd : Nat} {ctr : CRef} {exp : Bool} (hsd : sd < 32) (hc : s.crefOk w ctr = true)
    (h : s.readyFor w (.cread w sd ctr exp) .both = true) :
    Done (.cread w sd ctr exp) s fun t => t = (s.next1 w).addCread w ⟨sd, s.crefName w ctr, exp⟩ :=
  done_issue rfl h (by simp [firstBad, regOk, hsd, hc]) rfl

/-- Settles O15: each clause by the lemma that says what its form leaves. -/
theorem counterInstructions : Obligations.CounterInstructions := by
  unfold Obligations.CounterInstructions
  intro s w ctr amt sd exp hsd
  refine ⟨fun c hw hc ha h hs => ?sent, fun c hw hc ha h hs => cinc_armed hw hc ha h hs, fun c k dn hw hc ha h hd hq => ?deferred,
    fun hw hc ha h => cinc_steward hw hc ha h, fun hc ha h => ?cexp, fun hc h => ?cread, fun hw h => ?cwstat⟩
  case sent =>
    obtain ⟨t, hx, hflight, hk, hf⟩ := cinc_sent hw hc ha h hs
    refine ⟨t, hx, hflight, ?_, fun ho => ?_, ?_, ?_, ?_, hf⟩
    · rw [hk]; rfl
    · rw [hk]; exact mem_touched_noted _ ho
    · rw [hf]
    · rw [hk]; exact coreIssued_issued ..
    · rw [hk]; exact noted_regs ..
  case deferred =>
    obtain ⟨t, hx, rfl⟩ := cinc_deferred hw hc ha h hd hq
    refine ⟨_, hx, ?_⟩
    beta_reduce
    rw [next1_eq _ w c hw]
    simp only [State.clu_of_setCore, State.clu_setClu, State.core_of_setClu, State.core_setCore]
    refine ⟨?_, fun j hj => ?_, fun q hq => ?_, rfl, coreIssued_issued .., noted_regs .., fun q d hn => ?_, rfl⟩
    · rw [slot_setSlot, if_pos rfl]
      rfl
    · rw [slot_setSlot, if_neg hj]
    · rw [State.clu_setClu_if, if_neg hq, State.clu_of_setCore]
    · rw [Ne, Prod.mk.injEq] at hn
      rw [State.core_setCore_if, if_neg hn, State.core_of_setClu, State.core_setCore_if, if_neg hn]
  case cexp =>
    refine done_issue rfl h (by simp [firstBad, hc, ha]) ?_
    dsimp only
    simp only [ctr_next1, ctr_wake]
    obtain ⟨hv, he, hs⟩ := ctr_expect s w (s.crefName w ctr) (BitVec.ofNat 32 (s.amt w amt))
    exact ⟨hv, he, hs, fun n hn => ctr_expect_ne _ _ _ _ hn, fun c hw => mem_touched_cexp _ _ _ hw, issued_next1 .., cexp_only ..⟩
  case cread =>
    obtain ⟨t, hx, rfl⟩ := cread_sent hsd hc h
    obtain ⟨hr, hn, hh⟩ := addCread_keeps (s.next1 w) w ⟨sd, s.crefName w ctr, exp⟩
    obtain ⟨hpr, ⟨hpn, hph⟩, -⟩ := next1_passed s w
    refine ⟨_, hx, ⟨hn.trans hpn, hh.trans hph⟩, fun n => (hr n).trans (hpr n), ?_, ?_⟩
    · unfold State.addCread
      cases hw : w.who with
      | core c =>
        simp only [State.core_setCore, core_next1 hw]
        rfl
      | steward =>
        simp only [State.stew_setStew, stew_next1 hw]
        rfl
    · have h1 := next1_only s w
      generalize s.next1 w = u at *
      unfold State.addCread
      rw [h1]
      split <;> rfl
  case cwstat => exact done_issue rfl h (by simp [firstBad, regOk, hsd]) (result_spec ..)

end Sys2Proof.Machine

namespace Sys2Proof.Machine

open Sys2Proof

/-! ### Posts of a steward core (R122, R233, R235) -/

theorem exec_rpost_steward {w : At} (hw : w.who = .steward) (n sa : Nat) (region : Option Nat) (s : State) :
    exec (.rpost w n sa region) s = .next (s.issue w (.rpost w n sa region) .steward (s.stewPostOks w n sa ++ [region.isNone])
      fun s => s.doStewPost w n sa false) := by
  show execRpost w n sa region s = _
  unfold execRpost
  rw [hw]

theorem exec_rpost_core {w : At} {c : Cn} (hw : w.who = .core c) (n sa : Nat) (region : Option Nat) (s : State) :
    exec (.rpost w n sa region) s = .next (s.issue w (.rpost w n sa region) .core (s.rpostOks w n sa region)
      fun s => s.doRpost w (.rpost w n sa region) n sa region) := by
  show execRpost w n sa region s = _
  unfold execRpost
  rw [hw]

/-- A steward core's post of the descriptor at register sa's address. -/
def State.stewPost (s : State) (w : At) (n sa : Nat) : Post := ⟨n, (s.reg w sa).toNat, none, ⟨w.ia, 0, 0, none, false⟩⟩

/-- A steward core posts on a ring of the kind that its instruction names (R235). -/
theorem doStewPost_accepted {s : State} {w : At} {n : Nat} {task : Bool} (hk : (s.ring w.cl n).kind = task.toNat) (sa : Nat) :
    s.doStewPost w n sa task = (s.addPost w (s.stewPost w n sa)).next1 w := by
  unfold State.doStewPost
  dsimp only
  rw [if_pos (by rw [hk]; cases task <;> decide)]
  rfl

/-- On a ring of the other kind it sets REFUSED instead (R235). -/
theorem doStewPost_refused {s : State} {w : At} {n : Nat} {task : Bool} (hk : (s.ring w.cl n).kind = (!task).toNat) (sa : Nat) :
    s.doStewPost w n sa task = (s.setRing w.cl n { s.ring w.cl n with refused := true }).next1 w := by
  unfold State.doStewPost
  dsimp only
  rw [if_neg (by rw [hk]; cases task <;> decide)]

section
variable {s : State} {w : At} {i : Instr} {n sa : Nat} {task : Bool} {oks : List Bool} (hw : w.who = .steward)
  (hx : exec i s = .next (s.issue w i .steward oks fun s => s.doStewPost w n sa task))
  (h : s.readyFor w i .steward = true) (hok : firstBad oks 0 = none)
include hw hx h hok

theorem stewPost_sent (hk : (s.ring w.cl n).kind = task.toNat) : Done i s fun t =>
    (t.stew w.cl).posts = (s.stew w.cl).posts ++ [s.stewPost w n sa] ∧ Issued w t none ∧
    t = { s with stewards := t.stewards, clusters := t.clusters } := by
  refine done_issue hx h hok ?_
  rw [doStewPost_accepted hk]
  unfold State.addPost
  simp only [hw]
  refine ⟨?_, issued_next1 .., ?_⟩
  · rw [stew_next1 hw, State.stew_setStew]
    rfl
  · rw [next1_steward hw]
    rfl

theorem stewPost_refused (hk : (s.ring w.cl n).kind = (!task).toNat) : Done i s fun t =>
    (t.ring w.cl n).refused = true ∧ (t.stew w.cl).posts = (s.stew w.cl).posts ∧ (t.ring w.cl n).tail = (s.ring w.cl n).tail ∧
    Issued w t none := by
  refine done_issue hx h hok ?_
  rw [doStewPost_refused hk, stew_next1 hw]
  have hr : ((s.setRing w.cl n { s.ring w.cl n with refused := true }).next1 w).ring w.cl n = { s.ring w.cl n with refused := true } := by
    rw [next1_only]
    exact State.ring_setRing ..
  rw [hr]
  exact ⟨rfl, rfl, rfl, issued_next1 ..⟩

end

/-! ### Posts of a core (R81, R83, R130, R233, R241) -/

theorem ranTo_posts (k : Core) (t : Nat) : (k.ranTo t).posts = k.posts := (congrArg Core.posts (ranTo_sameButArray k t) :)

/-- Whose post a core's is (R88, R132). -/
def State.postBy (s : State) (w : At) (c : Cn) : PostBy := ⟨w.ia, (s.core w.cl c).task.getD 0, s.taskCores w.cl c, s.slotOf w.cl c, false⟩

theorem addPost_core {w : At} {c : Cn} (hw : w.who = .core c) (s : State) (p : Post) :
    s.addPost w p = s.setCore w.cl c { s.core w.cl c with posts := (s.core w.cl c).posts ++ [p] } := by
  unfold State.addPost
  rw [hw]

theorem doRpost_plain {s : State} {w : At} {c : Cn} (hw : w.who = .core c) (i : Instr) (n sa : Nat) :
    s.doRpost w i n sa none = (s.addPost w ⟨n, (s.reg w sa).toNat, none, s.postBy w c⟩).next1 w := by
  unfold State.doRpost
  rw [hw]
  rfl

/-- The scoreboard entry of a post with a tile-store side (R81, R241), whose descriptor has no number yet. -/
def postMove (d : BitVec 512) (serial ia x n : Nat) : Move :=
  { kind := if dDstTs d then .ringInto else .ringFrom, serial := serial, ia := ia
    args := ⟨x, .oper, 0, 0, .none, false, 0, 0, .keep⟩, addr := 2 ^ 32, stride := 0, scl := 0, tag := 0
    regions := regionMask (dTsSpan d).1.toNat ((dTsSpan d).2 - (dTsSpan d).1 + 1).toNat, ring := n
    segs := [], lines := [], got := [], rows := 0, buf := Mem.empty, retries := 0, stallSince := none, stalled := none, tripped := false }

/-- RPOST with REGION of a core that no move and no incomplete region keeps waiting: its entry takes slot 0 once what R83 names is
visible, and the post goes out. -/
theorem doRpost_region {s : State} {w : At} {c : Cn} (hw : w.who = .core c) (hm : (s.core w.cl c).moves = [])
    (hi : (s.core w.cl c).incomplete = 0) (i : Instr) (n sa x : Nat) {d : BitVec 512}
    (hd : s.template w c (s.reg w sa).toNat (some x) = some d) : ∃ T,
      s.doRpost w i n sa (some x) = (((s.coreTo w.cl c T).setCore w.cl c
        (((s.core w.cl c).ranTo T).addMove 0 (postMove d (s.core w.cl c).moveSerial w.ia x n))).addPost w
          ⟨n, (s.reg w sa).toNat, some x, s.postBy w c⟩).next1 w := by
  refine ⟨if dDstTs d then (s.core w.cl c).intoClear (regionMask (dTsSpan d).1.toNat ((dTsSpan d).2 - (dTsSpan d).1 + 1).toNat)
    else (s.core w.cl c).outsClear (regionMask (dTsSpan d).1.toNat ((dTsSpan d).2 - (dTsSpan d).1 + 1).toNat), ?_⟩
  unfold State.doRpost
  rw [hw]
  simp only [hd, freeSlot_of_no_moves hm, intoMay_of_no_moves hm, fromMay_of_no_moves hm hi, ite_self, Bool.not_true, Bool.false_eq_true,
    if_false, core_coreTo, ranTo_moveSerial]
  rfl

/-- The operands of a core's RPOST are in range on a data ring that is not the system's, at a source that is a multiple of 64, for a
descriptor that the task may post, and with REGION for one whose single tile-store side lies in the tile store. -/
theorem rpostOks_ok {s : State} {w : At} {c : Cn} (hw : w.who = .core c) {n sa : Nat} {region : Option Nat} (hn : n < 16) (hsa : sa < 32)
    (hal : (s.reg w sa).toNat % 64 = 0) (hk : (s.ring w.cl n).kind = 0) (hsys : (s.ring w.cl n).sys = false)
    (hmem : ∀ d, s.template w c (s.reg w sa).toNat region = some d → (s.slotOf w.cl c).isSome = true → dWritesMem d = false)
    (hr : ∀ x, region = some x → x < 2 ^ 18 ∧
      ∀ d, s.template w c (s.reg w sa).toNat region = some d → dOneSide d = true ∧ spanInTs (dTsSpan d) = true) :
    firstBad (s.rpostOks w n sa region) 0 = none := by
  have hm : ∀ d, s.template w c (s.reg w sa).toNat region = some d → ((s.slotOf w.cl c).isSome && dWritesMem d) = false := fun d e => by
    cases hs : (s.slotOf w.cl c).isSome with
    | false => rfl
    | true => exact hmem d e hs
  unfold State.rpostOks
  cases region with
  | none =>
    cases ht : s.template w c (s.reg w sa).toNat none with
    | none => simp [hw, firstBad, regOk, hn, hk, hsys, hsa, hal, ht]
    | some d => simp [hw, firstBad, regOk, hn, hk, hsys, hsa, hal, ht, hm d ht]
  | some x =>
    obtain ⟨hx, hside⟩ := hr x rfl
    have hx' : decide (x < 2 ^ 18) = true := decide_eq_true hx
    cases ht : s.template w c (s.reg w sa).toNat (some x) with
    | none => simp [hw, firstBad, regOk, hn, hk, hsys, hsa, hal, ht, hx', -Nat.reducePow]
    | some d => simp [hw, firstBad, regOk, hn, hk, hsys, hsa, hal, ht, hm d ht, (hside d ht).1, (hside d ht).2, hx', -Nat.reducePow]

/-- Settles O13: a core's posts by what `doRpost` leaves, a steward core's by the kind of the ring. -/
theorem postsGoOut : Obligations.PostsGoOut := by
  unfold Obligations.PostsGoOut
  intro s w n sa hn hsa hal
  have hoks : firstBad (s.stewPostOks w n sa) 0 = none := by simp [State.stewPostOks, firstBad, regOk, hn, hsa, hal]
  refine ⟨fun c hw hk hsys hmem h => ?plain, fun c x d hw hk hsys hm hi hd hmem hside hspan hx h => ?region,
    fun hw h hk => ?rpost, fun hw h hk => stewPost_sent (task := false) hw rfl h hoks hk, fun hw h hk => stewPost_sent (task := true) hw rfl h hoks hk,
    fun hw h hk => stewPost_refused (task := true) hw rfl h hoks hk, fun hw h hk => stewPost_refused (task := false) hw rfl h hoks hk⟩
  case plain =>
    have hok := rpostOks_ok hw hn hsa hal hk hsys hmem fun x hx => by cases hx
    refine done_issue (exec_rpost_core hw ..) h hok ?_
    rw [doRpost_plain hw, addPost_core hw, core_setCore_next1 _ w c hw]
    exact ⟨rfl, rfl, coreIssued_issued .., (onlyCore_setCore ..).trans (onlyCore_next1 _ w c hw)⟩
  case region =>
    have hok := rpostOks_ok hw hn hsa hal hk hsys (region := some x) (fun d' e => by rw [Option.some.inj (hd.symm.trans e)] at hmem; exact hmem)
      fun y hy => ⟨Option.some.inj hy ▸ hx, fun d' e => by rw [← Option.some.inj (hd.symm.trans e)]; exact ⟨hside, hspan⟩⟩
    obtain ⟨T, he⟩ := doRpost_region hw hm hi (.rpost w n sa (some x)) n sa x hd
    refine done_issue (exec_rpost_core hw ..) h hok ⟨postMove d (s.core w.cl c).moveSerial w.ia x n, ?_⟩
    rw [he, addPost_core hw, core_setCore_next1 _ w c hw, State.core_setCore]
    refine ⟨find_ins_same .., rfl, rfl, rfl, rfl, ?_, ranTo_regs (s.core w.cl c) T, coreIssued_issued .., (onlyCoreM_coreTo ..).trans ((onlyCore_setCore ..).toM.trans
      ((onlyCore_setCore ..).toM.trans (onlyCore_next1 _ w c hw).toM))⟩
    show ((s.core w.cl c).ranTo T).posts ++ _ = _
    rw [ranTo_posts]
    rfl
  case rpost =>
    have hok : firstBad (s.stewPostOks w n sa ++ [true]) 0 = none := by simp [State.stewPostOks, firstBad, regOk, hn, hsa, hal]
    exact stewPost_sent (task := false) hw (exec_rpost_steward hw ..) h hok hk

end Sys2Proof.Machine

namespace Sys2Proof.Machine

open Sys2Proof

/-! ### Tile moves in flight (R81, R86, R87) -/

/-- The move in a slot is a tile move. -/
theorem tileMove_eq {s : State} {cl : Cl} {c : Cn} {slot : Nat} {v : Move} (hv : find (s.core cl c).moves slot = some v)
    (hk : v.kind = .load ∨ v.kind = .store) : s.tileMove cl c slot = some v := by
  unfold State.tileMove
  rw [hv]
  exact if_pos hk

theorem allGot_of_ne {v : Move} (h : v.got.length ≠ v.lines.length) : v.allGot = false := decide_eq_false h
theorem allGot_of_eq {v : Move} (h : v.got.length = v.lines.length) : v.allGot = true := decide_eq_true h

section
variable {s : State} {cl : Cl} {c : Cn} {slot : Nat} {v : Move} (hv : find (s.core cl c).moves slot = some v)
  (hk : v.kind = .load ∨ v.kind = .store)
include hv hk

theorem exec_moveInterrupted (hg : v.got.length ≠ v.lines.length) : exec (.moveInterrupted cl c slot) s = .next (s.interruptMove cl c slot v) := by
  show execMoveInterrupted cl c slot s = _
  simp only [execMoveInterrupted, tileMove_eq hv hk, allGot_of_ne hg, Bool.false_eq_true, if_false]

theorem exec_moveBusError (hg : v.got.length ≠ v.lines.length) (addr status : Nat) :
    exec (.moveBusError cl c slot addr status) s = .next (s.moveRefused cl c v addr status) := by
  show execMoveBusError cl c slot addr status s = _
  simp only [execMoveBusError, tileMove_eq hv hk, allGot_of_ne hg, Bool.false_eq_true, if_false]

theorem exec_moveComplete (hg : v.got.length = v.lines.length) : exec (.moveComplete cl c slot) s = .next (s.setCore cl c { s.core cl c with
    moves := del (s.core cl c).moves slot
    incomplete := if v.kind = .load then (s.core cl c).incomplete &&& ~~~v.regions else (s.core cl c).incomplete }) := by
  show execMoveComplete cl c slot s = _
  simp only [execMoveComplete, tileMove_eq hv hk, allGot_of_eq hg, if_true]

end

theorem core_setMove (s : State) (cl : Cl) (c : Cn) (slot : Nat) (v : Move) :
    (s.setMove cl c slot v).core cl c = { s.core cl c with moves := ins (s.core cl c).moves slot v } := State.core_setCore ..

theorem onlyCore_setMove (s : State) (cl : Cl) (c : Cn) (slot : Nat) (v : Move) : OnlyCore cl c s (s.setMove cl c slot v) := onlyCore_setCore ..

/-- A load that starts again from row 0 (R86). -/
def Move.restartedLoad (v : Move) : Move :=
  { v with segs := moveSegs true v.args v.addr v.stride v.scl, lines := segLines (moveSegs true v.args v.addr v.stride v.scl)
           got := [], rows := 0, buf := Mem.empty, retries := v.retries + 1 }

/-- A store that starts again from row 0 (R86). -/
def Move.restartedStore (v : Move) : Move := { v with got := [], retries := v.retries + 1, stallSince := none, stalled := none, tripped := false }

theorem interruptMove_load {v : Move} (hr : v.retries < 3) (hk : v.kind = .load) (s : State) (cl : Cl) (c : Cn) (slot : Nat) :
    s.interruptMove cl c slot v =
      (s.setCore cl c { s.core cl c with incomplete := (s.core cl c).incomplete ||| v.regions }).setMove cl c slot v.restartedLoad := by
  unfold State.interruptMove
  rw [if_neg (Nat.not_le.2 hr), if_pos hk]
  rfl

theorem interruptMove_store {v : Move} (hr : v.retries < 3) (hk : v.kind = .store) (s : State) (cl : Cl) (c : Cn) (slot : Nat) :
    s.interruptMove cl c slot v = s.setMove cl c slot v.restartedStore := by
  unfold State.interruptMove
  rw [if_neg (Nat.not_le.2 hr), if_neg (by rw [hk]; decide)]
  rfl

/-- A fourth interruption is a move fault: the task aborts and its descriptor is held (R86, R87). -/
theorem interruptMove_fourth {s : State} {cl : Cl} {c : Cn} {v : Move} (hr : 3 ≤ v.retries) {key : Nat} {r : TaskRun}
    (ht : (s.core cl c).task = some key) (h : find (s.clu cl).tasks key = some r) (hn : r.ring < 16) (slot : Nat) :
    TaskHeld s (s.interruptMove cl c slot v) cl key r := by
  unfold State.interruptMove
  rw [if_pos hr]
  exact coreFault_held ht h hn ..

/-- Settles O11: the restarted move by its kind, the fourth interruption as a fault, and the freed slot as `del` leaves it. -/
theorem movesRestartAndComplete : Obligations.MovesRestartAndComplete := by
  unfold Obligations.MovesRestartAndComplete
  intro s cl c slot v hv hk
  refine ⟨fun hg hr => ⟨_, exec_moveInterrupted hv hk hg, ?again⟩,
    fun key r hg hr ht h hn => ⟨_, exec_moveInterrupted hv hk hg, interruptMove_fourth hr ht h hn slot⟩,
    fun hg => ⟨_, exec_moveComplete hv hk hg, ?complete⟩⟩
  case again =>
    rcases hk with hk | hk
    · rw [interruptMove_load hr hk, core_setMove, State.core_setCore]
      exact ⟨v.restartedLoad, find_ins_same .., rfl, rfl, rfl, rfl, rfl, rfl, fun _ => rfl, fun k hn => find_ins_ne _ _ hn,
        (if_pos hk).symm, rfl, rfl, (onlyCore_setCore ..).trans (onlyCore_setMove ..)⟩
    · have hne : v.kind ≠ .load := by rw [hk]; decide
      rw [interruptMove_store hr hk, core_setMove]
      exact ⟨v.restartedStore, find_ins_same .., rfl, rfl, rfl, rfl, rfl, rfl, fun hl => absurd hl hne, fun k hn => find_ins_ne _ _ hn,
        (if_neg hne).symm, rfl, rfl, onlyCore_setMove ..⟩
  case complete =>
    beta_reduce
    rw [State.core_setCore]
    exact ⟨find_del_same .., fun k hn => find_del_ne _ hn, rfl, rfl, rfl, onlyCore_setCore ..⟩

/-! ### A bus error on a move (R69, R87, R88, R124) -/

/-- The fields of the state that a task fault leaves alone. -/
theorem taskFault_frame (s : State) (cl : Cl) (key kind core ia : Nat) (ws : List Nat) (status : Nat) :
    s.taskFault cl key kind core ia ws status = { s with
      cores := (s.taskFault cl key kind core ia ws status).cores, stewards := (s.taskFault cl key kind core ia ws status).stewards
      clusters := (s.taskFault cl key kind core ia ws status).clusters, rings := (s.taskFault cl key kind core ia ws status).rings
      mgmt := (s.taskFault cl key kind core ia ws status).mgmt, accts := (s.taskFault cl key kind core ia ws status).accts
      freeCtr := (s.taskFault cl key kind core ia ws status).freeCtr } := by
  unfold State.taskFault
  split
  · rfl
  · rename_i r _
    dsimp only
    have h := stopTask_frame s cl key (if kind = 7 then 2 else 1)
    generalize s.stopTask cl key (if kind = 7 then 2 else 1) = u at *
    rw [refresh_only, refresh_only]
    rw [h]
    split <;> rfl

theorem coreFault_dram_counters (s : State) (cl : Cl) (c : Cn) (kind ia : Nat) (ws : List Nat) (status : Nat) :
    (s.coreFault cl c kind ia ws status).dram = s.dram ∧ (s.coreFault cl c kind ia ws status).counters = s.counters := by
  unfold State.coreFault
  split
  · rw [taskFault_frame]
    exact ⟨rfl, rfl⟩
  · exact ⟨rfl, rfl⟩

/-- Settles O12: the refusal is told to the management processor, and the move fault is a core's fault. -/
theorem moveFaultsAbortTheTask : Obligations.MoveFaultsAbortTheTask := by
  unfold Obligations.MoveFaultsAbortTheTask
  intro s cl c slot addr status key v r hv hk hg ht h _ hn
  refine ⟨_, exec_moveBusError hv hk hg addr status, ?_⟩
  have hd := coreFault_dram_counters (s.refusal (unitName cl c.val) (s.clPart cl) addr status) cl c 3 v.ia [v.rowsDone, addr, status] status
  exact ⟨coreFault_held (s := s.refusal (unitName cl c.val) (s.clPart cl) addr status) ht h hn .., hd⟩

end Sys2Proof.Machine

namespace Sys2Proof.Machine

open Sys2Proof

/-! ### What a permission check and a request to memory leave (R209, R210) -/

/-- A permission check touches only the permission entries that its cluster has cached. -/
theorem permUse_clu (s : State) (cl : Cl) (page : Nat) : ∃ p, ∀ cl', (s.permUse cl page).1.clu cl' =
    if cl' = cl then { s.clu cl with cache := { (s.clu cl).cache with perm := p } } else s.clu cl' := by
  unfold State.permUse
  dsimp only
  split
  · refine ⟨(s.clu cl).cache.perm, fun cl' => ?_⟩
    split
    · rename_i h; rw [h]
    · rfl
  · exact ⟨_, fun cl' => State.clu_setClu_if ..⟩

theorem permUse_clusters (s : State) (cl : Cl) (page : Nat) : (s.permUse cl page).1 = { s with clusters := (s.permUse cl page).1.clusters } := by
  unfold State.permUse
  dsimp only
  split <;> rfl

section
variable (s : State) (cl : Cl) (page : Nat)

@[simp] theorem permUse_core (cl' : Cl) (c : Cn) : (s.permUse cl page).1.core cl' c = s.core cl' c := by rw [permUse_clusters]; rfl
@[simp] theorem permUse_stew (cl' : Cl) : (s.permUse cl page).1.stew cl' = s.stew cl' := by rw [permUse_clusters]; rfl
@[simp] theorem permUse_ring (cl' : Cl) (n : Nat) : (s.permUse cl page).1.ring cl' n = s.ring cl' n := by rw [permUse_clusters]; rfl

@[simp] theorem permUse_tasks : ((s.permUse cl page).1.clu cl).tasks = (s.clu cl).tasks := by
  obtain ⟨p, hp⟩ := permUse_clu s cl page
  rw [hp, if_pos rfl]

@[simp] theorem permUse_ownHint (l : Nat) : ((s.permUse cl page).1.clu cl).cache.ownHint l = (s.clu cl).cache.ownHint l := by
  obtain ⟨p, hp⟩ := permUse_clu s cl page
  rw [hp, if_pos rfl]
  rfl

@[simp] theorem permUse_readHits (slot : Option Nat) (a n : Nat) : (s.permUse cl page).1.readHits cl slot a n = s.readHits cl slot a n := by
  obtain ⟨p, hp⟩ := permUse_clu s cl page
  unfold State.readHits
  rw [hp, if_pos rfl]
  rfl

@[simp] theorem permUse_lineBusy (l : Nat) : (s.permUse cl page).1.lineBusy cl l = s.lineBusy cl l := by
  obtain ⟨p, hp⟩ := permUse_clu s cl page
  unfold State.lineBusy
  rw [hp, if_pos rfl]

end

/-- A request to memory leaves what a sequencer has: its registers, what issue holds, and where issue goes on. -/
theorem OnlyMemory.sequencer {s t : State} (h : OnlyMemory s t) (w : At) :
    (∀ n, t.reg w n = s.reg w n) ∧ t.holdOf w = s.holdOf w ∧ t.npcOf w = s.npcOf w := by
  rw [h.1]
  exact ⟨fun _ => rfl, rfl, rfl⟩

/-! ### Filling an instruction cache (R127) -/

theorem mem_lruPut (sets ways l : Nat) (ls : List Nat) : l ∈ lruPut sets ways l ls := List.mem_cons_self

section
variable (s : State) (w : At) (l : Nat)

/-- A line that has come stands in the cluster's instruction cache. -/
theorem icache_icFill : l ∈ ((s.icFill w l).clu w.cl).icache := by
  unfold State.icFill State.setFetchBad
  cases w.who with
  | core c => exact (State.clu_setClu ..).symm ▸ mem_lruPut ..
  | steward => exact (State.clu_setClu ..).symm ▸ mem_lruPut ..

/-- It stands in the sequencer's own. -/
theorem icacheOf_icFill : l ∈ (s.icFill w l).icacheOf w := by
  cases hw : w.who with
  | core c =>
    unfold State.icFill State.icacheOf
    simp only [hw, State.core_setCore]
    exact mem_lruPut ..
  | steward =>
    have h := icache_icFill s w l
    unfold State.icacheOf
    simpa only [hw] using h

/-- A fill leaves what the sequencer has beside its instruction cache. -/
theorem icFill_sequencer :
    (∀ n, (s.icFill w l).reg w n = s.reg w n) ∧ (s.icFill w l).holdOf w = s.holdOf w ∧ (s.icFill w l).npcOf w = s.npcOf w := by
  unfold State.icFill State.setFetchBad State.reg State.holdOf State.npcOf
  cases w.who with
  | core c => simp [Core.reg]
  | steward => simp [Steward.reg]

theorem icFill_only : OnlyClusters s (s.icFill w l) := by
  unfold State.icFill State.setFetchBad
  cases w.who <;> rfl

end

/-! ### INSTRUCTION_FETCH_FILL of a demanded line (R127, R128, R209) -/

section
variable {s : State} {w : At} (hr : s.seqRuns w = true) (hh : s.icHit w = false) (hd : s.demand w = true) (ha : isDram w.ia = true)
  (hc : PermCoherent s w.cl)
include hr hh hd ha hc

/-- A line of the cluster's instruction cache comes from there. -/
theorem fetch_near (hx : permX (s.permEntry (s.clPart w.cl) (w.ia / 2 ^ 21)) = true) (hl : lineOf w.ia ∈ (s.clu w.cl).icache) :
    exec (.instructionFetchFill w) s = .next ((s.permUse w.cl (w.ia / 2 ^ 21)).1.icFill w (lineOf w.ia)) := by
  have hl' : (s.clu w.cl).icache.contains (lineOf w.ia) = true := List.contains_iff_mem.2 hl
  show execInstructionFetchFill w s = _
  unfold execInstructionFetchFill
  simp only [hr, hh, hd, ha, permUse_coherent hc, hx, hl', Bool.not_true, Bool.true_or, Bool.or_self, Bool.false_eq_true, if_false,
    if_true]

/-- Another line comes through the cluster cache, where the words read are whole. -/
theorem fetch_far (hx : permX (s.permEntry (s.clPart w.cl) (w.ia / 2 ^ 21)) = true) (hl : lineOf w.ia ∉ (s.clu w.cl).icache)
    (hb : s.lineBusy w.cl (lineOf w.ia) = false) {x : State × Mem × Nat}
    (hread : x = (s.permUse w.cl (w.ia / 2 ^ 21)).1.cacheRead w.cl none (128 * lineOf w.ia) 128 ((s.clu w.cl).cache.ownHint (lineOf w.ia)).1
      ((s.clu w.cl).cache.ownHint (lineOf w.ia)).2 1 (s.readHits w.cl none (128 * lineOf w.ia) 128))
    (h0 : x.2.2 = 0) (hp : x.2.1.anyPoison (128 * lineOf w.ia) 128 = false) :
    exec (.instructionFetchFill w) s = .next (x.1.icFill w (lineOf w.ia)) := by
  have hl' : (s.clu w.cl).icache.contains (lineOf w.ia) = false := by rw [← Bool.not_eq_true, List.contains_iff_mem]; exact hl
  show execInstructionFetchFill w s = _
  unfold execInstructionFetchFill
  simp only [hr, hh, hd, ha, permUse_coherent hc, hx, hl', permUse_ownHint, permUse_readHits, permUse_lineBusy, ← hread, hb, h0, hp, retryStatus,
    Bool.not_true, Bool.not_false, Bool.true_or, Bool.or_self, Bool.false_eq_true, if_false, if_true, Nat.reduceEqDiff, or_self, decide_false]

/-- A line of a page that is not executable faults. -/
theorem fetch_refused (hx : permX (s.permEntry (s.clPart w.cl) (w.ia / 2 ^ 21)) = false) :
    exec (.instructionFetchFill w) s = .next ((s.permUse w.cl (w.ia / 2 ^ 21)).1.fetchFault w) := by
  show execInstructionFetchFill w s = _
  unfold execInstructionFetchFill
  simp only [hr, hh, hd, ha, permUse_coherent hc, hx, Bool.not_true, Bool.not_false, Bool.true_or, Bool.or_self, Bool.or_true,
    Bool.false_eq_true, if_false, if_true]

end

/-- Settles O20: a line fills both instruction caches on the state that the permission check and the read have left; without EXEC the
fetch fault is a core's fault, or stops the steward core. -/
theorem instructionLinesAreFetched : Obligations.InstructionLinesAreFetched := by
  unfold Obligations.InstructionLinesAreFetched
  intro s w hr hh hd ha hc
  refine ⟨fun hx hl => ⟨_, fetch_near hr hh hd ha hc hx hl, ?near⟩,
    fun x hx hl hb hread h0 hp => ⟨_, fetch_far hr hh hd ha hc hx hl hb hread h0 hp, ?far⟩,
    fun hx => ⟨fun c key r hw ht h hn => ⟨_, fetch_refused hr hh hd ha hc hx, ?core⟩, fun hw => ⟨_, fetch_refused hr hh hd ha hc hx, ?steward⟩⟩⟩
  case near =>
    have h1 := permUse_clusters s w.cl (w.ia / 2 ^ 21)
    obtain ⟨ur, uh, un⟩ := (permUse_only s w.cl (w.ia / 2 ^ 21)).sequencer w
    generalize (s.permUse w.cl (w.ia / 2 ^ 21)).1 = u at *
    obtain ⟨tr, th, tn⟩ := icFill_sequencer u w (lineOf w.ia)
    refine ⟨List.contains_iff_mem.2 (icacheOf_icFill ..), icache_icFill .., fun n => (tr n).trans (ur n), th.trans uh, tn.trans un, ?_⟩
    have h2 := icFill_only u w (lineOf w.ia)
    unfold OnlyClusters at h2
    rw [h2, h1]
  case far =>
    have h1 : OnlyMemory s x.1 := hread ▸ (permUse_only ..).trans (cacheRead_only ..)
    obtain ⟨ur, uh, un⟩ := h1.sequencer w
    obtain ⟨tr, th, tn⟩ := icFill_sequencer x.1 w (lineOf w.ia)
    have h2 := icFill_only x.1 w (lineOf w.ia)
    refine ⟨List.contains_iff_mem.2 (icacheOf_icFill ..), icache_icFill .., fun n => (tr n).trans (ur n), th.trans uh, tn.trans un, ?_, ?_⟩
    · rw [h2]
    · unfold OnlyClusters at h2
      obtain ⟨h1, -⟩ := h1
      rw [h2, h1]
  case core =>
    have hf := coreFault_held (s := (s.permUse w.cl (w.ia / 2 ^ 21)).1) (c := c) ((congrArg Core.task (permUse_core ..)).trans ht)
      ((congrArg (find · key) (permUse_tasks ..)).trans h) hn 6 w.ia [] 0
    unfold State.fetchFault
    unfold TaskHeld at *
    simpa only [hw, permUse_ring] using hf
  case steward =>
    unfold State.fetchFault
    simp only [hw, stewardFault_stew]

end Sys2Proof.Machine

namespace Sys2Proof.Machine

open Sys2Proof

/-! ### What the answer of a line touches of memory (R132, R214, R215, R220) -/

theorem reqStatus_dram {a : Nat} (h : isDram a = true) (s : State) (cl : Cl) (w : Bool) :
    (s.reqStatus cl a w).1 = (s.permUse cl (a / 2 ^ 21)).1 := by
  unfold State.reqStatus
  rw [if_neg (by rw [h]; decide)]

@[simp] theorem permUse_slots (s : State) (cl : Cl) (page : Nat) : ((s.permUse cl page).1.clu cl).slots = (s.clu cl).slots := by
  obtain ⟨p, hp⟩ := permUse_clu s cl page
  rw [hp, if_pos rfl]

/-- The limits of R132 depend on the slots alone. -/
theorem shadowLimit_of_slots {v v' : Cluster} (h : v'.slots = v.slots) (k l : Nat) : v'.shadowLimit k l = v.shadowLimit k l := by
  unfold Cluster.shadowLimit Cluster.shadowLines Cluster.shadowInSet Cluster.slot
  rw [h]

theorem slot_of_slots {v v' : Cluster} (h : v'.slots = v.slots) (k : Nat) : v'.slot k = v.slot k := by
  unfold Cluster.slot
  rw [h]

theorem or_and_self {n : Nat} (a b : BitVec n) : (a ||| b) &&& b = b := by
  ext i hi
  simp only [BitVec.getElem_and, BitVec.getElem_or]
  cases a[i] <;> simp

/-- A write leaves its line in the cluster cache: dirty, with its bytes valid, and with the hint and the tag of the access (R214, R215). -/
theorem line_clWrite (s : State) (cl : Cl) (src : Mem) (l : Nat) (mask : BitVec 128) (h : Hint) (tag : Nat) :
    ∃ e, ((s.clWrite cl src l mask h tag).clu cl).cache.line l = some e ∧ e.dirty = true ∧ e.mask &&& mask = mask ∧ e.hint = h ∧ e.tag = tag := by
  unfold State.clWrite
  split
  · rename_i e _
    rw [State.clu_setClu]
    exact ⟨_, find_ins_same .., rfl, or_and_self .., rfl, rfl⟩
  · dsimp only
    rw [State.clu_setClu]
    exact ⟨_, find_ins_same .., rfl, BitVec.and_self, rfl, rfl⟩

/-- A speculative write that is made leaves its bytes written in the slot's shadow of the line (R132). -/
theorem written_shadowWrite {s : State} {cl : Cl} {k : Nat} {src : Mem} {l : Nat} {mask : BitVec 128} {h : Hint} {tag : Nat}
    (hz : (s.shadowWrite cl k src l mask h tag).2 = 0) :
    ∃ b, find (((s.shadowWrite cl k src l mask h tag).1.clu cl).slot k).written l = some b ∧ b &&& mask = mask := by
  unfold State.shadowWrite at hz ⊢
  dsimp only at hz ⊢
  split_ifs at hz ⊢ with hthere hbad
  · rw [State.clu_setClu, slot_setSlot, if_pos rfl]
    exact ⟨_, find_ins_same .., or_and_self ..⟩
  · exact absurd hz hbad.1
  · rw [State.clu_setClu, slot_setSlot, if_pos rfl]
    exact ⟨_, find_ins_same .., BitVec.and_self⟩

theorem askAhead_only (s : State) (cl : Cl) (who : Requester) (l tag cyc : Nat) : OnlyMemory s (s.askAhead cl who l tag cyc) := by
  unfold State.askAhead
  refine OnlyMemory.foldl _ _ (fun s j => ?_) s
  dsimp only
  split
  · exact OnlyMemory.setClu ..
  · split
    · exact OnlyMemory.refl s
    · split
      · exact (permUse_only ..).trans (OnlyMemory.setClu ..)
      · exact permUse_only ..

/-- The stream detectors touch only clusters. -/
theorem detect_only (s : State) (cl : Cl) (who : Requester) (l tag cyc : Nat) : OnlyMemory s (s.detect cl who l tag cyc) := by
  have ask : ∀ (u : State) (v : Cluster), OnlyMemory s u → OnlyMemory s ((u.setClu cl v).askAhead cl who l tag cyc) :=
    fun u v h => h.trans ((OnlyMemory.setClu ..).trans (askAhead_only ..))
  unfold State.detect
  split
  · exact OnlyMemory.refl s
  · dsimp only
    split
    · split
      · exact ask _ _ (OnlyMemory.setClu ..)
      · exact OnlyMemory.setClu ..
    · split
      · split
        · exact ask _ _ (OnlyMemory.setClu ..)
        · exact OnlyMemory.setClu ..
      · exact OnlyMemory.setClu ..

/-! ### What an arriving line of a load does to its core and its move (R80, R81) -/

/-- Two cores that differ at most in the tile store, the bookkeeping of the banks and the edges' latches. -/
def Core.SameButTiles (a b : Core) : Prop :=
  b = { a with
    ts := b.ts, grants := b.grants, readq := b.readq, writeq := b.writeq, bankCyc := b.bankCyc
    bankConf := b.bankConf, reuseHits := b.reuseHits, latchA := b.latchA, latchB := b.latchB }

theorem Core.SameButTiles.trans {a b c : Core} (h : a.SameButTiles b) (k : b.SameButTiles c) : a.SameButTiles c := by
  unfold Core.SameButTiles at *
  rw [k, h]

theorem tsElems_sameButTiles (k : Core) (n a w : Nat) (es : List Elem) : k.SameButTiles (k.tsElems n a w es) := by
  have h := askBanks_sameButBanks k false n (wordsOf a ((es.length * w + 7) / 8))
  refine .trans (b := k.askBanks false n (wordsOf a ((es.length * w + 7) / 8))) ?_ rfl
  unfold Core.SameButBanks at h
  unfold Core.SameButTiles
  rw [h]

/-- Two moves that differ at most in which rows are written. -/
def Move.SameButRows (a b : Move) : Prop := b = { a with rows := b.rows }

/-- The rows of a load that have arrived go to the tile store, and the move notes them. -/
theorem writeRows_spec (k : Core) (v : Move) : k.SameButTiles (k.writeRows v).1 ∧ v.SameButRows (k.writeRows v).2 := by
  unfold Core.writeRows
  refine foldl_inv (p := fun a : Core × Move => k.SameButTiles a.1 ∧ v.SameButRows a.2) _ (k, v) ⟨rfl, rfl⟩ ?_
  rintro ⟨k', v'⟩ r - ⟨hk, hv⟩
  dsimp only at hk hv ⊢
  split
  · refine ⟨hk.trans (tsElems_sameButTiles ..), ?_⟩
    unfold Move.SameButRows at *
    rw [hv]
  · exact ⟨hk, hv⟩

/-- A quire load asks for more lines; nothing else of it differs. -/
theorem askRaw_only (v : Move) : v.askRaw = { v with segs := v.askRaw.segs, lines := v.askRaw.lines } := by
  unfold Move.askRaw
  split <;> rfl

/-- A load with the line at place i taken into its buffer. -/
def Move.withLine (v : Move) (m : Mem) (i : Nat) : Move := { v with buf := copyLine v.buf m (v.lines.getD i 0), got := v.got ++ [i] }

/-- A store with the line at place i taken. -/
def Move.lineTaken (v : Move) (i : Nat) : Move := { v with got := v.got ++ [i], stallSince := none, stalled := none, tripped := false }

/-- A core with a load whose line at place i has come. -/
def State.lineCame (s : State) (cl : Cl) (c : Cn) (slot : Nat) (v : Move) : State :=
  (s.setCore cl c ((s.core cl c).writeRows v.askRaw).1).setMove cl c slot ((s.core cl c).writeRows v.askRaw).2

theorem core_lineCame (s : State) (cl : Cl) (c : Cn) (slot : Nat) (v : Move) : (s.lineCame cl c slot v).core cl c =
    { ((s.core cl c).writeRows v.askRaw).1 with moves := ins (s.core cl c).moves slot ((s.core cl c).writeRows v.askRaw).2 } := by
  unfold State.lineCame
  rw [core_setMove, State.core_setCore, (congrArg Core.moves (writeRows_spec (s.core cl c) v.askRaw).1 :)]

theorem onlyCore_lineCame (s : State) (cl : Cl) (c : Cn) (slot : Nat) (v : Move) : OnlyCore cl c s (s.lineCame cl c slot v) :=
  (onlyCore_setCore ..).trans (onlyCore_setMove ..)

/-! ### MOVE_LINE_RESPONSE (R80, R86, R132, R209, R214) -/

theorem OnlyMemory.core {s t : State} (h : OnlyMemory s t) (cl : Cl) (c : Cn) : t.core cl c = s.core cl c := by
  rw [h.1]
  rfl

/-- A core that has moved behind a request to memory. -/
theorem OnlyMemory.onlyCore {s u t : State} {cl : Cl} {c : Cn} (h : OnlyMemory s u) (k : OnlyCore cl c u t) :
    OnlyMemory { s with cores := t.cores } t ∧ ∀ cl' c', ¬(cl' = cl ∧ c' = c) → t.core cl' c' = s.core cl' c' := by
  obtain ⟨k1, k2⟩ := k
  refine ⟨?_, fun cl' c' hn => (k2 cl' c' hn).trans (h.core cl' c')⟩
  obtain ⟨h1, h2⟩ := h
  generalize t.cores = x at *
  subst k1
  exact ⟨by rw [h1], h2⟩

section
variable {s : State} {cl : Cl} {c : Cn} {slot i : Nat} {v : Move} (hv : find (s.core cl c).moves slot = some v)
  (hi : i < v.lines.length) (hg : i ∉ v.got)
include hv hi hg

theorem exec_moveLineResponse_load (hk : v.kind = .load) : exec (.moveLineResponse cl c slot i) s = .next (s.loadLine cl c slot i v) := by
  have hn : i < v.lines.length ∧ (!v.got.contains i) = true := ⟨hi, by simpa using hg⟩
  show execMoveLineResponse cl c slot i s = _
  simp only [execMoveLineResponse, tileMove_eq hv (.inl hk), if_pos hn, if_pos hk]

theorem exec_moveLineResponse_store (hk : v.kind = .store) : exec (.moveLineResponse cl c slot i) s = .next (s.storeLine cl c slot i v) := by
  have hn : i < v.lines.length ∧ (!v.got.contains i) = true := ⟨hi, by simpa using hg⟩
  have hl : v.kind ≠ .load := by rw [hk]; decide
  show execMoveLineResponse cl c slot i s = _
  simp only [execMoveLineResponse, tileMove_eq hv (.inr hk), if_pos hn, if_neg hl]

end

section
variable {s : State} {cl : Cl} {c : Cn} {i : Nat} {v : Move} (hc : PermCoherent s cl) (hb : s.lineBusy cl (v.lines.getD i 0) = false)
include hc hb

/-- A load's line whose words are good comes to its core, behind the request to memory. -/
theorem loadLine_good (ha : Allowed s cl (128 * v.lines.getD i 0) false)
    (hz : ((s.reqStatus cl (128 * v.lines.getD i 0) false).1.clRead cl (s.slotOf cl c) (128 * v.lines.getD i 0) 128 v.args.hint v.tag 2).2.2 = 0)
    (slot : Nat) : ∃ u m, OnlyMemory s u ∧ s.loadLine cl c slot i v = u.lineCame cl c slot (v.withLine m i) := by
  have hb' : (s.reqStatus cl (128 * v.lines.getD i 0) false).1.lineBusy cl (v.lines.getD i 0) = false := by
    rw [reqStatus_dram ha.1, permUse_lineBusy, hb]
  have hu := (reqStatus_only s cl (128 * v.lines.getD i 0) false).trans
    (clRead_only _ cl (s.slotOf cl c) (128 * v.lines.getD i 0) 128 v.args.hint v.tag 2)
  unfold State.loadLine
  simp only [reqStatus_allowed hc ha, hb', hz, retryStatus, ne_eq, not_true_eq_false, if_false, Bool.false_eq_true, reduceCtorEq]
  split
  · exact ⟨_, _, hu, rfl⟩
  · exact ⟨_, _, hu.trans (detect_only ..), rfl⟩

variable (ha : Allowed s cl (128 * v.lines.getD i 0) true) (hst : v.stalled = none ∨ v.stalled = some i)
include ha hst

omit hc in
/-- Nothing keeps such a line of a store waiting: no commit is at work on it, and no other line of the move stalls. -/
theorem storeLine_free : ¬((s.reqStatus cl (128 * v.lines.getD i 0) true).1.lineBusy cl (v.lines.getD i 0) = true ∨
    (v.stalled.isSome = true ∧ v.stalled ≠ some i)) := by
  rw [reqStatus_dram ha.1, permUse_lineBusy, hb]
  rintro (h | ⟨hsome, hne⟩)
  · cases h
  · rcases hst with h | h
    · rw [h] at hsome
      cases hsome
    · exact hne h

/-- A store's line of a task that is not speculative is taken by the cluster cache. -/
theorem storeLine_taken (hs : s.slotOf cl c = none) (slot : Nat) :
    s.storeLine cl c slot i v = ((s.reqStatus cl (128 * v.lines.getD i 0) true).1.clWrite cl v.buf (v.lines.getD i 0)
      (segMask v.segs (v.lines.getD i 0)) v.args.hint v.tag).setMove cl c slot (v.lineTaken i) := by
  unfold State.storeLine
  simp only [reqStatus_allowed hc ha, if_neg (storeLine_free hb ha hst), hs, ne_eq, not_true_eq_false, if_false]
  rfl

/-- A store's line of a speculative task within the limits of R132 is taken by its slot's shadow. -/
theorem storeLine_shadowed {k : Nat} (hs : s.slotOf cl c = some k) (hl : (s.clu cl).shadowLimit k (v.lines.getD i 0) = none)
    (hz : ((s.reqStatus cl (128 * v.lines.getD i 0) true).1.shadowWrite cl k v.buf (v.lines.getD i 0) (segMask v.segs (v.lines.getD i 0))
      v.args.hint v.tag).2 = 0) (slot : Nat) :
    s.storeLine cl c slot i v = ((s.reqStatus cl (128 * v.lines.getD i 0) true).1.shadowWrite cl k v.buf (v.lines.getD i 0)
      (segMask v.segs (v.lines.getD i 0)) v.args.hint v.tag).1.setMove cl c slot (v.lineTaken i) := by
  have hl' : ((s.reqStatus cl (128 * v.lines.getD i 0) true).1.clu cl).shadowLimit k (v.lines.getD i 0) = none := by
    rw [reqStatus_dram ha.1, shadowLimit_of_slots (permUse_slots ..), hl]
  unfold State.storeLine
  simp only [reqStatus_allowed hc ha, if_neg (storeLine_free hb ha hst), hs, hl', hz, ne_eq, not_true_eq_false, if_false, if_true]
  rfl

/-- Beyond a limit of R132 the line stalls the move, and the slot's home is told. -/
theorem storeLine_stalls {k lim : Nat} (hs : s.slotOf cl c = some k) (hl : (s.clu cl).shadowLimit k (v.lines.getD i 0) = some lim)
    (hn : v.stallSince = none) (slot : Nat) : ∃ home r,
    s.storeLine cl c slot i v = ((s.reqStatus cl (128 * v.lines.getD i 0) true).1.setMove cl c slot
      { v with stallSince := some s.now, stalled := some i }).pushEv home r := by
  have hl' : ((s.reqStatus cl (128 * v.lines.getD i 0) true).1.clu cl).shadowLimit k (v.lines.getD i 0) = some lim := by
    rw [reqStatus_dram ha.1, shadowLimit_of_slots (permUse_slots ..), hl]
  unfold State.storeLine
  simp only [reqStatus_allowed hc ha, if_neg (storeLine_free hb ha hst), hs, hl', hn, ne_eq, not_true_eq_false, if_false,
    Option.isSome_none, Bool.false_eq_true]
  exact ⟨_, _, rfl⟩

end

/-- What setting a move behind a request to memory leaves of the core, and of the state beside it. -/
theorem setMove_behind {s u : State} (h : OnlyMemory s u) (cl : Cl) (c : Cn) (slot : Nat) (v : Move) :
    (u.setMove cl c slot v).core cl c = { s.core cl c with moves := ins (s.core cl c).moves slot v } ∧
    OnlyMemory { s with cores := (u.setMove cl c slot v).cores } (u.setMove cl c slot v) ∧
    ∀ cl' c', ¬(cl' = cl ∧ c' = c) → (u.setMove cl c slot v).core cl' c' = s.core cl' c' := by
  refine ⟨?_, h.onlyCore (onlyCore_setMove ..)⟩
  rw [core_setMove, h.core]

/-- Settles O10: the answered line's move behind the request to memory, by the lemma on its case. -/
theorem moveLinesAreAnswered : Obligations.MoveLinesAreAnswered := by
  unfold Obligations.MoveLinesAreAnswered
  intro s cl c slot i v hv hc hi hg hb
  refine ⟨fun hk ha hz => ⟨_, exec_moveLineResponse_load hv hi hg hk, ?load⟩,
    fun hk hst hs ha => ⟨_, exec_moveLineResponse_store hv hi hg hk, ?store⟩,
    fun k hk hst hs ha hl hz => ⟨_, exec_moveLineResponse_store hv hi hg hk, ?shadow⟩,
    fun k lim hk hst hss hs ha hl => ⟨_, exec_moveLineResponse_store hv hi hg hk, ?stall⟩⟩
  case load =>
    obtain ⟨u, m, hu, he⟩ := loadLine_good hc hb ha hz slot
    have hf := hu.onlyCore (onlyCore_lineCame u cl c slot (v.withLine m i))
    obtain ⟨hsame, hrows⟩ := writeRows_spec (s.core cl c) (v.withLine m i).askRaw
    have hraw := askRaw_only (v.withLine m i)
    rw [he, core_lineCame, hu.core]
    generalize ((s.core cl c).writeRows (v.withLine m i).askRaw).1 = x at *
    generalize ((s.core cl c).writeRows (v.withLine m i).askRaw).2 = v' at *
    unfold Core.SameButTiles at hsame
    unfold Move.SameButRows at hrows
    rw [hraw] at hrows
    refine ⟨v', find_ins_same .., ?_, ?_, ?_, ?_, fun k hn => find_ins_ne _ _ hn, ?_, ?_, hf⟩
    · rw [hrows]; rfl
    · rw [hrows]; rfl
    · rw [hrows]; rfl
    · rw [hrows]; exact hk
    · rw [hsame]
    · rw [hsame]
  case store =>
    obtain ⟨e, hline, hdirty, hmask, hhint, htag⟩ := line_clWrite (s.reqStatus cl (128 * v.lines.getD i 0) true).1 cl v.buf (v.lines.getD i 0)
      (segMask v.segs (v.lines.getD i 0)) v.args.hint v.tag
    have hu := (reqStatus_only s cl (128 * v.lines.getD i 0) true).trans (clWrite_only _ cl v.buf (v.lines.getD i 0)
      (segMask v.segs (v.lines.getD i 0)) v.args.hint v.tag)
    obtain ⟨hk', hf⟩ := setMove_behind hu cl c slot (v.lineTaken i)
    rw [storeLine_taken hc hb ha hst hs, hk']
    exact ⟨v.lineTaken i, e, find_ins_same .., rfl, hline, hdirty, hmask, hhint, htag, rfl, rfl, fun k hn => find_ins_ne _ _ hn, hf⟩
  case shadow =>
    obtain ⟨b, hwritten, hmask⟩ := written_shadowWrite hz
    have hu := (reqStatus_only s cl (128 * v.lines.getD i 0) true).trans (shadowWrite_only _ cl k v.buf (v.lines.getD i 0)
      (segMask v.segs (v.lines.getD i 0)) v.args.hint v.tag)
    obtain ⟨hk', hf⟩ := setMove_behind hu cl c slot (v.lineTaken i)
    rw [storeLine_shadowed hc hb ha hst hs hl hz, hk']
    exact ⟨v.lineTaken i, b, find_ins_same .., rfl, hwritten, hmask, rfl, rfl, hf⟩
  case stall =>
    obtain ⟨home, r, he⟩ := storeLine_stalls hc hb ha (.inl hst) hs hl hss slot
    rw [he, reqStatus_dram ha.1, State.core_of_pushEv, core_setMove]
    refine ⟨_, find_ins_same .., rfl, rfl, rfl, ?_, ?_, ?_⟩
    · exact congrArg Slot.written (slot_of_slots (permUse_slots ..) k)
    · exact (congrArg State.dram (permUse_clusters ..) :)
    · exact (congrArg Core.regs (permUse_core s cl (128 * v.lines.getD i 0 / 2 ^ 21) cl c) :)

end Sys2Proof.Machine

namespace Sys2Proof.Machine

open Sys2Proof

/-! ### What stopping tasks and rings leaves alone (R125, R154, R245) -/

/-- A property that one step of a fold brings about and every step keeps holds at its end. -/
theorem foldl_reaches {α β : Type} {p : β → Prop} {f : β → α → β} {l : List α} {a : α} (ha : a ∈ l) (b : β)
    (hr : ∀ b, p (f b a)) (hf : ∀ b x, x ∈ l → p b → p (f b x)) : p (l.foldl f b) := by
  induction l generalizing b with
  | nil => cases ha
  | cons x l ih =>
    rw [List.foldl_cons]
    rcases List.mem_cons.1 ha with h | h
    · subst h
      exact foldl_inv l _ (hr b) fun u y hy => hf u y (List.mem_cons_of_mem _ hy)
    · exact ih h _ fun u y hy => hf u y (List.mem_cons_of_mem _ hy)

/-- What a stop of tasks and rings does not touch. -/
structure StopView where
  parts : SMap Part
  counters : SMap Counter
  net : Net
  fabric : Fabric
  dram : DramSt
  totals : CkTotals
  dict : Dict
  ports : Ports
  now : Nat
  /-- Whether a cluster's dispatchers are stopped. -/
  dispStopped : Cl → Bool

/-- The state as a stop of tasks and rings leaves it. -/
def State.stopView (s : State) : StopView :=
  ⟨s.parts, s.counters, s.net, s.fabric, s.dram, s.totals, s.dict, s.ports, s.now, fun cl => (s.clu cl).dispStopped⟩

theorem stopView_of {s t : State} (h : t = { s with
    cores := t.cores, stewards := t.stewards, rings := t.rings, accts := t.accts, mgmt := t.mgmt, freeCtr := t.freeCtr }) : t.stopView = s.stopView := by
  rw [h]
  rfl

theorem part_of_stopView {s t : State} (h : t.stopView = s.stopView) (q : Nat) : t.part q = s.part q :=
  congrArg (look Part.init · q) (congrArg StopView.parts h : t.parts = s.parts)

/-- A cluster that is rewritten with its dispatchers as they were. -/
theorem stopView_setClu (s : State) (cl : Cl) {v : Cluster} (h : v.dispStopped = (s.clu cl).dispStopped) :
    (s.setClu cl v).stopView = s.stopView := by
  have hd : (fun cl' => ((s.setClu cl v).clu cl').dispStopped) = fun cl' => (s.clu cl').dispStopped := by
    funext cl'
    rw [State.clu_setClu_if]
    split
    · next e => rw [h, e]
    · rfl
  unfold State.stopView
  rw [hd]
  rfl

section
variable (s : State)

@[simp] theorem stopView_setRing (cl : Cl) (n : Nat) (v : Ring) : (s.setRing cl n v).stopView = s.stopView := rfl
@[simp] theorem stopView_setStew (cl : Cl) (v : Steward) : (s.setStew cl v).stopView = s.stopView := rfl
@[simp] theorem stopView_pushEv (cl : Cl) (r : BitVec 512) : (s.pushEv cl r).stopView = s.stopView := rfl
@[simp] theorem stopView_report (unit part ia kind status taskId : Nat) : (s.report unit part ia kind status taskId).stopView = s.stopView := rfl
@[simp] theorem stopView_fresh : s.fresh.2.stopView = s.stopView := rfl
@[simp] theorem stopView_trueUp (cl : Cl) (r : TaskRun) : (s.trueUp cl r).stopView = s.stopView := rfl

@[simp] theorem stopView_abortCores (cl : Cl) (m : BitVec 12) : (s.abortCores cl m).stopView = s.stopView :=
  stopView_of (by rw [abortCores_frame])
@[simp] theorem stopView_voidPosts (cl : Cl) (key : Nat) : (s.voidPosts cl key).stopView = s.stopView :=
  stopView_of (by rw [voidPosts_only])
@[simp] theorem stopView_refreshRing (cl : Cl) (n : Nat) : (s.refreshRing cl n).stopView = s.stopView :=
  stopView_of (by rw [refreshRing_only])
@[simp] theorem stopView_refresh (cl : Cl) : (s.refresh cl).stopView = s.stopView :=
  stopView_of (by rw [refresh_only])

@[simp] theorem stopView_trace (cl : Cl) (r : Rec) : (s.trace cl r).stopView = s.stopView := by
  unfold State.trace
  split
  · exact stopView_setClu s cl rfl
  · rfl

@[simp] theorem stopView_traceFlush (cl : Cl) : (s.traceFlush cl).stopView = s.stopView := by
  unfold State.traceFlush
  dsimp only
  split
  · exact stopView_setClu s cl rfl
  · rfl

@[simp] theorem stopView_traceEnd (r : TaskRun) (outcome : Nat) : (s.traceEnd r outcome).stopView = s.stopView :=
  (stopView_traceFlush ..).trans (stopView_trace ..)

@[simp] theorem stopView_stopTask (cl : Cl) (key outcome : Nat) : (s.stopTask cl key outcome).stopView = s.stopView := by
  unfold State.stopTask
  split
  · rfl
  · next r _ =>
    dsimp only
    generalize hu : State.traceEnd _ r outcome = u
    have h : u.stopView = s.stopView := by
      rw [← hu]
      simp
    refine Eq.trans (stopView_setClu u cl ?_) h
    rfl

@[simp] theorem stopView_taskFault (cl : Cl) (key kind core ia : Nat) (ws : List Nat) (status : Nat) :
    (s.taskFault cl key kind core ia ws status).stopView = s.stopView := by
  unfold State.taskFault
  split
  · rfl
  · dsimp only
    generalize hu : s.stopTask cl key _ = u
    have h : u.stopView = s.stopView := hu ▸ stopView_stopTask ..
    split
    · next k _ => simp [h, stopView_setClu u cl (v := (u.clu cl).setSlot k { (u.clu cl).slot k with st := .discarding, cause := 2 }) rfl]
    · simp [h]

@[simp] theorem stopView_coreFault (cl : Cl) (c : Cn) (kind ia : Nat) (ws : List Nat) (status : Nat) :
    (s.coreFault cl c kind ia ws status).stopView = s.stopView := by
  unfold State.coreFault
  split
  · exact stopView_taskFault ..
  · rfl

@[simp] theorem stopView_haltRing (cl : Cl) (n cause erraddr status : Nat) : (s.haltRing cl n cause erraddr status).stopView = s.stopView := by
  unfold State.haltRing
  dsimp only
  generalize hu : (if cause = 1 ∨ (s.ring cl n).isTask = true then _ else _ : State) = u
  have h : u.stopView = s.stopView := by
    rw [← hu]
    split <;> rfl
  split
  · split
    · rw [stopView_coreFault]
      split <;> exact h
    · exact h
  · exact h

@[simp] theorem stopView_hangRings (cl : Cl) : (s.hangRings cl).stopView = s.stopView := by
  unfold State.hangRings
  refine foldl_proj (g := State.stopView) _ s fun u n => ?_
  dsimp only
  split
  · rfl
  · split
    · exact stopView_haltRing ..
    · rfl
    · exact stopView_haltRing ..

@[simp] theorem stopView_endStewWait (cl : Cl) (outcome : Nat) : (s.endStewWait cl outcome).stopView = s.stopView := by
  unfold State.endStewWait
  dsimp only
  split
  · split <;> rfl
  · rfl

@[simp] theorem stopView_abortAll (cl : Cl) : (s.abortAll cl).stopView = s.stopView := by
  unfold State.abortAll
  dsimp only
  refine (foldl_proj (g := State.stopView) _ _ fun u k => ?_).trans (foldl_proj (g := State.stopView) _ s fun u e => ?_)
  · split
    · exact stopView_setClu u cl rfl
    · rfl
  · exact stopView_stopTask u cl e.1 2

@[simp] theorem stopView_withdraw (cl : Cl) (n : Nat) : (s.withdraw cl n).stopView = s.stopView := by
  unfold State.withdraw
  dsimp only
  split <;> rfl

@[simp] theorem stopView_ringStop (cl : Cl) (n : Nat) : (s.ringStop cl n).stopView = s.stopView := by
  unfold State.ringStop
  dsimp only
  split
  · split
    · rfl
    · exact (stopView_refreshRing ..).trans ((stopView_haltRing ..).trans (stopView_withdraw ..))
  all_goals rfl

@[simp] theorem stopView_stopRings (cl : Cl) : (s.stopRings cl).stopView = s.stopView := by
  unfold State.stopRings
  refine foldl_proj (g := State.stopView) _ s fun u n => ?_
  split
  · exact stopView_ringStop u cl n
  · rfl

end

/-! ### The examination of waits, and a hang (R153, R154, R377) -/

/-- What the marks of waits over the timeout leave alone: partitions, counters, memory, and the registers of a cluster's cores. -/
def State.markView (s : State) (cl : Cl) : SMap Part × SMap Counter × DramSt × (Cn → SMap Word) :=
  (s.parts, s.counters, s.dram, fun c => (s.core cl c).regs)

theorem markView_setCore (s : State) (cl : Cl) (c : Cn) {v : Core} (h : v.regs = (s.core cl c).regs) :
    (s.setCore cl c v).markView cl = s.markView cl := by
  have hr : (fun c' => ((s.setCore cl c v).core cl c').regs) = fun c' => (s.core cl c').regs := by
    funext c'
    rw [State.core_setCore_if]
    split
    · next e => rw [h, e.2]
    · rfl
  unfold State.markView
  rw [hr]
  rfl

theorem markView_setStew (s : State) (cl : Cl) (v : Steward) : (s.setStew cl v).markView cl = s.markView cl := rfl
theorem markView_setRing (s : State) (cl : Cl) (n : Nat) (v : Ring) : (s.setRing cl n v).markView cl = s.markView cl := rfl

theorem markView_trip (s : State) (cl : Cl) (limit : Nat) : (s.trip cl limit).markView cl = s.markView cl := by
  unfold State.trip
  dsimp only
  refine (foldl_proj (g := (State.markView · cl)) _ _ fun u n => ?_).trans ((markView_setStew ..).trans
    (foldl_proj (g := (State.markView · cl)) allCn s fun u c => markView_setCore u cl c rfl))
  split
  · exact markView_setRing ..
  · rfl

section
variable {s : State} {cl : Cl}

/-- A wait of the cluster is over the timeout: it is marked, and HANG is due. -/
theorem waitExamination_over (hp : s.clPart cl < 16) (hr : (s.part (s.clPart cl)).run = .running) (hh : s.anyHalted (s.clPart cl) = false)
    (hn : s.now % 100 = 0) (hw : ∃ w ∈ s.waitsOf cl, s.obj 0x3022 (s.clPart cl + 1) * 1000 ≤ w.age s) :
    exec (.waitExamination cl) s = .next ((s.trip cl (s.waitTimeout (s.clPart cl))).setPart (s.clPart cl)
      { s.part (s.clPart cl) with hangDue := true }) := by
  have ho : s.anyOver cl (s.waitTimeout (s.clPart cl)) = true := by
    exact List.any_eq_true.2 (hw.imp fun w h => ⟨h.1, decide_eq_true h.2⟩)
  show execWaitExamination cl s = _
  unfold execWaitExamination
  dsimp only
  rw [if_neg (by simp [hn, hr, hh]; omega), if_pos ho]

theorem waitExamination_under (hw : ∀ w ∈ s.waitsOf cl, w.age s < s.obj 0x3022 (s.clPart cl + 1) * 1000) :
    exec (.waitExamination cl) s = .next s := by
  have ho : s.anyOver cl (s.waitTimeout (s.clPart cl)) = false := by
    exact List.any_eq_false.2 fun w h => fun hd => absurd (hw w h) (Nat.not_lt.2 (of_decide_eq_true hd))
  show execWaitExamination cl s = _
  unfold execWaitExamination
  dsimp only
  rw [if_neg (c := s.anyOver _ _ = true) (by rw [ho]; simp)]
  split <;> rfl

end

/-- Increments that land at a freeze reach counters, waits and counts of drops; memory, the time and the dispatchers stay. -/
theorem landAll_keeps (s : State) (p : Nat) : (s.landAll p).dram = s.dram ∧ (s.landAll p).now = s.now ∧ (s.landAll p).clusters = s.clusters := by
  unfold State.landAll
  refine foldl_inv (p := fun u : State => u.dram = s.dram ∧ u.now = s.now ∧ u.clusters = s.clusters) _ _ ⟨rfl, rfl, rfl⟩ fun u k _ h => ?_
  unfold State.applyInc
  dsimp only
  split
  · exact h
  · rw [wake_only]
    exact h

theorem stopDispatch_stops {s : State} {p : Nat} {cl : Cl} (h : cl ∈ s.clustersOf p) : ((s.stopDispatch p).clu cl).dispStopped = true := by
  unfold State.stopDispatch
  refine foldl_reaches (p := fun u : State => (u.clu cl).dispStopped = true) h s (fun u => ?_) fun u d _ hu => ?_
  · rw [State.clu_setClu]
  · rw [State.clu_setClu_if]
    split
    · rfl
    · exact hu

/-- The partition's record at a freeze (R154, R377). -/
def Part.hungWith (v : Part) (d : Dump) : Part := { v with
  dump := some d, dumpBytes := 0, dumpDue := true, stopCause := d.cause, frozen := true, run := .hung, hangDue := false, mirroring := []
  restoring := 0, rolling := none, watching := false, dropDies := 0, dropLater := 0, releaseDue := false }

/-- A hang freezes the partition with its dump, and stops its dispatchers; memory stays as it is (R154). -/
theorem hangStop_spec (s : State) (p cause unit : Nat) : (s.hangStop p cause unit).dram = s.dram ∧
    (∀ cl ∈ s.clustersOf p, ((s.hangStop p cause unit).clu cl).dispStopped = true) ∧
    ∃ v d, (s.hangStop p cause unit).part p = Part.hungWith v d ∧ d.cause = cause ∧ d.freeze = s.now := by
  obtain ⟨hd, hn, hc⟩ := landAll_keeps (s.stopDispatch p) p
  have hd' : (s.stopDispatch p).dram = s.dram := foldl_proj (g := State.dram) _ s fun _ _ => rfl
  have hn' : (s.stopDispatch p).now = s.now := foldl_proj (g := State.now) _ s fun _ _ => rfl
  have hs := fun (cl : Cl) (h : cl ∈ s.clustersOf p) => stopDispatch_stops h
  unfold State.hangStop State.takeDump
  dsimp only
  generalize (s.stopDispatch p).landAll p = u at *
  generalize hx : State.setPart _ p _ = x
  have hv := foldl_proj (g := State.stopView) (f := fun s cl => (((s.abortAll cl).endStewWait cl 2).hangRings cl).traceFlush cl) (x.clustersOf p) x
    fun y cl => (stopView_traceFlush ..).trans ((stopView_hangRings ..).trans ((stopView_endStewWait ..).trans (stopView_abortAll ..)))
  refine ⟨(congrArg StopView.dram hv : _).trans ?_, fun cl h => (congrFun (congrArg StopView.dispStopped hv) cl).trans ?_, ?_⟩
  · rw [← hx]
    exact hd.trans hd'
  · have hxc : x.clu cl = (s.stopDispatch p).clu cl := by
      rw [← hx]
      exact congrArg (look Cluster.init · cl.val) hc
    exact (congrArg Cluster.dispStopped hxc).trans (hs cl h)
  · refine ⟨u.part p, u.dumpOf p cause unit (u.clustersOf p), ?_, rfl, hn.trans hn'⟩
    rw [part_of_stopView hv, ← hx, State.part_setPart, State.part_setPart]
    rfl

end Sys2Proof.Machine

namespace Sys2Proof.Machine

open Sys2Proof

/-! ### Telling the host of the partition (R294, R295, R377) -/

/-- An event sent from a state that tells of the partition what s tells, and that no later part of the command touches. -/
theorem event_hostEv {s u t : State} {p : Nat} (hd : u.dict = s.dict) (hp : u.ports = s.ports) (hn : u.now = s.now)
    (hs : (u.part p).stepNow = (s.part p).stepNow) {code die unit detail aux : Nat}
    (ht : t.ports = (u.hostEv p code die unit detail aux).ports) : Event s t p code die unit detail aux := by
  intro f hf hlen
  have hfn : ∀ g, u.fn g = s.fn g := fun g => congrArg (fun x : Ports => look Fn.init x.fns g) hp
  have hb : u.fnOf p = s.fnOf p := by
    unfold State.fnOf State.bound State.obj
    rw [hd]
  have h := hostEv_told (hb.trans hf) code die unit detail aux (by rw [hfn]; exact hlen)
  rw [hfn, hn, hs] at h
  rw [show t.fn f = (u.hostEv p code die unit detail aux).fn f from congrArg (fun x : Ports => look Fn.init x.fns f) ht]
  exact h

@[simp] theorem hostEv_parts (s : State) (p code die unit detail aux : Nat) : (s.hostEv p code die unit detail aux).parts = s.parts := by
  rw [hostEv_only]

theorem fenceTold_keeps (s : State) : s.fenceTold.parts = s.parts ∧ s.fenceTold.counters = s.counters ∧ s.fenceTold.dram = s.dram ∧
    s.fenceTold.cores = s.cores := by
  unfold State.fenceTold
  split <;> exact ⟨rfl, rfl, rfl, rfl⟩

theorem fenceTold_of_not_due {s : State} (h : s.mgmt.fencedDue = false) : s.fenceTold = s := by
  unfold State.fenceTold
  rw [if_neg (by simp [h])]

theorem bits_die (u : Nat) : bits 23 22 u = u / 2 ^ 22 % 4 := rfl

/-- DUMP_COMPLETE of a dump that is due: the length of the dump, and the host told of a cause of R377. -/
theorem dumpComplete_spec {s : State} {p : Pn} {d : Dump} (hd : (s.part p.val).dump = some d) (hdue : (s.part p.val).dumpDue = true) :
    Done (.dumpComplete p) s fun t => (t.part p.val).dumpDue = false ∧ (t.part p.val).dumpBytes = (d.bytes p.val).length ∧
      (t.part p.val).dump = some d ∧ t.counters = s.counters ∧ t.dram = s.dram ∧ t.cores = s.cores ∧
      (d.cause = 3 → s.mgmt.fencedDue = false → Event s t p.val 2 (d.unit / 2 ^ 22 % 4) d.unit 0 0) := by
  refine ⟨_, rfl, ?_⟩
  dsimp only
  rw [hd]
  dsimp only
  rw [if_neg (by simp [hdue])]
  generalize hu : s.setPart p.val _ = u
  have hup : u.part p.val = { s.part p.val with dumpDue := false, dumpBytes := (d.bytes p.val).length } := by
    rw [← hu, State.part_setPart]
    dsimp only
    rw [hd]
  generalize hx : (if d.cause = 1 ∨ d.cause = 2 then _ else _ : State) = x
  have hxu : x = { u with ports := x.ports, mgmt := x.mgmt } := by
    rw [← hx]
    split
    · unfold State.logEvent State.logRec
      rw [hostEv_only]
    · split
      · rw [hostEv_only]
      · rfl
  obtain ⟨hparts, hctr, hdram, hcores⟩ := fenceTold_keeps x
  have htp : x.fenceTold.part p.val = u.part p.val := by
    refine (congrArg (look Part.init · p.val) hparts).trans ?_
    rw [hxu]
    rfl
  rw [htp, hup, hctr, hdram, hcores]
  refine ⟨rfl, rfl, hd, ?_, ?_, ?_, fun hc hf => ?_⟩
  · rw [hxu, ← hu]; rfl
  · rw [hxu, ← hu]; rfl
  · rw [hxu, ← hu]; rfl
  · rw [if_neg (by omega), if_pos hc] at hx
    have hxf : x.fenceTold = x := fenceTold_of_not_due (by rw [← hx, hostEv_only, ← hu]; exact hf)
    rw [hxf, ← bits_die]
    refine event_hostEv (u := u) ?_ ?_ ?_ (by rw [hup]) (by rw [hx])
    all_goals
      rw [← hu]
      rfl

/-! ### A micro-batch that is dropped: its rings stop (R112, R245) -/

/-- A ring that halts STOPPED faults no task and tells no one (R245): only its own record changes. -/
theorem haltRing_stopped (s : State) (cl : Cl) (n erraddr status : Nat) : s.haltRing cl n 1 erraddr status =
    s.setRing cl n { s.ring cl n with
      st := .halted, cause := 1, stopAs := 0, erraddr := erraddr, ph := .unread, next := 0, retries := 0, sum := 0
      sumBytes := 0, waitSince := none, tripped := false } := by
  unfold State.haltRing
  dsimp only
  rw [if_pos (Or.inl rfl)]
  split
  · rw [if_neg (by simp)]
  · rfl

theorem st_withdraw (s : State) (cl cl' : Cl) {n n' : Nat} (hn : n < 16) (hn' : n' < 16) :
    ((s.withdraw cl n).ring cl' n').st = (s.ring cl' n').st := by
  unfold State.withdraw
  dsimp only
  split
  · rw [State.ring_setRing_if _ _ _ hn hn']
    split
    · next h => rw [h.1, h.2]
    · rfl
  · rfl

/-- A running ring that is stopped runs no more; every other ring's state stays. -/
theorem st_ringStop {s : State} {cl : Cl} {n : Nat} (hr : (s.ring cl n).st = .running) (hn : n < 16) (cl' : Cl) {n' : Nat} (hn' : n' < 16) :
    ((s.ringStop cl n).ring cl' n').st =
      if cl' = cl ∧ n' = n then (if (s.ring cl n).ph = .moving then .stopping else .halted) else (s.ring cl' n').st := by
  unfold State.ringStop
  dsimp only
  rw [hr]
  dsimp only
  split
  · rw [State.ring_setRing_if _ _ _ hn hn']
    split <;> rfl
  · rw [haltRing_stopped]
    refine (congrArg Ring.st (refreshRing_ring _ cl cl' hn hn') :).trans ?_
    rw [State.ring_setRing_if _ _ _ hn hn']
    split
    · rfl
    · exact st_withdraw s cl cl' hn hn'

/-- Stopping the rings of a cluster that run sets none running. -/
theorem stopRings_keeps_stopped (s : State) (cl cl' : Cl) {n' : Nat} (hn' : n' < 16) (h : (s.ring cl' n').st ≠ .running) :
    ((s.stopRings cl).ring cl' n').st ≠ .running := by
  unfold State.stopRings
  refine foldl_inv (p := fun u : State => (u.ring cl' n').st ≠ .running) _ s h fun u n hmem hu => ?_
  split
  · next hr =>
    rw [st_ringStop hr (List.mem_range.1 hmem) cl' hn']
    split
    · split <;> simp
    · exact hu
  · exact hu

theorem stopRings_stops (s : State) (cl : Cl) {n : Nat} (hn : n < 16) : ((s.stopRings cl).ring cl n).st ≠ .running := by
  unfold State.stopRings
  refine foldl_reaches (p := fun u : State => (u.ring cl n).st ≠ .running) (List.mem_range.2 hn) s (fun u => ?_) fun u m hmem hu => ?_
  · split
    · next hr =>
      rw [st_ringStop hr hn cl hn, if_pos ⟨rfl, rfl⟩]
      split <;> simp
    · next hr => exact hr
  · split
    · next hr =>
      rw [st_ringStop hr (List.mem_range.1 hmem) cl hn]
      split
      · split <;> simp
      · exact hu
    · exact hu

/-- What the beginning of a drop leaves (R112, steps 1 and 2). -/
theorem beginDrop_spec (s : State) (p d : Nat) :
    (s.beginDrop p d).part p = { s.part p with
      dieValid := (s.part p).dieValid &&& ~~~BitVec.ofNat 4 (2 ^ d), dropDies := (s.part p).dropDies ||| BitVec.ofNat 4 (2 ^ d) } ∧
    (∀ cl ∈ s.clustersOn p d, ∀ n < 16, ((s.beginDrop p d).ring cl n).st ≠ .running) ∧
    (s.beginDrop p d).dram = s.dram ∧ (s.beginDrop p d).counters = s.counters ∧ (s.beginDrop p d).net = s.net := by
  unfold State.beginDrop
  dsimp only
  generalize hu : s.setPart p _ = u
  have hv : ((s.clustersOn p d).foldl State.stopRings u).stopView = u.stopView := foldl_proj _ _ stopView_stopRings
  refine ⟨?_, fun cl hcl n hn => ?_, ?_, ?_, ?_⟩
  · rw [part_of_stopView hv, ← hu, State.part_setPart]
  · exact foldl_reaches (p := fun x : State => (x.ring cl n).st ≠ .running) hcl u (fun x => stopRings_stops x cl hn)
      fun x cl' _ hx => stopRings_keeps_stopped x cl' cl hn hx
  · exact (congrArg StopView.dram hv : _).trans (by rw [← hu]; rfl)
  · exact (congrArg StopView.counters hv : _).trans (by rw [← hu]; rfl)
  · exact (congrArg StopView.net hv : _).trans (by rw [← hu]; rfl)

/-! ### The end of a drop (R112 to R114, R279, R280) -/

/-- Whether the end of a drop raises a counter of a partition (R112, step 3). -/
def State.raises (s : State) (p n : Nat) : Prop :=
  nameOk n = true ∧ s.clPart (nameCl n) = p ∧ (s.part p).frozen = false ∧ reaches (s.ctr n).expected (s.ctr n).value = true

/-- What raising a counter leaves alone. -/
def State.raiseView (s : State) : State := { s with cores := [], stewards := [], rings := [], counters := [] }

theorem raiseView_raiseCounter (s : State) (p n : Nat) : (s.raiseCounter p n).raiseView = s.raiseView := by
  unfold State.raiseCounter
  dsimp only
  split
  · rw [wake_only]
    rfl
  · rfl

theorem ctr_raiseCounter_ne (s : State) (p : Nat) {n m : Nat} (h : m ≠ n) : (s.raiseCounter p n).ctr m = s.ctr m := by
  unfold State.raiseCounter
  dsimp only
  split
  · rw [ctr_wake, State.ctr_setCtr_if, if_neg h]
  · rfl

/-- A counter that is not SETTLED is raised to its expected value, which stays. -/
theorem ctr_raiseCounter {s : State} {p n : Nat} (h : s.raises p n) (hs : (s.ctr n).settled = false) :
    (s.raiseCounter p n).ctr n = { s.ctr n with value := (s.ctr n).expected } := by
  obtain ⟨hok, hcl, hf, hreach⟩ := h
  unfold State.raiseCounter
  dsimp only
  rw [if_pos ⟨hok, hcl, by simpa [reaches] using hreach, by simp [hf]⟩, ctr_wake, State.ctr_setCtr]
  unfold Counter.add
  rw [hs]
  simp

section
variable {s u : State} (h : u.raiseView = s.raiseView)
include h

theorem clPart_of_raiseView (cl : Cl) : u.clPart cl = s.clPart cl :=
  congrArg (fun x : Dict => (find x.vals (256 * 0x3010 + (1 + acctOf cl))).getD (dictDefault 0x3010 (1 + acctOf cl))) (congrArg State.dict h :)

theorem part_of_raiseView (q : Nat) : u.part q = s.part q :=
  congrArg (look Part.init · q) (congrArg State.parts h :)

end

/-- The counters that a drop's end lists are raised, each once and for all; the others stay. -/
theorem ctr_raiseCounters (p : Nat) (l : List Nat) (s : State) :
    (∀ n ∈ l, s.raises p n → (s.ctr n).settled = false →
      (l.foldl (fun s n => s.raiseCounter p n) s).ctr n = { s.ctr n with value := (s.ctr n).expected }) ∧
    ∀ n, n ∉ l → (l.foldl (fun s n => s.raiseCounter p n) s).ctr n = s.ctr n := by
  induction l generalizing s with
  | nil => exact ⟨fun _ h => (List.not_mem_nil h).elim, fun _ _ => rfl⟩
  | cons a l ih =>
    obtain ⟨hin, hout⟩ := ih (s.raiseCounter p a)
    have hv := raiseView_raiseCounter s p a
    simp only [List.foldl_cons]
    refine ⟨fun n hn hr hs => ?_, fun n hn => ?_⟩
    · by_cases ha : n = a
      · subst ha
        have hc := ctr_raiseCounter hr hs
        obtain ⟨hok, hcl, hf, _⟩ := hr
        by_cases hl : n ∈ l
        · rw [hin n hl ⟨hok, (clPart_of_raiseView hv _).trans hcl, by rw [part_of_raiseView hv]; exact hf, by rw [hc]; simp [reaches]⟩
            (by rw [hc]; exact hs), hc]
        · rw [hout n hl, hc]
      · have hc := ctr_raiseCounter_ne s p ha
        obtain ⟨hok, hcl, hf, hreach⟩ := hr
        rw [hin n ((List.mem_cons.1 hn).resolve_left ha) ⟨hok, (clPart_of_raiseView hv _).trans hcl, by rw [part_of_raiseView hv]; exact hf, by rw [hc]; exact hreach⟩
          (by rw [hc]; exact hs), hc]
    · rw [hout n fun e => hn (List.mem_cons_of_mem _ e), ctr_raiseCounter_ne s p fun e => hn (List.mem_cons.2 (.inl e))]

theorem unitValid_eq_zero (m : BitVec 4) : unitValid m = 0 ↔ m = 0 := by
  revert m
  decide

/-- Tests that fall due are marks of physical cores: of the rest, what a drop's end tells stays. -/
theorem testFaulted_keeps (s : State) (p d : Nat) : (s.testFaulted p d).parts = s.parts ∧ (s.testFaulted p d).counters = s.counters ∧
    (s.testFaulted p d).totals = s.totals ∧ (s.testFaulted p d).ports = s.ports ∧ (s.testFaulted p d).dram = s.dram := by
  unfold State.testFaulted
  exact foldl_inv (p := fun u : State => u.parts = s.parts ∧ u.counters = s.counters ∧ u.totals = s.totals ∧ u.ports = s.ports ∧ u.dram = s.dram)
    _ s ⟨rfl, rfl, rfl, rfl, rfl⟩ fun _ _ _ h => h

/-- The end of a drop before a restart is thought of (R112, step 3, R280). -/
def State.endDrop (s : State) (p : Nat) (x : DropDone) : State :=
  let u := x.ctrs.foldl (fun s n => s.raiseCounter p n) s
  let u := u.setPart p { u.part p with dropDies := (s.part p).dropDies &&& ~~~BitVec.ofNat 4 (2 ^ x.d.val) }
  let u := { u with totals := { u.totals with droppedMb := sat32 u.totals.droppedMb 1 } }
  (u.hostEv p 0x03 x.d.val 0 (x.unit % 65536) 0).testFaulted p x.d.val

/-- What the end of a drop leaves. -/
theorem endDrop_spec (s : State) (p : Nat) (x : DropDone) :
    (s.endDrop p x).part p = { s.part p with dropDies := (s.part p).dropDies &&& ~~~BitVec.ofNat 4 (2 ^ x.d.val) } ∧
    (s.endDrop p x).totals = { s.totals with droppedMb := min (s.totals.droppedMb + 1) 4294967295 } ∧
    (∀ n, (s.endDrop p x).ctr n = (x.ctrs.foldl (fun s n => s.raiseCounter p n) s).ctr n) ∧
    Event s (s.endDrop p x) p 3 x.d.val 0 (x.unit % 65536) 0 ∧ (s.endDrop p x).dram = s.dram := by
  unfold State.endDrop
  dsimp only
  have hv : (x.ctrs.foldl (fun s n => s.raiseCounter p n) s).raiseView = s.raiseView :=
    foldl_proj (g := State.raiseView) _ s fun u n => raiseView_raiseCounter u p n
  generalize x.ctrs.foldl (fun s n => s.raiseCounter p n) s = r at *
  have hp := part_of_raiseView hv p
  generalize hu : ({ r.setPart p _ with totals := _ } : State) = u
  have hup : u.part p = { s.part p with dropDies := (s.part p).dropDies &&& ~~~BitVec.ofNat 4 (2 ^ x.d.val) } := by
    rw [← hu, ← hp]
    exact State.part_setPart ..
  obtain ⟨hparts, hctrs, htot, hports, hdram⟩ := testFaulted_keeps (u.hostEv p 3 x.d.val 0 (x.unit % 65536) 0) p x.d.val
  refine ⟨?_, ?_, fun n => ?_, event_hostEv (u := u) ?_ ?_ ?_ ?_ hports, ?_⟩
  · refine (congrArg (look Part.init · p) hparts).trans ?_
    rw [hostEv_parts]
    exact hup
  · rw [htot, hostEv_only, ← hu]
    exact congrArg (fun y : CkTotals => { y with droppedMb := sat32 y.droppedMb 1 }) (congrArg State.totals hv :)
  · refine (congrArg (look Counter.init · n) hctrs).trans ?_
    rw [hostEv_only, ← hu]
    rfl
  · rw [← hu]
    exact (congrArg State.dict hv :)
  · rw [← hu]
    exact (congrArg State.ports hv :)
  · rw [← hu]
    exact (congrArg State.now hv :)
  · rw [hup]
  · rw [hdram, hostEv_only, ← hu]
    exact (congrArg State.dram hv :)

/-- A drop restarts the step when it leaves an outstanding unit without a micro-batch, and no other drop goes on (R114). -/
def State.dropRestarts (s : State) (p : Nat) (x : DropDone) : Prop :=
  x.ctrs ≠ [] ∧ (s.part p).dieValid = 0 ∧ (s.part p).dropDies &&& ~~~BitVec.ofNat 4 (2 ^ x.d.val) = 0

theorem dropRestarts_iff (s : State) (p : Nat) (x : DropDone) :
    (!x.ctrs.isEmpty && decide (unitValid ((s.endDrop p x).unitMask p) = 0) && ((s.endDrop p x).part p).dropDies == 0#4) = true ↔ s.dropRestarts p x := by
  obtain ⟨hp, -⟩ := endDrop_spec s p x
  simp [State.dropRestarts, State.unitMask, hp, unitValid_eq_zero, and_assoc]

/-- DROP_RINGS_HALTED once every ring of the die has halted. -/
theorem exec_dropRingsHalted {s : State} {p : Pn} {x : DropDone} (hd : (s.part p.val).dropDies.getLsbD x.d.val = true)
    (hr : ∀ cl ∈ s.clustersOn p.val x.d.val, ∀ n < 16, (s.ring cl n).st ≠ .running ∧ (s.ring cl n).st ≠ .stopping) :
    (s.dropRestarts p.val x → exec (.dropRingsHalted p x) s = .next ((s.endDrop p.val x).stepRestart p.val 1)) ∧
    (¬s.dropRestarts p.val x → exec (.dropRingsHalted p x) s = .next (s.endDrop p.val x)) := by
  have hg : s.ringsGo p.val x.d.val = false := by
    unfold State.ringsGo
    refine List.any_eq_false.2 fun cl hcl hany => ?_
    obtain ⟨n, hn, h⟩ := List.any_eq_true.1 hany
    have := hr cl hcl n (List.mem_range.1 hn)
    simp [this] at h
  have he : exec (.dropRingsHalted p x) s = .next (
      if !x.ctrs.isEmpty && decide (unitValid ((s.endDrop p.val x).unitMask p.val) = 0) && ((s.endDrop p.val x).part p.val).dropDies == 0#4 then
        (s.endDrop p.val x).stepRestart p.val 1 else s.endDrop p.val x) := by
    show execDropRingsHalted p x s = _
    unfold execDropRingsHalted
    dsimp only
    rw [if_neg (by simp [hd, hg])]
    rfl
  exact ⟨fun h => by rw [he, if_pos ((dropRestarts_iff ..).2 h)], fun h => by rw [he, if_neg fun k => h ((dropRestarts_iff ..).1 k)]⟩

/-- A restart with dies to restore (R114, R279): their mirrors are awaited, and the drops of the step are over. -/
theorem stepRestart_restores {s : State} {p cause : Nat} (hd : look 0 s.dram.touched p &&& (s.part p).runDies ≠ 0) :
    ((s.stepRestart p cause).part p).restoring = look 0 s.dram.touched p &&& (s.part p).runDies ∧
    ((s.stepRestart p cause).part p).restartCause = cause ∧ ((s.stepRestart p cause).part p).dropDies = 0 := by
  have hv : ((s.clustersOf p).foldl (fun s cl => s.abortAll cl) s).stopView = s.stopView := foldl_proj _ s stopView_abortAll
  unfold State.stepRestart
  dsimp only
  generalize (s.clustersOf p).foldl (fun s cl => s.abortAll cl) s = u at *
  have hr : ((u.dropMarks p).part p).runDies = (s.part p).runDies := by
    unfold State.dropMarks
    rw [State.part_setPart, part_of_stopView hv]
  have ht : (u.dropMarks p).dram = s.dram := (congrArg StopView.dram hv : u.dram = s.dram)
  generalize u.dropMarks p = x at *
  rw [ht, hr, if_neg hd, State.part_setPart]
  exact ⟨rfl, rfl, rfl⟩

/-- Settles O31: each clause by the lemma that says what its command leaves. -/
theorem hangsAndDroppedMicrobatches : Obligations.HangsAndDroppedMicrobatches := by
  unfold Obligations.HangsAndDroppedMicrobatches
  refine ⟨fun s => ⟨fun cl hp hr hh hn => ⟨fun hw => ⟨_, waitExamination_over hp hr hh hn hw, ?tripped⟩, waitExamination_under⟩,
      fun p hdue hr => ⟨_, rfl, ?hang⟩, fun p d hd hdue => dumpComplete_spec hd hdue⟩,
    fun s p d => ⟨fun hr hval => ⟨fun hres => ⟨_, rfl, ?drop⟩, fun hres => ⟨_, rfl, ?later⟩⟩, fun unit ctrs hdrop hrings => ⟨fun hleft => ?ends, fun hc hv hdd hdue => ?restarts⟩⟩⟩
  case tripped =>
    have h := markView_trip s cl (s.waitTimeout (s.clPart cl))
    simp only [State.markView, Prod.mk.injEq] at h
    obtain ⟨-, hctr, hdram, hregs⟩ := h
    generalize s.trip cl (s.waitTimeout (s.clPart cl)) = u at *
    refine ⟨by rw [State.part_setPart], by rw [State.part_setPart]; exact hr, hctr, hdram, fun c n => ?_⟩
    unfold Core.reg
    rw [State.core_of_setPart, congrFun hregs c]
  case hang =>
    dsimp only
    rw [if_pos ⟨hdue, hr⟩]
    obtain ⟨hdram, hstop, v, d, hpart, hc, hf⟩ := hangStop_spec s p.val 1 0
    rw [hpart]
    exact ⟨rfl, rfl, rfl, rfl, ⟨d, rfl, hc, hf⟩, hstop, hdram⟩
  case drop =>
    dsimp only
    rw [if_neg (by simp [hr, hval]), if_neg (by rw [hres]; simp)]
    obtain ⟨hpart, hrings, hdram, hctr, hnet⟩ := beginDrop_spec s p.val d.val
    rw [hpart]
    exact ⟨rfl, rfl, hr, hrings, hdram, hctr, hnet⟩
  case later =>
    dsimp only
    rw [if_neg (by simp [hr, hval]), if_pos hres]
    exact ⟨State.part_setPart .., rfl⟩
  case ends =>
    obtain ⟨hpart, htot, hctr, hev, hdram⟩ := endDrop_spec s p.val ⟨d, unit, ctrs⟩
    obtain ⟨hraised, hother⟩ := ctr_raiseCounters p.val ctrs s
    refine ⟨_, (exec_dropRingsHalted hdrop hrings).2 fun h => hleft.elim h.1 fun hv => hv h.2.1, ?_⟩
    dsimp only at hpart htot ⊢
    rw [hpart, htot]
    refine ⟨rfl, rfl, rfl, fun n hn hok hcl hf hreach hs => ?_, fun n hn => (hctr n).trans (hother n hn), hev, hdram⟩
    rw [hctr, hraised n hn ⟨hok, hcl, hf, hreach⟩ hs]
    exact ⟨rfl, rfl⟩
  case restarts =>
    obtain ⟨hpart, -, -, -, hdram⟩ := endDrop_spec s p.val ⟨d, unit, ctrs⟩
    have h := stepRestart_restores (s := s.endDrop p.val ⟨d, unit, ctrs⟩) (p := p.val) (cause := 1) (by rw [hpart, hdram]; exact hdue)
    rw [hpart, hdram] at h
    exact ⟨_, (exec_dropRingsHalted hdrop hrings).1 ⟨hc, hv, by rw [hdd]; exact BitVec.and_not_self _⟩, h⟩

end Sys2Proof.Machine

namespace Sys2Proof.Machine

open Sys2Proof

/-! ### Sweeps, slots and events of the checkpoint (R252, R271, R295) -/

section
variable {s t : State} (h : OnlyMemory s t)
include h

theorem OnlyMemory.parts : t.parts = s.parts := (congrArg State.parts h.1 :)
theorem OnlyMemory.counters : t.counters = s.counters := (congrArg State.counters h.1 :)
theorem OnlyMemory.fabric : t.fabric = s.fabric := (congrArg State.fabric h.1 :)
theorem OnlyMemory.dict : t.dict = s.dict := (congrArg State.dict h.1 :)
theorem OnlyMemory.store : t.store = s.store := (congrArg State.store h.1 :)

end

section
variable (s : State)

theorem dramBytesWr_only (a : Nat) (bs : List Byte) : OnlyMemory s (s.dramBytesWr a bs) := by
  unfold State.dramBytesWr
  exact OnlyMemory.foldl _ _ (fun u _ => OnlyMemory.setDram u _) s

theorem slotBit_only (a bit : Nat) (on : Bool) : OnlyMemory s (s.slotBit a bit on) := dramBytesWr_only ..

theorem fillRange_only (base len : Nat) (bs : SMap Byte) (bad : List Nat) : OnlyMemory s (s.fillRange base len bs bad) := OnlyMemory.setDram ..

theorem raise_only (e : ErrIn) (sc : Scope) : OnlyMemory s (s.raise e sc) := OnlyMemory.of rfl

theorem sweep_only (rs : List (Nat × Nat)) : OnlyMemory s (s.sweep rs) := by
  unfold State.sweep
  refine OnlyMemory.foldl _ _ (fun u e => ?_) s
  split
  · exact raise_only ..
  · exact (OnlyMemory.setDram u _).trans (raise_only ..)
  · exact OnlyMemory.refl u

/-- Without syndromes a sweep finds nothing. -/
theorem sweep_plain {s : State} (h : s.dram.mem.syn = []) (rs : List (Nat × Nat)) : s.sweep rs = s := by
  unfold State.sweep
  rw [h]
  rfl

theorem ckptEv_only (p code die detail aux : Nat) : s.ckptEv p code die detail aux =
    { s with ports := (s.ckptEv p code die detail aux).ports, mgmt := (s.ckptEv p code die detail aux).mgmt } := by
  unfold State.ckptEv State.logEvent State.logRec
  rw [hostEv_only]

theorem reprotect_only (p : Nat) : s.reprotect p =
    { s with parts := (s.reprotect p).parts, ports := (s.reprotect p).ports, mgmt := (s.reprotect p).mgmt } := by
  unfold State.reprotect
  dsimp only
  split
  · rfl
  · unfold State.logEvent State.logRec
    rw [hostEv_only]
    rfl

end

/-! ### Flash copies and protection beside a step (R270, R275) -/

/-- What reprotection and the start of flash copies leave of partition p and beside it. -/
def State.copyView (s : State) (p : Nat) : Part × SMap Counter × Dict := ({ s.part p with prot := 0, flash := [] }, s.counters, s.dict)

theorem copyView_of {s t : State} (hp : t.parts = s.parts) (hc : t.counters = s.counters) (hd : t.dict = s.dict) (p : Nat) :
    t.copyView p = s.copyView p := by
  unfold State.copyView State.part
  rw [hp, hc, hd]

section
variable (s : State) (p : Nat)

theorem copyView_reprotect : (s.reprotect p).copyView p = s.copyView p := by
  have h := part_reprotect s p p
  rw [if_pos rfl] at h
  unfold State.copyView
  rw [h, reprotect_only]

theorem copyView_startJob (d : Nat) (j : NvmeJob) : (s.startJob d j).copyView p = s.copyView p := copyView_of rfl rfl rfl p
theorem copyView_invalidateArea (d : Nat) : (s.invalidateArea d).copyView p = s.copyView p := copyView_of rfl rfl rfl p

theorem copyView_slotBit (a bit : Nat) (on : Bool) : (s.slotBit a bit on).copyView p = s.copyView p :=
  have h := slotBit_only s a bit on
  copyView_of h.parts h.counters h.dict p

theorem copyView_beginCopy (d a : Nat) : (s.beginCopy p d a).copyView p = s.copyView p := by
  unfold State.beginCopy
  dsimp only
  generalize hu : (if State.carries _ p d = true then _ else _ : State) = u
  have h : u.copyView p = s.copyView p := by
    rw [← hu]
    split
    · rw [copyView_startJob, copyView_startJob, copyView_invalidateArea, copyView_invalidateArea, copyView_slotBit]
    · rw [copyView_startJob, copyView_invalidateArea, copyView_slotBit]
  refine Eq.trans ?_ h
  unfold State.copyView
  rw [State.part_setPart]
  rfl

theorem copyView_startFlash : (s.startFlash p).copyView p = s.copyView p := by
  unfold State.startFlash
  dsimp only
  split
  · rfl
  · refine foldl_proj (g := (State.copyView · p)) _ s fun u d => ?_
    split
    · exact copyView_beginCopy ..
    · rfl

end

/-! ### The end of a step's mirror (R272, R280, R383) -/

theorem nameCl_nameHub (cl : Cl) (h : Nat) : nameCl (nameHub cl h) = cl := by
  have hd : dieOf cl < 4 := by unfold dieOf; omega
  have hx : xOf cl < 8 := by unfold xOf; omega
  have hy : yOf cl < 8 := by unfold yOf; omega
  have hn : nameHub cl h = dieOf cl * 4194304 + xOf cl * 524288 + yOf cl * 65536 + 32768 + h % 64 := by
    unfold nameHub pack
    simp only [List.foldl_cons, List.foldl_nil]
    omega
  unfold nameCl bits
  rw [hn]
  calc _ = clAt (dieOf cl) (xOf cl) (yOf cl) := by congr 1 <;> omega
    _ = cl := clAt_coords cl

theorem nameHub_inj {cl cl' : Cl} {h : Nat} (e : nameHub cl h = nameHub cl' h) : cl = cl' := by
  rw [← nameCl_nameHub cl h, e, nameCl_nameHub]

theorem clustersOf_nodup (s : State) (p : Nat) : (s.clustersOf p).Nodup := (List.nodup_finRange 256).filter _

/-- Hub counter 58 of a list of clusters is incremented, once for each. -/
theorem ctr_foldl_58 (l : List Cl) (hl : l.Nodup) (s : State) (cl : Cl) :
    (l.foldl (fun s cl => (s.setCtr (nameHub cl 58) ((s.ctr (nameHub cl 58)).add 1)).wake (nameHub cl 58)) s).ctr (nameHub cl 58) =
      if cl ∈ l then (s.ctr (nameHub cl 58)).add 1 else s.ctr (nameHub cl 58) := by
  induction l generalizing s with
  | nil => simp
  | cons a l ih =>
    rw [List.nodup_cons] at hl
    rw [List.foldl_cons, ih hl.2, ctr_wake, State.ctr_setCtr_if]
    by_cases ha : cl = a
    · subst ha
      simp [hl.1]
    · have hn : nameHub cl 58 ≠ nameHub a 58 := fun e => ha (nameHub_inj e)
      simp [ha, hn]

/-- The release of the next step: hub counter 58 of every cluster of the partition, and the partition's record. -/
theorem release58_spec (s : State) (p : Nat) : (s.release58 p).part p = { s.part p with releaseDue := false, faults := [] } ∧
    (s.release58 p).dict = s.dict ∧ ∀ cl ∈ s.clustersOf p, (s.release58 p).ctr (nameHub cl 58) = (s.ctr (nameHub cl 58)).add 1 := by
  refine ⟨?_, (congrArg State.dict (heldView_release58 s p) :), fun cl hcl => ?_⟩
  · unfold State.release58
    refine (congrArg (look Part.init · p) (foldl_proj (g := State.parts) _ _ fun u cl => ?_)).trans (State.part_setPart ..)
    dsimp only
    rw [wake_only]
    rfl
  · unfold State.release58
    refine (ctr_foldl_58 _ (clustersOf_nodup _ p) _ cl).trans (if_pos hcl)

/-- A mirror phase that still has a mirror or a tensor watch in progress goes on. -/
theorem mirrorDone_waits {s : State} {p : Nat} (h : (s.part p).mirroring ≠ [] ∨ (s.part p).watching = true) : s.mirrorDone p = s := by
  unfold State.mirrorDone
  dsimp only
  rw [if_neg]
  rintro ⟨hm, hw⟩
  rcases h with h | h
  · exact h hm
  · simp [h] at hw

theorem mirrorDone_eq {s : State} {p : Nat} (hm : (s.part p).mirroring = []) (hw : (s.part p).watching = false) : s.mirrorDone p = s.nextStepMay p := by
  unfold State.mirrorDone
  dsimp only
  rw [if_pos ⟨hm, by simp [hw]⟩]

/-- Of the partition's record the end of a mirror phase touches at most what holds the next step. -/
theorem mirrorDone_spec (s : State) (p : Nat) : (s.mirrorDone p).dict = s.dict ∧
    ∃ due faults, (s.mirrorDone p).part p = { s.part p with releaseDue := due, faults := faults } := by
  unfold State.mirrorDone State.nextStepMay
  dsimp only
  split
  · split
    · exact ⟨rfl, _, _, State.part_setPart ..⟩
    · obtain ⟨hp, hd, -⟩ := release58_spec s p
      exact ⟨hd, _, _, hp⟩
  · exact ⟨rfl, _, _, rfl⟩

theorem faultsPending_of {s u : State} {p : Nat} (hf : u.fabric = s.fabric) (hp : (u.part p).faults = (s.part p).faults) :
    u.faultsPending p = s.faultsPending p := by
  unfold State.faultsPending State.physOf State.servedBy State.phy
  rw [hf, hp]

/-- Protection and flash copies, which follow once no mirror is left, change nothing more of what copyView shows. -/
theorem copyView_afterMirror (s : State) (p : Nat) :
    (if (s.part p).mirroring = [] then ((s.mirrorDone p).reprotect p).startFlash p else s).copyView p = (s.mirrorDone p).copyView p := by
  split
  · rw [copyView_startFlash, copyView_reprotect]
  · next h => rw [mirrorDone_waits (.inl h)]

end Sys2Proof.Machine

namespace Sys2Proof.Machine

open Sys2Proof

/-! ### MIRROR_START and MIRROR_COMPLETE (R92, R272, R274) -/

theorem mem_diesIn {m : BitVec 4} {d : Nat} : d ∈ diesIn m ↔ d < 4 ∧ m.getLsbD d = true := by
  unfold diesIn
  rw [List.mem_filter, List.mem_range]

theorem diesIn_nodup (m : BitVec 4) : (diesIn m).Nodup := List.nodup_range.filter _

/-- The step-end marks of a list of dies, each moved on by one. -/
theorem look_foldl_count (l : List Nat) (hl : l.Nodup) (m : SMap Nat) (k : Nat) :
    look 0 (l.foldl (fun m d => ins m d (look 0 m d + 1)) m) k = look 0 m k + if k ∈ l then 1 else 0 := by
  induction l generalizing m with
  | nil => simp
  | cons a l ih =>
    rw [List.nodup_cons] at hl
    rw [List.foldl_cons, ih hl.2]
    by_cases ha : k = a
    · subst ha
      simp [look_ins_same, hl.1]
    · rw [look_ins_ne _ _ _ ha]
      simp [ha]

/-- What the mirror phase that follows a step's end leaves of the partition's record. -/
def State.stepView (s : State) (p : Nat) : Part := { s.part p with
  prot := 0, flash := [], mirroring := [], lastSlot := [], watching := false, releaseDue := false, faults := [] }

theorem stepView_of_parts {s t : State} (h : t.parts = s.parts) (p : Nat) : t.stepView p = s.stepView p := by
  unfold State.stepView State.part
  rw [h]

theorem stepView_of_copyView {s t : State} {p : Nat} (h : t.copyView p = s.copyView p) : t.stepView p = s.stepView p :=
  congrArg (fun x : Part × SMap Counter × Dict => { x.1 with
    mirroring := [], lastSlot := [], watching := false, releaseDue := false, faults := [] }) h

theorem stepView_setPart (s : State) (p : Nat) {v : Part} (h : { v with
    prot := 0, flash := [], mirroring := [], lastSlot := [], watching := false, releaseDue := false, faults := [] } = s.stepView p) :
    (s.setPart p v).stepView p = s.stepView p := by
  refine Eq.trans ?_ h
  unfold State.stepView
  rw [State.part_setPart]

theorem stepView_mirrorDone (s : State) (p : Nat) : (s.mirrorDone p).stepView p = s.stepView p := by
  obtain ⟨-, due, faults, h⟩ := mirrorDone_spec s p
  unfold State.stepView
  rw [h]

theorem stepView_ckptEv (s : State) (p code die detail aux : Nat) : (s.ckptEv p code die detail aux).stepView p = s.stepView p :=
  stepView_of_parts (congrArg State.parts (ckptEv_only ..) :) p

/-- The record of a partition whose step has ended on every die (R92, R272). -/
def Part.stepped (v : Part) : Part := { v with
  stepNow := v.stepNow + 1, endSeen := (diesIn v.runDies).foldl (fun m d => ins m d (look 0 m d + 1)) v.endSeen, dieValid := v.runDies }

/-- Whether the tensor watch is set for a step (R382, R383). -/
abbrev State.watchFires (s : State) (p : Nat) (step : W32) : Prop := s.watch p 367 367 = 1 ∧ s.watch p 431 400 = step.toNat

/-- The dirty lines that the mirrors and the tensor watch of the dies will read go to memory (R272, R383). -/
def State.flushForMirror (s : State) (p : Nat) (dies : BitVec 4) (fires : Prop) [Decidable fires] : State :=
  let ranges := (diesIn dies).flatMap fun d => s.liveRanges p d
  let ranges := if fires then ranges ++ [(s.watch p 511 464, s.watch p 463 432)] else ranges
  if s.mirrorMode p = 0 ∧ ¬fires then s
  else (s.clustersOf p).foldl (fun s cl => ranges.foldl (fun s r => s.cleanRange cl r.1 r.2) s) s

/-- Each die's mirror begins in the slot that R274 chooses for it, or is skipped. -/
def State.beginMirrors (s : State) (p : Nat) (dies : BitVec 4) : State :=
  if s.mirrorMode p = 0 then s
  else (diesIn dies).foldl (fun s d =>
    match s.mirrorSlot p d with
    | some a =>
      let s := s.slotBit a 237 false
      let v := s.part p
      s.setPart p { v with mirroring := ins v.mirroring d a, lastSlot := ins v.lastSlot d a }
    | none =>
      ({ s with totals := { s.totals with mirrorsSkipped := sat32 s.totals.mirrorsSkipped 1 } }).ckptEv p 0x0E d 0 0) s

theorem stepView_flushForMirror (s : State) (p : Nat) (dies : BitVec 4) (fires : Prop) [Decidable fires] :
    (s.flushForMirror p dies fires).stepView p = s.stepView p := by
  unfold State.flushForMirror
  dsimp only
  split
  · rfl
  · refine stepView_of_parts (OnlyMemory.parts ?_) _
    exact OnlyMemory.foldl _ _ (fun u cl => OnlyMemory.foldl _ _ (fun x (r : Nat × Nat) => cleanRange_only x cl r.1 r.2) u) s

theorem stepView_beginMirrors (s : State) (p : Nat) (dies : BitVec 4) : (s.beginMirrors p dies).stepView p = s.stepView p := by
  unfold State.beginMirrors
  split
  · rfl
  · refine foldl_proj (g := (State.stepView · p)) _ s fun u d => ?_
    dsimp only
    split
    · refine Eq.trans (stepView_setPart _ p ?_) (stepView_of_parts (slotBit_only ..).parts _)
      rfl
    · exact (stepView_ckptEv ..).trans (stepView_of_parts rfl _)

/-- The mirrors of a step that has ended are under way (R272, steps 1 to 3). -/
def State.mirrorsBegun (s : State) (p : Nat) : State :=
  let dies := (s.part p).runDies
  let fires := s.watchFires p (s.part p).stepNow
  let c := s.flushForMirror p dies fires
  ((c.setPart p { c.part p with watching := fires }).clearTouched p).beginMirrors p dies

theorem stepView_mirrorsBegun (s : State) (p : Nat) : (s.mirrorsBegun p).stepView p = s.stepView p := by
  unfold State.mirrorsBegun
  dsimp only
  rw [stepView_beginMirrors]
  refine Eq.trans ?_ (stepView_flushForMirror s p (s.part p).runDies (s.watchFires p (s.part p).stepNow))
  exact stepView_setPart _ p rfl

/-- MIRROR_START of a step that has ended. -/
theorem exec_mirrorStart {s : State} {p : Pn} (hr : (s.part p.val).run = .running) (hm : (s.part p.val).mirroring = [])
    (hw : (s.part p.val).watching = false) (hre : (s.part p.val).restoring = 0) (hro : (s.part p.val).rolling = none)
    (he : s.stepEnded p.val = true) : exec (.mirrorStart p) s = .next (
      let g := (s.setPart p.val (s.part p.val).stepped).mirrorsBegun p.val
      let t := (g.mirrorDone p.val).reprotect p.val
      if (g.part p.val).mirroring = [] then t.startFlash p.val else t) := by
  show execMirrorStart p s = _
  unfold execMirrorStart State.mirrorsBegun
  rw [State.part_setPart]
  have hc : ¬((s.part p.val).run ≠ .running ∨ (s.part p.val).mirroring ≠ [] ∨ (s.part p.val).watching = true ∨ (s.part p.val).restoring ≠ 0 ∨
      (s.part p.val).rolling.isSome = true ∨ (!s.stepEnded p.val) = true) := by
    simp [hr, hm, hw, hre, hro, he]
  refine congrArg Host.Outcome.next ((if_neg hc).trans ?_)
  rfl

/-- Behind MIRROR_START the record is that of the next step, but for the mirrors and what follows them. -/
theorem mirrorStart_steps {s : State} {p : Pn} (hr : (s.part p.val).run = .running) (hm : (s.part p.val).mirroring = [])
    (hw : (s.part p.val).watching = false) (hre : (s.part p.val).restoring = 0) (hro : (s.part p.val).rolling = none)
    (he : s.stepEnded p.val = true) :
    Done (.mirrorStart p) s fun t => t.stepView p.val = (s.setPart p.val (s.part p.val).stepped).stepView p.val := by
  refine ⟨_, exec_mirrorStart hr hm hw hre hro he, ?_⟩
  generalize s.setPart p.val (s.part p.val).stepped = b
  have h : ((((b.mirrorsBegun p.val).mirrorDone p.val)).reprotect p.val).stepView p.val = b.stepView p.val := by
    rw [stepView_of_copyView (copyView_reprotect ..), stepView_mirrorDone, stepView_mirrorsBegun]
  dsimp only
  split
  · exact (stepView_of_copyView (copyView_startFlash ..)).trans h
  · exact h

end Sys2Proof.Machine

namespace Sys2Proof.Machine

open Sys2Proof

/-- MIRROR_COMPLETE of a mirror in progress: memory takes the copy, the mirror is no longer in progress, and what ends with the last
mirror of the phase ends (R272, steps 4 and 5). -/
theorem exec_mirrorComplete {s : State} {p : Pn} {d : Dn} {a : Nat} (h : find (s.part p.val).mirroring d.val = some a) :
    ∃ m, OnlyMemory s m ∧ Done (.mirrorComplete p d) s fun t =>
      t.copyView p.val = ((m.setPart p.val { s.part p.val with mirroring := del (s.part p.val).mirroring d.val }).mirrorDone p.val).copyView p.val := by
  have he : exec (.mirrorComplete p d) s = execMirrorComplete p d s := rfl
  unfold Done
  rw [he]
  unfold execMirrorComplete
  dsimp only
  rw [h]
  dsimp only
  generalize hm : State.setSlotHeader _ a _ = m
  have ho : OnlyMemory s m := by
    rw [← hm]
    exact ((sweep_only ..).trans (fillRange_only ..)).trans (dramBytesWr_only ..)
  have hp : m.part p.val = s.part p.val := congrArg (look Part.init · p.val) ho.parts
  refine ⟨m, ho, _, rfl, ?_⟩
  rw [hp]
  exact copyView_afterMirror ..

section
variable {s t m : State} {p : Nat} {d : Nat}

/-- What a completed mirror leaves of the step (R272, R280). -/
theorem mirrorCompleted (ho : OnlyMemory s m)
    (h : t.copyView p = ((m.setPart p { s.part p with mirroring := del (s.part p).mirroring d }).mirrorDone p).copyView p) :
    find (t.part p).mirroring d = none ∧ (∀ e, e ≠ d → find (t.part p).mirroring e = find (s.part p).mirroring e) ∧
    (t.part p).stepNow = (s.part p).stepNow ∧
    ((t.part p).mirroring ≠ [] ∨ (s.part p).watching = true → t.counters = s.counters) ∧
    ((t.part p).mirroring = [] → (s.part p).watching = false →
      (s.faultsPending p = false → ∀ cl ∈ s.clustersOf p, t.ctr (nameHub cl 58) = (s.ctr (nameHub cl 58)).add 1) ∧
      (s.faultsPending p = true → t.counters = s.counters ∧ (t.part p).releaseDue = true)) := by
  generalize hu : m.setPart p _ = u at h
  have hup : u.part p = { s.part p with mirroring := del (s.part p).mirroring d } := by
    rw [← hu, State.part_setPart]
  have huc : u.counters = s.counters := by
    rw [← hu]
    exact ho.counters
  have hud : u.dict = s.dict := by
    rw [← hu]
    exact ho.dict
  have huf : u.faultsPending p = s.faultsPending p := by
    refine faultsPending_of ?_ (by rw [hup])
    rw [← hu]
    exact ho.fabric
  obtain ⟨-, due, faults, hd⟩ := mirrorDone_spec u p
  unfold State.copyView at h
  simp only [Prod.mk.injEq] at h
  obtain ⟨hpart, hctr, -⟩ := h
  have hmir : (t.part p).mirroring = del (s.part p).mirroring d :=
    (congrArg Part.mirroring hpart :).trans (by rw [hd, hup])
  refine ⟨by rw [hmir, find_del_same], fun e hne => by rw [hmir, find_del_ne _ hne], (congrArg Part.stepNow hpart :).trans (by rw [hd, hup]), fun hw => ?_, fun hm hw => ?_⟩
  · rw [hctr, mirrorDone_waits (by rw [hup, ← hmir]; exact hw), huc]
  · have hnext : u.mirrorDone p = u.nextStepMay p := mirrorDone_eq (by rw [hup, ← hmir]; exact hm) (by rw [hup]; exact hw)
    unfold State.nextStepMay at hnext
    rw [huf] at hnext
    refine ⟨fun hf cl hcl => ?_, fun hf => ?_⟩
    · rw [if_neg (by simp [hf])] at hnext
      have hcl' : cl ∈ u.clustersOf p := by
        unfold State.clustersOf State.clPart State.granOwner State.obj at *
        rw [hud]
        exact hcl
      have hc := (release58_spec u p).2.2 cl hcl'
      rw [← hnext] at hc
      unfold State.ctr at *
      rw [hctr, hc, huc]
    · rw [if_pos hf] at hnext
      refine ⟨by rw [hctr, hnext]; exact huc, (congrArg Part.releaseDue hpart :).trans ?_⟩
      rw [hnext]
      exact congrArg Part.releaseDue (State.part_setPart ..)

end

/-! ### Flash copies (R275, R276, R284) -/

/-- An image is written to the area that does not hold the newest one. -/
theorem writeImage_eq (s : State) (d a off len sum : Nat) : ∃ i v, i < 2 ∧ some i ≠ s.newestArea d ∧
    s.writeImage d a off len sum = s.setImage d i v ∧ v.valid = true ∧ v.step = BitVec.ofNat 32 (s.slotStep a) ∧ v.bytes = len ∧
    v.sum = BitVec.ofNat 64 sum := by
  unfold State.writeImage
  dsimp only
  split
  · next h => exact ⟨1, _, by decide, by simp [h], rfl, rfl, rfl, rfl, rfl⟩
  · next h => exact ⟨0, _, by decide, fun e => h e.symm, rfl, rfl, rfl, rfl, rfl⟩

theorem image_setImage (s : State) (d i : Nat) (v : Image) : (s.setImage d i v).image d i = v := look_put_same ..

theorem images_setImage_ne (s : State) (d i : Nat) (v : Image) {e : Nat} (h : e ≠ 2 * d + i) :
    look Image.init (s.setImage d i v).store.images e = look Image.init s.store.images e := look_put_ne _ _ _ h

theorem toNat_ofNat_bits {w hi lo : Nat} (h : hi + 1 - lo ≤ w) (n : Nat) : (BitVec.ofNat w (bits hi lo n)).toNat = bits hi lo n := by
  rw [BitVec.toNat_ofNat]
  exact Nat.mod_eq_of_lt (Nat.lt_of_lt_of_le (Nat.mod_lt _ (Nat.two_pow_pos _)) (Nat.pow_le_pow_right (by decide) h))

@[simp] theorem dropJobs_parts (s : State) (d : Nat) (f : NvmeJob → Bool) : (s.dropJobs d f).parts = s.parts := rfl
@[simp] theorem dropJobs_dict (s : State) (d : Nat) (f : NvmeJob → Bool) : (s.dropJobs d f).dict = s.dict := rfl
@[simp] theorem dropJobs_images (s : State) (d : Nat) (f : NvmeJob → Bool) : (s.dropJobs d f).store.images = s.store.images := rfl

/-- The end of a flash copy's jobs touches neither partitions nor objects nor images. -/
theorem endCopy_keeps (s : State) (p d : Nat) : (s.endCopy p d).parts = s.parts ∧ (s.endCopy p d).dict = s.dict ∧
    (s.endCopy p d).store.images = s.store.images := by
  unfold State.endCopy
  dsimp only
  split <;> simp

theorem noLocalSlot_of {s u : State} (hp : u.parts = s.parts) (hd : u.dict = s.dict) (p : Nat) : u.noLocalSlot p = s.noLocalSlot p := by
  have ho : ∀ i j, u.obj i j = s.obj i j := fun i j => by
    unfold State.obj
    rw [hd]
  have hpart : ∀ q, u.part q = s.part q := fun q => congrArg (look Part.init · q) hp
  have hr : ∀ d, u.namedRanges p d = s.namedRanges p d := fun d => by
    unfold State.namedRanges
    rw [ho]
  have hl : ∀ d, u.ownLen p d = s.ownLen p d := fun d => by
    unfold State.ownLen
    rw [hr]
  have hb : ∀ d, u.partner d = s.partner d := fun d => by
    unfold State.partner
    rw [ho]
  have hc : ∀ d, u.carries p d = s.carries p d := fun d => by
    unfold State.carries State.shardMoved
    rw [hb, hpart]
  have hlive : ∀ d, u.liveRanges p d = s.liveRanges p d := fun d => by
    unfold State.liveRanges
    simp only [hb, hr, hc, hpart, hl]
  have ht : ∀ d, u.mirrorTargets p d = s.mirrorTargets p d := fun d => by
    unfold State.mirrorTargets State.localSlot State.slotsOf State.mirrorMode State.slotNamed
    simp only [hc, ho]
  have hf : ∀ d a, u.slotFits p d a = s.slotFits p d a := fun d a => by
    unfold State.slotFits State.liveLen State.ownsRange State.ownerOf State.dramOwner
    simp only [hc, hlive, ho]
  unfold State.noLocalSlot
  simp only [hpart, hc, ht, hf]

/-- The end of a copy is told, and protection follows: of the partition's record nothing else changes, and no image. -/
theorem told_reprotected (s : State) (p code die detail aux : Nat) :
    ∃ l, ((s.ckptEv p code die detail aux).reprotect p).part p = { s.part p with prot := l } ∧
      ((s.ckptEv p code die detail aux).reprotect p).store = s.store := by
  have h := ckptEv_only s p code die detail aux
  generalize s.ckptEv p code die detail aux = u at *
  have hp : u.part p = s.part p := congrArg (look Part.init · p) (congrArg State.parts h :)
  refine ⟨u.protectionOf p, ?_, (congrArg State.store (reprotect_only u p) :).trans (congrArg State.store h :)⟩
  rw [part_reprotect, if_pos rfl, hp]

/-- FLASH_COPY_COMPLETE of a slot without poison that holds one shard (R276). -/
theorem flashCopyCompletes {s : State} {p : Pn} {d : Dn} {a : Nat} (h : find (s.part p.val).flash d.val = some a)
    (hc : s.carries p.val d.val = false) (hdone : s.copyDone p.val d.val = true)
    (hpoison : s.rangePoison a (4096 + bits 191 128 (s.slotHeader a)) = []) (hsyn : s.dram.mem.syn = []) :
    Done (.flashCopyComplete p d) s fun t => find (t.part p.val).flash d.val = none ∧
      (t.part p.val).flashStep = (if s.noLocalSlot p.val then (s.part p.val).flashStep else BitVec.ofNat 32 (s.slotStep a)) ∧
      ∃ i, i < 2 ∧ some i ≠ s.newestArea d.val ∧ (t.image d.val i).valid = true ∧ (t.image d.val i).step.toNat = s.slotStep a ∧
        (t.image d.val i).bytes = bits 191 128 (s.slotHeader a) ∧ (t.image d.val i).sum.toNat = bits 127 64 (s.slotHeader a) ∧
        (∀ e, e ≠ 2 * d.val + i → look Image.init t.store.images e = look Image.init s.store.images e) := by
  refine ⟨_, rfl, ?_⟩
  dsimp only
  rw [h]
  dsimp only
  rw [sweep_plain hsyn, if_neg (by rw [hpoison]; simp), if_neg (by rw [hdone]; simp), if_neg (by rw [hc]; simp)]
  obtain ⟨i, v, hi, hn, hw, hvalid, hstep, hbytes, hsum⟩ := writeImage_eq s d.val a 0 (bits 191 128 (s.slotHeader a)) (bits 127 64 (s.slotHeader a))
  rw [hw]
  have hst : (s.setImage d.val i v).slotStep a = s.slotStep a := rfl
  rw [hst]
  have hbit := slotBit_only (s.setImage d.val i v) a 236 false
  generalize (s.setImage d.val i v).slotBit a 236 false = w at *
  obtain ⟨hp, hd, himg⟩ := endCopy_keeps w p.val d.val
  generalize w.endCopy p.val d.val = x at *
  have hxp : x.parts = s.parts := hp.trans hbit.parts
  have hxd : x.dict = s.dict := hd.trans hbit.dict
  have hxi : x.store.images = (s.setImage d.val i v).store.images := himg.trans (congrArg Store.images hbit.store)
  have hpart : x.part p.val = s.part p.val := congrArg (look Part.init · p.val) hxp
  rw [noLocalSlot_of hxp hxd, hpart]
  generalize hy : x.setPart p.val _ = y
  obtain ⟨l, ht, hstore⟩ := told_reprotected y p.val 15 d.val 0 (s.slotStep a)
  generalize (y.ckptEv p.val 15 d.val 0 (s.slotStep a)).reprotect p.val = t at *
  have himages : t.store.images = (s.setImage d.val i v).store.images := by
    rw [hstore, ← hy]
    exact hxi
  have hti : t.image d.val i = v := by
    unfold State.image
    rw [himages]
    exact image_setImage s d.val i v
  rw [ht, ← hy, State.part_setPart]
  refine ⟨find_del_same .., rfl, i, hi, hn, ?_⟩
  rw [hti, himages, hstep, hsum]
  exact ⟨hvalid, toNat_ofNat_bits (by decide) _, hbytes, toNat_ofNat_bits (by decide) _,
    fun e he => images_setImage_ne s d.val i v he⟩

/-- An abandoned flash copy is over; its area stays as it is (R276). -/
theorem flashFail_spec (s : State) (p d a : Nat) : find ((s.flashFail p d a).part p).flash d = none ∧
    ((s.flashFail p d a).part p).flashStep = (s.part p).flashStep ∧ (s.flashFail p d a).store.images = s.store.images := by
  unfold State.flashFail
  dsimp only
  have hbit := slotBit_only s a 236 false
  generalize s.slotBit a 236 false = w at *
  generalize hx : State.dropJobs _ (s.partner d) _ = x
  have hpart : x.part p = s.part p := by
    rw [← hx]
    exact congrArg (look Part.init · p) ((by simp : _ = w.parts).trans hbit.parts)
  have himg : x.store.images = s.store.images := by
    rw [← hx, dropJobs_images, dropJobs_images]
    exact congrArg Store.images hbit.store
  rw [hpart]
  generalize hy : x.setPart p _ = y
  obtain ⟨l, ht, hstore⟩ := told_reprotected y p 16 d 0 (y.slotStep a)
  rw [ht, hstore, ← hy, State.part_setPart]
  exact ⟨find_del_same .., rfl, himg⟩

/-! ### The tensor watch (R382, R383) -/

/-- TENSOR_WATCH with ARMED, DONE and TRUNC cleared. -/
def watchCleared (w : Nat) : Nat :=
  w - (if bits 367 367 w = 1 then 2 ^ 367 else 0) - (if bits 366 366 w = 1 then 2 ^ 366 else 0) - (if bits 365 365 w = 1 then 2 ^ 365 else 0)

/-- The cleared object with DONE set, and with TRUNC where e is 2 ^ 365. -/
def watchDone (w e : Nat) : Nat := watchCleared w + 2 ^ 366 + e

/-- A bit above lo of a number is a bit of its quotient by 2 ^ lo. -/
theorem bits_above (lo i j n : Nat) : bits (lo + j) (lo + i) n = bits j i (n / 2 ^ lo) := by
  unfold bits
  rw [Nat.div_div_eq_div_mul, Nat.pow_add, show lo + j + 1 - (lo + i) = j + 1 - i by omega]

theorem two_pow_366 : (2 : Nat) ^ 366 = 2 * 2 ^ 365 := by rw [← Nat.pow_succ']

theorem two_pow_367 : (2 : Nat) ^ 367 = 2 * (2 * 2 ^ 365) := by simp only [← Nat.pow_succ']

/-- The three flags lie above the low 365 bits and below LEN; nothing else is cleared. -/
theorem watchCleared_eq (w : Nat) : watchCleared w = w / 2 ^ 365 / 8 * 8 * 2 ^ 365 + w % 2 ^ 365 := by
  unfold watchCleared
  rw [two_pow_367, two_pow_366, bits_above 365 2 2, bits_above 365 1 1, bits_above 365 0 0]
  have hw := Nat.div_add_mod' w (2 ^ 365)
  generalize w / 2 ^ 365 = q at *
  generalize w % 2 ^ 365 = r at *
  generalize 2 ^ 365 = N at *
  subst hw
  obtain ⟨k, hk, hq⟩ : ∃ k, k = q % 8 ∧ q = q / 8 * 8 + k := ⟨_, rfl, by omega⟩
  have e : (if bits 2 2 q = 1 then 2 * (2 * N) else 0) + (if bits 1 1 q = 1 then 2 * N else 0) + (if bits 0 0 q = 1 then N else 0) = k * N := by
    have hb : bits 2 2 q = k / 4 % 2 ∧ bits 1 1 q = k / 2 % 2 ∧ bits 0 0 q = k % 2 := by
      unfold bits
      omega
    rw [hb.1, hb.2.1, hb.2.2]
    have hk8 : k < 8 := by omega
    interval_cases k <;> simp <;> ring
  have hm : q * N = q / 8 * 8 * N + k * N := by
    rw [← Nat.add_mul, ← hq]
  omega

/-- A watch that is done: DONE set, ARMED clear, and the fields above as they were. -/
theorem bits_watchDone (w e : Nat) (he : e = 0 ∨ e = 2 ^ 365) : bits 366 366 (watchDone w e) = 1 ∧ bits 367 367 (watchDone w e) = 0 ∧
    bits 511 368 (watchDone w e) = bits 511 368 w := by
  have hq : ∃ c, c < 2 ∧ watchDone w e / 2 ^ 365 = w / 2 ^ 365 / 8 * 8 + 2 + c := by
    obtain ⟨c, hc, hce⟩ : ∃ c, c < 2 ∧ e = c * 2 ^ 365 := he.elim (fun h => ⟨0, by decide, by rw [h, Nat.zero_mul]⟩) fun h => ⟨1, by decide, by rw [h, Nat.one_mul]⟩
    refine ⟨c, hc, ?_⟩
    unfold watchDone
    have hw := watchCleared_eq w
    have h366 := two_pow_366
    have hr := Nat.mod_lt w (Nat.two_pow_pos 365)
    generalize w / 2 ^ 365 / 8 * 8 = q at *
    generalize w % 2 ^ 365 = r at *
    generalize 2 ^ 365 = N at *
    rw [hw, hce, h366, show q * N + r + 2 * N + c * N = r + N * (q + 2 + c) by ring, Nat.add_mul_div_left _ _ (by omega), Nat.div_eq_of_lt hr, Nat.zero_add]
  obtain ⟨c, hc, hq⟩ := hq
  rw [bits_above 365 1 1, bits_above 365 2 2, bits_above 365 3 146, bits_above 365 3 146, hq]
  unfold bits
  omega

/-- How much of the watched tensor fits into the trace buffer (R383). -/
def State.watchCopied (s : State) (p : Nat) : Nat :=
  min (s.watch p 463 432) (if (s.part p).trace.on then (s.part p).trace.watchLen - 4096 else 0)

/-- The state once the watched tensor, and the record in front of it, are in the trace buffer (R383). -/
def State.watchCopy (s : State) (p : Nat) : State :=
  let base := s.watch p 511 464
  let n := s.watchCopied p
  let c := s.sweep [(base, n)]
  let g := c.gatherRanges [(base, n)]
  let c := c.fillRange ((s.part p).trace.base + 65536 + 4096) n g.1 g.2.1
  if n = 0 then s
  else c.dramBytesWr ((s.part p).trace.base + 65536) ([0x47, 0x4C, 0x54, 0x57].map (BitVec.ofNat 8) ++ leBytes 4 (c.watch p 431 400)
    ++ leBytes 4 (c.watch p 399 388) ++ leBytes 8 base ++ leBytes 8 n ++ leBytes 8 (sumOf g.1) ++ leBytes 8 c.now ++ List.replicate (4096 - 44) 0)

theorem watchCopy_only (s : State) (p : Nat) : OnlyMemory s (s.watchCopy p) := by
  unfold State.watchCopy
  dsimp only
  split
  · exact OnlyMemory.refl s
  · exact ((sweep_only ..).trans (fillRange_only ..)).trans (dramBytesWr_only ..)

/-- TENSOR_WATCH_COMPLETE of a watch in progress (R383). -/
theorem exec_tensorWatchComplete {s : State} {p : Pn} (h : (s.part p.val).watching = true) : exec (.tensorWatchComplete p) s = .next (
    let c := s.watchCopy p.val
    let c := c.setObj 0x8022 (p.val + 1) (watchDone (c.obj 0x8022 (p.val + 1))
      (if s.watchCopied p.val < s.watch p.val 463 432 then 2 ^ 365 else 0))
    (c.setPart p.val { c.part p.val with watching := false }).mirrorDone p.val) := by
  have he : exec (.tensorWatchComplete p) s = execTensorWatchComplete p s := rfl
  rw [he]
  unfold execTensorWatchComplete State.watchCopy State.watchCopied watchDone watchCleared
  refine congrArg Host.Outcome.next ((if_neg (by rw [h]; simp)).trans ?_)
  rfl

/-- The watch is shown as done, and what it waited for may end. -/
theorem tensorWatchCompletes {s : State} {p : Pn} (h : (s.part p.val).watching = true) : Done (.tensorWatchComplete p) s fun t =>
    (t.part p.val).watching = false ∧ (t.part p.val).mirroring = (s.part p.val).mirroring ∧
    ∃ e, (e = 0 ∨ e = 2 ^ 365) ∧ t.obj 0x8022 (p.val + 1) = watchDone (s.obj 0x8022 (p.val + 1)) e := by
  refine ⟨_, exec_tensorWatchComplete h, ?_⟩
  dsimp only
  have ho := watchCopy_only s p.val
  generalize s.watchCopy p.val = c at *
  have hp : c.part p.val = s.part p.val := congrArg (look Part.init · p.val) ho.parts
  have hw : c.obj 0x8022 (p.val + 1) = s.obj 0x8022 (p.val + 1) := by
    unfold State.obj
    rw [ho.dict]
  rw [hw]
  obtain ⟨e, he, hee⟩ : ∃ e, (e = 0 ∨ e = 2 ^ 365) ∧ (if s.watchCopied p.val < s.watch p.val 463 432 then 2 ^ 365 else 0) = e := by
    refine ⟨_, ?_, rfl⟩
    split
    · exact .inr rfl
    · exact .inl rfl
  rw [hee]
  generalize hv : watchDone (s.obj 0x8022 (p.val + 1)) e = v
  generalize hu : c.setObj 0x8022 (p.val + 1) v = u
  have hup : u.part p.val = s.part p.val := by
    rw [← hu]
    exact (congrArg (look Part.init · p.val) (State.setObj_parts ..)).trans hp
  have huv : u.obj 0x8022 (p.val + 1) = v := by
    rw [← hu]
    exact State.obj_setObj ..
  obtain ⟨hd, due, faults, hpart⟩ := mirrorDone_spec (u.setPart p.val { s.part p.val with watching := false }) p.val
  rw [State.part_setPart] at hpart
  rw [hup, hpart]
  refine ⟨rfl, rfl, e, he, Eq.trans ?_ (huv.trans hv.symm)⟩
  unfold State.obj
  rw [hd]
  rfl

/-! ### The obligation -/

/-- A step that has not ended starts no mirror. -/
theorem mirrorStart_idle {s : State} {p : Pn} (h : s.stepEnded p.val = false) : Done (.mirrorStart p) s fun t => t = s :=
  ⟨_, rfl, if_pos (by simp [h])⟩

/-- A step that has ended on every die is counted, and every die of the run is valid again (R92, R272). -/
theorem stepCounted {s t : State} {p : Nat} (h : t.stepView p = (s.setPart p (s.part p).stepped).stepView p) :
    (t.part p).stepNow = (s.part p).stepNow + 1 ∧
    (∀ d, d < 4 → look 0 (t.part p).endSeen d = look 0 (s.part p).endSeen d + if (s.part p).runDies.getLsbD d then 1 else 0) ∧
    (t.part p).run = (s.part p).run ∧ (t.part p).runDies = (s.part p).runDies ∧ (t.part p).dieValid = (s.part p).runDies := by
  unfold State.stepView at h
  rw [State.part_setPart] at h
  refine ⟨(congrArg Part.stepNow h :), fun d hd => ?_, (congrArg Part.run h :), (congrArg Part.runDies h :), (congrArg Part.dieValid h :)⟩
  have he : (t.part p).endSeen = (s.part p).stepped.endSeen := (congrArg Part.endSeen h :)
  rw [he]
  refine (look_foldl_count _ (diesIn_nodup _) _ d).trans ?_
  simp only [mem_diesIn, hd, true_and]

/-- Settles O43: each clause by the lemma that says what its command leaves. -/
theorem mirrorsFlashCopiesAndWatches : Obligations.MirrorsFlashCopiesAndWatches := by
  unfold Obligations.MirrorsFlashCopiesAndWatches
  intro s p
  refine ⟨mirrorStart_idle, fun hr hm hw hre hro he => ?_, fun d a h => ?_, fun d a => flashCopyCompletes, fun d a h => ⟨_, rfl, ?_⟩, fun h => ?_⟩
  · obtain ⟨t, ht, hv⟩ := mirrorStart_steps hr hm hw hre hro he
    obtain ⟨hstep, hend, hrun, hdies, hvalid⟩ := stepCounted hv
    exact ⟨t, ht, hstep, hend, hrun.trans hr, hdies, hvalid⟩
  · obtain ⟨m, ho, t, ht, hv⟩ := exec_mirrorComplete h
    exact ⟨t, ht, mirrorCompleted ho hv⟩
  · dsimp only
    rw [h]
    exact flashFail_spec ..
  · obtain ⟨t, ht, hwatch, hmir, e, he, hobj⟩ := tensorWatchCompletes h
    refine ⟨t, ht, hwatch, hmir, ?_⟩
    rw [hobj]
    exact bits_watchDone _ e he

end Sys2Proof.Machine

namespace Sys2Proof.Machine

open Sys2Proof

/-! ### What an instruction of a steward core leaves behind its own action (R122) -/

section
variable {w : At} (hw : w.who = .steward) (s : State)
include hw

theorem next1_steward_only : s.next1 w = { s with stewards := (s.next1 w).stewards, clusters := (s.next1 w).clusters } := by
  rw [next1_steward hw]
  rfl

theorem clu_next1_steward : (s.next1 w).clu w.cl = (s.clu w.cl).fetched w.ia := by
  rw [next1_steward hw, State.clu_setClu]

theorem core_next1_steward (cl : Cl) (c : Cn) : (s.next1 w).core cl c = s.core cl c := by
  rw [next1_steward hw]
  rfl

theorem ring_next1_steward (cl : Cl) (n : Nat) : (s.next1 w).ring cl n = s.ring cl n := by
  rw [next1_steward hw]
  rfl

theorem reg_steward (n : Nat) : s.reg w n = (s.stew w.cl).reg n := by
  unfold State.reg
  rw [hw]

theorem setReg_steward (n : Nat) (v : Word) : s.setReg w n v = s.setStew w.cl ((s.stew w.cl).setReg n v) := by
  unfold State.setReg
  rw [hw]

/-- A steward core that holds nothing begins to hold its instruction (R153). -/
theorem holdFor_steward {s : State} (hn : s.holdOf w = none) (i : Instr) (why : HoldWhy) :
    s.holdFor w i why = s.setStew w.cl { s.stew w.cl with hold := some ⟨i, why, s.now, false⟩ } := by
  unfold State.holdFor State.setHold
  rw [hn, hw]

end

/-! ### The event queue (R123, R386) -/

theorem setReg_events (k : Steward) (n : Nat) (v : Word) :
    (k.setReg n v).evq = k.evq ∧ (k.setReg n v).evRec = k.evRec ∧ (k.setReg n v).evLost = k.evLost := by
  unfold Steward.setReg
  split <;> exact ⟨rfl, rfl, rfl⟩

/-- EVREAD: the steward core is left with the events `k` gives, and with its result. -/
theorem evread_leaves {w : At} (hw : w.who = .steward) (s : State) (k : Steward) (hk : k.regs = (s.stew w.cl).regs) (sd : Nat) (v : Word) :
    RegsAfter w s (((s.setStew w.cl k).setReg w sd v).next1 w) sd v ∧ Issued w (((s.setStew w.cl k).setReg w sd v).next1 w) none ∧
    ((((s.setStew w.cl k).setReg w sd v).next1 w).stew w.cl).evq = k.evq ∧
    ((((s.setStew w.cl k).setReg w sd v).next1 w).stew w.cl).evRec = k.evRec ∧
    ((((s.setStew w.cl k).setReg w sd v).next1 w).stew w.cl).evLost = k.evLost ∧
    ((s.setStew w.cl k).setReg w sd v).next1 w = { s with
      stewards := (((s.setStew w.cl k).setReg w sd v).next1 w).stewards
      clusters := (((s.setStew w.cl k).setReg w sd v).next1 w).clusters } := by
  obtain ⟨hq, hr, hl⟩ := setReg_events k sd v
  have hst : (((s.setStew w.cl k).setReg w sd v).next1 w).stew w.cl = (k.setReg sd v).issued w.ia := by
    rw [stew_next1 hw, setReg_steward hw, State.stew_setStew, State.stew_setStew]
  refine ⟨fun n => ?_, issued_next1 .., ?_, ?_, ?_, ?_⟩
  · have hkr : k.reg n = s.reg w n := by
      rw [reg_steward hw]
      unfold Steward.reg
      rw [hk]
    rw [(next1_passed _ w).1 n, reg_setReg, reg_steward hw, State.stew_setStew, hkr]
  · rw [hst]
    exact hq
  · rw [hst]
    exact hr
  · rw [hst]
    exact hl
  · rw [next1_steward hw, setReg_steward hw]
    rfl

/-- ICINV: the instruction caches of the cluster and of its cores are empty. -/
def State.icachesEmptied (s : State) (cl : Cl) : State :=
  allCn.foldl (fun s c => s.setCore cl c { s.core cl c with icache := [] }) (s.setClu cl { s.clu cl with icache := [] })

/-- The cores' part of it, as a fold that rewrites every core of the cluster. -/
theorem icachesEmptied_eq (s : State) (cl : Cl) : s.icachesEmptied cl =
    allCn.foldl (fun s c => if true then s.setCore cl c { s.core cl c with icache := [] } else s) (s.setClu cl { s.clu cl with icache := [] }) := by
  unfold State.icachesEmptied
  simp only [if_true]

theorem icachesEmptied_only (s : State) (cl : Cl) :
    s.icachesEmptied cl = { s.setClu cl { s.clu cl with icache := [] } with cores := (s.icachesEmptied cl).cores } := by
  rw [icachesEmptied_eq]
  exact foldl_setCore_frame cl (fun _ => true) (fun _ k => { k with icache := [] }) allCn _

theorem icachesEmptied_core (s : State) (cl cl' : Cl) (c : Cn) :
    (s.icachesEmptied cl).core cl' c = if cl' = cl then { s.core cl' c with icache := [] } else s.core cl' c := by
  rw [icachesEmptied_eq, foldl_setCore cl (fun _ => true) (fun _ k => { k with icache := [] }) allCn allCn_nodup]
  simp only [mem_allCn, and_true, State.core_of_setClu]

/-- ICINV leaves no line in any instruction cache of the cluster. -/
theorem icinv_leaves {w : At} (hw : w.who = .steward) (s : State) :
    (((s.icachesEmptied w.cl).next1 w).clu w.cl).icache = [] ∧ (∀ c, (((s.icachesEmptied w.cl).next1 w).core w.cl c).icache = []) ∧
    Issued w ((s.icachesEmptied w.cl).next1 w) none ∧ (∀ n, ((s.icachesEmptied w.cl).next1 w).reg w n = s.reg w n) ∧
    (∀ cl c, ((s.icachesEmptied w.cl).next1 w).core cl c = { s.core cl c with icache := (((s.icachesEmptied w.cl).next1 w).core cl c).icache }) ∧
    (s.icachesEmptied w.cl).next1 w = { s with
      cores := ((s.icachesEmptied w.cl).next1 w).cores
      stewards := ((s.icachesEmptied w.cl).next1 w).stewards
      clusters := ((s.icachesEmptied w.cl).next1 w).clusters } := by
  have ho := icachesEmptied_only s w.cl
  have hc := icachesEmptied_core s w.cl
  generalize s.icachesEmptied w.cl = u at *
  have hclu : (u.clu w.cl).icache = [] := by
    rw [ho]
    exact congrArg Cluster.icache (State.clu_setClu s w.cl _)
  refine ⟨?_, fun c => ?_, issued_next1 .., fun n => ?_, fun cl c => ?_, ?_⟩
  · rw [clu_next1_steward hw]
    unfold Cluster.fetched
    rw [hclu]
    rfl
  · rw [core_next1_steward hw, hc, if_pos rfl]
  · rw [(next1_passed u w).1 n, reg_steward hw, reg_steward hw, ho]
    rfl
  · rw [core_next1_steward hw, hc]
    split <;> rfl
  · rw [next1_steward hw, ho]
    rfl

/-- Settles O21: each instruction by what its action leaves of the queue or of the instruction caches. -/
theorem stewardEvents : Obligations.StewardEvents := by
  unfold Obligations.StewardEvents
  intro s w sd hw hsd
  have hreg : regOk sd = true := decide_eq_true hsd
  refine ⟨fun h => ⟨fun hq => ?_, fun hq hn => ?_⟩, fun h => ⟨fun r rest hq => ?_, fun hq => ?_⟩, fun k h1 h7 h => ?_, fun h => ?_⟩
  · refine done_issue rfl h rfl ?_
    rw [if_neg hq]
    exact next1_passed ..
  · refine done_issue rfl h rfl ?_
    rw [if_pos hq]
    exact holdFor_steward hw hn ..
  · refine done_issue rfl h (by simp [firstBad, hreg]) ?_
    simp only [hq]
    exact evread_leaves hw s { s.stew w.cl with evq := rest, evRec := r, evLost := 0 } rfl ..
  · refine done_issue rfl h (by simp [firstBad, hreg]) ?_
    simp only [hq]
    have hl := evread_leaves hw s { s.stew w.cl with evRec := 0 } rfl sd 0
    simp only [hq] at hl
    exact hl
  · exact done_issue rfl h (by simp [firstBad, hreg, h1, h7]) (result_spec ..)
  · refine done_issue rfl h rfl ?_
    exact icinv_leaves hw s

end Sys2Proof.Machine

namespace Sys2Proof.Machine

open Sys2Proof

/-! ### Tables whose numbers are all different -/

theorem find_of_mem {α : Type} {m : SMap α} (hm : (m.map (·.1)).Nodup) {k : Nat} {v : α} (h : (k, v) ∈ m) : find m k = some v := by
  induction m with
  | nil => cases h
  | cons e t ih =>
    obtain ⟨j, w⟩ := e
    rw [List.map_cons, List.nodup_cons] at hm
    obtain ⟨hj, ht⟩ := hm
    unfold find
    rcases List.mem_cons.mp h with heq | hmem
    · cases heq
      exact if_pos rfl
    · have hne : j ≠ k := fun e => hj (List.mem_map.mpr ⟨(k, v), hmem, e.symm⟩)
      rw [if_neg hne]
      exact ih ht hmem

/-- Two entries of one number are the same entry. -/
theorem snd_eq_of_mem {α : Type} {m : SMap α} (hm : (m.map (·.1)).Nodup) {k : Nat} {v : α} (h : (k, v) ∈ m) {e : Nat × α} (he : e ∈ m)
    (hk : e.1 = k) : e.2 = v := by
  have hf := find_of_mem hm he
  rw [hk, find_of_mem hm h] at hf
  exact (Option.some.inj hf).symm

/-! ### What the stop and the fault of a task leave of the cluster and of other tasks (R69, R124) -/

theorem traceEnd_clu (s : State) (r : TaskRun) (outcome : Nat) (cl : Cl) :
    (s.traceEnd r outcome).clu cl = { s.clu cl with trace := ((s.traceEnd r outcome).clu cl).trace } := by
  unfold State.traceEnd
  dsimp only
  rw [traceFlush_clu, trace_clu]
  rfl

section
variable {s : State} {cl : Cl} {key : Nat} {r : TaskRun} (h : find (s.clu cl).tasks key = some r)
include h

/-- A stop of a task takes it out of its cluster's table, and touches besides only the trace writer of the cluster. -/
theorem stopTask_clu (outcome : Nat) : ∃ tr, (s.stopTask cl key outcome).clu cl =
    { s.clu cl with trace := tr, tasks := del (s.clu cl).tasks key } := by
  have hu : ((s.abortCores cl r.coreset).voidPosts cl key).clu cl = s.clu cl := by
    rw [voidPosts_only, abortCores_frame]
    rfl
  unfold State.stopTask
  rw [h]
  dsimp only
  rw [State.clu_setClu, traceEnd_clu]
  generalize (s.abortCores cl r.coreset).voidPosts cl key = u at *
  rw [show (u.trueUp cl r).clu cl = s.clu cl from hu]
  exact ⟨_, rfl⟩

/-- The stop of a task, behind which a fault does no more to cores and tasks (R69). -/
theorem taskFault_stops (kind core ia : Nat) (ws : List Nat) (status : Nat) :
    (∀ cl' c', (s.taskFault cl key kind core ia ws status).core cl' c' =
      if cl' = cl ∧ r.coreset.getLsbD c'.val = true then ((s.core cl' c').ranTo (s.core cl' c').cyc).abort else s.core cl' c') ∧
    ((s.taskFault cl key kind core ia ws status).clu cl).tasks = del (s.clu cl).tasks key := by
  have hcore := fun cl' c' => stopTask_core s cl key (if kind = 7 then 2 else 1) r h cl' c'
  obtain ⟨tr, htr⟩ := stopTask_clu h (if kind = 7 then 2 else 1)
  have htasks : ((s.stopTask cl key (if kind = 7 then 2 else 1)).clu cl).tasks = del (s.clu cl).tasks key := by rw [htr]
  unfold State.taskFault
  rw [h]
  dsimp only
  generalize s.stopTask cl key (if kind = 7 then 2 else 1) = u at *
  simp only [refresh_core, refresh_clu]
  split
  · refine ⟨hcore, ?_⟩
    exact (congrArg Cluster.tasks (State.clu_setClu ..)).trans htasks
  · exact ⟨hcore, htasks⟩

end

/-! ### The tasks that TABORT stops (R69, R122, R124) -/

/-- The tasks of a list, of a cluster, have been stopped: their cores are free; other tasks and cores are as before. -/
structure Stopped (s t : State) (cl : Cl) (l : List (Nat × TaskRun)) : Prop where
  gone : ∀ e ∈ l, find (t.clu cl).tasks e.1 = none
  others : ∀ key, key ∉ l.map (·.1) → find (t.clu cl).tasks key = find (s.clu cl).tasks key
  freed : ∀ e ∈ l, ∀ c : Cn, e.2.coreset.getLsbD c.val = true → (t.core cl c).task = none ∧ (t.core cl c).phase = .free
  kept : ∀ cl' c, ¬(cl' = cl ∧ ∃ e ∈ l, e.2.coreset.getLsbD c.val = true) → t.core cl' c = s.core cl' c
  frame : t = { s with cores := t.cores, stewards := t.stewards, clusters := t.clusters, rings := t.rings, mgmt := t.mgmt, accts := t.accts,
                       freeCtr := t.freeCtr }
  regs : ∀ w : At, w.who = .steward → ∀ n, t.reg w n = s.reg w n

theorem Stopped.none (s : State) (cl : Cl) : Stopped s s cl [] where
  gone := by simp
  others _ _ := rfl
  freed := by simp
  kept _ _ _ := rfl
  frame := rfl
  regs _ _ _ := rfl

theorem reg_of_stewRegs {s t : State} {w : At} (hw : w.who = .steward) (h : (t.stew w.cl).regs = (s.stew w.cl).regs) (n : Nat) :
    t.reg w n = s.reg w n := by
  rw [reg_steward hw, reg_steward hw]
  unfold Steward.reg
  rw [h]

theorem pushEv_regs (s : State) (cl cl' : Cl) (r : BitVec 512) : ((s.pushEv cl r).stew cl').regs = (s.stew cl').regs := by
  unfold State.pushEv
  dsimp only
  rw [State.stew_setStew_if]
  split
  · rename_i h
    subst h
    split <;> rfl
  · rfl

/-- A task fault tells the home steward core, whose registers it leaves alone. -/
theorem taskFault_stewRegs (s : State) (cl : Cl) (key kind core ia : Nat) (ws : List Nat) (status : Nat) (cl' : Cl) :
    ((s.taskFault cl key kind core ia ws status).stew cl').regs = (s.stew cl').regs := by
  unfold State.taskFault
  split
  · rfl
  · dsimp only
    have hstew : (s.stopTask cl key (if kind = 7 then 2 else 1)).stew cl' = s.stew cl' := by
      rw [stopTask_frame]
      rfl
    generalize s.stopTask cl key (if kind = 7 then 2 else 1) = u at *
    simp only [refresh_stew]
    refine (pushEv_regs ..).trans (congrArg Steward.regs (Eq.trans ?_ hstew))
    split <;> rfl

theorem Stopped.taskFault {s : State} {cl : Cl} {e : Nat × TaskRun} (h : find (s.clu cl).tasks e.1 = some e.2) (kind core ia : Nat)
    (ws : List Nat) (status : Nat) : Stopped s (s.taskFault cl e.1 kind core ia ws status) cl [e] := by
  obtain ⟨hcore, htasks⟩ := taskFault_stops h kind core ia ws status
  refine ⟨fun a ha => ?_, fun key hk => ?_, fun a ha c hc => ?_, fun cl' c hn => ?_, taskFault_frame ..,
    fun w hw => reg_of_stewRegs hw (taskFault_stewRegs ..)⟩
  · rw [List.mem_singleton] at ha
    rw [htasks, ha]
    exact find_del_same ..
  · rw [htasks]
    exact find_del_ne _ (by simpa using hk)
  · rw [List.mem_singleton] at ha
    subst ha
    rw [hcore, if_pos ⟨rfl, hc⟩]
    exact ⟨rfl, rfl⟩
  · rw [hcore]
    exact if_neg fun hc => hn ⟨hc.1, e, List.mem_singleton_self e, hc.2⟩

theorem Stopped.cons {s t u : State} {cl : Cl} {e : Nat × TaskRun} {l : List (Nat × TaskRun)} (he : e.1 ∉ l.map (·.1))
    (h : Stopped s t cl [e]) (k : Stopped t u cl l) : Stopped s u cl (e :: l) where
  gone a ha := by
    rcases List.mem_cons.mp ha with rfl | hl
    · rw [k.others _ he]
      exact h.gone _ (List.mem_singleton_self _)
    · exact k.gone _ hl
  others key hk := by
    rw [List.map_cons, List.mem_cons, not_or] at hk
    rw [k.others _ hk.2, h.others _ (by simpa using hk.1)]
  freed a ha c hc := by
    by_cases hl : ∃ b ∈ l, b.2.coreset.getLsbD c.val = true
    · obtain ⟨b, hb, hbc⟩ := hl
      exact k.freed b hb c hbc
    · rcases List.mem_cons.mp ha with rfl | hal
      · rw [k.kept cl c fun hx => hl hx.2]
        exact h.freed _ (List.mem_singleton_self _) c hc
      · exact absurd ⟨a, hal, hc⟩ hl
  kept cl' c hn := by
    rw [k.kept cl' c fun ⟨hcl, b, hb, hbc⟩ => hn ⟨hcl, b, List.mem_cons_of_mem _ hb, hbc⟩]
    exact h.kept cl' c fun ⟨hcl, b, hb, hbc⟩ => hn ⟨hcl, b, List.mem_cons.mpr (.inl (List.mem_singleton.mp hb)), hbc⟩
  frame := by
    have hf := h.frame
    have kf := k.frame
    rw [kf, hf]
  regs w hw n := (k.regs w hw n).trans (h.regs w hw n)

/-- The core that a steward fault of a task names: the lowest of its core set. -/
def TaskRun.firstCore (r : TaskRun) : Nat := ((allCn.find? fun c => r.coreset.getLsbD c.val).getD 0).val

/-- The tasks of a cluster that run on named cores. -/
def State.tasksOn (s : State) (cl : Cl) (cs : Nat) : List (Nat × TaskRun) :=
  (s.clu cl).tasks.filter fun e => decide (e.2.coreset &&& BitVec.ofNat 12 cs ≠ 0)

theorem mem_tasksOn {s : State} {cl : Cl} {cs : Nat} {e : Nat × TaskRun} :
    e ∈ s.tasksOn cl cs ↔ e ∈ (s.clu cl).tasks ∧ e.2.coreset &&& BitVec.ofNat 12 cs ≠ 0 := by
  unfold State.tasksOn
  rw [List.mem_filter, decide_eq_true_iff]

theorem tAbort_eq (s : State) (cl : Cl) (cs : Nat) :
    s.tAbort cl cs = (s.tasksOn cl cs).foldl (fun s e => s.taskFault cl e.1 7 e.2.firstCore 0 [] 0) s := by
  unfold State.tAbort State.tasksOn
  rw [List.foldl_filter]
  simp only [decide_eq_true_eq, ne_eq, ite_not]
  rfl

theorem foldl_taskFault_stopped (cl : Cl) (l : List (Nat × TaskRun)) (hl : (l.map (·.1)).Nodup) (s : State)
    (h : ∀ e ∈ l, find (s.clu cl).tasks e.1 = some e.2) :
    Stopped s (l.foldl (fun s e => s.taskFault cl e.1 7 e.2.firstCore 0 [] 0) s) cl l := by
  induction l generalizing s with
  | nil => exact Stopped.none s cl
  | cons e l ih =>
    rw [List.map_cons, List.nodup_cons] at hl
    obtain ⟨he, hl⟩ := hl
    have hstop := Stopped.taskFault (h e List.mem_cons_self) 7 e.2.firstCore 0 [] 0
    refine hstop.cons he (ih hl _ fun a ha => ?_)
    have hne : a.1 ≠ e.1 := fun hx => he (List.mem_map.mpr ⟨a, ha, hx⟩)
    rw [hstop.others _ (by simpa using hne)]
    exact h a (List.mem_cons_of_mem _ ha)

theorem tAbort_stopped {s : State} {cl : Cl} (hn : ((s.clu cl).tasks.map (·.1)).Nodup) (cs : Nat) :
    Stopped s (s.tAbort cl cs) cl (s.tasksOn cl cs) := by
  rw [tAbort_eq]
  exact foldl_taskFault_stopped cl _ ((List.filter_sublist.map _).nodup hn) s fun e he => find_of_mem hn (mem_tasksOn.mp he).1

/-- Where one task alone runs on named cores, TABORT is its fault. -/
theorem tAbort_one {s : State} {cl : Cl} (hn : ((s.clu cl).tasks.map (·.1)).Nodup) {cs key : Nat} {r : TaskRun}
    (hm : (key, r) ∈ (s.clu cl).tasks) (hr : r.coreset &&& BitVec.ofNat 12 cs ≠ 0)
    (ho : ∀ e ∈ (s.clu cl).tasks, e.1 ≠ key → e.2.coreset &&& BitVec.ofNat 12 cs = 0) :
    s.tAbort cl cs = s.taskFault cl key 7 r.firstCore 0 [] 0 := by
  have hone : s.tasksOn cl cs = [(key, r)] := by
    refine List.perm_singleton.mp ((List.perm_ext_iff_of_nodup (hn.of_map.filter _) (List.nodup_singleton _)).mpr fun e => ?_)
    rw [List.mem_singleton]
    refine ⟨fun he => ?_, fun he => he ▸ mem_tasksOn.mpr ⟨hm, hr⟩⟩
    obtain ⟨hmem, hon⟩ := mem_tasksOn.mp he
    have hkey : e.1 = key := by
      by_contra hne
      exact hon (ho e hmem hne)
    exact Prod.ext hkey (snd_eq_of_mem hn hm hmem hkey)
  rw [tAbort_eq, hone]
  rfl

/-! ### A discard begins (R135) -/

/-- A running task whose slot is discarded is stopped, which frees its cores. -/
theorem beginDiscard_running {s : State} {cl : Cl} {k : Nat} {r : TaskRun} (hst : ((s.clu cl).slot k).st = .running)
    (h : find (s.clu cl).tasks ((s.clu cl).slot k).taskKey = some r) (cause : Nat) :
    (((s.beginDiscard cl k cause).clu cl).slot k).st = .discarding ∧ (((s.beginDiscard cl k cause).clu cl).slot k).cause = cause ∧
    find ((s.beginDiscard cl k cause).clu cl).tasks ((s.clu cl).slot k).taskKey = none ∧
    (∀ c : Cn, r.coreset.getLsbD c.val = true → ((s.beginDiscard cl k cause).core cl c).phase = .free ∧ ((s.beginDiscard cl k cause).core cl c).task = none) ∧
    (∀ cl' c', ¬(cl' = cl ∧ r.coreset.getLsbD c'.val = true) → (s.beginDiscard cl k cause).core cl' c' = s.core cl' c') ∧
    s.beginDiscard cl k cause = { s with
      cores := (s.beginDiscard cl k cause).cores, clusters := (s.beginDiscard cl k cause).clusters, rings := (s.beginDiscard cl k cause).rings
      mgmt := (s.beginDiscard cl k cause).mgmt, accts := (s.beginDiscard cl k cause).accts, freeCtr := (s.beginDiscard cl k cause).freeCtr } := by
  have hcore := fun cl' c' => stopTask_core s cl ((s.clu cl).slot k).taskKey 2 r h cl' c'
  have htasks := stopTask_tasks s cl ((s.clu cl).slot k).taskKey 2 r h
  have hframe := stopTask_frame s cl ((s.clu cl).slot k).taskKey 2
  unfold State.beginDiscard
  simp only [hst, true_or, if_true]
  generalize s.stopTask cl ((s.clu cl).slot k).taskKey 2 = u at *
  simp only [refresh_core, refresh_clu, State.clu_setClu, slot_setSlot, State.core_of_setClu, if_true]
  refine ⟨trivial, trivial, htasks, fun c hc => ?_, fun cl' c' hn => ?_, ?_⟩
  · rw [hcore, if_pos ⟨rfl, hc⟩]
    exact ⟨rfl, rfl⟩
  · rw [hcore, if_neg hn]
  · rw [refresh_only, refresh_only, hframe]
    rfl

theorem beginDiscard_ended {s : State} {cl : Cl} {k : Nat} (hst : ((s.clu cl).slot k).st = .ended) (cause : Nat) :
    (((s.beginDiscard cl k cause).clu cl).slot k).st = .discarding ∧ (((s.beginDiscard cl k cause).clu cl).slot k).cause = cause ∧
    s.beginDiscard cl k cause = { s with clusters := (s.beginDiscard cl k cause).clusters, rings := (s.beginDiscard cl k cause).rings } := by
  have hframe := voidPosts_only s cl ((s.clu cl).slot k).taskKey
  unfold State.beginDiscard
  simp only [hst, or_true, if_true, reduceCtorEq, if_false]
  generalize s.voidPosts cl ((s.clu cl).slot k).taskKey = u at *
  rw [State.clu_setClu, slot_setSlot, if_pos rfl]
  refine ⟨rfl, rfl, ?_⟩
  rw [hframe]
  rfl

/-- A slot that is free or being resolved is left (R136). -/
theorem beginDiscard_resolved {s : State} {cl : Cl} {k : Nat} (hst : ¬(((s.clu cl).slot k).st = .running ∨ ((s.clu cl).slot k).st = .ended)) (cause : Nat) :
    s.beginDiscard cl k cause = s := if_neg hst

/-! ### The instructions -/

/-- A slot that SCOMMIT has made due (R134). -/
def Slot.madeDue (x : Slot) : Slot := { x with due := true, dueBy := if x.due then x.dueBy else 1 }

/-- SCOMMIT makes the slot due where its task runs or has ended, and leaves it otherwise (R134, R136). -/
theorem exec_scommit {s : State} {w : At} {k : Nat} (hk : k < 4) (h : s.readyFor w (.scommit w k) .steward = true) :
    exec (.scommit w k) s = .next ((if ((s.clu w.cl).slot k).st = .running ∨ ((s.clu w.cl).slot k).st = .ended
      then s.setClu w.cl ((s.clu w.cl).setSlot k ((s.clu w.cl).slot k).madeDue) else s).next1 w) :=
  congrArg Host.Outcome.next (issue_ready _ h (by simp [firstBad, slotOk, hk]))

theorem exec_sdiscard {s : State} {w : At} {k : Nat} (hk : k < 4) (h : s.readyFor w (.sdiscard w k) .steward = true) :
    exec (.sdiscard w k) s = .next ((s.beginDiscard w.cl k 1).next1 w) :=
  congrArg Host.Outcome.next (issue_ready _ h (by simp [firstBad, slotOk, hk]))

theorem exec_tabort {s : State} {w : At} {cs : Nat} (hc : cs < 4096) (h : s.readyFor w (.tabort w cs) .steward = true) :
    exec (.tabort w cs) s = .next ((s.tAbort w.cl cs).next1 w) :=
  congrArg Host.Outcome.next (issue_ready _ h (by simp [firstBad, hc]))

/-- SCOMMIT of a slot that is not resolved makes it due, and touches no other (R134). -/
theorem scommit_due {w : At} (hw : w.who = .steward) (s : State) (k : Nat) :
    let t := (s.setClu w.cl ((s.clu w.cl).setSlot k ((s.clu w.cl).slot k).madeDue)).next1 w
    (∀ j, (t.clu w.cl).slot j = if j = k then ((s.clu w.cl).slot k).madeDue else (s.clu w.cl).slot j) ∧
    (∀ n, t.reg w n = s.reg w n) ∧ t = { s with stewards := t.stewards, clusters := t.clusters } := by
  dsimp only
  refine ⟨fun j => ?_, fun n => ?_, ?_⟩
  · rw [clu_next1_steward hw, State.clu_setClu]
    exact slot_setSlot ..
  · rw [(next1_passed _ w).1 n]
    exact reg_of_stewRegs hw rfl n
  · rw [next1_steward hw]
    rfl

/-- SDISCARD of a slot whose task runs stops the task (R135). -/
theorem sdiscard_running {s : State} {w : At} (hw : w.who = .steward) {k : Nat} {r : TaskRun} (hst : ((s.clu w.cl).slot k).st = .running)
    (h : find (s.clu w.cl).tasks ((s.clu w.cl).slot k).taskKey = some r) :
    let t := (s.beginDiscard w.cl k 1).next1 w
    ((t.clu w.cl).slot k).st = .discarding ∧ ((t.clu w.cl).slot k).cause = 1 ∧ find (t.clu w.cl).tasks ((s.clu w.cl).slot k).taskKey = none ∧
    (∀ c : Cn, r.coreset.getLsbD c.val = true → (t.core w.cl c).phase = .free ∧ (t.core w.cl c).task = none) ∧
    (∀ cl' c', ¬(cl' = w.cl ∧ r.coreset.getLsbD c'.val = true) → t.core cl' c' = s.core cl' c') ∧
    Issued w t none ∧ (∀ n, t.reg w n = s.reg w n) ∧ t.counters = s.counters ∧ t.dram = s.dram := by
  obtain ⟨hs, hc, hf, hfree, hkept, hframe⟩ := beginDiscard_running hst h 1
  dsimp only
  generalize s.beginDiscard w.cl k 1 = u at *
  simp only [clu_next1_steward hw, core_next1_steward hw]
  refine ⟨hs, hc, hf, hfree, hkept, issued_next1 .., fun n => ?_, ?_, ?_⟩
  · rw [(next1_passed u w).1 n]
    exact reg_of_stewRegs hw (by rw [hframe]; rfl) n
  · rw [next1_steward_only hw, hframe]
  · rw [next1_steward_only hw, hframe]

theorem sdiscard_ended {s : State} {w : At} (hw : w.who = .steward) {k : Nat} (hst : ((s.clu w.cl).slot k).st = .ended) :
    let t := (s.beginDiscard w.cl k 1).next1 w
    ((t.clu w.cl).slot k).st = .discarding ∧ ((t.clu w.cl).slot k).cause = 1 ∧ Issued w t none ∧ (∀ n, t.reg w n = s.reg w n) ∧
    t = { s with stewards := t.stewards, clusters := t.clusters, rings := t.rings } := by
  obtain ⟨hs, hc, hframe⟩ := beginDiscard_ended hst 1
  dsimp only
  generalize s.beginDiscard w.cl k 1 = u at *
  rw [clu_next1_steward hw]
  refine ⟨hs, hc, issued_next1 .., fun n => ?_, ?_⟩
  · rw [(next1_passed u w).1 n]
    exact reg_of_stewRegs hw (by rw [hframe]; rfl) n
  · rw [next1_steward_only hw, hframe]

/-- TABORT behind the stop of the tasks that it names. -/
theorem tabort_leaves {s : State} {w : At} (hw : w.who = .steward) (hn : ((s.clu w.cl).tasks.map (·.1)).Nodup) (cs : Nat) :
    Stopped s ((s.tAbort w.cl cs).next1 w) w.cl (s.tasksOn w.cl cs) := by
  have h := tAbort_stopped hn cs
  generalize s.tAbort w.cl cs = u at *
  have hclu : ((u.next1 w).clu w.cl).tasks = (u.clu w.cl).tasks := by
    rw [clu_next1_steward hw]
    rfl
  refine ⟨?_, ?_, ?_, ?_, ?_, fun w' hw' n => ?_⟩
  · rw [hclu]
    exact h.gone
  · rw [hclu]
    exact h.others
  · simp only [core_next1_steward hw]
    exact h.freed
  · simp only [core_next1_steward hw]
    exact h.kept
  · have hf := h.frame
    rw [next1_steward_only hw, hf]
  · refine Eq.trans (reg_of_stewRegs hw' ?_ n) (h.regs w' hw' n)
    rw [next1_steward hw]
    show ((u.setStew w.cl _).stew w'.cl).regs = _
    rw [State.stew_setStew_if]
    split
    · rename_i hcl
      rw [hcl]
      rfl
    · rfl

theorem taskHeld_next1 {s u : State} {w : At} (hw : w.who = .steward) {key : Nat} {r : TaskRun} (h : TaskHeld s u w.cl key r) :
    TaskHeld s (u.next1 w) w.cl key r := by
  unfold TaskHeld at h ⊢
  simp only [clu_next1_steward hw, core_next1_steward hw, ring_next1_steward hw]
  exact h

/-- Settles O22: a slot by what is done to it, a task by what its stop leaves. -/
theorem stewardActsOnTasksAndSlots : Obligations.StewardActsOnTasksAndSlots := by
  unfold Obligations.StewardActsOnTasksAndSlots
  intro s w k hw hk
  refine ⟨fun h => ⟨fun hst => ⟨_, exec_scommit hk h, ?_⟩, fun hst => ⟨_, exec_scommit hk h, ?_⟩⟩,
    fun h => ⟨fun r hst hf => ⟨_, exec_sdiscard hk h, sdiscard_running hw hst hf⟩, fun hst => ⟨_, exec_sdiscard hk h, sdiscard_ended hw hst⟩,
      fun hst => ⟨_, exec_sdiscard hk h, ?_⟩⟩,
    fun cs hcs h hn => ⟨_, exec_tabort hcs h, ?_⟩⟩
  · rw [if_pos hst]
    obtain ⟨hslot, hreg, hframe⟩ := scommit_due hw s k
    simp only [hslot, if_true]
    exact ⟨rfl, rfl, rfl, fun j hj => if_neg hj, issued_next1 .., hreg, hframe⟩
  · rw [if_neg hst]
    exact next1_passed ..
  · rw [beginDiscard_resolved hst]
    exact next1_passed ..
  · have hstop := tabort_leaves hw hn cs
    have hf := hstop.frame
    refine ⟨fun key r hm hr => ⟨hstop.gone _ (mem_tasksOn.mpr ⟨hm, hr⟩), hstop.freed _ (mem_tasksOn.mpr ⟨hm, hr⟩), fun hring ho => ?_⟩,
      fun key r hm hr => ?_, fun c hc => hstop.kept _ _ ?_, fun cl c hne => hstop.kept _ _ fun hx => hne hx.1, issued_next1 ..,
      hstop.regs w hw, by rw [hf], by rw [hf]⟩
    · rw [tAbort_one hn hm hr ho]
      exact taskHeld_next1 hw (taskFault_held _ _ _ _ _ _ _ _ _ (find_of_mem hn hm) hring)
    · rw [hstop.others, find_of_mem hn hm]
      intro hx
      obtain ⟨e, he, hkey⟩ := List.mem_map.mp hx
      obtain ⟨hmem, hon⟩ := mem_tasksOn.mp he
      exact hon (snd_eq_of_mem hn hm hmem hkey ▸ hr)
    · rintro ⟨_, e, he, hbit⟩
      obtain ⟨hmem, hon⟩ := mem_tasksOn.mp he
      rw [hc e hmem hon] at hbit
      cases hbit

end Sys2Proof.Machine

namespace Sys2Proof.Machine

open Sys2Proof

/-! ### TRETRY and TSKIP (R117, R122, R124) -/

theorem isTask_iff (r : Ring) : r.isTask = true ↔ r.kind = 1 := decide_eq_true_iff

theorem withdraw_idle {s : State} {cl : Cl} {n : Nat} (hp : (s.ring cl n).posted = false) (hg : (s.ring cl n).granted = false) :
    s.withdraw cl n = s := if_neg (by simp [hp, hg])

section
variable {s : State} {cl : Cl} {n : Nat}

theorem tRetry_refused (h : (s.ring cl n).kind ≠ 1 ∨ ((s.ring cl n).held = [] ∧ (s.ring cl n).badTask = false)) :
    s.tRetry cl n = s.ringRefuse cl n := by
  unfold State.tRetry
  dsimp only
  split
  · rfl
  · rename_i ht
    obtain ⟨hh, hb⟩ := h.resolve_left fun hk => hk ((isTask_iff _).mp (by simpa using ht))
    simp only [hh, hb, Bool.false_eq_true, if_false]

theorem tSkip_refused (h : (s.ring cl n).kind ≠ 1 ∨ ((s.ring cl n).held = [] ∧ (s.ring cl n).badTask = false)) :
    s.tSkip cl n = s.ringRefuse cl n := by
  unfold State.tSkip
  dsimp only
  split
  · rfl
  · rename_i ht
    obtain ⟨hh, hb⟩ := h.resolve_left fun hk => hk ((isTask_iff _).mp (by simpa using ht))
    simp only [hh, hb, Bool.false_eq_true, if_false]

/-- A ring whose oldest held descriptor is its candidate again. -/
def Ring.retried (r : Ring) : Ring := { r with
  cand := true, readySince := none, readyRank := 0, keptHeld := none, waitSince := none, wait2Since := none, tripped := false, tripped2 := false }

/-- A ring whose oldest held descriptor has failed its check again: it holds BAD_TASK. -/
def Ring.retryFailed (r : Ring) : Ring := { r with cand := false, st := .halted, cause := 11, readySince := none, readyRank := 0, keptHeld := none }

/-- A ring that has dropped its oldest held descriptor. -/
def Ring.skipped (r : Ring) (rest : List Held) : Ring := { r with held := rest, cand := false, readySince := none, readyRank := 0, keptHeld := none }

variable {h : Held} {rest : List Held} (hk : (s.ring cl n).kind = 1) (hh : (s.ring cl n).held = h :: rest)
  (hp : (s.ring cl n).posted = false) (hg : (s.ring cl n).granted = false)
include hk hh hp hg

theorem tRetry_passes (hok : s.taskOk cl cl h.desc = true) :
    s.tRetry cl n = (s.setRing cl n (s.ring cl n).retried).refreshRing cl n := by
  unfold State.tRetry
  simp only [(isTask_iff _).mpr hk, hh, withdraw_idle hp hg, hok, Bool.not_true, Bool.false_eq_true, if_false, if_true]
  unfold Ring.retried
  rw [hh]

theorem tRetry_fails (hok : s.taskOk cl cl h.desc = false) :
    s.tRetry cl n = ((s.setRing cl n (s.ring cl n).retryFailed).pushEv cl
        (evRecord 0x01 (tTaskId h.desc) (unitName cl (0x20 + n)) [256 * n + 5, h.slotAddr])).report
      (unitName cl (0x20 + n)) (s.clPart cl) h.slotAddr 5 0 (tTaskId h.desc) := by
  unfold State.tRetry
  simp only [(isTask_iff _).mpr hk, hh, withdraw_idle hp hg, hok, Bool.not_true, Bool.false_eq_true, if_false]
  unfold Ring.retryFailed
  rw [hh]
  rfl

theorem tSkip_drops (hr : rest ≠ []) :
    s.tSkip cl n = (s.setRing cl n ((s.ring cl n).skipped rest)).refreshRing cl n := by
  unfold State.tSkip
  simp only [(isTask_iff _).mpr hk, hh, withdraw_idle hp hg, hr, Bool.not_true, Bool.false_eq_true, if_false]
  rfl

end

theorem exec_tretry {s : State} {w : At} {n : Nat} (hn : n < 16) (h : s.readyFor w (.tretry w n) .steward = true) :
    exec (.tretry w n) s = .next ((s.tRetry w.cl n).next1 w) :=
  congrArg Host.Outcome.next (issue_ready _ h (by simp [firstBad, ringOk, hn]))

theorem exec_tskip {s : State} {w : At} {n : Nat} (hn : n < 16) (h : s.readyFor w (.tskip w n) .steward = true) :
    exec (.tskip w n) s = .next ((s.tSkip w.cl n).next1 w) :=
  congrArg Host.Outcome.next (issue_ready _ h (by simp [firstBad, ringOk, hn]))

section
variable {s : State} {w : At} (hw : w.who = .steward)
include hw

/-- An instruction that a ring refuses sets REFUSED and does nothing else (R235). -/
theorem refused_next1 {n : Nat} (hn : n < 16) : let t := (s.ringRefuse w.cl n).next1 w
    t.ring w.cl n = { s.ring w.cl n with refused := true } ∧ Issued w t none ∧ t.net = s.net ∧
    (∀ cl' n', n' < 16 → ¬(cl' = w.cl ∧ n' = n) → t.ring cl' n' = s.ring cl' n') := by
  dsimp only
  simp only [ring_next1_steward hw]
  refine ⟨State.ring_setRing .., issued_next1 .., ?_, fun cl' n' hn' hne => ?_⟩
  · rw [next1_steward_only hw]
    rfl
  · unfold State.ringRefuse
    rw [State.ring_setRing_if _ _ _ hn hn', if_neg hne]

/-- A task ring that is set, and brought up to date, differs from what it was set to in its waits and its readiness. -/
theorem setRing_refreshed_next1 {n : Nat} (hn : n < 16) (v : Ring) : let t := ((s.setRing w.cl n v).refreshRing w.cl n).next1 w
    v.Refreshed (t.ring w.cl n) ∧ Issued w t none ∧ t = { s with stewards := t.stewards, clusters := t.clusters, rings := t.rings } := by
  have hring := refreshRing_ring (s.setRing w.cl n v) w.cl w.cl hn hn
  rw [State.ring_setRing] at hring
  have hframe := refreshRing_only (s.setRing w.cl n v) w.cl n
  dsimp only
  generalize (s.setRing w.cl n v).refreshRing w.cl n = u at *
  refine ⟨?_, issued_next1 .., ?_⟩
  · rw [ring_next1_steward hw]
    exact hring
  · rw [next1_steward_only hw, hframe]
    rfl

end

/-- A held descriptor that fails its check again is told to the steward core and to the management processor (R117). -/
theorem tRetry_failed_next1 {s : State} {w : At} (hw : w.who = .steward) {n : Nat} {h : Held} {rest : List Held} (hk : (s.ring w.cl n).kind = 1)
    (hh : (s.ring w.cl n).held = h :: rest) (hp : (s.ring w.cl n).posted = false) (hg : (s.ring w.cl n).granted = false)
    (hok : s.taskOk w.cl w.cl h.desc = false) : let t := (s.tRetry w.cl n).next1 w
    t.ring w.cl n = (s.ring w.cl n).retryFailed ∧ Issued w t none ∧
    t = { s with stewards := t.stewards, clusters := t.clusters, rings := t.rings, mgmt := t.mgmt } := by
  dsimp only
  rw [tRetry_fails hk hh hp hg hok]
  refine ⟨?_, issued_next1 .., ?_⟩
  · rw [ring_next1_steward hw]
    exact State.ring_setRing ..
  · rw [next1_steward_only hw]
    rfl

/-- Settles O23: each case by the ring that TRETRY or TSKIP leaves. -/
theorem heldDescriptorsAreRetriedOrSkipped : Obligations.HeldDescriptorsAreRetriedOrSkipped := by
  unfold Obligations.HeldDescriptorsAreRetriedOrSkipped
  intro s w n hw hn
  refine ⟨fun hi => ⟨fun hr => ⟨_, exec_tretry hn hi, ?_⟩, fun h rest hk hh hp hg hok => ⟨_, exec_tretry hn hi, ?_⟩,
      fun h rest hk hh hp hg hok => ⟨_, exec_tretry hn hi, ?_⟩⟩,
    fun hi => ⟨fun hr => ⟨_, exec_tskip hn hi, ?_⟩, fun h rest hk hh hr hp hg => ⟨_, exec_tskip hn hi, ?_⟩⟩⟩
  · rw [tRetry_refused hr]
    exact refused_next1 hw hn
  · rw [tRetry_passes hk hh hp hg hok]
    obtain ⟨hring, hissued, hframe⟩ := setRing_refreshed_next1 (s := s) hw hn (s.ring w.cl n).retried
    rw [hring]
    refine ⟨rfl, hh, ?_, rfl, rfl, rfl, hissued, by rw [hframe], hframe⟩
    show (s.ring w.cl n).held.head?.map (·.desc) = some h.desc
    rw [hh]
    rfl
  · obtain ⟨hring, hissued, hframe⟩ := tRetry_failed_next1 hw hk hh hp hg hok
    rw [hring]
    exact ⟨rfl, hh, rfl, rfl, rfl, hissued, hframe⟩
  · rw [tSkip_refused hr]
    exact refused_next1 hw hn
  · rw [tSkip_drops hk hh hp hg hr]
    obtain ⟨hring, hissued, hframe⟩ := setRing_refreshed_next1 (s := s) hw hn ((s.ring w.cl n).skipped rest)
    rw [hring]
    exact ⟨rfl, rfl, rfl, rfl, hissued, by rw [hframe], by rw [hframe], hframe⟩

end Sys2Proof.Machine

namespace Sys2Proof.Machine

open Sys2Proof

/-! ### The lines of a table -/

theorem mem_of_find_some {α : Type} {m : SMap α} {k : Nat} {v : α} (h : find m k = some v) : (k, v) ∈ m := by
  induction m with
  | nil => cases h
  | cons e t ih =>
    obtain ⟨j, w⟩ := e
    unfold find at h
    split at h
    · rename_i hj
      cases h
      exact hj ▸ List.mem_cons_self
    · exact List.mem_cons_of_mem _ (ih h)

theorem find_none_of_not_mem {α : Type} {m : SMap α} {k : Nat} (h : k ∉ m.map (·.1)) : find m k = none := by
  cases hf : find m k with
  | none => rfl
  | some v => exact absurd (List.mem_map.mpr ⟨_, mem_of_find_some hf, rfl⟩) h

theorem find_map_if {α : Type} (p : α → Prop) [DecidablePred p] (f : α → α) (m : SMap α) (k : Nat) :
    find (m.map fun e => if p e.2 then (e.1, f e.2) else e) k = (find m k).map fun v => if p v then f v else v := by
  induction m with
  | nil => rfl
  | cons e t ih =>
    obtain ⟨j, w⟩ := e
    rw [List.map_cons]
    by_cases hp : p w <;> by_cases hj : j = k <;> simp [find, hp, hj, ih]

/-! ### CCDISCARD and CCMARK (R217) -/

theorem line_dropLine (c : Cache) (l k : Nat) : (c.dropLine l).line k = if k = l then none else c.line k := by
  split
  · rename_i h
    rw [h]
    exact find_del_same ..
  · rename_i h
    exact find_del_ne _ h

theorem line_foldl_dropLine (p : Nat → Bool) (l : SMap Line) (c : Cache) (k : Nat) :
    (l.foldl (fun c e => if p e.1 then c.dropLine e.1 else c) c).line k = if p k = true ∧ k ∈ l.map (·.1) then none else c.line k := by
  induction l generalizing c with
  | nil => simp
  | cons e t ih =>
    rw [List.foldl_cons, ih]
    have hc : (if p e.1 then c.dropLine e.1 else c).line k = if p k = true ∧ k = e.1 then none else c.line k := by
      by_cases hp : p e.1 = true
      · rw [if_pos hp, line_dropLine]
        exact if_congr ⟨fun h => ⟨h ▸ hp, h⟩, fun h => h.2⟩ rfl rfl
      · rw [if_neg hp, if_neg]
        exact fun h => hp (h.2 ▸ h.1)
    rw [hc, ← ite_or]
    exact if_congr (by simp only [List.map_cons, List.mem_cons, and_or_left, or_comm]) rfl rfl

/-- The lines of a range are dropped, and no other. -/
theorem line_dropRange (s : State) (cl : Cl) (a n l : Nat) :
    ((s.dropRange cl a n).clu cl).cache.line l = if inRange a n l then none else (s.clu cl).cache.line l := by
  unfold State.dropRange
  dsimp only
  rw [State.clu_setClu]
  refine (line_foldl_dropLine (inRange a n) _ _ l).trans ?_
  by_cases hl : l ∈ (s.clu cl).cache.lines.map (·.1)
  · simp [hl]
  · rw [if_neg fun h => hl h.2, show (s.clu cl).cache.line l = none from find_none_of_not_mem hl, ite_self]

/-! ### The write-backs of CCLEAN and CCFLUSH (R189, R217, R384) -/

/-- A line with its write-back on its way. -/
def Line.sent (e : Line) : Line := { e with wb := true, again := false }

/-- The write-back that is sent of a line whose cache holds the bytes `m`. -/
def backWrite (cl : Cl) (e : Nat × Line) (m : Mem) : WReq := ⟨e.1, e.2.mask, copyLine Mem.empty m e.1, .writeBack cl e.1⟩

/-- A cluster that waits for the acceptance of one more line, whose table is now `ls`. -/
def Cluster.awaiting (v : Cluster) (l : Nat) : Cluster := { v with ccLines := v.ccLines ++ [l] }

/-- A cluster that has sent the write-back of a line. -/
def Cluster.sending (v : Cluster) (e : Nat × Line) : Cluster := { v with
  cache := { v.cache with lines := ins v.cache.lines e.1 e.2.sent, writebacks := v.cache.writebacks + 1 }
  ccLines := v.ccLines ++ [e.1] }

/-- Sends a line's write-back, unless one that holds its bytes is on its way. -/
def State.sendBack (s : State) (cl : Cl) (e : Nat × Line) : State :=
  if e.2.wb && !e.2.again then s.setClu cl ((s.clu cl).awaiting e.1)
  else
    let u := s.checkLine cl e.1
    let v := (u.clu cl).sending e
    { u.setClu cl v with dram := { u.dram with wq := u.dram.wq ++ [backWrite cl e v.cache.mem] } }

/-- The lines that a cache instruction writes back: the dirty ones of its range. -/
def Cache.dirtyIn (c : Cache) (a n : Nat) : SMap Line := c.lines.filter fun e => inRange a n e.1 && e.2.dirty

theorem cleanStart_eq (s : State) (cl : Cl) (a n : Nat) :
    s.cleanStart cl a n = ((s.clu cl).cache.dirtyIn a n).foldl (fun s e => s.sendBack cl e) s := by
  unfold State.cleanStart Cache.dirtyIn
  rw [List.foldl_filter]
  rfl

/-- A check of a line before it leaves the cache may rewrite its words, and tells of what it found. -/
theorem checkLine_clu (s : State) (cl : Cl) (l : Nat) : ∃ m, (s.checkLine cl l).clu cl =
    { s.clu cl with cache := { (s.clu cl).cache with mem := m } } := ⟨_, State.clu_setClu ..⟩

theorem checkLine_frame (s : State) (cl : Cl) (l : Nat) :
    s.checkLine cl l = { s with clusters := (s.checkLine cl l).clusters, mgmt := (s.checkLine cl l).mgmt } := by
  unfold State.checkLine
  dsimp only
  rw [wordErrors_only]
  rfl

/-- The write-backs of a list of lines are on their way, and nothing else has changed. -/
structure Sent (s t : State) (cl : Cl) (l : SMap Line) : Prop where
  line : ∀ e ∈ l, (t.clu cl).cache.line e.1 = some e.2.sent
  awaited : ∀ e ∈ l, e.1 ∈ (t.clu cl).ccLines
  asked : ∀ e ∈ l, e.2.wb = false ∨ e.2.again = true → ∃ q ∈ t.dram.wq, q.line = e.1 ∧ q.mask = e.2.mask ∧ q.writer = .writeBack cl e.1
  others : ∀ k, k ∉ l.map (·.1) → (t.clu cl).cache.line k = (s.clu cl).cache.line k
  awaitedStill : ∀ x ∈ (s.clu cl).ccLines, x ∈ (t.clu cl).ccLines
  askedStill : ∀ q ∈ s.dram.wq, q ∈ t.dram.wq
  mem : t.dram.mem = s.dram.mem
  frame : t = { s with clusters := t.clusters, dram := t.dram, mgmt := t.mgmt }

theorem Sent.none (s : State) (cl : Cl) : Sent s s cl [] where
  line := by simp
  awaited := by simp
  asked := by simp
  others _ _ := rfl
  awaitedStill _ h := h
  askedStill _ h := h
  mem := rfl
  frame := rfl

theorem Sent.one {s : State} {cl : Cl} {e : Nat × Line} (h : (s.clu cl).cache.line e.1 = some e.2) : Sent s (s.sendBack cl e) cl [e] := by
  unfold State.sendBack
  split
  · rename_i hwb
    rw [Bool.and_eq_true, Bool.not_eq_true'] at hwb
    have hclu : (s.setClu cl ((s.clu cl).awaiting e.1)).clu cl = (s.clu cl).awaiting e.1 := State.clu_setClu ..
    refine ⟨fun a ha => ?_, fun a ha => ?_, fun a ha hx => ?_, fun k _ => ?_, fun x hx => ?_, fun q hq => hq, rfl, rfl⟩
    · rw [List.mem_singleton] at ha
      rw [ha, hclu]
      refine h.trans (congrArg some ?_)
      unfold Line.sent
      rw [← hwb.1, ← hwb.2]
    · rw [List.mem_singleton] at ha
      rw [ha, hclu]
      exact List.mem_append_right _ (List.mem_singleton_self _)
    · rw [List.mem_singleton] at ha
      rw [ha, hwb.1, hwb.2] at hx
      exact absurd hx (by decide)
    · rw [hclu]
      rfl
    · rw [hclu]
      exact List.mem_append_left _ hx
  · obtain ⟨m, hm⟩ := checkLine_clu s cl e.1
    have hf := checkLine_frame s cl e.1
    generalize s.checkLine cl e.1 = u at *
    have hd : u.dram = s.dram := by rw [hf]
    dsimp only
    generalize ht : ({ u.setClu cl ((u.clu cl).sending e) with
      dram := { u.dram with wq := u.dram.wq ++ [backWrite cl e ((u.clu cl).sending e).cache.mem] } } : State) = t
    have hclu : t.clu cl = (u.clu cl).sending e := by
      rw [← ht]
      exact State.clu_setClu u cl _
    have hwq : t.dram.wq = s.dram.wq ++ [backWrite cl e ((u.clu cl).sending e).cache.mem] := by
      rw [← ht, ← hd]
    refine ⟨fun a ha => ?_, fun a ha => ?_, fun a ha _ => ?_, fun k hk => ?_, fun x hx => ?_, fun q hq => ?_, ?_, ?_⟩
    · rw [List.mem_singleton] at ha
      rw [ha, hclu]
      exact find_ins_same ..
    · rw [List.mem_singleton] at ha
      rw [ha, hclu]
      exact List.mem_append_right _ (List.mem_singleton_self _)
    · rw [List.mem_singleton] at ha
      rw [ha, hwq]
      exact ⟨_, List.mem_append_right _ (List.mem_singleton_self _), rfl, rfl, rfl⟩
    · rw [hclu, hm]
      exact find_ins_ne _ _ (by simpa using hk)
    · rw [hclu, hm]
      exact List.mem_append_left _ hx
    · rw [hwq]
      exact List.mem_append_left _ hq
    · rw [← ht, ← hd]
    · rw [← ht, hf]
      rfl

theorem Sent.cons {s t u : State} {cl : Cl} {e : Nat × Line} {l : SMap Line} (he : e.1 ∉ l.map (·.1)) (h : Sent s t cl [e])
    (k : Sent t u cl l) : Sent s u cl (e :: l) where
  line a ha := by
    rcases List.mem_cons.mp ha with rfl | hl
    · rw [k.others _ he]
      exact h.line _ (List.mem_singleton_self _)
    · exact k.line a hl
  awaited a ha := by
    rcases List.mem_cons.mp ha with rfl | hl
    · exact k.awaitedStill _ (h.awaited _ (List.mem_singleton_self _))
    · exact k.awaited a hl
  asked a ha hx := by
    rcases List.mem_cons.mp ha with rfl | hl
    · obtain ⟨q, hq, hs⟩ := h.asked _ (List.mem_singleton_self _) hx
      exact ⟨q, k.askedStill q hq, hs⟩
    · exact k.asked a hl hx
  others key hk := by
    rw [List.map_cons, List.mem_cons, not_or] at hk
    rw [k.others _ hk.2, h.others _ (by simpa using hk.1)]
  awaitedStill x hx := k.awaitedStill x (h.awaitedStill x hx)
  askedStill q hq := k.askedStill q (h.askedStill q hq)
  mem := k.mem.trans h.mem
  frame := by
    have hf := h.frame
    have kf := k.frame
    rw [kf, hf]

theorem foldl_sendBack_sent (cl : Cl) (l : SMap Line) (hl : (l.map (·.1)).Nodup) (s : State)
    (h : ∀ e ∈ l, (s.clu cl).cache.line e.1 = some e.2) : Sent s (l.foldl (fun s e => s.sendBack cl e) s) cl l := by
  induction l generalizing s with
  | nil => exact Sent.none s cl
  | cons e l ih =>
    rw [List.map_cons, List.nodup_cons] at hl
    obtain ⟨he, hl⟩ := hl
    have hone := Sent.one (h e List.mem_cons_self)
    refine hone.cons he (ih hl _ fun a ha => ?_)
    have hne : a.1 ≠ e.1 := fun hx => he (List.mem_map.mpr ⟨a, ha, hx⟩)
    rw [hone.others _ (by simpa using hne)]
    exact h a (List.mem_cons_of_mem _ ha)

theorem mem_dirtyIn {c : Cache} {a n : Nat} {e : Nat × Line} : e ∈ c.dirtyIn a n ↔ e ∈ c.lines ∧ inRange a n e.1 = true ∧ e.2.dirty = true := by
  unfold Cache.dirtyIn
  rw [List.mem_filter, Bool.and_eq_true]

theorem cleanStart_sent {s : State} {cl : Cl} (hn : ((s.clu cl).cache.lines.map (·.1)).Nodup) (a n : Nat) :
    Sent s (s.cleanStart cl a n) cl ((s.clu cl).cache.dirtyIn a n) := by
  rw [cleanStart_eq]
  exact foldl_sendBack_sent cl _ ((List.filter_sublist.map _).nodup hn) s fun e he => find_of_mem hn (mem_dirtyIn.mp he).1

/-- A line that is not dirty is not written back. -/
theorem writeBack_of_not_dirty {s : State} {cl : Cl} {l : Nat} (h : (s.clu cl).cache.isDirty l = false) : s.writeBack cl l = s :=
  if_pos (by rw [h]; rfl)

section
variable {s : State} {w : At}

section
variable {a n : Nat} {cl : Cl} (hc : ∀ e ∈ (s.clu cl).cache.lines, inRange a n e.1 = true → e.2.dirty = false)
include hc

/-- A range without a dirty line has nothing to write back. -/
theorem cleanStart_clean : s.cleanStart cl a n = s := by
  have hnil : (s.clu cl).cache.dirtyIn a n = [] :=
    List.eq_nil_iff_forall_not_mem.mpr fun e he => by
      obtain ⟨hm, hr, hd⟩ := mem_dirtyIn.mp he
      rw [hc e hm hr] at hd
      cases hd
  rw [cleanStart_eq, hnil]
  rfl

theorem cleanRange_clean : s.cleanRange cl a n = s := by
  unfold State.cleanRange
  refine foldl_inv (p := fun u : State => u = s) _ s rfl fun u e _ hu => ?_
  rw [hu]
  split
  · rename_i hr
    refine writeBack_of_not_dirty ?_
    unfold Cache.isDirty
    split
    · rename_i x hx
      exact hc _ (mem_of_find_some hx) (by simp [inRange, hr])
    · rfl
  · rfl

end

variable (hw : w.who = .steward)
include hw

/-- CCLEAN and CCFLUSH hold once they have sent write-backs. -/
theorem doClean_holds (hn : s.holdOf w = none) (i : Instr) (sa sb : Nat) (flush : Bool)
    (hu : ((s.cleanStart w.cl (s.reg w sa).toNat (s.reg w sb).toNat).clu w.cl).ccLines ≠ []) :
    s.doClean w i sa sb flush = (s.cleanStart w.cl (s.reg w sa).toNat (s.reg w sb).toNat).holdFor w i .cacheOp := by
  have hnone : (s.stew w.cl).hold = none := by
    unfold State.holdOf at hn
    rw [hw] at hn
    exact hn
  unfold State.doClean
  simp only [hnone, Bool.false_eq_true, if_false, if_pos hu]

omit hw in
/-- Behind the last acceptance, with no line left to write back, they are done. -/
theorem doClean_done (i : Instr) (sa sb : Nat) (flush : Bool) (hl : (s.clu w.cl).ccLines = [])
    (hc : ∀ e ∈ (s.clu w.cl).cache.lines, inRange (s.reg w sa).toNat (s.reg w sb).toNat e.1 = true → e.2.dirty = false) :
    s.doClean w i sa sb flush = (if flush then s.dropRange w.cl (s.reg w sa).toNat (s.reg w sb).toNat else s).next1 w := by
  unfold State.doClean
  simp only [cleanStart_clean hc, ite_self, hl, ne_eq, not_true_eq_false, if_false, cleanRange_clean hc]

/-- What CCLEAN and CCFLUSH of a range with dirty lines leave (R217, R384). -/
theorem doClean_sends (hn : s.holdOf w = none) (i : Instr) (sa sb : Nat) (flush : Bool) (hd : ((s.clu w.cl).cache.lines.map (·.1)).Nodup)
    (he : ∃ e ∈ (s.clu w.cl).cache.lines, inRange (s.reg w sa).toNat (s.reg w sb).toNat e.1 = true ∧ e.2.dirty = true) :
    let t := s.doClean w i sa sb flush
    t.holdOf w = some ⟨i, .cacheOp, s.now, false⟩ ∧ (∀ n, t.reg w n = s.reg w n) ∧
    (∃ u, Sent s u w.cl ((s.clu w.cl).cache.dirtyIn (s.reg w sa).toNat (s.reg w sb).toNat) ∧ t.clu w.cl = u.clu w.cl ∧ t.dram = u.dram) ∧
    t = { s with stewards := t.stewards, clusters := t.clusters, dram := t.dram, mgmt := t.mgmt } := by
  have hsent := cleanStart_sent hd (s.reg w sa).toNat (s.reg w sb).toNat
  obtain ⟨e, hm, hr, hdirty⟩ := he
  have hu := List.ne_nil_of_mem (hsent.awaited e (mem_dirtyIn.mpr ⟨hm, hr, hdirty⟩))
  dsimp only
  rw [doClean_holds hw hn i sa sb flush hu]
  generalize s.cleanStart w.cl (s.reg w sa).toNat (s.reg w sb).toNat = u at *
  have hf := hsent.frame
  have hold : u.holdOf w = none := by
    rw [hf]
    exact hn
  rw [holdFor_steward hw hold]
  refine ⟨?_, fun n => ?_, ⟨u, hsent, rfl, rfl⟩, ?_⟩
  · unfold State.holdOf
    rw [hw, hf]
    exact congrArg Steward.hold (State.stew_setStew ..)
  · refine reg_of_stewRegs hw ?_ n
    rw [State.stew_setStew, hf]
    rfl
  · rw [hf]
    rfl

theorem dropRange_next1 (a n : Nat) : let t := (s.dropRange w.cl a n).next1 w
    Issued w t none ∧ (∀ m, t.reg w m = s.reg w m) ∧
    (∀ l, (t.clu w.cl).cache.line l = if inRange a n l then none else (s.clu w.cl).cache.line l) ∧
    t = { s with stewards := t.stewards, clusters := t.clusters } := by
  dsimp only
  refine ⟨issued_next1 .., fun m => ?_, fun l => ?_, ?_⟩
  · rw [(next1_passed _ w).1 m]
    exact reg_of_stewRegs hw rfl m
  · rw [clu_next1_steward hw]
    exact line_dropRange ..
  · rw [next1_steward_only hw]
    rfl

end

/-- A cache whose lines of a tag have a hint (R217). -/
def Cache.marked (c : Cache) (tag : Nat) (hint : Hint) : Cache :=
  { c with lines := c.lines.map fun e => if e.2.tag = tag then (e.1, { e.2 with hint := hint }) else e }

theorem ccmark_leaves {w : At} (hw : w.who = .steward) (s : State) (tag : Nat) (hint : Hint) :
    let t := (s.setClu w.cl { s.clu w.cl with cache := (s.clu w.cl).cache.marked tag hint }).next1 w
    Issued w t none ∧ (∀ n, t.reg w n = s.reg w n) ∧
    (∀ l, (t.clu w.cl).cache.line l = ((s.clu w.cl).cache.line l).map fun e => if e.tag = tag then { e with hint := hint } else e) ∧
    (t.clu w.cl).cache.mem = (s.clu w.cl).cache.mem ∧ t = { s with stewards := t.stewards, clusters := t.clusters } := by
  dsimp only
  rw [clu_next1_steward hw, State.clu_setClu]
  refine ⟨issued_next1 .., fun n => ?_, fun l => ?_, rfl, ?_⟩
  · rw [(next1_passed _ w).1 n]
    exact reg_of_stewRegs hw rfl n
  · exact find_map_if (fun e : Line => e.tag = tag) (fun e => { e with hint := hint }) _ l
  · rw [next1_steward_only hw]
    rfl

/-- Settles O24: the dropped and marked lines by the table, the write-backs by what `cleanStart` sends. -/
theorem stewardCacheInstructions : Obligations.StewardCacheInstructions := by
  unfold Obligations.StewardCacheInstructions
  intro s w sa sb hw hsa hsb ha hb
  have hoks : firstBad (s.rangeOks w sa sb) 0 = none := by
    simp [State.rangeOks, firstBad, regOk, hsa, hsb, ha, hb]
  refine ⟨fun h => done_issue rfl h hoks (dropRange_next1 hw ..), fun tag hint ht h => done_issue rfl h (by simp [firstBad, ht]) (ccmark_leaves hw ..),
    fun i hi h hn hd he => ?_, fun _ hl hc => ⟨fun h => done_issue rfl h hoks ?_, fun h => done_issue rfl h hoks ?_⟩⟩
  · obtain ⟨flush, hx⟩ : ∃ flush, exec i s = .next (s.doClean w i sa sb flush) := by
      rcases hi with rfl | rfl
      · exact ⟨false, congrArg Host.Outcome.next (issue_ready _ h hoks)⟩
      · exact ⟨true, congrArg Host.Outcome.next (issue_ready _ h hoks)⟩
    obtain ⟨hhold, hreg, ⟨u, hu, hclu, hdram⟩, hframe⟩ := doClean_sends hw hn i sa sb flush hd he
    refine ⟨_, hx, hhold, fun l e hm hr hdirty => ?_, fun l e hm hout => ?_, ?_, hreg, hframe⟩
    · have hmem := mem_dirtyIn.mpr ⟨hm, hr, hdirty⟩
      rw [hclu, hdram]
      exact ⟨hu.line _ hmem, hu.awaited _ hmem, hu.asked _ hmem⟩
    · rw [hclu, hu.others, Cache.line, find_of_mem hd hm]
      intro hx
      obtain ⟨x, hx, hkey⟩ := List.mem_map.mp hx
      obtain ⟨hxm, hxr, hxd⟩ := mem_dirtyIn.mp hx
      have hxe := snd_eq_of_mem hd hm hxm hkey
      rw [hxe] at hxd
      rw [show x.1 = l from hkey] at hxr
      rw [hxr, hxd] at hout
      exact absurd hout (by decide)
    · rw [hdram, hu.mem]
  · rw [doClean_done _ sa sb false hl hc]
    exact next1_passed ..
  · rw [doClean_done _ sa sb true hl hc]
    exact dropRange_next1 hw ..

end Sys2Proof.Machine

namespace Sys2Proof.Machine

open Sys2Proof

/-! ### A core at the start of a task (R30, R59, R75, R118) -/

section
variable (k : Core) (cl : Cl) (c : Cn) (d : BitVec 512) (key : Nat) (sched : Bool)

/-- The registers of R118: s1 to s5, and no other. -/
theorem start_regs : (k.start cl c d key sched).regs = put 0 (put 0 (put 0 (put 0 (put 0 [] 1 (BitVec.ofNat 64 (dfl d 191 128)))
    2 (BitVec.ofNat 64 (dfl d 127 64))) 3 (BitVec.ofNat 64 (coreNumber cl c))) 4 (BitVec.ofNat 64 (tTaskId d)))
    5 (BitVec.ofNat 64 (tCoreset d).toNat) := rfl

theorem start_reg : (k.start cl c d key sched).reg 1 = BitVec.ofNat 64 (dfl d 191 128) ∧
    (k.start cl c d key sched).reg 2 = BitVec.ofNat 64 (dfl d 127 64) ∧ (k.start cl c d key sched).reg 3 = BitVec.ofNat 64 (coreNumber cl c) ∧
    (k.start cl c d key sched).reg 4 = BitVec.ofNat 64 (tTaskId d) ∧ (k.start cl c d key sched).reg 5 = BitVec.ofNat 64 (tCoreset d).toNat ∧
    ∀ m, 6 ≤ m → (k.start cl c d key sched).reg m = 0 := by
  unfold Core.reg
  rw [start_regs]
  refine ⟨?_, ?_, ?_, ?_, ?_, fun m hm => ?_⟩
  all_goals simp only [look_put]
  · rfl
  · rfl
  · rfl
  · rfl
  · rfl
  · rw [if_neg (by omega), if_neg (by omega), if_neg (by omega), if_neg (by omega), if_neg (by omega), if_neg (by omega)]
    rfl

end

/-! ### A task ring's HEAD moves past its descriptor (R117, R120) -/

/-- Two rings that differ at most in what the check of the descriptor at HEAD sets (R117). -/
def Ring.SameButCheck (a b : Ring) : Prop :=
  b = { a with ph := b.ph, badTask := b.badTask, st := b.st, cause := b.cause, readySince := b.readySince, readyRank := b.readyRank }

theorem failHead_spec (s : State) (cl : Cl) (n : Nat) (b : Buffered) : (s.ring cl n).SameButCheck ((s.failHead cl n b).ring cl n) ∧
    s.failHead cl n b = { s with stewards := (s.failHead cl n b).stewards, rings := (s.failHead cl n b).rings, mgmt := (s.failHead cl n b).mgmt } := by
  have hr : (s.failHead cl n b).ring cl n = { s.ring cl n with
      ph := .checked, badTask := true, st := .halted, cause := 11, readySince := none, readyRank := 0 } := State.ring_setRing ..
  refine ⟨?_, rfl⟩
  rw [hr]
  rfl

theorem checkHead_spec (s : State) (cl : Cl) (n : Nat) : (s.ring cl n).SameButCheck ((s.checkHead cl n).ring cl n) ∧
    s.checkHead cl n = { s with stewards := (s.checkHead cl n).stewards, rings := (s.checkHead cl n).rings, mgmt := (s.checkHead cl n).mgmt } := by
  unfold State.checkHead
  dsimp only
  split
  · exact ⟨rfl, rfl⟩
  · split
    · split
      · rw [State.ring_setRing]
        exact ⟨rfl, rfl⟩
      · exact failHead_spec ..
    · exact ⟨rfl, rfl⟩

/-- HEAD moves on by one, and the ring holds no grant. -/
theorem advanceHead_spec {s : State} {cl : Cl} {n : Nat} (ho : (s.ring cl n).overrun = false) :
    ((s.advanceHead cl n).ring cl n).head = (s.ring cl n).head + 1 ∧ ((s.advanceHead cl n).ring cl n).granted = false ∧
    ((s.advanceHead cl n).ring cl n).tail = (s.ring cl n).tail ∧
    s.advanceHead cl n = { s with
      stewards := (s.advanceHead cl n).stewards, rings := (s.advanceHead cl n).rings, mgmt := (s.advanceHead cl n).mgmt } := by
  unfold State.advanceHead
  simp only [ho, Bool.false_eq_true, if_false]
  generalize hu : s.setRing cl n _ = u
  obtain ⟨hring, hframe⟩ := checkHead_spec u cl n
  rw [← hu] at hring hframe ⊢
  rw [State.ring_setRing] at hring
  rw [hring, hframe]
  exact ⟨rfl, rfl, rfl, rfl⟩

/-! ### The start of a task (R118, R120, R131) -/

/-- The run of a ring's candidate that starts now in cluster `tgt`. -/
def State.runOf (s : State) (cl tgt : Cl) (n : Nat) (b : Buffered) : TaskRun where
  ring := n
  home := cl
  desc := b.desc
  slotAddr := b.slotAddr
  coreset := tCoreset b.desc
  slot := if tSpec b.desc then (s.clu tgt).freeSpec else none
  start := s.now
  passed := 0
  energy := 0

/-- A cluster in whose table a run is entered, with its speculative slot taken. -/
def Cluster.entered (v : Cluster) (r : TaskRun) : Cluster :=
  match r.slot with
  | some k => { v with tasks := ins v.tasks v.nextKey r, nextKey := v.nextKey + 1 }.setSlot k
      { Slot.init with st := .running, desc := r.desc, home := r.home, taskKey := v.nextKey }
  | none => { v with tasks := ins v.tasks v.nextKey r, nextKey := v.nextKey + 1 }

theorem entered_tasks (v : Cluster) (r : TaskRun) : (v.entered r).tasks = ins v.tasks v.nextKey r := by
  unfold Cluster.entered
  split <;> rfl

/-- The cores of a descriptor's core set start. -/
def State.startCores (s : State) (tgt : Cl) (d : BitVec 512) (key : Nat) (sched : Bool) : State :=
  allCn.foldl (fun s c => if (tCoreset d).getLsbD c.val then s.setCore tgt c ((s.core tgt c).start tgt c d key sched) else s) s

theorem startCores_core (s : State) (tgt : Cl) (d : BitVec 512) (key : Nat) (sched : Bool) (cl' : Cl) (c : Cn) :
    (s.startCores tgt d key sched).core cl' c =
      if cl' = tgt ∧ (tCoreset d).getLsbD c.val = true then (s.core cl' c).start tgt c d key sched else s.core cl' c := by
  unfold State.startCores
  rw [foldl_setCore tgt (fun c => (tCoreset d).getLsbD c.val) (fun c k => k.start tgt c d key sched) allCn allCn_nodup]
  simp only [mem_allCn, true_and]

theorem startCores_only (s : State) (tgt : Cl) (d : BitVec 512) (key : Nat) (sched : Bool) :
    s.startCores tgt d key sched = { s with cores := (s.startCores tgt d key sched).cores } :=
  foldl_setCore_frame tgt (fun c => (tCoreset d).getLsbD c.val) (fun c k => k.start tgt c d key sched) allCn s

/-- The state once a run is entered in its cluster and its cores have started. -/
def State.begun (s : State) (cl tgt : Cl) (n : Nat) (b : Buffered) : State :=
  (s.setClu tgt ((s.clu tgt).entered (s.runOf cl tgt n b))).startCores tgt b.desc (s.clu tgt).nextKey
    (decide (s.obj 0x3023 (s.clPart cl + 1) = 1))

section
variable {s : State} {cl : Cl} {n : Nat} {b : Buffered} (tgt : Cl)

theorem begun_only : s.begun cl tgt n b = { s with cores := (s.begun cl tgt n b).cores, clusters := (s.begun cl tgt n b).clusters } := by
  unfold State.begun
  rw [startCores_only]
  rfl

/-- The start of the descriptor at HEAD. -/
theorem startTask_eq (hc : (s.ring cl n).cand = false) (hb : (s.ring cl n).headDesc = some b) :
    s.startTask cl tgt n b.desc = (((s.begun cl tgt n b).advanceHead cl n).refresh tgt).refresh cl := by
  have hring : (s.begun cl tgt n b).ring cl n = s.ring cl n := by
    rw [begun_only]
    rfl
  unfold State.startTask
  simp only [hc, hb]
  refine congrArg (fun u : State => (u.refresh tgt).refresh cl) (if_neg ?_)
  show ¬((s.begun cl tgt n b).ring cl n).cand = true
  rw [hring, hc]
  decide

/-- What a start leaves of the ring, beside a frame in which only cores, steward cores, clusters, rings and reports differ. -/
theorem startTask_spec {tgt : Cl} (hn : n < 16) (hc : (s.ring cl n).cand = false) (hb : (s.ring cl n).headDesc = some b)
    (ho : (s.ring cl n).overrun = false) : let t := s.startTask cl tgt n b.desc
    (t.ring cl n).head = (s.ring cl n).head + 1 ∧ (t.ring cl n).granted = false ∧ (t.ring cl n).tail = (s.ring cl n).tail ∧
    t.clu tgt = (s.clu tgt).entered (s.runOf cl tgt n b) ∧
    (∀ cl' c, t.core cl' c = if cl' = tgt ∧ (tCoreset b.desc).getLsbD c.val = true then
      (s.core cl' c).start tgt c b.desc (s.clu tgt).nextKey (decide (s.obj 0x3023 (s.clPart cl + 1) = 1)) else s.core cl' c) ∧
    t = { s with cores := t.cores, stewards := t.stewards, clusters := t.clusters, rings := t.rings, mgmt := t.mgmt } := by
  have hframe := begun_only (s := s) (cl := cl) (n := n) (b := b) tgt
  have hclu : (s.begun cl tgt n b).clu tgt = (s.clu tgt).entered (s.runOf cl tgt n b) := by
    unfold State.begun
    rw [startCores_only]
    exact State.clu_setClu ..
  have hcore := fun cl' c => startCores_core (s.setClu tgt ((s.clu tgt).entered (s.runOf cl tgt n b))) tgt b.desc (s.clu tgt).nextKey
    (decide (s.obj 0x3023 (s.clPart cl + 1) = 1)) cl' c
  change ∀ cl' c, (s.begun cl tgt n b).core cl' c = _ at hcore
  dsimp only
  rw [startTask_eq tgt hc hb]
  generalize s.begun cl tgt n b = u at *
  have hring : u.ring cl n = s.ring cl n := by
    rw [hframe]
    rfl
  obtain ⟨hhead, hgrant, htail, hadv⟩ := advanceHead_spec (s := u) (cl := cl) (n := n) (by rw [hring]; exact ho)
  rw [hring] at hhead htail
  generalize u.advanceHead cl n = v at *
  have href := (refresh_ring v tgt cl hn).trans (refresh_ring (v.refresh tgt) cl cl hn)
  rw [href]
  refine ⟨hhead, hgrant, htail, ?_, fun cl' c => ?_, ?_⟩
  · rw [refresh_clu, refresh_clu, hadv]
    exact hclu
  · rw [refresh_core, refresh_core, hadv]
    exact hcore cl' c
  · rw [refresh_only, refresh_only, hadv, hframe]

end

/-! ### TASK_START (R118, R168) -/

section
variable {s : State} {cl : Cl} {n : Rn} {b : Buffered} (hk : (s.ring cl n.val).kind = 1) (hg : (s.ring cl n.val).granted = true)
  (hp : (s.ring cl n.val).posted = false) (hd : (s.ring cl n.val).candidate = some b.desc)
  (hm : s.coresMissing ((s.ring cl n.val).runsIn cl) b.desc = false)
include hk hg hp hd hm

/-- A granted candidate whose cores are all there starts where it is ready and may start; otherwise its grant is returned. -/
theorem exec_taskStart : exec (.taskStart cl n) s = .next (
    if s.ready cl ((s.ring cl n.val).runsIn cl) b.desc ∧ s.mayStart cl ((s.ring cl n.val).runsIn cl)
    then s.startTask cl ((s.ring cl n.val).runsIn cl) n.val b.desc else (s.withdraw cl n.val).refreshRing cl n.val) := by
  show execTaskStart cl n s = _
  unfold execTaskStart
  simp only [hd, (isTask_iff _).mpr hk, hg, hp, hm, Bool.not_true, Bool.false_eq_true, or_self, if_false]

end

/-- A grant that is returned leaves the account the charge of its declared energy (R168). -/
theorem withdraw_granted {s : State} {cl : Cl} {n : Nat} {b : Buffered} (hg : (s.ring cl n).granted = true) (hc : (s.ring cl n).cand = false)
    (hb : (s.ring cl n).headDesc = some b) : let a := acctOf ((s.ring cl n).runsIn cl)
    ((s.withdraw cl n).ring cl n).granted = false ∧ ((s.withdraw cl n).ring cl n).head = (s.ring cl n).head ∧
    ((s.withdraw cl n).acct a).dues = (s.acct a).dues ++ [⟨0, declared (tEclass b.desc), false, true, cl, n, tTaskId b.desc⟩] ∧
    s.withdraw cl n = { s with rings := (s.withdraw cl n).rings, accts := (s.withdraw cl n).accts } := by
  have hd : (s.ring cl n).placedDesc = some b.desc := by
    unfold Ring.placedDesc
    rw [hc, hb]
    rfl
  unfold State.withdraw
  simp only [hg, hd, or_true, if_true, State.ring_setRing, true_and]
  exact ⟨congrArg Acct.dues (State.acct_setAcct ..), rfl⟩

/-- Settles O29: a start by what it leaves of the ring, the table and the cores; a return by its charge. -/
theorem taskStarts : Obligations.TaskStarts := by
  unfold Obligations.TaskStarts
  intro s cl n b hk hg hp _ hc hd hb ho hm
  refine ⟨fun hready hmay => ⟨_, exec_taskStart hk hg hp hd hm, ?_⟩, fun hready => ⟨_, exec_taskStart hk hg hp hd hm, ?_⟩⟩
  · rw [if_pos ⟨hready, hmay⟩]
    obtain ⟨hhead, hgrant, htail, hclu, hcore, hframe⟩ := startTask_spec (tgt := (s.ring cl n.val).runsIn cl) n.isLt hc hb ho
    have hslot : (s.runOf cl ((s.ring cl n.val).runsIn cl) n.val b).slot.isSome = tSpec b.desc := by
      unfold State.ready at hready
      simp only [Bool.and_eq_true, Bool.or_eq_true, Bool.not_eq_true'] at hready
      unfold State.runOf
      cases hs : tSpec b.desc with
      | false => rfl
      | true => exact hready.2.resolve_left (by rw [hs]; decide)
    refine ⟨hhead, hgrant, htail, ⟨_, ?_, rfl, rfl, rfl, rfl, rfl, rfl, hslot⟩, fun c hbit => ?_, fun cl' c hne => ?_, by rw [hframe], by rw [hframe],
      by rw [hframe]⟩
    · rw [hclu, entered_tasks]
      exact find_ins_same ..
    · rw [hcore, if_pos ⟨rfl, hbit⟩]
      obtain ⟨h1, h2, h3, h4, h5, h6⟩ := start_reg (s.core ((s.ring cl n.val).runsIn cl) c) ((s.ring cl n.val).runsIn cl) c b.desc
        (s.clu ((s.ring cl n.val).runsIn cl)).nextKey (decide (s.obj 0x3023 (s.clPart cl + 1) = 1))
      exact ⟨rfl, rfl, rfl, h1, h2, h3, h4, h5, h6, rfl, rfl, by rfl, by rfl, rfl, rfl⟩
    · rw [hcore, if_neg hne]
  · rw [if_neg fun h => absurd h.1 (by rw [hready]; decide)]
    obtain ⟨hgrant, hhead, hdues, hframe⟩ := withdraw_granted hg hc hb
    have hring := refreshRing_ring (s.withdraw cl n.val) cl cl n.isLt n.isLt
    have href := refreshRing_only (s.withdraw cl n.val) cl n.val
    generalize s.withdraw cl n.val = u at *
    rw [hring]
    refine ⟨hgrant, hhead, ?_, by rw [href, hframe], by rw [href, hframe]⟩
    rw [href]
    exact hdues

end Sys2Proof.Machine

namespace Sys2Proof.Machine

open Sys2Proof

/-! ### Waiters on a counter, over a core that holds what it held (R149) -/

section
variable {α : Type} {d : α} {q : α → Bool} (hd : q d = false)
include hd

theorem any_of_look {m : SMap α} {k : Nat} (h : q (look d m k) = true) : m.any (fun e => q e.2) = true := by
  induction m with
  | nil => exact absurd h (by rw [look, hd]; decide)
  | cons e t ih =>
    obtain ⟨j, w⟩ := e
    unfold look at h
    rw [List.any_cons, Bool.or_eq_true]
    split at h
    · exact .inl h
    · exact .inr (ih h)

/-- An entry that takes the place of one like it makes no difference to whether there is such an entry. -/
theorem any_ins {m : SMap α} {k : Nat} {v : α} (hv : q v = q (look d m k)) : (ins m k v).any (fun e => q e.2) = m.any fun e => q e.2 := by
  induction m with
  | nil =>
    show (q v || false) = false
    rw [hv, look, hd]
    rfl
  | cons e t ih =>
    obtain ⟨j, w⟩ := e
    unfold ins
    split
    · rw [List.any_cons, hv]
      cases hq : q (look d ((j, w) :: t) k) with
      | false => rfl
      | true => rw [any_of_look hd hq]; rfl
    · unfold look at hv
      split
      · rename_i hj
        rw [if_pos hj] at hv
        rw [List.any_cons, List.any_cons, hv]
      · rename_i hj
        rw [if_neg hj] at hv
        rw [List.any_cons, List.any_cons, ih hv]

theorem any_put [DecidableEq α] {m : SMap α} {k : Nat} {v : α} (hne : v ≠ d) (hv : q v = q (look d m k)) :
    (put d m k v).any (fun e => q e.2) = m.any fun e => q e.2 := by
  unfold put
  rw [if_neg hne]
  exact any_ins hd hv

end

/-- Whether something that is held waits for a counter that has not reached its target. -/
def State.awaits (s : State) (n : Nat) (h : Option Hold) : Bool :=
  match h with
  | some h => decide (h.why = .counter n) && !reaches (s.ctr n).value (s.ctr n).expected
  | none => false

/-- Whether a ring's descriptor at HEAD waits for a counter that has not reached its target. -/
def State.ringAwaits (s : State) (n : Nat) (r : Ring) : Bool :=
  match r.headDesc with
  | some b => decide (r.ph = .waiting) && dfl b.desc 450 427 = n && !reaches (s.ctr n).value (BitVec.ofNat 32 (dfl b.desc 426 395))
  | none => false

/-- A waiter is held where a core, a steward core or a ring waits. -/
theorem heldWaiter_eq (s : State) (n : Nat) : s.heldWaiter n =
    (s.cores.any (fun e => s.awaits n e.2.hold) || (s.stewards.any (fun e => s.awaits n e.2.hold) || s.rings.any fun e => s.ringAwaits n e.2)) := by
  rw [← List.isSome_find?, ← List.isSome_find?, ← List.isSome_find?]
  unfold State.heldWaiter State.waiterOn
  dsimp only
  split
  · rename_i e h
    have hc : (s.cores.find? fun e => s.awaits n e.2.hold) = some e := h
    rw [hc]
    rfl
  · rename_i h
    have hc : (s.cores.find? fun e => s.awaits n e.2.hold) = none := h
    rw [hc]
    split
    · rename_i e h
      have hst : (s.stewards.find? fun e => s.awaits n e.2.hold) = some e := h
      rw [hst]
      rfl
    · rename_i h
      have hst : (s.stewards.find? fun e => s.awaits n e.2.hold) = none := h
      rw [hst, Option.isSome_map]
      rfl

/-- A core that holds what it held before makes no difference to who waits for a counter. -/
theorem heldWaiter_setCore (s : State) (cl : Cl) (c : Cn) {v : Core} (hne : v ≠ Core.init) (hv : v.hold = (s.core cl c).hold) (n : Nat) :
    (s.setCore cl c v).heldWaiter n = s.heldWaiter n := by
  rw [heldWaiter_eq, heldWaiter_eq]
  refine congrArg (· || _) ?_
  exact any_put (q := fun k : Core => s.awaits n k.hold) rfl hne (congrArg (s.awaits n) hv)

/-! ### Balance of counters (R149) -/

theorem imbalance_init (s : State) (n : Nat) : s.imbalance Slot.init n = (s.ctr n).value - (s.ctr n).expected := by
  show (s.ctr n).value + 0#32 - _ = _
  rw [BitVec.add_zero]

/-- Counters of a task that is not speculative are balanced where each stands at its expected value and nobody waits for more. -/
theorem unbalanced_init_eq_nil {s : State} {ns : List Nat} :
    s.unbalanced Slot.init ns = [] ↔ ∀ n ∈ ns, (s.ctr n).value = (s.ctr n).expected ∧ s.heldWaiter n = false := by
  unfold State.unbalanced
  simp only [List.filter_eq_nil_iff, imbalance_init, ne_eq, Bool.or_eq_true, decide_eq_true_eq, not_or, not_not, Bool.not_eq_true, sub_eq_zero]

theorem mem_touchedHubs {s : State} {cl : Cl} {cs : BitVec 12} {n : Nat} :
    n ∈ s.touchedHubs cl cs ↔ ∃ c : Cn, cs.getLsbD c.val = true ∧ n ∈ (s.core cl c).touched ∧ nameIsHub n = true := by
  unfold State.touchedHubs
  simp only [List.mem_dedup, List.mem_flatMap, mem_allCn, true_and]
  refine exists_congr fun c => ?_
  split
  · rename_i h
    simp only [h, List.mem_filter, true_and]
  · rename_i h
    simp only [List.not_mem_nil, false_iff]
    exact fun hx => h hx.1

/-! ### The end of a task (R121, R144, R165) -/

/-- A core that its task has left. -/
def Core.freed (k : Core) : Core := { k with phase := .free, task := none, npc := none, deferStall := none, deferTripped := false }

/-- The DONE increment of a task, if its descriptor asks for one. -/
def State.donePackets (s : State) (r : TaskRun) : List Packet :=
  match tDone r.desc with
  | some h => [⟨nameHub r.home h, 1, .dispatcher r.home, s.clPart r.home⟩]
  | none => []

theorem done_eq (s : State) (r : TaskRun) : s.done r = { s with net := { s.net with flight := s.net.flight ++ s.donePackets r } } := by
  unfold State.done State.donePackets
  cases tDone r.desc with
  | some h => rfl
  | none =>
    dsimp only
    rw [List.append_nil]

/-- The cores of a core set are freed. -/
def State.freeCores (s : State) (cl : Cl) (cs : BitVec 12) : State :=
  allCn.foldl (fun s c => if cs.getLsbD c.val then s.setCore cl c (s.core cl c).freed else s) s

theorem freeCores_core (s : State) (cl : Cl) (cs : BitVec 12) (cl' : Cl) (c : Cn) :
    (s.freeCores cl cs).core cl' c = if cl' = cl ∧ cs.getLsbD c.val = true then (s.core cl' c).freed else s.core cl' c := by
  unfold State.freeCores
  rw [foldl_setCore cl (fun c => cs.getLsbD c.val) (fun _ k => k.freed) allCn allCn_nodup]
  simp only [mem_allCn, true_and]

theorem freeCores_only (s : State) (cl : Cl) (cs : BitVec 12) : s.freeCores cl cs = { s with cores := (s.freeCores cl cs).cores } :=
  foldl_setCore_frame cl (fun c => cs.getLsbD c.val) (fun _ k => k.freed) allCn s

theorem endTask_eq {s : State} {cl : Cl} {c : Cn} {key : Nat} {r : TaskRun} (h : r.slot = none) : s.endTask cl c key r =
    (let u := (((s.done r).freeCores cl r.coreset).trueUp cl r).traceEnd r 0
     (u.setClu cl { u.clu cl with tasks := del (u.clu cl).tasks key }).refresh cl) := by
  unfold State.endTask
  rw [h]
  rfl

/-- What the end of a task that is not speculative leaves. -/
theorem endTask_spec {s : State} {cl : Cl} {c : Cn} {key : Nat} {r : TaskRun} (h : r.slot = none) : let t := s.endTask cl c key r
    find (t.clu cl).tasks key = none ∧
    (∀ cl' c', t.core cl' c' = if cl' = cl ∧ r.coreset.getLsbD c'.val = true then (s.core cl' c').freed else s.core cl' c') ∧
    t.net.flight = s.net.flight ++ s.donePackets r ∧
    (t.acct (acctOf cl)).dues = (s.acct (acctOf cl)).dues ++ [⟨r.energy, declared (tEclass r.desc), false, false, r.home, r.ring, tTaskId r.desc⟩] ∧
    t.counters = s.counters ∧ t.dram = s.dram := by
  have hcore := fun cl' c' => freeCores_core (s.done r) cl r.coreset cl' c'
  have hfree := freeCores_only (s.done r) cl r.coreset
  have hdone := done_eq s r
  dsimp only
  rw [endTask_eq h]
  dsimp only
  generalize (s.done r).freeCores cl r.coreset = v at *
  have htrace := traceEnd_only (v.trueUp cl r) r 0
  generalize (v.trueUp cl r).traceEnd r 0 = u at *
  refine ⟨?_, fun cl' c' => ?_, ?_, ?_, ?_, ?_⟩
  · rw [refresh_clu, State.clu_setClu]
    exact find_del_same ..
  · rw [refresh_core, State.core_of_setClu, htrace]
    refine (hcore cl' c').trans ?_
    rw [hdone]
    rfl
  · rw [refresh_only, htrace, hfree, hdone]
    rfl
  · rw [refresh_only, htrace, hfree, hdone]
    exact congrArg Acct.dues (State.acct_setAcct ..)
  · rw [refresh_only, htrace, hfree, hdone]
    rfl
  · rw [refresh_only, htrace, hfree, hdone]
    rfl

/-! ### END_BALANCE_CHECK (R121, R149, R150) -/

/-- A task with one more core that has passed. -/
def TaskRun.withPassed (r : TaskRun) (c : Cn) : TaskRun := { r with passed := r.passed ||| BitVec.ofNat 12 (2 ^ c.val) }

/-- The state once a core of a task has passed its check. -/
def State.corePassed (s : State) (cl : Cl) (c : Cn) (key : Nat) (r : TaskRun) : State :=
  (s.setClu cl { s.clu cl with tasks := ins (s.clu cl).tasks key (r.withPassed c) }).setCore cl c { s.core cl c with phase := .passed }

section
variable {s : State} {cl : Cl} {c : Cn} {key : Nat} {r : TaskRun}

theorem exec_endBalanceCheck (hk : (s.core cl c).task = some key) (h : find (s.clu cl).tasks key = some r) (hp : (s.core cl c).phase = .ending)
    (hu : (s.core cl c).unacked = 0) (ha : (s.core cl c).armed = []) : exec (.endBalanceCheck cl c) s = .next (s.balance cl c key r) := by
  show execEndBalanceCheck cl c s = _
  unfold execEndBalanceCheck
  simp only [hk, h, hp, hu, ha, and_self, if_true]

section
variable (hs : r.slot = none)
include hs

theorem balance_faults (hb : s.unbalanced Slot.init ((s.core cl c).touched.filter (isOwn cl c)) ≠ []) :
    s.balance cl c key r = s.balanceFault cl c Slot.init (s.unbalanced Slot.init ((s.core cl c).touched.filter (isOwn cl c))) := by
  obtain ⟨_, _, _, _, _, slot, _, _, _⟩ := r
  cases hs
  exact if_pos hb

variable (hb : s.unbalanced Slot.init ((s.core cl c).touched.filter (isOwn cl c)) = [])
include hb

theorem balance_passes (hp : (r.withPassed c).passed ≠ r.coreset) : s.balance cl c key r = s.corePassed cl c key r := by
  obtain ⟨_, _, _, _, _, slot, _, _, _⟩ := r
  cases hs
  exact (if_neg (not_not.mpr hb)).trans (if_pos hp)

theorem balance_ends (hp : (r.withPassed c).passed = r.coreset)
    (hh : (s.corePassed cl c key r).unbalanced Slot.init ((s.corePassed cl c key r).touchedHubs cl r.coreset) = []) :
    s.balance cl c key r = (s.corePassed cl c key r).endTask cl c key (r.withPassed c) := by
  obtain ⟨_, _, _, _, _, slot, _, _, _⟩ := r
  cases hs
  exact (if_neg (not_not.mpr hb)).trans ((if_neg (not_not.mpr hp)).trans (if_pos hh))

end

/-- A balance fault is a core's fault, behind its records (R149, R150). -/
theorem balanceFault_spec (hk : (s.core cl c).task = some key) (h : find (s.clu cl).tasks key = some r) (hn : r.ring < 16) (x : Slot) (bad : List Nat) :
    TaskHeld s (s.balanceFault cl c x bad) cl key r ∧ (s.balanceFault cl c x bad).counters = s.counters ∧ (s.balanceFault cl c x bad).dram = s.dram := by
  unfold State.balanceFault
  generalize hu : s.setClu cl _ = u
  have hf : find (u.clu cl).tasks key = some r := by
    rw [← hu, State.clu_setClu]
    exact h
  have hku : (u.core cl c).task = some key := by
    rw [← hu]
    exact hk
  obtain ⟨hdram, hctr⟩ := coreFault_dram_counters u cl c 4 (u.core cl c).lastIa (u.balanceWords x bad) 0
  have hheld := coreFault_held hku hf hn 4 (u.core cl c).lastIa (u.balanceWords x bad) 0
  have hrings : ∀ cl' n, u.ring cl' n = s.ring cl' n := fun cl' n => by rw [← hu]; rfl
  refine ⟨?_, by rw [hctr, ← hu]; rfl, by rw [hdram, ← hu]; rfl⟩
  unfold TaskHeld at hheld ⊢
  rw [hrings] at hheld
  exact hheld

theorem corePassed_core (cl' : Cl) (c' : Cn) : (s.corePassed cl c key r).core cl' c' =
    if cl' = cl ∧ c' = c then { s.core cl c with phase := .passed } else s.core cl' c' := by
  unfold State.corePassed
  rw [State.core_setCore_if, State.core_of_setClu]

/-- A check that a core has passed makes no difference to the waiters. -/
theorem corePassed_heldWaiter (n : Nat) : (s.corePassed cl c key r).heldWaiter n = s.heldWaiter n := by
  have hne : { s.core cl c with phase := .passed } ≠ Core.init := fun h => by
    have hphase := congrArg Core.phase h
    cases hphase
  refine (heldWaiter_setCore _ cl c hne rfl n).trans ?_
  rfl

/-- The hub counters that the last core checks are those that the task's cores have touched. -/
theorem corePassed_balanced (h : ∀ c' : Cn, r.coreset.getLsbD c'.val = true → ∀ n ∈ (s.core cl c').touched, nameIsHub n = true →
    (s.ctr n).value = (s.ctr n).expected ∧ s.heldWaiter n = false) :
    (s.corePassed cl c key r).unbalanced Slot.init ((s.corePassed cl c key r).touchedHubs cl r.coreset) = [] := by
  rw [unbalanced_init_eq_nil]
  intro n hn
  obtain ⟨c', hbit, htouched, hhub⟩ := mem_touchedHubs.mp hn
  rw [corePassed_heldWaiter]
  refine h c' hbit n ?_ hhub
  rw [corePassed_core] at htouched
  split at htouched
  · rename_i he
    rw [he.2]
    exact htouched
  · exact htouched

end

/-- Settles O19: a core that passes by its entry, the last by the end of the task, an unbalanced one by its fault. -/
theorem balanceCheckEndsTheTask : Obligations.BalanceCheckEndsTheTask := by
  unfold Obligations.BalanceCheckEndsTheTask
  intro s cl c key r hk h hs hc hp hu ha
  have hx := exec_endBalanceCheck hk h hp hu ha
  have hown : (∀ n ∈ (s.core cl c).touched, isOwn cl c n = true → (s.ctr n).value = (s.ctr n).expected ∧ s.heldWaiter n = false) →
      s.unbalanced Slot.init ((s.core cl c).touched.filter (isOwn cl c)) = [] := fun hb =>
    unbalanced_init_eq_nil.mpr fun n hn => hb n (List.mem_filter.mp hn).1 (List.mem_filter.mp hn).2
  refine ⟨fun hb hpass => ⟨_, hx, ?_⟩, fun hb hpass hh => ⟨_, hx, ?_⟩, fun n hn ho hne hring => ⟨_, hx, ?_⟩⟩
  · rw [balance_passes hs (hown hb) hpass]
    have hcore := fun cl' c' => corePassed_core (s := s) (cl := cl) (c := c) (key := key) (r := r) cl' c'
    have hself := (hcore cl c).trans (if_pos ⟨rfl, rfl⟩)
    dsimp only
    rw [hself]
    refine ⟨rfl, hk, rfl, ?_, fun cl' c' hn => ?_, rfl⟩
    · show find ((s.setClu cl _).clu cl).tasks key = _
      rw [State.clu_setClu]
      exact find_ins_same ..
    · rw [hcore, if_neg hn]
  · rw [balance_ends hs (hown hb) hpass (corePassed_balanced hh)]
    obtain ⟨hgone, hcore, hflight, hdues, hctr, hdram⟩ := endTask_spec (s := s.corePassed cl c key r) (cl := cl) (c := c) (key := key) (r := r.withPassed c) hs
    refine ⟨hgone, fun c' hbit => ?_, fun cl' c' hn => ?_, ?_, hdues, hctr, hdram⟩
    · rw [hcore, if_pos ⟨rfl, hbit⟩, corePassed_core]
      refine ⟨rfl, rfl, ?_⟩
      split
      · rename_i he
        rw [he.2]
        rfl
      · rfl
    · rw [hcore, if_neg (show ¬(cl' = cl ∧ (r.withPassed c).coreset.getLsbD c'.val = true) from hn), corePassed_core, if_neg]
      rintro ⟨rfl, rfl⟩
      exact hn ⟨rfl, hc⟩
    · rw [hflight]
      rfl
  · have hbad : s.unbalanced Slot.init ((s.core cl c).touched.filter (isOwn cl c)) ≠ [] := fun hnil =>
      hne (unbalanced_init_eq_nil.mp hnil n (List.mem_filter.mpr ⟨hn, ho⟩)).1
    rw [balance_faults hs hbad]
    exact balanceFault_spec hk h hring ..

end Sys2Proof.Machine

namespace Sys2Proof.Machine

open Sys2Proof

/-! ### Cluster caches without syndromes stay so while room is made in them (R214, R216, R249) -/

/-- Every cluster cache without syndromes in one state is without them in the other. -/
structure PlainKept (s t : State) : Prop where
  plain : ∀ cl, (s.clu cl).cache.mem.plain → (t.clu cl).cache.mem.plain

theorem PlainKept.refl (s : State) : PlainKept s s := ⟨fun _ h => h⟩

theorem PlainKept.trans {s t u : State} (h : PlainKept s t) (k : PlainKept t u) : PlainKept s u :=
  ⟨fun cl hp => k.plain cl (h.plain cl hp)⟩

theorem PlainKept.of {s t : State} (h : t.clusters = s.clusters) : PlainKept s t :=
  ⟨fun cl hp => by
    unfold State.clu
    rw [h]
    exact hp⟩

theorem PlainKept.setDram (s : State) (m : Mem) : PlainKept s (s.setDram m) := .of rfl
theorem PlainKept.setScrubber (s : State) (ch : Nat) (v : Scrub) : PlainKept s (s.setScrubber ch v) := .of rfl

theorem PlainKept.setClu {s t : State} (h : PlainKept s t) {cl : Cl} {v : Cluster}
    (hv : (s.clu cl).cache.mem.plain → v.cache.mem.plain) : PlainKept s (t.setClu cl v) :=
  ⟨fun cl' hp => by
    rw [State.clu_setClu_if]
    split
    · rename_i he
      exact hv (he ▸ hp)
    · exact h.plain cl' hp⟩

theorem PlainKept.foldl {α : Type} (l : List α) (f : State → α → State) (hf : ∀ s a, PlainKept s (f s a)) (s : State) :
    PlainKept s (l.foldl f s) :=
  foldl_inv (p := PlainKept s) l s (.refl s) fun b a _ hb => hb.trans (hf b a)

theorem PlainKept.ite {s t u : State} {c : Prop} [Decidable c] (h : PlainKept s t) (k : PlainKept s u) :
    PlainKept s (if c then t else u) := by split <;> assumption

theorem PlainKept.wordErrors (s : State) (m : Mem) (key a n source unit part cls : Nat) :
    PlainKept s (s.wordErrors m key a n source unit part cls) := by
  rw [wordErrors_only]
  exact .of rfl

theorem note_plain (s : State) (l : Nat) : PlainKept s (s.note l) := by
  unfold State.note
  exact .ite (.of rfl) (.refl s)

theorem chanWrite_plain (s : State) (src : Mem) (line : Nat) (mask : BitVec 128) : PlainKept s (s.chanWrite src line mask) := by
  unfold State.chanWrite
  refine (PlainKept.foldl _ _ (fun s w => ?_) s).trans ((PlainKept.setDram _ _).trans (note_plain _ _))
  exact .ite (.refl s) (.wordErrors ..)

theorem chanTake_plain (s : State) (src : Mem) (line : Nat) (mask : BitVec 128) : PlainKept s (s.chanTake src line mask) := by
  unfold State.chanTake
  exact .ite (.of rfl) (chanWrite_plain ..)

theorem takeWrite_plain (s : State) (q : WReq) : PlainKept s (s.takeWrite q) := (chanTake_plain ..).trans (.of rfl)

theorem freeLine_plain (s : State) (line : Nat) : PlainKept s (s.freeLine line) := by
  unfold State.freeLine State.correctHeld
  refine .ite ?_ (.refl s)
  dsimp only
  split
  · exact .refl s
  · exact (PlainKept.setDram ..).trans ((PlainKept.setScrubber ..).trans (.foldl _ _ takeWrite_plain _))

theorem ackWrite_plain (s : State) (w : Writer) : PlainKept s (s.ackWrite w) := by
  cases w with
  | writeBack cl l => exact (PlainKept.refl s).setClu id
  | ring cl n num =>
    unfold State.ackWrite
    exact .ite (.of rfl) (.refl s)

theorem landWrites_plain (s : State) (p : WReq → Bool) : PlainKept s (s.landWrites p) := by
  unfold State.landWrites
  refine PlainKept.trans (t := { s with dram := { s.dram with wq := s.dram.wq.filter fun q => !p q } }) (.of rfl)
    (.foldl _ _ (fun s q => ?_) _)
  exact ((freeLine_plain ..).trans (chanTake_plain ..)).trans (ackWrite_plain ..)

theorem takeAcks_plain (s : State) (cl : Cl) (l : Nat) : PlainKept s (s.takeAcks cl l) := by
  unfold State.takeAcks
  refine .ite (PlainKept.trans (t := { s with dram := { s.dram with wacks := s.dram.wacks.filter fun q => q.writer ≠ Writer.writeBack cl l } })
    (.of rfl) (ackWrite_plain ..)) (.refl s)

/-- The check of a line finds nothing to correct in a cache without syndromes. -/
theorem checkLine_plain (s : State) (cl : Cl) (l : Nat) : PlainKept s (s.checkLine cl l) := by
  unfold State.checkLine
  refine (PlainKept.wordErrors ..).setClu fun hp => ?_
  dsimp only
  rw [Mem.settleBad_plain hp, Mem.fixWords_plain hp]
  exact hp

theorem writeBack_plain (s : State) (cl : Cl) (l : Nat) : PlainKept s (s.writeBack cl l) := by
  unfold State.writeBack
  refine .ite (.refl s) ?_
  have h := (landWrites_plain s fun q => decide (q.line = l)).trans (takeAcks_plain _ cl l)
  dsimp only
  split
  · refine .ite ?_ h
    have hc := h.trans (checkLine_plain _ cl l)
    exact (hc.trans ((freeLine_plain ..).trans (chanTake_plain ..))).setClu (hc.plain cl)
  · exact h

theorem countEvict_mem (c : Cache) (h : Hint) : (c.countEvict h).mem = c.mem := by cases h <;> rfl

theorem evict_plain (s : State) (cl : Cl) (x : Nat) : PlainKept s (s.evict cl x) := by
  refine (writeBack_plain s cl x).setClu fun hp => ?_
  rw [countEvict_mem]
  exact (dropLine_plain ((writeBack_plain s cl x).plain cl hp) x).1

theorem makeRoom_plain (s : State) (cl : Cl) (l : Nat) : PlainKept s (s.makeRoom cl l) := by
  unfold State.makeRoom
  dsimp only
  refine .ite (.refl s) ?_
  split
  · exact evict_plain ..
  split
  · exact (landWrites_plain ..).trans (evict_plain ..)
  split
  · exact evict_plain ..
  split
  · exact evict_plain ..
  · exact .refl s

/-- A write leaves its bytes in a cluster cache without syndromes (R214, R215). -/
theorem byte_clWrite {s : State} {cl : Cl} {src : Mem} (hp : (s.clu cl).cache.mem.plain) (hs : src.plain) (l : Nat) (mask : BitVec 128)
    (h : Hint) (tag : Nat) {a : Nat} (ha : a / 128 = l) (hm : mask.getLsbD (a % 128) = true) :
    ((s.clWrite cl src l mask h tag).clu cl).cache.mem.byte a = src.byte a := by
  have hover : ∀ {base : Mem}, base.plain → (overLine base src l mask).byte a = src.byte a := fun hb => by
    obtain ⟨hplain, hraw⟩ := overLine_plain hb hs l mask
    rw [Mem.byte_plain hplain, hraw, if_pos ⟨ha, hm⟩, Mem.byte_plain hs]
  unfold State.clWrite
  split
  · rw [State.clu_setClu]
    exact hover hp
  · dsimp only
    rw [State.clu_setClu]
    exact hover (dropLine_plain ((makeRoom_plain s cl l).plain cl hp) l).1

/-! ### A slot resolves (R123, R133, R137) -/

theorem liftStalls_only (s : State) (cl : Cl) (key : Nat) : ∃ x, s.liftStalls cl key = { s with cores := x } := by
  unfold State.liftStalls
  refine foldl_inv (p := fun t : State => ∃ x, t = { s with cores := x }) allCn s ⟨s.cores, rfl⟩ fun t c _ ht => ?_
  obtain ⟨x, rfl⟩ := ht
  dsimp only
  split
  · exact ⟨_, rfl⟩
  · exact ⟨x, rfl⟩

theorem liftStalls_clu (s : State) (cl : Cl) (key : Nat) (cl' : Cl) : (s.liftStalls cl key).clu cl' = s.clu cl' := by
  obtain ⟨x, hx⟩ := liftStalls_only s cl key
  rw [hx]
  rfl

theorem liftStalls_stew (s : State) (cl : Cl) (key : Nat) (cl' : Cl) : (s.liftStalls cl key).stew cl' = s.stew cl' := by
  obtain ⟨x, hx⟩ := liftStalls_only s cl key
  rw [hx]
  rfl

theorem pushEv_evq {s : State} {cl : Cl} (h : (s.stew cl).evq.length < 32) (r : BitVec 512) :
    ((s.pushEv cl r).stew cl).evq = (s.stew cl).evq ++ [r] := by
  unfold State.pushEv
  dsimp only
  rw [State.stew_setStew, if_pos h]

/-- An event and a trace record go to a home, and the rings of a cluster look for candidates again. -/
def State.tellHome (s : State) (cl home : Cl) (event : BitVec 512) (record : Rec) : State :=
  ((s.pushEv home event).trace home record).refresh cl

theorem tellHome_frame (s : State) (cl home : Cl) (event : BitVec 512) (record : Rec) : s.tellHome cl home event record = { s with
    stewards := (s.tellHome cl home event record).stewards, clusters := (s.tellHome cl home event record).clusters
    rings := (s.tellHome cl home event record).rings } := by
  unfold State.tellHome
  rw [refresh_only, trace_only]
  rfl

/-- The trace is all of a cluster that changes. -/
theorem tellHome_clu (s : State) (cl home : Cl) (event : BitVec 512) (record : Rec) (cl' : Cl) :
    (∀ k, ((s.tellHome cl home event record).clu cl').slot k = (s.clu cl').slot k) ∧
    ((s.tellHome cl home event record).clu cl').cache = (s.clu cl').cache := by
  unfold State.tellHome
  rw [refresh_clu, trace_clu]
  exact ⟨fun _ => rfl, rfl⟩

theorem tellHome_evq {s : State} {home : Cl} (h : (s.stew home).evq.length < 32) (cl : Cl) (event : BitVec 512) (record : Rec) :
    ((s.tellHome cl home event record).stew home).evq = (s.stew home).evq ++ [event] := by
  unfold State.tellHome
  rw [refresh_stew, trace_only]
  exact pushEv_evq h event

/-- A slot is freed, its task's cores are stalled on its queue no more, and its home is told. -/
def State.freeSlot (s : State) (cl : Cl) (k : Nat) (event : BitVec 512) (record : Rec) : State :=
  ((s.setClu cl ((s.clu cl).setSlot k Slot.init)).liftStalls cl ((s.clu cl).slot k).taskKey).tellHome cl ((s.clu cl).slot k).home event record

/-- The record of SPEC_RESOLVED (R386). -/
def specResolved (cl : Cl) (k outcome cause : Nat) (x : Slot) : BitVec 512 :=
  evRecord 2 (tTaskId x.desc) (unitName cl 16) [k * 256 + outcome * 16 + cause, x.written.length]

theorem specResolved_commit (cl : Cl) (k cause : Nat) (x : Slot) : specResolved cl k 0 cause x =
    evRecord 2 (tTaskId x.desc) (unitName cl 16) [k * 256 + cause, x.written.length] := by
  unfold specResolved
  rw [Nat.zero_mul, Nat.add_zero]

theorem specResolved_discard (cl : Cl) (k cause : Nat) (x : Slot) : specResolved cl k 1 cause x =
    evRecord 2 (tTaskId x.desc) (unitName cl 16) [k * 256 + 16 + cause, x.written.length] := by
  unfold specResolved
  rw [Nat.one_mul]

theorem resolve_eq (s : State) (cl : Cl) (k outcome cause : Nat) :
    ∃ record, s.resolve cl k outcome cause = s.freeSlot cl k (specResolved cl k outcome cause ((s.clu cl).slot k)) record := by
  unfold State.resolve State.freeSlot specResolved
  exact ⟨_, rfl⟩

section
variable (s : State) (cl : Cl) (k : Nat) (event : BitVec 512) (record : Rec)

theorem freeSlot_frame : s.freeSlot cl k event record = { s with
    cores := (s.freeSlot cl k event record).cores, stewards := (s.freeSlot cl k event record).stewards
    clusters := (s.freeSlot cl k event record).clusters, rings := (s.freeSlot cl k event record).rings } := by
  unfold State.freeSlot
  obtain ⟨x, hx⟩ := liftStalls_only (s.setClu cl ((s.clu cl).setSlot k Slot.init)) cl ((s.clu cl).slot k).taskKey
  rw [hx, tellHome_frame]
  rfl

theorem setSlot_cache (v : Cluster) (k : Nat) (x : Slot) : (v.setSlot k x).cache = v.cache := rfl

theorem freeSlot_clu : ((s.freeSlot cl k event record).clu cl).slot k = Slot.init ∧
    ((s.freeSlot cl k event record).clu cl).cache = (s.clu cl).cache := by
  unfold State.freeSlot
  obtain ⟨hslot, hcache⟩ := tellHome_clu ((s.setClu cl ((s.clu cl).setSlot k Slot.init)).liftStalls cl ((s.clu cl).slot k).taskKey) cl
    ((s.clu cl).slot k).home event record cl
  rw [hslot, hcache, liftStalls_clu, State.clu_setClu, slot_setSlot, if_pos rfl, setSlot_cache]
  exact ⟨rfl, rfl⟩

theorem freeSlot_evq (h : (s.stew ((s.clu cl).slot k).home).evq.length < 32) :
    ((s.freeSlot cl k event record).stew ((s.clu cl).slot k).home).evq = (s.stew ((s.clu cl).slot k).home).evq ++ [event] := by
  have hstew : ((s.setClu cl ((s.clu cl).setSlot k Slot.init)).liftStalls cl ((s.clu cl).slot k).taskKey).stew ((s.clu cl).slot k).home =
      s.stew ((s.clu cl).slot k).home := liftStalls_stew ..
  unfold State.freeSlot
  rw [← hstew] at h ⊢
  exact tellHome_evq h ..

end

theorem freeSlot_spec {s : State} {cl : Cl} {k : Nat} (h : (s.stew ((s.clu cl).slot k).home).evq.length < 32) (event : BitVec 512)
    (record : Rec) : let t := s.freeSlot cl k event record
    (t.clu cl).slot k = Slot.init ∧ (t.clu cl).cache = (s.clu cl).cache ∧
    (t.stew ((s.clu cl).slot k).home).evq = (s.stew ((s.clu cl).slot k).home).evq ++ [event] ∧
    t.net = s.net ∧ t.counters = s.counters ∧ t.dram = s.dram := by
  have hevq := freeSlot_evq s cl k event record h
  have hframe := freeSlot_frame s cl k event record
  obtain ⟨hfree, hcache⟩ := freeSlot_clu s cl k event record
  generalize s.freeSlot cl k event record = t at *
  refine ⟨hfree, hcache, hevq, ?_⟩
  rw [hframe]
  exact ⟨rfl, rfl, rfl⟩

/-- A slot that resolves is free, its home steward core is told, and no increment or byte moves with it. -/
theorem resolve_spec {s : State} {cl : Cl} {k : Nat} (h : (s.stew ((s.clu cl).slot k).home).evq.length < 32) (outcome cause : Nat) :
    let t := s.resolve cl k outcome cause
    (t.clu cl).slot k = Slot.init ∧ (t.clu cl).cache = (s.clu cl).cache ∧
    (t.stew ((s.clu cl).slot k).home).evq = (s.stew ((s.clu cl).slot k).home).evq ++ [specResolved cl k outcome cause ((s.clu cl).slot k)] ∧
    t.net = s.net ∧ t.counters = s.counters ∧ t.dram = s.dram := by
  obtain ⟨record, hr⟩ := resolve_eq s cl k outcome cause
  rw [hr]
  exact freeSlot_spec h _ record

/-! ### The commit of a slot (R134, R136) -/

theorem foldl_send (cl : Cl) (l : List Packet) (s : State) : l.foldl (fun s p => s.send { p with sender := .released cl }) s =
    { s with net := { s.net with flight := s.net.flight ++ l.map fun p => { p with sender := .released cl } } } := by
  induction l generalizing s with
  | nil => rw [List.map_nil, List.append_nil, List.foldl_nil]
  | cons p l ih =>
    rw [List.foldl_cons, ih]
    unfold State.send
    rw [List.map_cons, List.append_assoc, List.singleton_append]

/-- The slot's shadow is taken out of it, and its bytes go into the ordinary lines. -/
def State.commitLines (s : State) (cl : Cl) (k : Nat) (x : Slot) : State :=
  x.written.foldl (fun t e => t.clWrite cl x.shadow e.1 e.2 (x.markOf e.1).1 (x.markOf e.1).2)
    (s.setClu cl ((s.clu cl).setSlot k { x with shadow := Mem.empty, written := [], marks := [] }))

/-- The deferred increments go out, and none of them is left in the slot. -/
def State.releaseDeferred (s : State) (cl : Cl) (k : Nat) (x : Slot) : State :=
  let t := x.deferq.foldl (fun s p => s.send { p with sender := .released cl }) s
  t.setClu cl ((t.clu cl).setSlot k { x with deferq := [] })

theorem exec_specCommitComplete {s : State} {cl : Cl} {k : Fin 4} (hst : ((s.clu cl).slot k.val).st = .committing)
    (ha : (s.clu cl).commitsAfter k.val = false) : exec (.specCommitComplete cl k) s =
      .next (((s.commitLines cl k.val ((s.clu cl).slot k.val)).releaseDeferred cl k.val ((s.clu cl).slot k.val)).resolve cl k.val 0
        ((s.clu cl).slot k.val).dueBy) := by
  show execSpecCommitComplete cl k s = _
  have hgo : ¬(((s.clu cl).slot k.val).st ≠ .committing ∨ (s.clu cl).commitsAfter k.val = true) := by
    rw [hst, ha]
    decide
  exact congrArg Host.Outcome.next (if_neg hgo)

theorem exec_specDiscardComplete {s : State} {cl : Cl} {k : Fin 4} (hst : ((s.clu cl).slot k.val).st = .discarding) :
    exec (.specDiscardComplete cl k) s = .next (s.resolve cl k.val 1 ((s.clu cl).slot k.val).cause) :=
  congrArg Host.Outcome.next (if_neg (not_not_intro hst))

/-- A met discard condition prevails at either evaluation of a slot (R136). -/
theorem exec_discardMet {s : State} {cl : Cl} {k : Fin 4} {i : Instr} (hi : i = .specCommit cl k ∨ i = .specDiscard cl k)
    (hst : ((s.clu cl).slot k.val).st = .running ∨ ((s.clu cl).slot k.val).st = .ended)
    (hd : s.discardMet ((s.clu cl).slot k.val) = true) : exec i s = .next (s.beginDiscard cl k.val 0) := by
  obtain rfl | rfl := hi
  · exact congrArg Host.Outcome.next ((if_neg (not_not_intro hst)).trans (if_pos hd))
  · exact congrArg Host.Outcome.next (if_pos hd)

section
variable (s : State) (cl : Cl) (k : Nat) (x : Slot)

theorem commitLines_only : OnlyMemory s (s.commitLines cl k x) :=
  (OnlyMemory.setClu ..).trans (.foldl _ _ (fun _ _ => clWrite_only ..) _)

theorem releaseDeferred_eq : s.releaseDeferred cl k x =
    { s.setClu cl ((s.clu cl).setSlot k { x with deferq := [] }) with
      net := { s.net with flight := s.net.flight ++ x.deferq.map fun p => { p with sender := .released cl } } } := by
  unfold State.releaseDeferred
  rw [foldl_send]
  rfl

theorem releaseDeferred_clu : (s.releaseDeferred cl k x).clu cl = (s.clu cl).setSlot k { x with deferq := [] } := by
  rw [releaseDeferred_eq]
  exact State.clu_setClu ..

end

/-- A slot that wrote one line leaves the line dirty, with its bytes (R134, R215). -/
theorem commitLines_line {s : State} {cl : Cl} {k : Nat} {x : Slot} {l : Nat} {mask : BitVec 128} (hw : x.written = [(l, mask)]) :
    ∃ e, ((s.commitLines cl k x).clu cl).cache.line l = some e ∧ e.dirty = true := by
  unfold State.commitLines
  rw [hw]
  obtain ⟨e, hline, hdirty, _⟩ := line_clWrite
    (s.setClu cl ((s.clu cl).setSlot k { x with shadow := Mem.empty, written := [], marks := [] })) cl x.shadow l mask (x.markOf l).1 (x.markOf l).2
  exact ⟨e, hline, hdirty⟩

theorem commitLines_byte {s : State} {cl : Cl} {k : Nat} {x : Slot} {l : Nat} {mask : BitVec 128} (hw : x.written = [(l, mask)])
    (hp : (s.clu cl).cache.mem.plain) (hx : x.shadow.plain) {a : Nat} (ha : a / 128 = l) (hm : mask.getLsbD (a % 128) = true) :
    ((s.commitLines cl k x).clu cl).cache.mem.byte a = x.shadow.byte a := by
  unfold State.commitLines
  rw [hw]
  refine byte_clWrite ?_ hx l mask _ _ ha hm
  rw [State.clu_setClu]
  exact hp

/-- An ended slot that is due, or whose commit condition is met, begins its commit (R134). -/
theorem specCommit_begins {s : State} {cl : Cl} {k : Fin 4} (hst : ((s.clu cl).slot k.val).st = .ended)
    (hd : s.discardMet ((s.clu cl).slot k.val) = false)
    (h : ((s.clu cl).slot k.val).due = true ∨ s.commitMet ((s.clu cl).slot k.val) = true) :
    ∃ y : Slot, exec (.specCommit cl k) s = .next (s.setClu cl ((s.clu cl).setSlot k.val y)) ∧ y.st = .committing ∧
      y.written = ((s.clu cl).slot k.val).written := by
  show ∃ y : Slot, execSpecCommit cl k s = _ ∧ _
  unfold execSpecCommit
  dsimp only
  rw [if_neg (not_not_intro (Or.inr hst)), hd, if_neg Bool.false_ne_true]
  by_cases hdue : ((s.clu cl).slot k.val).due = true
  · rw [if_pos hdue, if_pos ⟨hdue, hst⟩]
    exact ⟨_, rfl, rfl, rfl⟩
  · rw [if_neg hdue, if_pos (h.resolve_left hdue), if_pos ⟨rfl, hst⟩]
    exact ⟨_, rfl, rfl, rfl⟩

/-- A completed commit: the lines, the increments, and the slot that resolves. -/
theorem specCommitComplete_leaves {s : State} {cl : Cl} {k : Nat} {x : Slot}
    (hq : (s.stew x.home).evq.length < 32) :
    let t := ((s.commitLines cl k x).releaseDeferred cl k x).resolve cl k 0 x.dueBy
    (t.clu cl).slot k = Slot.init ∧ t.net.flight = s.net.flight ++ x.deferq.map (fun p => { p with sender := .released cl }) ∧
    t.counters = s.counters ∧ (t.stew x.home).evq = (s.stew x.home).evq ++ [specResolved cl k 0 x.dueBy x] ∧
    (t.clu cl).cache = ((s.commitLines cl k x).clu cl).cache := by
  have honly := commitLines_only s cl k x
  generalize s.commitLines cl k x = u at *
  have hclu := releaseDeferred_clu u cl k x
  have hrel := releaseDeferred_eq u cl k x
  generalize u.releaseDeferred cl k x = v at *
  have hslot : (v.clu cl).slot k = { x with deferq := [] } := by rw [hclu, slot_setSlot, if_pos rfl]
  have hstew : (v.stew x.home).evq = (s.stew x.home).evq := by
    rw [hrel, honly.1]
    rfl
  have hhome : (v.stew ((v.clu cl).slot k).home).evq.length < 32 := by
    rw [hslot, hstew]
    exact hq
  obtain ⟨hfree, hcache, hevq, hnet, hctr, -⟩ := resolve_spec hhome 0 x.dueBy
  rw [hslot] at hevq
  have hrecord : specResolved cl k 0 x.dueBy { x with deferq := [] } = specResolved cl k 0 x.dueBy x := by unfold specResolved; rfl
  refine ⟨hfree, ?_, ?_, hevq.trans (by rw [hstew, hrecord]), ?_⟩
  · rw [hnet, hrel, honly.1]
  · rw [hctr, hrel]
    exact honly.counters
  · rw [hcache, hclu, setSlot_cache]

/-- Settles O30: by the lemmas on what begins a commit or a discard, and on what a slot that resolves leaves. -/
theorem speculativeSlotsResolve : Obligations.SpeculativeSlotsResolve := by
  unfold Obligations.SpeculativeSlotsResolve
  intro s cl k
  refine ⟨fun hst hd h => ?_, fun i hi hd => ⟨fun hst => ?_, fun r hst hr => ?_⟩, fun hst ha hq => ?_, fun hst hq => ?_⟩
  · obtain ⟨y, hx, hy, hwritten⟩ := specCommit_begins hst hd h
    refine ⟨_, hx, ?_⟩
    dsimp only
    rw [State.clu_setClu, slot_setSlot, if_pos rfl]
    exact ⟨hy, hwritten, fun j hj => (slot_setSlot ..).trans (if_neg hj), rfl⟩
  · exact ⟨_, exec_discardMet hi (.inr hst) hd, beginDiscard_ended hst 0⟩
  · obtain ⟨hdisc, hcause, hnone, hfreed, hkept, hframe⟩ := beginDiscard_running hst hr 0
    refine ⟨_, exec_discardMet hi (.inl hst) hd, hdisc, hcause, hnone, hfreed, hkept, ?_⟩
    generalize s.beginDiscard cl k.val 0 = u at *
    rw [hframe]
    exact ⟨rfl, rfl⟩
  · obtain ⟨hfree, hflight, hctr, hevq, hcache⟩ := specCommitComplete_leaves (cl := cl) (k := k.val) hq
    refine ⟨_, exec_specCommitComplete hst ha, congrArg Slot.st hfree, hflight, hctr,
      hevq.trans (congrArg _ (congrArg (fun e => [e]) (specResolved_commit ..))), fun l mask hw hp hx => ?_⟩
    rw [hcache]
    exact ⟨commitLines_line hw, fun a hl hm => commitLines_byte hw hp hx hl hm⟩
  · obtain ⟨hfree, hcache, hevq, hnet, hctr, hdram⟩ := resolve_spec hq 1 ((s.clu cl).slot k.val).cause
    exact ⟨_, exec_specDiscardComplete hst, hfree, hnet, hctr, hdram, hcache,
      hevq.trans (congrArg _ (congrArg (fun e => [e]) (specResolved_discard ..)))⟩

end Sys2Proof.Machine

namespace Sys2Proof.Machine

open Sys2Proof

/-! ### A step (log 1) -/

theorem step_of_empty {s : State} (h : s.pending = []) : step s = .next (idle s) := by
  unfold step
  rw [h]

theorem step_of_cons {s : State} {c : Instr} {q : List Instr} (h : s.pending = c :: q) : step s = exec c { s with pending := q } := by
  unfold step
  rw [h]

/-- Settles O1: by what a step is on a queue with and without a command. -/
theorem stepRunsTheFrontCommand : Obligations.StepRunsTheFrontCommand := by
  unfold Obligations.StepRunsTheFrontCommand
  exact fun s c q => ⟨step_of_cons, fun h => ⟨idle s, step_of_empty h, rfl, rfl⟩⟩

end Sys2Proof.Machine

namespace Sys2Proof.Machine

open Sys2Proof

/-! ### The wrapping comparison (R145) -/

/-- The distance from t to x modulo 2^32 (R145). -/
theorem toNat_sub_eq_emod (x t : W32) : ((x - t).toNat : Int) = ((x.toNat : Int) - (t.toNat : Int)) % 2 ^ 32 := by
  have hx := x.isLt
  have ht := t.isLt
  rw [BitVec.toNat_sub]
  omega

theorem reaches_iff (x t : W32) : reaches x t = true ↔ ((x.toNat : Int) - (t.toNat : Int)) % 2 ^ 32 < 2 ^ 31 := by
  have h := toNat_sub_eq_emod x t
  unfold reaches
  rw [decide_eq_true_eq]
  omega

/-! ### What a hold at issue leaves (R68, R153) -/

theorem holdFor_free {s : State} {w : At} (h : s.holdOf w = none) (i : Instr) (why : HoldWhy) :
    s.holdFor w i why = s.setHold w (some ⟨i, why, s.now, false⟩) := by
  unfold State.holdFor
  rw [h]

/-- A sequencer that is made to wait holds what it was given, and keeps its registers and the place of its next instruction. -/
theorem setHold_spec (s : State) (w : At) (h : Option Hold) :
    (s.setHold w h).holdOf w = h ∧ (∀ n, (s.setHold w h).reg w n = s.reg w n) ∧ (s.setHold w h).npcOf w = s.npcOf w := by
  unfold State.setHold State.holdOf State.reg State.npcOf
  cases w.who with
  | core c => simp [Core.reg]
  | steward => simp [Steward.reg]

/-! ### CWAIT (R145, R146) -/

/-- A counter that joins the touched set changes nothing else of its core. -/
theorem touch_only (k : Core) (n : Nat) : k.touch n = { k with touched := (k.touch n).touched } := by
  unfold Core.touch
  split <;> rfl

/-- CEXP and CWAIT let the sequencer stand: its registers, the place of its next instruction, and what it waits with. -/
theorem expect_keeps (s : State) (w : At) (n : Nat) (b : W32) :
    (∀ m, (s.expect w n b).reg w m = s.reg w m) ∧ (s.expect w n b).npcOf w = s.npcOf w ∧ (s.expect w n b).holdOf w = s.holdOf w := by
  unfold State.reg State.npcOf State.holdOf
  cases hw : w.who with
  | core c =>
    simp only [core_expect s n b hw]
    rw [touch_only]
    exact ⟨fun _ => rfl, rfl, rfl⟩
  | steward =>
    rw [expect_only]
    exact ⟨fun _ => rfl, rfl, rfl⟩

/-- A wait's own expectation adds nothing, so it is met when the counter was at its target before. -/
theorem reaches_expect (s : State) (w : At) (n : Nat) :
    reaches ((s.expect w n 0).ctr n).value ((s.expect w n 0).ctr n).expected = reaches (s.ctr n).value (s.ctr n).expected := by
  obtain ⟨hv, he, -⟩ := ctr_expect s w n 0
  rw [hv, he, add_zero]

/-- A CWAIT that is satisfied gives outcome 0 to a steward core (R146). -/
def State.clearCwstat (s : State) (w : At) : State :=
  match w.who with
  | .steward => s.setStew w.cl { s.stew w.cl with cwstat := 0 }
  | .core _ => s

theorem clearCwstat_only (s : State) (w : At) : s.clearCwstat w = { s with stewards := (s.clearCwstat w).stewards } := by
  unfold State.clearCwstat
  split <;> rfl

theorem reg_clearCwstat (s : State) (w : At) (n : Nat) : (s.clearCwstat w).reg w n = s.reg w n := by
  unfold State.clearCwstat State.reg
  cases w.who with
  | core c => rfl
  | steward => simp [Steward.reg]

theorem cwstat_clearCwstat {w : At} (hw : w.who = .steward) (s : State) : ((s.clearCwstat w).stew w.cl).cwstat = 0 := by
  unfold State.clearCwstat
  simp only [hw, State.stew_setStew]

theorem doCwait_met {s : State} {n : Nat} (h : reaches (s.ctr n).value (s.ctr n).expected = true) (w : At) (i : Instr) :
    s.doCwait w i n = ((s.expect w n 0).clearCwstat w).next1 w :=
  if_pos ((reaches_expect s w n).trans h)

theorem doCwait_unmet {s : State} {n : Nat} (h : reaches (s.ctr n).value (s.ctr n).expected = false) (w : At) (i : Instr) :
    s.doCwait w i n = (s.expect w n 0).holdFor w i (.counter n) :=
  if_neg (by rw [reaches_expect, h]; exact Bool.false_ne_true)

/-- A CWAIT that is met passes in one issue: sequencers, instruction caches and the counter's marks differ. -/
theorem doCwait_passes {s : State} {n : Nat} (h : reaches (s.ctr n).value (s.ctr n).expected = true) (w : At) (i : Instr) :
    Issued w (s.doCwait w i n) none ∧ (∀ m, (s.doCwait w i n).reg w m = s.reg w m) ∧
    (w.who = .steward → ((s.doCwait w i n).stew w.cl).cwstat = 0) ∧
    s.doCwait w i n = { s with cores := (s.doCwait w i n).cores, stewards := (s.doCwait w i n).stewards
                               clusters := (s.doCwait w i n).clusters, counters := (s.doCwait w i n).counters } := by
  rw [doCwait_met h]
  obtain ⟨hreg, -, -⟩ := expect_keeps s w n 0
  obtain ⟨hpassed, -, -⟩ := next1_passed ((s.expect w n 0).clearCwstat w) w
  refine ⟨issued_next1 .., fun m => (hpassed m).trans ((reg_clearCwstat ..).trans (hreg m)), fun hw => ?_, ?_⟩
  · rw [stew_next1 hw]
    exact cwstat_clearCwstat hw _
  · have h1 := expect_only s w n 0
    generalize s.expect w n 0 = u at *
    have h2 := clearCwstat_only u w
    generalize u.clearCwstat w = v at *
    have h3 := next1_only v w
    generalize v.next1 w = t at *
    rw [h3, h2, h1]

/-- A CWAIT that is not met is held from now on (R145, R153). -/
theorem doCwait_holds {s : State} {n : Nat} (h : reaches (s.ctr n).value (s.ctr n).expected = false) {w : At}
    (hn : s.holdOf w = none) (i : Instr) :
    (s.doCwait w i n).holdOf w = some ⟨i, .counter n, s.now, false⟩ ∧ (∀ m, (s.doCwait w i n).reg w m = s.reg w m) ∧
    (s.doCwait w i n).npcOf w = s.npcOf w := by
  obtain ⟨hreg, hnpc, hhold⟩ := expect_keeps s w n 0
  have hnow : (s.expect w n 0).now = s.now := by rw [expect_only]
  rw [doCwait_unmet h, holdFor_free (hhold.trans hn), hnow]
  obtain ⟨hhold', hreg', hnpc'⟩ := setHold_spec (s.expect w n 0) w (some ⟨i, .counter n, s.now, false⟩)
  exact ⟨hhold', fun m => (hreg' m).trans (hreg m), hnpc'.trans hnpc⟩

/-- Settles O16: CWAIT by what it leaves when met and when not; a start condition is the comparison itself. -/
theorem waitsUseTheWrappingComparison : Obligations.WaitsUseTheWrappingComparison := by
  unfold Obligations.WaitsUseTheWrappingComparison
  refine ⟨reaches_iff, fun s w ctr hc h => ?_, fun s cl hub v => rfl⟩
  have hok : firstBad [s.crefNarrow w ctr] 0 = none := by rw [hc]; rfl
  exact ⟨fun hmet => done_issue rfl h hok (doCwait_passes hmet w _), fun hunmet hn => done_issue rfl h hok (doCwait_holds hunmet hn _)⟩

end Sys2Proof.Machine

namespace Sys2Proof.Machine

open Sys2Proof

/-! ### CREAD_RESULT (R146) -/

/-- What a CREAD delivers is the value or the expected register, zero-extended. -/
theorem creadValue_eq (s : State) (r : CRead) :
    s.creadValue r = if r.expected then (s.ctr r.ctr).expected.setWidth 64 else (s.ctr r.ctr).value.setWidth 64 := by
  unfold State.creadValue
  cases r.expected with
  | false => exact BitVec.ofNat_toNat ..
  | true => exact BitVec.ofNat_toNat ..

theorem exec_creadResult_core {s : State} {cl : Cl} {c : Cn} {r : CRead} {rest : List CRead} (h : (s.core cl c).creads = r :: rest) :
    exec (.creadResult cl (.core c)) s =
      .next (s.setCore cl c (({ s.core cl c with creads := rest } : Core).setReg r.sd (s.creadValue r))) := by
  show execCreadResult cl (.core c) s = _
  unfold execCreadResult
  simp only [h]

theorem exec_creadResult_steward {s : State} {cl : Cl} {r : CRead} {rest : List CRead} (h : (s.stew cl).creads = r :: rest) :
    exec (.creadResult cl .steward) s =
      .next (s.setStew cl (({ s.stew cl with creads := rest } : Steward).setReg r.sd (s.creadValue r))) := by
  show execCreadResult cl .steward s = _
  unfold execCreadResult
  simp only [h]

theorem Core.creads_setReg (k : Core) (n : Nat) (v : Word) : (k.setReg n v).creads = k.creads := by
  unfold Core.setReg
  split <;> rfl

theorem Steward.creads_setReg (k : Steward) (n : Nat) (v : Word) : (k.setReg n v).creads = k.creads := by
  unfold Steward.setReg
  split <;> rfl

/-- The result of a core's CREAD reaches its register. -/
theorem creadResult_core {s : State} {cl : Cl} {c : Cn} {r : CRead} {rest : List CRead} (h : (s.core cl c).creads = r :: rest) :
    Done (.creadResult cl (.core c)) s fun t => (t.core cl c).creads = rest ∧
      (∀ n, (t.core cl c).reg n = if n = r.sd ∧ r.sd ≠ 0 then
        (if r.expected then (s.ctr r.ctr).expected.setWidth 64 else (s.ctr r.ctr).value.setWidth 64) else (s.core cl c).reg n) ∧
      OnlyCore cl c s t := by
  refine ⟨_, exec_creadResult_core h, ?_, fun n => ?_, onlyCore_setCore ..⟩
  · rw [State.core_setCore, Core.creads_setReg]
  · rw [State.core_setCore, Core.reg_setReg, creadValue_eq]
    rfl

/-- The result of a steward core's CREAD reaches its register. -/
theorem creadResult_steward {s : State} {cl : Cl} {r : CRead} {rest : List CRead} (h : (s.stew cl).creads = r :: rest) :
    Done (.creadResult cl .steward) s fun t => (t.stew cl).creads = rest ∧
      (∀ n, (t.stew cl).reg n = if n = r.sd ∧ r.sd ≠ 0 then
        (if r.expected then (s.ctr r.ctr).expected.setWidth 64 else (s.ctr r.ctr).value.setWidth 64) else (s.stew cl).reg n) ∧
      t = { s with stewards := t.stewards } := by
  refine ⟨_, exec_creadResult_steward h, ?_, fun n => ?_, rfl⟩
  · rw [State.stew_setStew, Steward.creads_setReg]
  · rw [State.stew_setStew, Steward.reg_setReg, creadValue_eq]
    rfl

/-! ### WHEN_DONE_INCREMENT (R89, R133, R144) -/

/-- An armed increment waits for every move that is older than its CINC. -/
theorem exec_whenDoneIncrement_waits {s : State} {cl : Cl} {c : Cn} {a : Armed} {rest : List Armed} (h : (s.core cl c).armed = a :: rest)
    (hm : ∃ e ∈ (s.core cl c).moves, e.2.serial < a.before) : exec (.whenDoneIncrement cl c) s = .next s := by
  have hany : ((s.core cl c).moves.any fun e => decide (e.2.serial < a.before)) = true := by simpa using hm
  show execWhenDoneIncrement cl c s = _
  unfold execWhenDoneIncrement
  simp only [h, hany, if_true]

/-- The task behind a core decides whether it is speculative, and running on leaves it. -/
theorem slotOf_coreTo (s : State) (cl : Cl) (c : Cn) (t : Nat) : (s.coreTo cl c t).slotOf cl c = s.slotOf cl c := by
  unfold State.slotOf
  rw [core_coreTo, ranTo_task, coreTo_only]
  rfl

/-- The state in which the oldest armed increment has left its core, which has run on to where the earlier outputs are visible. -/
def State.disarmed (s : State) (cl : Cl) (c : Cn) (a : Armed) (rest : List Armed) : State :=
  (s.coreTo cl c a.vis).setCore cl c { (s.core cl c).ranTo a.vis with armed := rest }

theorem disarmed_onlyCoreM (s : State) (cl : Cl) (c : Cn) (a : Armed) (rest : List Armed) : OnlyCoreM cl c s (s.disarmed cl c a rest) :=
  (onlyCoreM_coreTo ..).trans (onlyCore_setCore ..).toM

theorem core_disarmed (s : State) (cl : Cl) (c : Cn) (a : Armed) (rest : List Armed) :
    (s.disarmed cl c a rest).core cl c = { (s.core cl c).ranTo a.vis with armed := rest } := State.core_setCore ..

/-- The oldest armed increment of a task that is not speculative is sent once no earlier move is in flight. -/
theorem exec_whenDoneIncrement_sends {s : State} {cl : Cl} {c : Cn} {a : Armed} {rest : List Armed} (h : (s.core cl c).armed = a :: rest)
    (hm : ∀ e ∈ (s.core cl c).moves, a.before ≤ e.2.serial) (hs : s.slotOf cl c = none) :
    exec (.whenDoneIncrement cl c) s = .next (((s.disarmed cl c a rest).setCore cl c
      { (s.disarmed cl c a rest).core cl c with unacked := ((s.disarmed cl c a rest).core cl c).unacked + 1 }).send
        ((s.disarmed cl c a rest).incPacket cl c a.ctr a.amt)) := by
  have hany : ((s.core cl c).moves.any fun e => decide (e.2.serial < a.before)) = false := by simpa using hm
  have hdefer : (s.disarmed cl c a rest).deferSlot cl c a.ctr = none := by
    unfold State.disarmed
    rw [deferSlot_setCore _ _ _ (by rw [core_coreTo])]
    exact deferSlot_of_not_speculative ((slotOf_coreTo ..).trans hs) _
  have hinc := coreInc_sent hdefer a.amt
  show execWhenDoneIncrement cl c s = _
  unfold execWhenDoneIncrement
  unfold State.disarmed at hinc ⊢
  simp only [h, hany, core_coreTo, hinc, Bool.false_eq_true, if_false, if_true]

/-- What is still pending on a core that has run on to cycle t becomes visible later. -/
theorem vis_of_mem_ranTo {k : Core} {t : Nat} {o : PendOut} (h : o ∈ (k.ranTo t).outs) : t < o.vis := by
  have hk : o.key ∈ k.keysAfter (max k.cyc t) := ranTo_keys k t ▸ List.mem_map_of_mem h
  exact (le_max_right ..).trans_lt (of_decide_eq_true (List.mem_filter.1 hk).2)

theorem ranTo_unacked (k : Core) (t : Nat) : (k.ranTo t).unacked = k.unacked := (congrArg Core.unacked (ranTo_sameButArray k t) :)

/-- What a sent armed increment leaves. -/
theorem whenDoneIncrement_sent {s : State} {cl : Cl} {c : Cn} {a : Armed} {rest : List Armed} (h : (s.core cl c).armed = a :: rest)
    (hm : ∀ e ∈ (s.core cl c).moves, a.before ≤ e.2.serial) (hs : s.slotOf cl c = none) :
    Done (.whenDoneIncrement cl c) s fun t => (t.core cl c).armed = rest ∧
      t.net.flight = s.net.flight ++ [⟨a.ctr, a.amt, .core cl c ((s.core cl c).task.getD 0), s.clPart cl⟩] ∧
      (t.core cl c).unacked = (s.core cl c).unacked + 1 ∧ (∀ o ∈ (t.core cl c).outs, a.vis < o.vis) ∧
      (t.core cl c).regs = (s.core cl c).regs ∧ t.counters = s.counters ∧
      t = { s with cores := t.cores, net := t.net, mgmt := t.mgmt } ∧ ∀ cl' c', ¬(cl' = cl ∧ c' = c) → t.core cl' c' = s.core cl' c' := by
  refine ⟨_, exec_whenDoneIncrement_sends h hm hs, ?_⟩
  have hcore := core_disarmed s cl c a rest
  obtain ⟨hframe, hothers⟩ := disarmed_onlyCoreM s cl c a rest
  generalize s.disarmed cl c a rest = u at *
  simp only [State.core_of_send, State.core_setCore]
  rw [hcore]
  refine ⟨rfl, ?_, congrArg (· + 1) (ranTo_unacked ..), fun o ho => vis_of_mem_ranTo ho, ranTo_regs .., ?_, ?_, fun cl' c' hn => ?_⟩
  · have hpacket : u.incPacket cl c a.ctr a.amt = ⟨a.ctr, a.amt, .core cl c ((s.core cl c).task.getD 0), s.clPart cl⟩ := by
      unfold State.incPacket
      rw [hcore, hframe]
      exact congrArg (fun k => Packet.mk a.ctr a.amt (.core cl c (Option.getD k 0)) (s.clPart cl)) (ranTo_task ..)
    rw [hpacket, hframe]
    rfl
  · rw [hframe]
    rfl
  · rw [hframe]
    rfl
  · rw [State.core_setCore_if, if_neg hn, hothers cl' c' hn]

end Sys2Proof.Machine

namespace Sys2Proof.Machine

open Sys2Proof

/-! ### INCREMENT_APPLIED (R138, R139, R147) -/

/-- A counter that its sync hub has moved, behind the wake of its waits: no other counter moves, and sequencers and rings alone are
touched. -/
theorem wake_setCtr_spec (s : State) (n : Nat) (v : Counter) :
    ((s.setCtr n v).wake n).ctr n = v ∧ (∀ m, m ≠ n → ((s.setCtr n v).wake n).ctr m = s.ctr m) ∧
    (s.setCtr n v).wake n = { s with
      cores := ((s.setCtr n v).wake n).cores, stewards := ((s.setCtr n v).wake n).stewards
      rings := ((s.setCtr n v).wake n).rings, counters := ((s.setCtr n v).wake n).counters } := by
  refine ⟨?_, fun m hm => ?_, ?_⟩
  · rw [ctr_wake, State.ctr_setCtr]
  · rw [ctr_wake, State.ctr_setCtr_if, if_neg hm]
  · rw [wake_only]
    rfl

/-- The state in which packet i has left the network. -/
def State.withoutPacket (s : State) (i : Nat) : State := { s with net := { s.net with flight := s.net.flight.eraseIdx i } }

theorem exec_incrementApplied {s : State} {i : Nat} {k : Packet} (ht : s.power.tripped = false) (hk : s.net.flight[i]? = some k) (f : Nat) :
    (f < 2 → exec (.incrementApplied i f) s = .next ((s.withoutPacket i).applyInc k)) ∧
    (2 ≤ f → exec (.incrementApplied i f) s = .next ((s.withoutPacket i).packetLost (nameCl k.ctr))) := by
  have hx : exec (.incrementApplied i f) s =
      .next (if f < 2 then (s.withoutPacket i).applyInc k else (s.withoutPacket i).packetLost (nameCl k.ctr)) := by
    show execIncrementApplied i f s = _
    unfold execIncrementApplied
    simp only [ht, hk, Bool.false_eq_true, if_false]
    rfl
  exact ⟨fun hf => by rw [hx, if_pos hf], fun hf => by rw [hx, if_neg (Nat.not_lt.2 hf)]⟩

/-- A packet whose CRC fails twice is lost, which tells the management processor of a fatal error (R138, R264). -/
theorem packetLost_spec (s : State) (cl : Cl) :
    (∃ e sc, (s.packetLost cl).mgmt.inbox = s.mgmt.inbox ++ [(e, sc)] ∧ e.source = 0x0A ∧ e.cls = 3) ∧
    s.packetLost cl = { s with mgmt := (s.packetLost cl).mgmt } := ⟨⟨_, _, rfl, rfl, rfl⟩, rfl⟩

/-- The state in which an acknowledgement has set out to a packet's sender. -/
def State.acking (s : State) (x : Sender) : State := { s with net := { s.net with acks := s.net.acks ++ [x] } }

theorem applyInc_running {s : State} {k : Packet} (h : (s.part (s.clPart (nameCl k.ctr))).frozen = false) :
    s.applyInc k = ((s.acking k.sender).setCtr k.ctr ((s.ctr k.ctr).add (BitVec.ofNat 32 k.amt))).wake k.ctr :=
  if_neg (ne_true_of_eq_false h)

theorem applyInc_frozen {s : State} {k : Packet} (h : (s.part (s.clPart (nameCl k.ctr))).frozen = true) :
    s.applyInc k = (s.acking k.sender).dropInc k.part := if_pos h

theorem incrementApplied_running {s : State} {i f : Nat} {k : Packet} (ht : s.power.tripped = false) (hk : s.net.flight[i]? = some k)
    (hf : f < 2) (hfrozen : (s.part (s.clPart (nameCl k.ctr))).frozen = false) :
    Done (.incrementApplied i f) s fun t => (t.ctr k.ctr).value = (s.ctr k.ctr).value + BitVec.ofNat 32 k.amt ∧
      (t.ctr k.ctr).expected = (if (s.ctr k.ctr).settled then (s.ctr k.ctr).expected + BitVec.ofNat 32 k.amt else (s.ctr k.ctr).expected) ∧
      (∀ n, n ≠ k.ctr → t.ctr n = s.ctr n) ∧ t.net.flight = s.net.flight.eraseIdx i ∧ t.net.acks = s.net.acks ++ [k.sender] ∧
      t = { s with cores := t.cores, stewards := t.stewards, rings := t.rings, counters := t.counters, net := t.net } := by
  refine ⟨_, (exec_incrementApplied ht hk f).1 hf, ?_⟩
  rw [applyInc_running (s := s.withoutPacket i) hfrozen]
  obtain ⟨hctr, hothers, hframe⟩ := wake_setCtr_spec ((s.withoutPacket i).acking k.sender) k.ctr
    (((s.withoutPacket i).ctr k.ctr).add (BitVec.ofNat 32 k.amt))
  generalize State.wake _ _ = t at *
  refine ⟨?_, ?_, hothers, ?_, ?_, ?_⟩
  · rw [hctr]
    rfl
  · rw [hctr]
    rfl
  · rw [hframe]
    rfl
  · rw [hframe]
    rfl
  · rw [hframe]
    rfl

theorem incrementApplied_frozen {s : State} {i f : Nat} {k : Packet} (ht : s.power.tripped = false) (hk : s.net.flight[i]? = some k)
    (hf : f < 2) (hfrozen : (s.part (s.clPart (nameCl k.ctr))).frozen = true) :
    Done (.incrementApplied i f) s fun t => t.counters = s.counters ∧ t.net.flight = s.net.flight.eraseIdx i ∧
      t.net.acks = s.net.acks ++ [k.sender] ∧ (t.part k.part).dropped = min ((s.part k.part).dropped + 1) 4294967295 ∧
      t = { s with parts := t.parts, net := t.net } := by
  refine ⟨_, (exec_incrementApplied ht hk f).1 hf, ?_⟩
  rw [applyInc_frozen (s := s.withoutPacket i) hfrozen]
  exact ⟨rfl, rfl, rfl, congrArg Part.dropped (State.part_setPart ..), rfl⟩

theorem incrementApplied_lost {s : State} {i f : Nat} {k : Packet} (ht : s.power.tripped = false) (hk : s.net.flight[i]? = some k)
    (hf : 2 ≤ f) :
    Done (.incrementApplied i f) s fun t => t.counters = s.counters ∧ t.net.flight = s.net.flight.eraseIdx i ∧
      (∃ e sc, t.mgmt.inbox = s.mgmt.inbox ++ [(e, sc)] ∧ e.source = 0x0A ∧ e.cls = 3) ∧
      t = { s with net := t.net, mgmt := t.mgmt } :=
  ⟨_, (exec_incrementApplied ht hk f).2 hf, rfl, rfl, (packetLost_spec (s.withoutPacket i) _).1, rfl⟩

/-! ### INCREMENT_ACK (R138, R147, R149, R151) -/

/-- The state in which acknowledgement i has left the network. -/
def State.withoutAck (s : State) (i : Nat) : State := { s with net := { s.net with acks := s.net.acks.eraseIdx i } }

theorem exec_incrementAck {s : State} {i : Nat} {x : Sender} (ht : s.power.tripped = false) (hx : s.net.acks[i]? = some x) (f : Nat) :
    (f < 2 → exec (.incrementAck ⟨i, f⟩) s = .next ((s.withoutAck i).takeAck x)) ∧
    (2 ≤ f → exec (.incrementAck ⟨i, f⟩) s = .next ((s.withoutAck i).packetLost x.cl)) := by
  have he : exec (.incrementAck ⟨i, f⟩) s =
      .next (if f < 2 then (s.withoutAck i).takeAck x else (s.withoutAck i).packetLost x.cl) := by
    show execIncrementAck ⟨i, f⟩ s = _
    unfold execIncrementAck
    simp only [ht, hx, Bool.false_eq_true, if_false]
    rfl
  exact ⟨fun hf => by rw [he, if_pos hf], fun hf => by rw [he, if_neg (Nat.not_lt.2 hf)]⟩

theorem incrementAck_core {s : State} {i f : Nat} {cl : Cl} {c : Cn} {key : Nat} (ht : s.power.tripped = false) (hf : f < 2)
    (hx : s.net.acks[i]? = some (.core cl c key)) :
    Done (.incrementAck ⟨i, f⟩) s fun t => t.net.acks = s.net.acks.eraseIdx i ∧
      t.core cl c = (if (s.core cl c).task = some key then { s.core cl c with unacked := (s.core cl c).unacked - 1 }
        else { s.core cl c with settleWait := (s.core cl c).settleWait - 1 }) ∧
      t = { s with cores := t.cores, net := t.net } :=
  ⟨_, (exec_incrementAck ht hx f).1 hf, rfl, State.core_setCore .., rfl⟩

theorem incrementAck_steward {s : State} {i f : Nat} {cl : Cl} (ht : s.power.tripped = false) (hf : f < 2)
    (hx : s.net.acks[i]? = some (.steward cl)) :
    Done (.incrementAck ⟨i, f⟩) s fun t => (t.stew cl).unacked = (s.stew cl).unacked - 1 ∧ t.net.acks = s.net.acks.eraseIdx i ∧
      t = { s with stewards := t.stewards, net := t.net } :=
  ⟨_, (exec_incrementAck ht hx f).1 hf, congrArg Steward.unacked (State.stew_setStew ..), rfl, rfl⟩

/-- A ring, a dispatcher and a committed deferral keep no account of acknowledgements. -/
theorem incrementAck_uncounted {s : State} {i f : Nat} {cl : Cl} {x : Sender} (ht : s.power.tripped = false) (hf : f < 2)
    (hx : s.net.acks[i]? = some x) (h : (∃ n, x = .ring cl n) ∨ x = .dispatcher cl ∨ x = .released cl) :
    Done (.incrementAck ⟨i, f⟩) s fun t => t.net.acks = s.net.acks.eraseIdx i ∧ t = { s with net := t.net } := by
  refine ⟨_, (exec_incrementAck ht hx f).1 hf, ?_⟩
  obtain ⟨n, rfl⟩ | rfl | rfl := h
  all_goals exact ⟨rfl, rfl⟩

theorem incrementAck_lost {s : State} {i f : Nat} {x : Sender} (ht : s.power.tripped = false) (hf : 2 ≤ f)
    (hx : s.net.acks[i]? = some x) :
    Done (.incrementAck ⟨i, f⟩) s fun t =>
      (∃ e sc, t.mgmt.inbox = s.mgmt.inbox ++ [(e, sc)] ∧ e.source = 0x0A ∧ e.cls = 3) ∧
      t.net.acks = s.net.acks.eraseIdx i ∧ t = { s with net := t.net, mgmt := t.mgmt } :=
  ⟨_, (exec_incrementAck ht hx f).2 hf, (packetLost_spec (s.withoutAck i) _).1, rfl, rfl⟩

/-! ### MANAGEMENT_RAISE (R144) -/

theorem exec_managementRaise_raises {s : State} {n : Nat} {v : W32} (hn : nameOk n = true)
    (hf : (s.part (s.clPart (nameCl n))).frozen = false) (hv : reaches v (s.ctr n).value = true) :
    exec (.managementRaise n v) s = .next ((s.setCtr n ((s.ctr n).add (v - (s.ctr n).value))).wake n) :=
  congrArg Host.Outcome.next (if_pos ⟨hn, of_decide_eq_true hv, by rw [hf]; rfl⟩)

/-- A raise that would move the counter backward does nothing. -/
theorem exec_managementRaise_backward {s : State} {n : Nat} {v : W32} (hv : reaches v (s.ctr n).value = false) :
    exec (.managementRaise n v) s = .next s :=
  congrArg Host.Outcome.next (if_neg fun h => of_decide_eq_false hv h.2.1)

/-- A raise in a frozen partition does nothing. -/
theorem exec_managementRaise_frozen {s : State} {n : Nat} (v : W32) (hf : (s.part (s.clPart (nameCl n))).frozen = true) :
    exec (.managementRaise n v) s = .next s :=
  congrArg Host.Outcome.next (if_neg fun h => absurd h.2.2 (by rw [hf]; decide))

theorem managementRaise_raises {s : State} {n : Nat} {v : W32} (hn : nameOk n = true)
    (hf : (s.part (s.clPart (nameCl n))).frozen = false) (hv : reaches v (s.ctr n).value = true) :
    Done (.managementRaise n v) s fun t => (t.ctr n).value = v ∧ (∀ m, m ≠ n → t.ctr m = s.ctr m) ∧
      t = { s with cores := t.cores, stewards := t.stewards, rings := t.rings, counters := t.counters } := by
  obtain ⟨hctr, hothers, hframe⟩ := wake_setCtr_spec s n ((s.ctr n).add (v - (s.ctr n).value))
  refine ⟨_, exec_managementRaise_raises hn hf hv, ?_, hothers, hframe⟩
  rw [hctr]
  unfold Counter.add
  rw [add_comm, BitVec.sub_add_cancel]

/-! ### COUNTER_SETTLE (R151) -/

/-- A counter that has been settled: its expected register stands at its value. -/
def Counter.settle (x : Counter) : Counter := { x with expected := x.value, settled := true }

/-- Settles a counter and the waits on it. -/
def State.settleCtr (s : State) (n : Nat) : State := (s.setCtr n (s.ctr n).settle).wake n

theorem ctr_settleCtr (s : State) (n m : Nat) : (s.settleCtr n).ctr m = if m = n then (s.ctr m).settle else s.ctr m := by
  unfold State.settleCtr
  rw [ctr_wake, State.ctr_setCtr_if]
  split
  · rename_i h
    rw [h]
  · rfl

theorem raiseView_settleCtr (s : State) (n : Nat) : (s.settleCtr n).raiseView = s.raiseView := by
  unfold State.settleCtr
  rw [wake_only]
  rfl

theorem toSettle_settleCtr (s : State) (n : Nat) (cl : Cl) (c : Cn) : ((s.settleCtr n).core cl c).toSettle = (s.core cl c).toSettle :=
  (congrArg Core.toSettle (wake_sameButRelease (s.setCtr n (s.ctr n).settle) n cl c) :)

theorem only_of_raiseView {s u : State} (h : u.raiseView = s.raiseView) : u = { s with
    cores := u.cores, stewards := u.stewards, rings := u.rings, counters := u.counters } :=
  calc u = { u.raiseView with cores := u.cores, stewards := u.stewards, rings := u.rings, counters := u.counters } := rfl
    _ = _ := by rw [h]; rfl

/-- Settling a list of counters settles those alone, whichever are listed twice. -/
theorem ctr_settleCtrs (l : List Nat) (s : State) (m : Nat) :
    (l.foldl State.settleCtr s).ctr m = if m ∈ l then (s.ctr m).settle else s.ctr m := by
  induction l generalizing s with
  | nil => rfl
  | cons n l ih =>
    rw [List.foldl_cons, ih, ctr_settleCtr]
    by_cases hn : m = n <;> by_cases hl : m ∈ l <;> simp [hn, hl, Counter.settle]

theorem exec_counterSettle {s : State} {cl : Cl} {c : Cn} (hw : (s.core cl c).settleWait = 0) (hl : (s.core cl c).toSettle ≠ []) :
    exec (.counterSettle cl c) s =
      .next ((s.core cl c).toSettle.foldl State.settleCtr (s.setCore cl c { s.core cl c with toSettle := [] })) :=
  congrArg Host.Outcome.next (if_pos ⟨hw, hl⟩)

theorem counterSettle_done {s : State} {cl : Cl} {c : Cn} (hw : (s.core cl c).settleWait = 0) (hl : (s.core cl c).toSettle ≠ []) :
    Done (.counterSettle cl c) s fun t => (∀ n, (t.ctr n).value = (s.ctr n).value) ∧
      (∀ n ∈ (s.core cl c).toSettle, (t.ctr n).expected = (s.ctr n).value ∧ (t.ctr n).settled = true) ∧
      (∀ n, n ∉ (s.core cl c).toSettle → t.ctr n = s.ctr n) ∧ (t.core cl c).toSettle = [] ∧
      t = { s with cores := t.cores, stewards := t.stewards, rings := t.rings, counters := t.counters } := by
  refine ⟨_, exec_counterSettle hw hl, ?_⟩
  generalize (s.core cl c).toSettle = l
  generalize hu : s.setCore cl c { s.core cl c with toSettle := [] } = u
  have hctr (n : Nat) : (l.foldl State.settleCtr u).ctr n = if n ∈ l then (s.ctr n).settle else s.ctr n := by
    rw [ctr_settleCtrs, ← hu, State.ctr_of_setCore]
  have hcore : ((l.foldl State.settleCtr u).core cl c).toSettle = [] := by
    rw [foldl_proj (g := fun x : State => (x.core cl c).toSettle) l u fun x n => toSettle_settleCtr x n cl c, ← hu, State.core_setCore]
  have hview : (l.foldl State.settleCtr u).raiseView = s.raiseView := by
    rw [foldl_proj (g := State.raiseView) l u raiseView_settleCtr, ← hu]
    rfl
  refine ⟨fun n => ?_, fun n hn => ?_, fun n hn => ?_, hcore, only_of_raiseView hview⟩
  · rw [hctr]
    split <;> rfl
  · rw [hctr, if_pos hn]
    exact ⟨rfl, rfl⟩
  · rw [hctr, if_neg hn]

/-- Settles O17: each clause by the lemma that says what its command leaves. -/
theorem countersAreReadAndMoved : Obligations.CountersAreReadAndMoved := by
  unfold Obligations.CountersAreReadAndMoved
  refine ⟨fun s cl => ⟨fun c r rest h => creadResult_core h, fun r rest h => creadResult_steward h,
      fun c a rest h hm => exec_whenDoneIncrement_waits h hm, fun c a rest h hm hs => whenDoneIncrement_sent h hm hs⟩,
    fun s => ⟨fun i f k ht hk => ?applied, fun i f cl ht => ?ack, fun n v hn => ?raise, fun cl c hw hl => counterSettle_done hw hl⟩⟩
  case applied =>
    exact ⟨incrementApplied_running ht hk, incrementApplied_frozen ht hk, incrementApplied_lost ht hk⟩
  case ack =>
    exact ⟨fun c key hf hx => incrementAck_core ht hf hx, incrementAck_steward ht,
      fun x hf hx h => incrementAck_uncounted ht hf hx h, fun x hf hx => incrementAck_lost ht hf hx⟩
  case raise =>
    have hreach := reaches_iff v (s.ctr n).value
    refine ⟨fun hf hv => managementRaise_raises hn hf (hreach.2 hv), fun hv => exec_managementRaise_backward ?_,
      exec_managementRaise_frozen v⟩
    rw [← Bool.not_eq_true, hreach]
    exact not_lt.2 hv

end Sys2Proof.Machine

namespace Sys2Proof.Machine

open Sys2Proof

/-! ### The package guard (R172) -/

/-- The guard's records once a sample of the five powers has been taken in, before the guard acts on it. -/
def State.sampled (s : State) (hub d0 d1 d2 d3 : Nat) : Power := { s.power with
  pkg := hub + d0 + d1 + d2 + d3
  hub := hub
  dies := [d0, d1, d2, d3]
  aboveRun := if s.obj 0x2001 1 < hub + d0 + d1 + d2 + d3 then s.power.aboveRun + 1 else 0
  goodRun := if s.obj 0x2001 1 < hub + d0 + d1 + d2 + d3 then 0 else s.power.goodRun + 1
  lastAbove2100 := decide (2100 < hub + d0 + d1 + d2 + d3)
  peak := if s.power.hold ∨ s.power.aboveRun ≠ 0 then max s.power.peak (hub + d0 + d1 + d2 + d3) else hub + d0 + d1 + d2 + d3 }

section
variable {s : State} {hub d0 d1 d2 d3 : Nat}

/-- What a sample does: it steps the islands down, releases the hold, or is only counted. -/
theorem exec_guardSample : exec (.guardSample hub d0 d1 d2 d3) s = .next (
    let w := s.sampled hub d0 d1 d2 d3
    if s.power.hold ∧ s.obj 0x2001 1 < hub + d0 + d1 + d2 + d3 then
      { s with power := { w with g := min 15 (w.g + 1), stepdowns := w.stepdowns + 1 } }
    else if s.power.hold then ({ s with power := { w with hold := false, goodRun := 0 } }).logEvent 0x84 0xFF 0 0 w.peak w.stepdowns
    else { s with power := w }) := by
  show execGuardSample hub d0 d1 d2 d3 s = _
  unfold execGuardSample State.sampled
  simp only [decide_eq_true_eq]

theorem exec_guardSample_idle (hh : s.power.hold = false) :
    exec (.guardSample hub d0 d1 d2 d3) s = .next { s with power := s.sampled hub d0 d1 d2 d3 } := by
  have hidle : ¬s.power.hold = true := by rw [hh]; decide
  exact exec_guardSample.trans (congrArg Host.Outcome.next ((if_neg fun k => hidle k.1).trans (if_neg hidle)))

section
variable (h : s.obj 0x2001 1 < hub + d0 + d1 + d2 + d3)
include h

theorem guardSample_counts (hh : s.power.hold = false) : Done (.guardSample hub d0 d1 d2 d3) s fun t =>
    t.power.aboveRun = s.power.aboveRun + 1 ∧ t.power.goodRun = 0 ∧ t.power.g = s.power.g ∧ t.power.hold = false ∧
    t.power.pkg = hub + d0 + d1 + d2 + d3 ∧ t.power.lastAbove2100 = decide (2100 < hub + d0 + d1 + d2 + d3) ∧ t = { s with power := t.power } :=
  ⟨_, exec_guardSample_idle hh, if_pos h, if_pos h, rfl, hh, rfl, rfl, rfl⟩

theorem guardSample_stepsDown (hh : s.power.hold = true) : Done (.guardSample hub d0 d1 d2 d3) s fun t =>
    t.power.g = min 15 (s.power.g + 1) ∧ t.power.stepdowns = s.power.stepdowns + 1 ∧ t.power.hold = true ∧ t = { s with power := t.power } :=
  ⟨_, exec_guardSample.trans (congrArg Host.Outcome.next (if_pos ⟨hh, h⟩)), rfl, rfl, hh, rfl⟩

end

section
variable (h : hub + d0 + d1 + d2 + d3 ≤ s.obj 0x2001 1)
include h

/-- The first sample that is not above the limit ends the hold, which is logged (R172, log 39). -/
theorem guardSample_releases (hh : s.power.hold = true) : Done (.guardSample hub d0 d1 d2 d3) s fun t =>
    t.power.hold = false ∧ t.power.g = s.power.g ∧ t.power.aboveRun = 0 ∧ t.mgmt.logCount = (s.mgmt.logCount + 1) % 2 ^ 32 ∧
    t = { s with power := t.power, mgmt := t.mgmt } :=
  ⟨_, exec_guardSample.trans (congrArg Host.Outcome.next ((if_neg fun k => h.not_gt k.2).trans (if_pos hh))),
    rfl, rfl, if_neg h.not_gt, rfl, rfl⟩

theorem guardSample_good (hh : s.power.hold = false) : Done (.guardSample hub d0 d1 d2 d3) s fun t =>
    t.power.aboveRun = 0 ∧ t.power.goodRun = s.power.goodRun + 1 ∧ t.power.g = s.power.g ∧ t = { s with power := t.power } :=
  ⟨_, exec_guardSample_idle hh, if_neg h.not_gt, if_neg h.not_gt, rfl, rfl⟩

end

theorem guardStart_holds (hh : s.power.hold = false) (h : 80 ≤ s.power.aboveRun ∨ s.power.lastAbove2100 = true) :
    Done .guardStart s fun t => t.power.hold = true ∧ t.power.guardStarts = min (s.power.guardStarts + 1) 4294967295 ∧
      t.power.g = s.power.g ∧ t = { s with power := t.power } :=
  ⟨_, congrArg Host.Outcome.next (if_pos ⟨by rw [hh]; rfl, h⟩), rfl, rfl, rfl, rfl⟩

theorem guardStart_waits (h80 : s.power.aboveRun < 80) (h2100 : s.power.lastAbove2100 = false) : exec .guardStart s = .next s :=
  congrArg Host.Outcome.next (if_neg fun h => h.2.elim h80.not_ge (by rw [h2100]; decide))

theorem guardStepUp_steps (hh : s.power.hold = false) (hg : 0 < s.power.g) (h : 10 ≤ s.power.goodRun) : Done .guardStepUp s fun t =>
    t = { s with power := { s.power with g := s.power.g - 1, goodRun := s.power.goodRun - 10 } } :=
  ⟨_, congrArg Host.Outcome.next (if_pos ⟨by rw [hh]; rfl, hg, h⟩), rfl⟩

theorem guardStepUp_waits (h : s.power.goodRun < 10 ∨ s.power.g = 0 ∨ s.power.hold = true) : exec .guardStepUp s = .next s := by
  refine congrArg Host.Outcome.next (if_neg ?_)
  rintro ⟨hh, hg, hgood⟩
  obtain h | h | h := h
  · exact h.not_ge hgood
  · exact hg.ne' h
  · rw [h] at hh
    exact absurd hh (by decide)

end

/-- Settles O34: each clause by the lemma on the branch that its sample, or its count, selects. -/
theorem guardHoldsThePackageLimit : Obligations.GuardHoldsThePackageLimit := by
  unfold Obligations.GuardHoldsThePackageLimit
  exact fun s => ⟨fun hub d0 d1 d2 d3 => ⟨guardSample_counts, guardSample_stepsDown, guardSample_releases, guardSample_good⟩,
    guardStart_holds, guardStart_waits, guardStepUp_steps, guardStepUp_waits⟩

end Sys2Proof.Machine

namespace Sys2Proof.Machine

open Sys2Proof

/-! ### Entries, withdrawals and grants (R166, R168) -/

/-- The descriptor that a ring offers is the one that it places with the ledger. -/
theorem placedDesc_of_candidate {r : Ring} {d : BitVec 512} (h : r.candidate = some d) : r.placedDesc = some d := by
  unfold Ring.candidate at h
  unfold Ring.placedDesc
  cases hc : r.cand with
  | true =>
    rw [hc] at h
    exact h
  | false =>
    rw [hc, if_neg Bool.false_ne_true] at h
    rw [if_neg Bool.false_ne_true]
    cases hh : r.held with
    | nil =>
      rw [hh] at h
      exact (ite_eq_iff.1 h).elim And.right fun k => absurd k.2 nofun
    | cons x rest =>
      rw [hh] at h
      exact absurd h nofun

/-- Bringing a ring up to date leaves its place with the ledger and its head alone. -/
theorem refreshRing_place (s : State) (cl : Cl) (n : Rn) : let r := (s.refreshRing cl n.val).ring cl n.val
    r.posted = (s.ring cl n.val).posted ∧ r.granted = (s.ring cl n.val).granted ∧ r.target = (s.ring cl n.val).target ∧
    r.head = (s.ring cl n.val).head := by
  have h := refreshRing_ring s cl cl n.isLt n.isLt
  dsimp only
  rw [h]
  exact ⟨rfl, rfl, rfl, rfl⟩

theorem acct_refreshRing (s : State) (cl : Cl) (n a : Nat) : (s.refreshRing cl n).acct a = s.acct a := by
  rw [refreshRing_only]
  rfl

section
variable {s : State} {cl : Cl} {n : Nat}

/-- A withdrawn entry leaves its account (R166). -/
theorem withdraw_posted (hp : (s.ring cl n).posted = true) (hg : (s.ring cl n).granted = false) : let a := acctOf ((s.ring cl n).runsIn cl)
    s.withdraw cl n = (s.setAcct a { s.acct a with reqs := (s.acct a).reqs.filter fun q => !(decide (q.cl = cl) && decide (q.ring = n)) }).setRing cl n
      { s.ring cl n with posted := false, granted := false, target := none } := by
  unfold State.withdraw
  simp only [hp, hg, Bool.false_eq_true, true_or, false_and, if_true, if_false]

/-- A returned grant is refunded by its account (R168). -/
theorem withdraw_refunds (hg : (s.ring cl n).granted = true) {d : BitVec 512} (hd : (s.ring cl n).candidate = some d) :
    let a := acctOf ((s.ring cl n).runsIn cl)
    let t := s.withdraw cl n
    t.acct a = { s.acct a with dues := (s.acct a).dues ++ [⟨0, declared (tEclass d), false, true, cl, n, tTaskId d⟩] } ∧
    (t.ring cl n).posted = false ∧ (t.ring cl n).granted = false ∧ (t.ring cl n).head = (s.ring cl n).head ∧
    t = { s with rings := t.rings, accts := t.accts } := by
  unfold State.withdraw
  simp only [hg, placedDesc_of_candidate hd, or_true, if_true, State.ring_setRing, true_and]
  exact ⟨State.acct_setAcct .., rfl⟩

end

/-- No candidate that may be posted is older than ring n's (R166): it became ready earlier, ranks lower, or has the lower number. -/
def State.OldestPostable (s : State) (cl : Cl) (n since : Nat) : Prop :=
  ∀ m < 16, m ≠ n → s.postable cl m = true → ∃ since', (s.ring cl m).readySince = some since' ∧
    (since < since' ∨ since = since' ∧ ((s.ring cl n).readyRank < (s.ring cl m).readyRank ∨
      (s.ring cl n).readyRank = (s.ring cl m).readyRank ∧ n < m))

theorem wouldRun_of_placement {s : State} {cl tgt : Cl} {d : BitVec 512} (h : if tReloc d = true then s.placement cl d = some tgt else tgt = cl) :
    s.wouldRun cl d = some tgt := by
  unfold State.wouldRun
  split at h
  · next hr => rw [if_pos hr, h]
  · next hr => rw [if_neg hr, h]

/-- A ring whose candidate may be posted has no place with the ledger. -/
theorem not_granted_of_postable {s : State} {cl : Cl} {n : Nat} (h : s.postable cl n = true) : (s.ring cl n).granted = false := by
  unfold State.postable at h
  dsimp only at h
  split at h
  · unfold Ring.placed at h
    simp only [Bool.and_eq_true, Bool.not_eq_true', Bool.or_eq_false_iff] at h
    exact h.1.1.2.2
  · exact absurd h (by decide)

section
variable {s u : State} {cl tgt : Cl} {n : Rn} {d : BitVec 512} {since : Nat} (hu : s.refreshRing cl n.val = u)
  (hd : (u.ring cl n.val).candidate = some d) (hs : (u.ring cl n.val).readySince = some since)
include hu hd hs

theorem exec_ledgerRequestPost (ht : u.power.tripped = false) (hp : u.postable cl n.val = true) (h4 : (u.placedRings cl).length < 4)
    (hstop : (u.clu cl).dispStopped = false) (hold : u.OldestPostable cl n.val since) (hw : u.wouldRun cl d = some tgt) :
    exec (.ledgerRequestPost cl n) s = .next (
      (u.setAcct (acctOf tgt) { u.acct (acctOf tgt) with
        reqs := (u.acct (acctOf tgt)).reqs ++ [⟨cl, n.val, tEclass d, since, (u.ring cl n.val).readyRank, tgt⟩] }).setRing cl n.val
        { u.ring cl n.val with posted := true, target := if tReloc d then some tgt else none }) := by
  show execLedgerRequestPost cl n s = _
  unfold execLedgerRequestPost
  simp only [hu, hd, hs, hw]
  rw [if_neg (by rw [ht, hp, hstop]; simp [h4]), if_neg]
  simp only [List.any_eq_true, List.mem_range, Bool.and_eq_true, not_exists, not_and]
  intro m hm hpost holder
  by_cases hmn : m = n.val
  · rw [hmn, hs] at holder
    simp at holder
  · obtain ⟨since', hs', h⟩ := hold m hm hmn hpost
    simp only [hs', Bool.or_eq_true, Bool.and_eq_true, decide_eq_true_eq] at holder
    omega

end

/-- A candidate that is posted adds its entry to the account that it is to run under. -/
theorem ledgerRequestPost_posts {s : State} {cl tgt : Cl} {n : Rn} {d : BitVec 512} {since : Nat} (ht : s.power.tripped = false)
    (hd : ((s.refreshRing cl n.val).ring cl n.val).candidate = some d)
    (hs : ((s.refreshRing cl n.val).ring cl n.val).readySince = some since) (hp : (s.refreshRing cl n.val).postable cl n.val = true)
    (h4 : ((s.refreshRing cl n.val).placedRings cl).length < 4) (hstop : (s.clu cl).dispStopped = false)
    (hold : (s.refreshRing cl n.val).OldestPostable cl n.val since) (hw : (s.refreshRing cl n.val).wouldRun cl d = some tgt) :
    Done (.ledgerRequestPost cl n) s fun t =>
      t.acct (acctOf tgt) = { s.acct (acctOf tgt) with
        reqs := (s.acct (acctOf tgt)).reqs ++ [⟨cl, n.val, tEclass d, since, ((s.refreshRing cl n.val).ring cl n.val).readyRank, tgt⟩] } ∧
      (∀ a, a ≠ acctOf tgt → t.acct a = s.acct a) ∧
      (t.ring cl n.val).posted = true ∧ (t.ring cl n.val).granted = false ∧ (t.ring cl n.val).head = (s.ring cl n.val).head ∧
      t = { s with rings := t.rings, accts := t.accts } := by
  have hacct (a : Nat) : (s.refreshRing cl n.val).acct a = s.acct a := acct_refreshRing ..
  obtain ⟨-, -, -, hhead⟩ := refreshRing_place s cl n
  have hframe := refreshRing_only s cl n.val
  generalize hu : s.refreshRing cl n.val = u at *
  have htrip : u.power.tripped = false := by rw [hframe]; exact ht
  have hclu : (u.clu cl).dispStopped = false := by rw [hframe]; exact hstop
  refine ⟨_, exec_ledgerRequestPost hu hd hs htrip hp h4 hclu hold hw, ?_, fun a ha => ?_, ?_⟩
  · rw [State.acct_of_setRing, State.acct_setAcct, hacct]
  · rw [State.acct_of_setRing, State.acct_setAcct_if, if_neg ha, hacct]
  · rw [State.ring_setRing]
    exact ⟨rfl, not_granted_of_postable hp, hhead, by rw [hframe]; rfl⟩

/-- An entry whose task is no longer ready leaves its account. -/
theorem ledgerRequestWithdraw_withdraws {s : State} {cl : Cl} {n : Rn} (ht : s.power.tripped = false)
    (hs : ((s.refreshRing cl n.val).ring cl n.val).readySince = none) (hp : (s.ring cl n.val).posted = true)
    (hg : (s.ring cl n.val).granted = false) :
    Done (.ledgerRequestWithdraw cl n) s fun t => let a := acctOf ((s.ring cl n.val).runsIn cl)
      (t.acct a).reqs = (s.acct a).reqs.filter (fun q => !(decide (q.cl = cl) && decide (q.ring = n.val))) ∧
      (t.acct a).credit = (s.acct a).credit ∧
      (t.ring cl n.val).posted = false ∧ (t.ring cl n.val).granted = false ∧ (t.ring cl n.val).target = none ∧
      (t.ring cl n.val).head = (s.ring cl n.val).head ∧ t = { s with rings := t.rings, accts := t.accts } := by
  have hacct (a : Nat) : (s.refreshRing cl n.val).acct a = s.acct a := acct_refreshRing ..
  obtain ⟨hposted, hgranted, htarget, hhead⟩ := refreshRing_place s cl n
  have hframe := refreshRing_only s cl n.val
  have hgo : exec (.ledgerRequestWithdraw cl n) s = .next ((s.refreshRing cl n.val).withdraw cl n.val) := by
    refine congrArg Host.Outcome.next (if_pos ⟨?_, hposted.trans hp, ?_, .inl (by rw [hs]; rfl)⟩)
    · rw [hframe, ht]
      rfl
    · rw [hgranted, hg]
      rfl
  generalize s.refreshRing cl n.val = u at *
  have hruns : (u.ring cl n.val).runsIn cl = (s.ring cl n.val).runsIn cl := by
    unfold Ring.runsIn
    rw [htarget]
  refine ⟨_, hgo, ?_⟩
  dsimp only
  rw [withdraw_posted (hposted.trans hp) (hgranted.trans hg), hruns, State.acct_of_setRing, State.acct_setAcct, State.ring_setRing, hacct]
  exact ⟨rfl, rfl, rfl, rfl, rfl, hhead, by rw [hframe]; rfl⟩

section
variable {s : State} {cl : Cl} {n : Rn} {d : BitVec 512} (ht : s.power.tripped = false) (hd : (s.ring cl n.val).candidate = some d)
  (hg : (s.ring cl n.val).granted = true) (hp : (s.ring cl n.val).posted = true)
include ht hd hg hp

/-- A grant that arrives is taken where the task is ready and its dispatcher acts, and is returned otherwise (R168). -/
theorem exec_ledgerGrant : exec (.ledgerGrant cl n) s = .next (
    if s.ready cl ((s.ring cl n.val).runsIn cl) d ∧ !(s.clu cl).dispStopped then s.setRing cl n.val { s.ring cl n.val with posted := false }
    else (s.withdraw cl n.val).refreshRing cl n.val) := by
  show execLedgerGrant cl n s = _
  unfold execLedgerGrant
  simp only [hd, hg, hp, ht, Bool.not_false, and_self, if_true]

theorem ledgerGrant_arrives (hready : s.ready cl ((s.ring cl n.val).runsIn cl) d = true) (hstop : (s.clu cl).dispStopped = false) :
    Done (.ledgerGrant cl n) s fun t => t.ring cl n.val = { s.ring cl n.val with posted := false } ∧
      (∀ cl' (n' : Rn), ¬(cl' = cl ∧ n' = n) → t.ring cl' n'.val = s.ring cl' n'.val) ∧ t = { s with rings := t.rings } := by
  refine ⟨_, (exec_ledgerGrant ht hd hg hp).trans (congrArg _ (if_pos ⟨hready, by rw [hstop]; rfl⟩)), State.ring_setRing .., fun cl' n' hne => ?_, rfl⟩
  rw [State.ring_setRing_if _ _ _ n.isLt n'.isLt, if_neg fun h => hne ⟨h.1, Fin.ext h.2⟩]

theorem ledgerGrant_returns (hready : s.ready cl ((s.ring cl n.val).runsIn cl) d = false) :
    Done (.ledgerGrant cl n) s fun t => let a := acctOf ((s.ring cl n.val).runsIn cl)
      (t.ring cl n.val).posted = false ∧ (t.ring cl n.val).granted = false ∧ (t.ring cl n.val).head = (s.ring cl n.val).head ∧
      (t.acct a).dues = (s.acct a).dues ++ [⟨0, declared (tEclass d), false, true, cl, n.val, tTaskId d⟩] ∧
      (t.acct a).credit = (s.acct a).credit ∧ t = { s with rings := t.rings, accts := t.accts } := by
  refine ⟨_, (exec_ledgerGrant ht hd hg hp).trans (congrArg _ (if_neg fun h => ?_)), ?_⟩
  · rw [hready] at h
    exact absurd h.1 (by decide)
  · obtain ⟨hacct, hposted, hgranted, hhead, hframe⟩ := withdraw_refunds hg hd
    generalize s.withdraw cl n.val = u at *
    obtain ⟨rp, rg, -, rh⟩ := refreshRing_place u cl n
    dsimp only
    rw [acct_refreshRing, hacct]
    exact ⟨rp.trans hposted, rg.trans hgranted, rh.trans hhead, rfl, rfl, by rw [refreshRing_only, hframe]⟩

end

/-- Settles O32: an entry that is posted, one that is withdrawn, and a grant that arrives or is returned, each by its lemma. -/
theorem ledgerRequestsComeAndGo : Obligations.LedgerRequestsComeAndGo := by
  unfold Obligations.LedgerRequestsComeAndGo
  intro s cl n d ht
  exact ⟨fun since tgt hd hs hp h4 hstop hold hw => ledgerRequestPost_posts ht hd hs hp h4 hstop hold (wouldRun_of_placement hw),
    ledgerRequestWithdraw_withdraws ht, fun hd hg hp => ⟨ledgerGrant_arrives ht hd hg hp, ledgerGrant_returns ht hd hg hp⟩⟩

end Sys2Proof.Machine

namespace Sys2Proof.Machine

open Sys2Proof

/-! ### Heat and clock steps (R174 to R177) -/

section
variable {s : State} {cl : Cl} {temp : Int}

/-- A sample above 95 °C raises the cluster's count of step-downs, and is counted unless the count stood at its most. -/
theorem exec_thermalSample_hot (h : 380 < temp) : ∃ k, exec (.thermalSample (.cluster cl) temp) s = .next
    { s.setClu cl { s.clu cl with temp := temp, therm := min 15 ((s.clu cl).therm + 1), coolRun := 0 } with
      power := { s.power with thermalStepdowns := k } } := by
  by_cases h15 : (s.clu cl).therm < 15
  · exact ⟨_, congrArg Host.Outcome.next ((if_pos h).trans (if_pos h15))⟩
  · exact ⟨s.power.thermalStepdowns, congrArg Host.Outcome.next ((if_pos h).trans (if_neg h15))⟩

theorem thermalSample_hot (h : 380 < temp) : Done (.thermalSample (.cluster cl) temp) s fun t =>
    t.clu cl = { s.clu cl with temp := temp, therm := min 15 ((s.clu cl).therm + 1), coolRun := 0 } ∧
    (∀ cl', cl' ≠ cl → t.clu cl' = s.clu cl') ∧ t = { s with clusters := t.clusters, power := t.power } ∧
    t.power = { s.power with thermalStepdowns := t.power.thermalStepdowns } := by
  obtain ⟨k, hk⟩ := exec_thermalSample_hot (s := s) (cl := cl) h
  exact ⟨_, hk, State.clu_setClu .., fun _ hne => (State.clu_setClu_if ..).trans (if_neg hne), rfl, rfl⟩

theorem thermalSample_notHot (h : temp ≤ 380) : Done (.thermalSample (.cluster cl) temp) s fun t =>
    t.clu cl = { s.clu cl with temp := temp, coolRun := if temp < 368 then (s.clu cl).coolRun + 1 else 0 } ∧ t = { s with clusters := t.clusters } :=
  ⟨_, congrArg Host.Outcome.next (if_neg h.not_gt), State.clu_setClu .., rfl⟩

theorem thermalStepRecover_lowers (h : 10 ≤ (s.clu cl).coolRun) : Done (.thermalStepRecover cl) s fun t =>
    t.clu cl = { s.clu cl with therm := (s.clu cl).therm - 1, coolRun := 0 } ∧ t = { s with clusters := t.clusters } :=
  ⟨_, congrArg Host.Outcome.next (if_pos h), State.clu_setClu .., rfl⟩

theorem thermalStepRecover_waits (h : (s.clu cl).coolRun < 10) : exec (.thermalStepRecover cl) s = .next s :=
  congrArg Host.Outcome.next (if_neg h.not_ge)

end

/-- R174: the least of the clocks' ceilings and of what heat and the guard leave of step 15. -/
theorem clockStepChange_steps (s : State) (cl : Cl) : Done (.clockStepChange cl) s fun t => t.clu cl = { s.clu cl with
      step := min (min (s.obj 0x4001 1) (if s.clPart cl < 16 then s.obj 0x4010 (s.clPart cl + 1) else 15)) (15 - (s.clu cl).therm - s.power.g) } ∧
    (∀ cl', cl' ≠ cl → t.clu cl' = s.clu cl') ∧ t = { s with clusters := t.clusters } :=
  ⟨_, rfl, State.clu_setClu .., fun _ hne => (State.clu_setClu_if ..).trans (if_neg hne), rfl⟩

/-- A fold that rewrites each cluster of a list by a function of its own state. -/
theorem clu_foldl_setClu (f : Cluster → Cluster) (l : List Cl) (hl : l.Nodup) (s : State) (cl : Cl) :
    (l.foldl (fun s cl => s.setClu cl (f (s.clu cl))) s).clu cl = if cl ∈ l then f (s.clu cl) else s.clu cl := by
  induction l generalizing s with
  | nil => rfl
  | cons a l ih =>
    obtain ⟨ha, hl⟩ := List.nodup_cons.1 hl
    rw [List.foldl_cons, ih hl, State.clu_setClu_if]
    by_cases h : cl = a
    · subst h
      simp [ha]
    · simp [h]

/-- What of the state a change of clusters leaves alone. -/
theorem foldl_setClu_only (f : Cluster → Cluster) (l : List Cl) (s : State) :
    ∃ x, l.foldl (fun s cl => s.setClu cl (f (s.clu cl))) s = { s with clusters := x } :=
  foldl_inv (p := fun t : State => ∃ x, t = { s with clusters := x }) l s ⟨s.clusters, rfl⟩ fun t cl _ ht => by
    obtain ⟨x, rfl⟩ := ht
    exact ⟨_, rfl⟩

theorem mem_allCl (cl : Cl) : cl ∈ allCl := List.mem_finRange cl

/-- Every island held, as a trip leaves them (R177). -/
def State.heldIslands (s : State) : State := allCl.foldl (fun s cl => s.setClu cl { s.clu cl with isl := .held }) s

theorem heldIslands_spec (s : State) : (∀ cl, (s.heldIslands.clu cl).isl = .held) ∧ ∃ x, s.heldIslands = { s with clusters := x } := by
  refine ⟨fun cl => ?_, foldl_setClu_only (fun v => { v with isl := .held }) allCl s⟩
  have h := clu_foldl_setClu (fun v => { v with isl := .held }) allCl (List.nodup_finRange 256) s cl
  rw [if_pos (mem_allCl cl)] at h
  exact congrArg Cluster.isl h

theorem logCount_logEvent (s : State) (type part unit step detail aux : Nat) :
    (s.logEvent type part unit step detail aux).mgmt.logCount = (s.mgmt.logCount + 1) % 2 ^ 32 := rfl

/-- The trip latched, and its pin driven low. -/
def State.latchTrip (s : State) : State :=
  { s with power := { s.power with tripped := true }, pins := { s.pins with thermtripN := false } }

theorem clu_latchTrip (s : State) (cl : Cl) : s.latchTrip.clu cl = s.clu cl := rfl

/-- A trip is recorded, holds every island, and is latched. -/
theorem exec_thermalTrip {s : State} {temp : Int} (r : Sensor) (h : 440 ≤ temp) (ht : s.power.tripped = false) :
    ∃ unit detail aux, exec (.thermalTrip r temp) s = .next (s.fresh.2.logEvent 0x85 0xFF unit 0 detail aux).heldIslands.latchTrip := by
  have hgo : ¬(temp < 440 ∨ s.power.tripped = true) := by
    rw [ht]
    exact fun k => k.elim h.not_gt (by decide)
  exact ⟨_, _, _, congrArg Host.Outcome.next (if_neg hgo)⟩

theorem thermalTrip_trips {s : State} {temp : Int} (r : Sensor) (h : 440 ≤ temp) (ht : s.power.tripped = false) :
    Done (.thermalTrip r temp) s fun t => t.power.tripped = true ∧ t.pins.thermtripN = false ∧
      (∀ cl, (t.clu cl).isl = .held) ∧ t.mgmt.logCount = (s.mgmt.logCount + 1) % 2 ^ 32 ∧ t.cores = s.cores ∧ t.rings = s.rings := by
  obtain ⟨unit, detail, aux, hexec⟩ := exec_thermalTrip r h ht
  obtain ⟨hisl, x, hx⟩ := heldIslands_spec (s.fresh.2.logEvent 0x85 0xFF unit 0 detail aux)
  refine ⟨_, hexec, rfl, rfl, fun cl => (congrArg Cluster.isl (clu_latchTrip _ cl)).trans (hisl cl), ?_⟩
  rw [hx]
  exact ⟨logCount_logEvent .., rfl, rfl⟩

theorem thermalTrip_none {s : State} {temp : Int} (r : Sensor) (h : temp < 440 ∨ s.power.tripped = true) :
    exec (.thermalTrip r temp) s = .next s := congrArg Host.Outcome.next (if_pos h)

/-! ### Measured energy (R160 to R162) -/

/-- Nothing but an account's background has grown, by e. -/
def AddsBackground (a e : Nat) (s t : State) : Prop :=
  t = { s with accts := t.accts } ∧ ∀ b, t.acct b = if b = a then { s.acct b with background := (s.acct b).background + e } else s.acct b

theorem addsBackground_zero (a : Nat) (s : State) : AddsBackground a 0 s s := ⟨rfl, fun _ => (ite_self _).symm⟩

theorem AddsBackground.trans {a e e' : Nat} {s t u : State} (h : AddsBackground a e s t) (h' : AddsBackground a e' t u) :
    AddsBackground a (e + e') s u := by
  obtain ⟨hframe, hacct⟩ := h
  obtain ⟨hframe', hacct'⟩ := h'
  refine ⟨by rw [hframe', hframe], fun b => ?_⟩
  rw [hacct', hacct]
  split
  · rw [Nat.add_assoc]
  · rfl

theorem addBackground_adds (s : State) (a e : Nat) : AddsBackground a e s (s.addBackground a e) := by
  refine ⟨rfl, fun b => ?_⟩
  unfold State.addBackground
  rw [State.acct_setAcct_if]
  split
  · next h => rw [h]
  · rfl

/-- A core that serves no remap bears the name of its place. -/
theorem servedName_own {e : BitVec 16} (he : mapState e ≠ 4) (cl : Cl) (c : Cn) : servedName (12 * cl.val + c.val) e = (cl, c) := by
  refine (if_neg he).trans (Prod.ext (Fin.ext ?_) (Fin.ext ?_))
  · show (12 * cl.val + c.val) / 12 % 256 = cl.val
    omega
  · show (12 * cl.val + c.val) % 12 % 12 = c.val
    omega

/-- What a counted core that tests nothing and holds no task has used is background (R161, R162). -/
theorem bookPart_idle {s : State} {cl : Cl} {c : Cn} (he : mapState (s.mapEntry (12 * cl.val + c.val)) ≠ 4)
    (ht : (s.phy (12 * cl.val + c.val)).testing = false) (hk : (s.core cl c).task = none) (part : Nat) :
    s.bookPart (12 * cl.val + c.val) part = s.addBackground (acctOf cl) part := by
  unfold State.bookPart
  simp only [servedName_own he, ht, hk, Bool.false_eq_true, if_false]

/-- What a core that holds a task has used is the task's (R160, R161). -/
theorem bookPart_task {s : State} {cl : Cl} {c : Cn} (he : mapState (s.mapEntry (12 * cl.val + c.val)) ≠ 4)
    (ht : (s.phy (12 * cl.val + c.val)).testing = false) {key : Nat} {r : TaskRun} (hk : (s.core cl c).task = some key)
    (hr : find (s.clu cl).tasks key = some r) (part : Nat) : s.bookPart (12 * cl.val + c.val) part =
      s.setClu cl { s.clu cl with tasks := ins (s.clu cl).tasks key { r with energy := r.energy + part } } := by
  unfold State.bookPart
  simp only [servedName_own he, ht, hk, hr, Bool.false_eq_true, if_false]

/-- A core that is enabled, tests nothing and holds no task. -/
def State.IdleCore (s : State) (cl : Cl) (c : Cn) : Prop :=
  s.mapEntry (12 * cl.val + c.val) = 0 ∧ (s.phy (12 * cl.val + c.val)).testing = false ∧ (s.core cl c).task = none

/-- The cores of a cluster that are counted in its rail (R161), by number. -/
def State.countedIn (s : State) (cl : Cl) : List Nat := ((List.range 12).map fun c => 12 * cl.val + c).filter s.counted

/-- The cluster's array energy of a sample, booked in equal parts on its counted cores (R161). -/
def State.bookRail (s : State) (cl : Cl) (arr : Nat) : State :=
  (s.countedIn cl).foldl (fun u i => u.bookPart i (arr / (s.countedIn cl).length)) s

/-- The rail of the cluster itself is booked, and the cluster holds both readings (R162). -/
def State.railsRead (s : State) (cl : Cl) (arr vcl : Nat) : State :=
  let u := s.addBackground (acctOf cl) vcl
  u.setClu cl { u.clu cl with vddArr := arr, vddCl := vcl }

theorem exec_monitorSample_cluster (s : State) (cl : Cl) (arr vcl : Nat) :
    exec (.monitorSample (.cluster cl arr vcl)) s = .next ((s.bookRail cl arr).railsRead cl arr vcl) := by
  unfold State.bookRail State.countedIn State.railsRead
  rfl

section
variable {s : State} {cl : Cl} {arr vcl : Nat}

theorem railsRead_spec : let t := s.railsRead cl arr vcl
    t.clu cl = { s.clu cl with vddArr := arr, vddCl := vcl } ∧
    (∀ b, t.acct b = if b = acctOf cl then { s.acct b with background := (s.acct b).background + vcl } else s.acct b) ∧
    t = { s with clusters := t.clusters, accts := t.accts } :=
  ⟨State.clu_setClu .., (addBackground_adds s (acctOf cl) vcl).2, rfl⟩

/-- Idle cores of a list book their parts to their account's background. -/
theorem foldl_bookPart_idle (h : ∀ c : Cn, s.IdleCore cl c) (part : Nat) (l : List Nat) (hl : ∀ i ∈ l, ∃ c : Cn, i = 12 * cl.val + c.val) :
    AddsBackground (acctOf cl) (l.length * part) s (l.foldl (fun u i => u.bookPart i part) s) := by
  induction l generalizing s with
  | nil =>
    rw [List.length_nil, Nat.zero_mul]
    exact addsBackground_zero ..
  | cons i l ih =>
    obtain ⟨c, rfl⟩ := hl i List.mem_cons_self
    obtain ⟨he, ht, hk⟩ := h c
    have hmap : mapState (s.mapEntry (12 * cl.val + c.val)) ≠ 4 := by
      rw [he]
      decide
    rw [List.foldl_cons, bookPart_idle hmap ht hk, List.length_cons, Nat.succ_mul, Nat.add_comm]
    exact (addBackground_adds ..).trans (ih h fun j hj => hl j (List.mem_cons_of_mem _ hj))

/-- A cluster all of whose cores are idle: its array energy is background, but for what twelve parts leave over (log 12). -/
theorem monitorSample_idle (h : ∀ c : Cn, s.IdleCore cl c) : Done (.monitorSample (.cluster cl arr vcl)) s fun t =>
    t.acct (acctOf cl) = { s.acct (acctOf cl) with background := (s.acct (acctOf cl)).background + 12 * (arr / 12) + vcl } ∧
    (∀ a, a ≠ acctOf cl → t.acct a = s.acct a) ∧ t.clu cl = { s.clu cl with vddArr := arr, vddCl := vcl } ∧
    t = { s with clusters := t.clusters, accts := t.accts } := by
  have hall : s.countedIn cl = (List.range 12).map fun c => 12 * cl.val + c := by
    refine List.filter_eq_self.2 fun i hi => ?_
    obtain ⟨c, hc, rfl⟩ := List.mem_map.1 hi
    obtain ⟨he, -, -⟩ := h ⟨c, List.mem_range.1 hc⟩
    unfold State.counted
    rw [show s.mapEntry (12 * cl.val + c) = 0 from he]
    rfl
  obtain ⟨hframe, hacct⟩ := foldl_bookPart_idle h (arr / (s.countedIn cl).length) (s.countedIn cl) fun i hi => by
    rw [hall] at hi
    obtain ⟨c, hc, rfl⟩ := List.mem_map.1 hi
    exact ⟨⟨c, List.mem_range.1 hc⟩, rfl⟩
  have hlen : (s.countedIn cl).length = 12 := by rw [hall, List.length_map, List.length_range]
  rw [hlen] at hacct hframe
  refine ⟨_, exec_monitorSample_cluster .., ?_⟩
  unfold State.bookRail
  rw [hlen]
  generalize (s.countedIn cl).foldl (fun u i => u.bookPart i (arr / 12)) s = u at *
  obtain ⟨hclu, hrail, honly⟩ := railsRead_spec (s := u) (cl := cl) (arr := arr) (vcl := vcl)
  refine ⟨?_, fun a ha => ?_, ?_, ?_⟩
  · rw [hrail, if_pos rfl, hacct, if_pos rfl]
  · rw [hrail, if_neg ha, hacct, if_neg ha]
  · rw [hclu, hframe]
    rfl
  · rw [honly, hframe]

/-- One core of the cluster is counted, and the others are retired. -/
theorem countedIn_one {one : Cn} (he : s.mapEntry (12 * cl.val + one.val) = 0)
    (ho : ∀ c : Cn, c ≠ one → mapState (s.mapEntry (12 * cl.val + c.val)) = 3 ∧ (s.phy (12 * cl.val + c.val)).testing = false) :
    s.countedIn cl = [12 * cl.val + one.val] := by
  have hcount : ∀ c ∈ List.range 12, (s.counted ∘ fun c => 12 * cl.val + c) c = decide (c = one.val) := by
    intro c hc
    unfold Function.comp State.counted
    by_cases h : c = one.val
    · rw [h, he]
      exact (decide_eq_true rfl).symm
    · obtain ⟨h3, ht⟩ := ho ⟨c, List.mem_range.1 hc⟩ fun e => h (congrArg Fin.val e)
      dsimp only at h3 ht
      dsimp only
      rw [h3, ht, decide_eq_false h]
      rfl
  have hone : ∀ one : Cn, (List.range 12).filter (fun c => decide (c = one.val)) = [one.val] := by decide
  unfold State.countedIn
  rw [List.filter_map, List.filter_congr hcount, hone]
  rfl

/-- A cluster with one counted core: its array energy is the task's that holds the core. -/
theorem monitorSample_task {key : Nat} {r : TaskRun} {one : Cn} (he : s.mapEntry (12 * cl.val + one.val) = 0)
    (ht : (s.phy (12 * cl.val + one.val)).testing = false)
    (ho : ∀ c : Cn, c ≠ one → mapState (s.mapEntry (12 * cl.val + c.val)) = 3 ∧ (s.phy (12 * cl.val + c.val)).testing = false)
    (hk : (s.core cl one).task = some key) (hr : find (s.clu cl).tasks key = some r) :
    Done (.monitorSample (.cluster cl arr vcl)) s fun t =>
      find (t.clu cl).tasks key = some { r with energy := r.energy + arr } ∧
      (t.acct (acctOf cl)).background = (s.acct (acctOf cl)).background + vcl ∧ t = { s with clusters := t.clusters, accts := t.accts } := by
  have hmap : mapState (s.mapEntry (12 * cl.val + one.val)) ≠ 4 := by
    rw [he]
    decide
  have hbook : s.bookRail cl arr = s.setClu cl { s.clu cl with tasks := ins (s.clu cl).tasks key { r with energy := r.energy + arr } } := by
    unfold State.bookRail
    rw [countedIn_one he ho, List.foldl_cons, List.foldl_nil, List.length_singleton, Nat.div_one, bookPart_task hmap ht hk hr]
  refine ⟨_, exec_monitorSample_cluster .., ?_⟩
  obtain ⟨hclu, hrail, honly⟩ := railsRead_spec (s := s.bookRail cl arr) (cl := cl) (arr := arr) (vcl := vcl)
  rw [hbook] at *
  refine ⟨?_, ?_, honly⟩
  · rw [hclu, State.clu_setClu]
    exact find_ins_same ..
  · rw [hrail, if_pos rfl]
    rfl

end

/-- The channel under a cluster belongs to the cluster's granule (R16, R162). -/
theorem chanAcct_chanOf (cl : Cl) : chanAcct (chanOf cl) = acctOf cl := by
  unfold chanAcct chanOf acctOf granOf dieOf xOf yOf
  omega

theorem monitorSample_channel (s : State) (ch : Ch) (e : Nat) : Done (.monitorSample (.channel ch e)) s fun t =>
    (∀ cl, chanOf cl = ch.val → (t.acct (acctOf cl)).background = (s.acct (acctOf cl)).background + e) ∧ t = { s with accts := t.accts } := by
  obtain ⟨hframe, hacct⟩ := addBackground_adds s (chanAcct ch.val) e
  refine ⟨_, rfl, fun cl hcl => ?_, hframe⟩
  rw [hacct, if_pos (by rw [← hcl, chanAcct_chanOf])]

/-- A fold that rewrites each account of a list by a function of its own state alone. -/
theorem acct_foldl_setAcct {s : State} {g : State → Nat → State} {f : Nat → Acct → Acct}
    (hg : ∀ x a, g { s with accts := x } a = { s with accts := x }.setAcct a (f a ({ s with accts := x }.acct a))) (l : List Nat) (hl : l.Nodup) :
    l.foldl g s = { s with accts := (l.foldl g s).accts } ∧ ∀ b, (l.foldl g s).acct b = if b ∈ l then f b (s.acct b) else s.acct b := by
  induction l generalizing s with
  | nil => exact ⟨rfl, fun _ => rfl⟩
  | cons a l ih =>
    obtain ⟨ha, hl⟩ := List.nodup_cons.1 hl
    have hstep : g s a = s.setAcct a (f a (s.acct a)) := hg s.accts a
    rw [List.foldl_cons, hstep]
    obtain ⟨hframe, hacct⟩ := ih (s := s.setAcct a (f a (s.acct a))) hg hl
    refine ⟨hframe, fun b => ?_⟩
    rw [hacct, State.acct_setAcct_if]
    by_cases h : b = a
    · subst h
      simp [ha]
    · simp [h]

theorem monitorSample_fabric (s : State) (d : Dn) (e : Nat) : Done (.monitorSample (.fabric d e)) s fun t =>
    (∀ q, q < 4 → t.acct (4 * d.val + q) = { s.acct (4 * d.val + q) with background := (s.acct (4 * d.val + q)).background + e / 4 }) ∧
    t = { s with accts := t.accts } := by
  have hnodup : ((List.range 4).map fun q => 4 * d.val + q).Nodup := List.nodup_range.map fun _ _ => Nat.add_left_cancel
  obtain ⟨hframe, hacct⟩ := acct_foldl_setAcct (s := s) (g := fun u a => u.addBackground a (e / 4))
    (f := fun _ v => { v with background := v.background + e / 4 }) (fun _ _ => rfl) _ hnodup
  rw [List.foldl_map] at hframe hacct
  exact ⟨_, rfl, fun q hq => (hacct _).trans (if_pos (List.mem_map.2 ⟨q, List.mem_range.2 hq, rfl⟩)), hframe⟩

/-- Settles O35: each clause by the lemma on its sensor or its rail. -/
theorem heatAndMeasuredEnergy : Obligations.HeatAndMeasuredEnergy := by
  unfold Obligations.HeatAndMeasuredEnergy
  refine ⟨fun s => ⟨fun cl temp => ⟨thermalSample_hot, thermalSample_notHot, thermalStepRecover_lowers, thermalStepRecover_waits,
      clockStepChange_steps s cl⟩, fun r temp => ⟨thermalTrip_trips r, thermalTrip_none r⟩⟩,
    fun s => ⟨fun _ _ _ => monitorSample_idle, fun _ _ _ _ _ _ => monitorSample_task, monitorSample_channel s, monitorSample_fabric s⟩⟩

end Sys2Proof.Machine

namespace Sys2Proof.Machine

open Sys2Proof

/-! ### The order of the request tables (R167) -/

/-- Entries of which one comes before the other are not in the other order too. -/
theorem LReq.before_asymm {p q : LReq} (h : p.before q = true) : q.before p = false := by
  unfold LReq.before at *
  rw [Bool.eq_false_iff]
  simp only [ne_eq, Bool.or_eq_true, Bool.and_eq_true, decide_eq_true_eq] at *
  omega

theorem mem_insReq {q x : LReq} {l : List LReq} : x ∈ insReq q l ↔ x = q ∨ x ∈ l := by
  induction l with
  | nil => simp [insReq]
  | cons y l ih =>
    unfold insReq
    split
    · exact List.mem_cons
    · rw [List.mem_cons, List.mem_cons, ih]
      tauto

theorem mem_sortReqs {x : LReq} {l : List LReq} : x ∈ sortReqs l ↔ x ∈ l := by
  have h : ∀ (l acc : List LReq), x ∈ l.foldl (fun a q => insReq q a) acc ↔ x ∈ l ∨ x ∈ acc := by
    intro l
    induction l with
    | nil => simp
    | cons q l ih =>
      intro acc
      rw [List.foldl_cons, ih, mem_insReq, List.mem_cons]
      tauto
  rw [sortReqs, h]
  simp

/-- An entry that comes before every other stays in front when another is put in its place, and goes to the front itself. -/
theorem head_insReq {q x : LReq} {l : List LReq} (hx : x ≠ q → q.before x = true) (hl : ∀ y ∈ l, y ≠ q → q.before y = true)
    (h : x = q ∨ l.head? = some q) : (insReq x l).head? = some q := by
  cases l with
  | nil => exact congrArg some (h.resolve_right nofun)
  | cons y l =>
    unfold insReq
    split
    · next hb =>
      by_contra hne
      have hxq : x ≠ q := fun e => hne (congrArg some e)
      have hy : y = q := Option.some.inj (h.resolve_left hxq)
      rw [hy, LReq.before_asymm (hx hxq)] at hb
      exact absurd hb (by decide)
    · next hb =>
      by_contra hne
      have hyq : y ≠ q := fun e => hne (congrArg some e)
      obtain rfl | h := h
      · exact hb (hl y List.mem_cons_self hyq)
      · exact hne h

/-- An entry that comes before every other stands first in the order of R167. -/
theorem head_sortReqs {q : LReq} {l : List LReq} (hq : q ∈ l) (h : ∀ x ∈ l, x ≠ q → q.before x = true) : (sortReqs l).head? = some q := by
  have key : ∀ (l acc : List LReq), (∀ x ∈ l, x ≠ q → q.before x = true) → (∀ x ∈ acc, x ≠ q → q.before x = true) →
      (q ∈ l ∨ acc.head? = some q) → (l.foldl (fun a x => insReq x a) acc).head? = some q := by
    intro l
    induction l with
    | nil => exact fun _ _ _ h => h.resolve_left nofun
    | cons x l ih =>
      intro acc hl hacc hq
      have hx := hl x List.mem_cons_self
      refine ih _ (fun y hy => hl y (List.mem_cons_of_mem _ hy)) (fun y hy => ?_) ?_
      · obtain rfl | hy := mem_insReq.1 hy
        · exact hx
        · exact hacc y hy
      · by_cases hql : q ∈ l
        · exact .inl hql
        · refine .inr (head_insReq hx hacc (hq.imp_left fun hm => ?_))
          exact ((List.mem_cons.1 hm).resolve_right hql).symm
  exact key l [] h nofun (.inl hq)

section
variable {s : State} {v : Acct} {q : LReq} (hq : q ∈ v.reqs) (hfirst : ∀ x ∈ v.reqs, x ≠ q → q.before x = true)
include hq hfirst

theorem sortReqs_eq_cons : ∃ l, sortReqs v.reqs = q :: l := List.head?_eq_some_iff.1 (head_sortReqs hq hfirst)

/-- While no entry is 1,000 µs old, the oldest is admitted where the credit allows it. -/
theorem admits_young (hage : ∀ x ∈ v.reqs, s.now - x.ready < 1000) (hc : (declared q.eclass : Int) ≤ v.credit) :
    s.admits v = some (q, false) := by
  have hnone : (sortReqs v.reqs).find? (fun q => decide (1000 ≤ s.now - q.ready)) = none :=
    List.find?_eq_none.2 fun x hx => by simpa using hage x (mem_sortReqs.1 hx)
  obtain ⟨l, hl⟩ := sortReqs_eq_cons hq hfirst
  unfold State.admits
  dsimp only
  rw [hnone, hl]
  simp only [List.find?_cons, hc, decide_true, Option.map_some]

/-- From 1,000 µs of age the oldest entry goes first, and waits for a credit that is not negative. -/
theorem admits_starving (hage : 1000 ≤ s.now - q.ready) : s.admits v = if 0 ≤ v.credit then some (q, true) else none := by
  obtain ⟨l, hl⟩ := sortReqs_eq_cons hq hfirst
  unfold State.admits
  dsimp only
  rw [hl]
  simp only [List.find?_cons, hage, decide_true]

end

/-! ### Cycles of the ledger (R165, R167, R171) -/

/-- An account that has admitted an entry, by the starvation guard or not. -/
def Acct.admitted (v : Acct) (q : LReq) (guard : Bool) : Acct := { v with
  credit := max creditMin (v.credit - declared q.eclass)
  reqs := v.reqs.filter fun x => x ≠ q
  admissions := v.admissions + 1
  guardAdmits := if guard then v.guardAdmits + 1 else v.guardAdmits }

/-- Account a with every due applied. -/
def State.settled (s : State) (a : Nat) : State := (s.acct a).dues.foldl (fun s u => s.applyDue a u) (s.setAcct a { s.acct a with dues := [] })

/-- What a due changes a credit by (R165). -/
def TrueUp.change (u : TrueUp) : Int := if u.refund then (u.d : Int) else if u.selftest then -(u.em : Int) else u.d - u.em

/-- Whether a task's end counts as under-declared (R171). -/
def TrueUp.under (u : TrueUp) : Bool := if u.d = 0 then decide (256 < u.em) else decide (5 * u.d < 4 * u.em)

/-- The score after the end of a task (R171). -/
def TrueUp.scored (u : TrueUp) (score : Nat) : Nat := if u.under then score + 4 else score - 1

theorem TrueUp.under_iff (u : TrueUp) : u.under = true ↔ (u.d = 0 ∧ 256 < u.em) ∨ (u.d ≠ 0 ∧ 5 * u.d < 4 * u.em) := by
  unfold TrueUp.under
  split <;> simp [*]

/-- The account that is under-declared starts its score again, and the home's steward core is told (R171). -/
def State.reportUnder (s : State) (a : Nat) (u : TrueUp) : State :=
  let t := s.setAcct a { (s.acct a).addCredit u.change with score := 0 }
  { t with power := { t.power with underDeclared := sat32 t.power.underDeclared 1 } }.pushEv u.home
    (evRecord 0x08 u.taskId (unitName u.home 0x10) [a, u.ring, u.d, u.em])

theorem reportUnder_spec (s : State) (a : Nat) (u : TrueUp) : let t := s.reportUnder a u
    (t.acct a).score = 0 ∧ t.power.underDeclared = min (s.power.underDeclared + 1) 4294967295 ∧
    ((s.stew u.home).evq.length < 32 → (t.stew u.home).evq =
      (s.stew u.home).evq ++ [evRecord 0x08 u.taskId (unitName u.home 0x10) [a, u.ring, u.d, u.em]]) := by
  unfold State.reportUnder
  dsimp only
  refine ⟨?_, rfl, fun h => pushEv_evq ?_ _⟩
  · rw [State.acct_of_pushEv]
    exact congrArg Acct.score (State.acct_setAcct ..)
  · exact h

section
variable (s : State) (a : Nat) {u : TrueUp}

theorem applyDue_unscored (h : u.refund = true ∨ u.selftest = true) : s.applyDue a u = s.setAcct a ((s.acct a).addCredit u.change) := by
  unfold State.applyDue TrueUp.change
  cases hr : u.refund with
  | true => rfl
  | false =>
    rw [h.resolve_left (by rw [hr]; decide)]
    rfl

theorem applyDue_scored (hr : u.refund = false) (hs : u.selftest = false) : s.applyDue a u =
    if 64 ≤ u.scored (s.acct a).score then s.reportUnder a u
    else s.setAcct a { (s.acct a).addCredit u.change with score := u.scored (s.acct a).score } := by
  unfold State.applyDue State.reportUnder TrueUp.change TrueUp.scored TrueUp.under
  rw [hr, hs]
  rfl

/-- A due that keeps the score below 64 changes the credit and the score of its account, and nothing else. -/
theorem applyDue_quiet (h : (s.acct a).score < 60) : s.applyDue a u = s.setAcct a { (s.acct a).addCredit u.change with
    score := if u.refund ∨ u.selftest then (s.acct a).score else u.scored (s.acct a).score } := by
  by_cases hu : u.refund = true ∨ u.selftest = true
  · rw [applyDue_unscored s a hu, if_pos hu]
    rfl
  · obtain ⟨hr, hs⟩ := not_or.1 hu
    rw [applyDue_scored s a (Bool.eq_false_iff.2 hr) (Bool.eq_false_iff.2 hs), if_neg hu, if_neg]
    unfold TrueUp.scored
    split <;> omega

end

theorem acct_setAcct_self (s : State) (a b : Nat) : (s.setAcct a (s.acct a)).acct b = s.acct b := by
  rw [State.acct_setAcct_if]
  split
  · next h => rw [h]
  · rfl

theorem settled_nil {s : State} {a : Nat} (h : (s.acct a).dues = []) : s.settled a = s.setAcct a (s.acct a) := by
  unfold State.settled
  rw [h, List.foldl_nil]
  congr 1
  rw [← h]

theorem settled_one {s : State} {a : Nat} {u : TrueUp} (h : (s.acct a).dues = [u]) :
    s.settled a = (s.setAcct a { s.acct a with dues := [] }).applyDue a u := by
  unfold State.settled
  rw [h]
  rfl

/-- Dues leave the guard's hold and the trip latch alone. -/
theorem settled_latches (s : State) (a : Nat) : ((s.settled a).power.hold, (s.settled a).power.tripped) = (s.power.hold, s.power.tripped) := by
  refine foldl_proj (g := fun t : State => (t.power.hold, t.power.tripped)) _ _ fun t u => ?_
  by_cases hu : u.refund = true ∨ u.selftest = true
  · rw [applyDue_unscored t a hu]
    rfl
  · obtain ⟨hr, hs⟩ := not_or.1 hu
    rw [applyDue_scored t a (Bool.eq_false_iff.2 hr) (Bool.eq_false_iff.2 hs)]
    split <;> rfl

section
variable {s : State} {a : Ac} (ht : s.power.tripped = false)
include ht

theorem exec_ledgerCycle : exec (.ledgerCycle a) s = .next (let u := s.settled a.val
    if u.power.hold ∨ u.power.tripped then u
    else match u.admits (u.acct a.val) with
      | none => u
      | some (q, guard) => (u.setAcct a.val ((u.acct a.val).admitted q guard)).setRing q.cl q.ring
          { u.ring q.cl q.ring with granted := true, grantAge := u.now - q.ready }) := by
  show execLedgerCycle a s = _
  unfold execLedgerCycle
  simp only [ht, Bool.false_eq_true, if_false]
  rfl

/-- While the guard holds admission a cycle only applies dues. -/
theorem exec_ledgerCycle_held (hh : s.power.hold = true) : exec (.ledgerCycle a) s = .next (s.settled a.val) :=
  (exec_ledgerCycle ht).trans (congrArg Host.Outcome.next (if_pos (.inl ((congrArg Prod.fst (settled_latches s a.val)).trans hh))))

section
variable (hh : s.power.hold = false) (hd : (s.acct a.val).dues = [])
include hh hd

theorem exec_ledgerCycle_open : exec (.ledgerCycle a) s = .next (match s.admits (s.acct a.val) with
    | none => s.setAcct a.val (s.acct a.val)
    | some (q, guard) => ((s.setAcct a.val (s.acct a.val)).setAcct a.val ((s.acct a.val).admitted q guard)).setRing q.cl q.ring
        { s.ring q.cl q.ring with granted := true, grantAge := s.now - q.ready }) := by
  rw [exec_ledgerCycle ht]
  dsimp only
  rw [settled_nil hd, acct_setAcct_self, if_neg]
  · rfl
  · show ¬(s.power.hold = true ∨ s.power.tripped = true)
    rw [hh, ht]
    decide

/-- An account that admits an entry is charged for it, and the entry's ring has its grant. -/
theorem ledgerCycle_admits {q : LReq} {guard : Bool} (ha : s.admits (s.acct a.val) = some (q, guard)) : Done (.ledgerCycle a) s fun t =>
    t.acct a.val = (s.acct a.val).admitted q guard ∧
    t.ring q.cl q.ring = { s.ring q.cl q.ring with granted := true, grantAge := s.now - q.ready } ∧
    (∀ b, b ≠ a.val → t.acct b = s.acct b) ∧ t = { s with rings := t.rings, accts := t.accts } := by
  refine ⟨_, exec_ledgerCycle_open ht hh hd, ?_⟩
  rw [ha]
  dsimp only
  refine ⟨State.acct_setAcct .., State.ring_setRing .., fun b hb => ?_, rfl⟩
  rw [State.acct_of_setRing, State.acct_setAcct_if, if_neg hb, acct_setAcct_self]

theorem ledgerCycle_admits_none (ha : s.admits (s.acct a.val) = none) : Done (.ledgerCycle a) s fun t =>
    t.acct a.val = s.acct a.val ∧ t = { s with accts := t.accts } := by
  refine ⟨_, exec_ledgerCycle_open ht hh hd, ?_⟩
  rw [ha]
  exact ⟨State.acct_setAcct .., rfl⟩

end

section
variable {u : TrueUp} (hd : (s.acct a.val).dues = [u]) (hh : s.power.hold = true)
include hd hh

/-- A due below the score's limit: the credit is corrected between its least and its cap (R164, R165). -/
theorem ledgerCycle_trueUp (hs : (s.acct a.val).score < 60) : Done (.ledgerCycle a) s fun t =>
    t.acct a.val = { ({ s.acct a.val with dues := [] } : Acct).addCredit u.change with
      score := if u.refund ∨ u.selftest then (s.acct a.val).score else u.scored (s.acct a.val).score } ∧ t = { s with accts := t.accts } := by
  refine ⟨_, exec_ledgerCycle_held ht hh, ?_⟩
  rw [settled_one hd, applyDue_quiet _ _ (by rw [State.acct_setAcct]; exact hs), State.acct_setAcct]
  exact ⟨State.acct_setAcct .., rfl⟩

/-- The end that takes the score to 64 starts it again, is counted, and is told to the home's steward core (R171). -/
theorem ledgerCycle_reports (hr : u.refund = false) (hself : u.selftest = false) (h0 : u.d ≠ 0) (hu : 5 * u.d < 4 * u.em)
    (hs : 60 ≤ (s.acct a.val).score) : Done (.ledgerCycle a) s fun t => (t.acct a.val).score = 0 ∧
      t.power.underDeclared = min (s.power.underDeclared + 1) 4294967295 ∧
      ((s.stew u.home).evq.length < 32 → (t.stew u.home).evq = (s.stew u.home).evq ++ [evRecord 8 u.taskId (unitName u.home 16) [a.val, u.ring, u.d, u.em]]) := by
  have hscore : 64 ≤ u.scored (s.acct a.val).score := by
    unfold TrueUp.scored
    rw [if_pos (u.under_iff.2 (.inr ⟨h0, hu⟩))]
    omega
  refine ⟨_, exec_ledgerCycle_held ht hh, ?_⟩
  rw [settled_one hd, applyDue_scored _ _ hr hself, if_pos (by rw [State.acct_setAcct]; exact hscore)]
  exact reportUnder_spec (s.setAcct a.val { s.acct a.val with dues := [] }) a.val u

end

end

/-! ### Refills (R158, R164, R170) -/

/-- An account after a refill at share S (in units that its argument names) that counts towards starvation or not. -/
def Acct.refilled (v : Acct) (S : Nat → Nat) (counts : Bool) : Acct :=
  let net : Int := (S 640 : Int) - (v.background : Int)
  let starved := if !counts then v.starved else if net ≤ 0 then v.starved + 1 else 0
  ({ v with
    share := S 250, cap := S 6400, background := 0, lastNet := net
    starved := if starved ≥ 100 then 0 else starved, starvedDue := v.starvedDue || decide (starved ≥ 100) } : Acct).addCredit net

/-- Whether an account's granule has an owner with a run (R170). -/
def State.countsStarved (s : State) (a : Nat) : Bool := s.granOwner a < 16 && s.hasRun (s.granOwner a)

theorem refill_eq (s : State) (a : Nat) :
    s.refill a = s.setAcct a ((s.acct a).refilled (s.shareOf (a / 4)) (s.countsStarved a)) := rfl

section
variable {v : Acct} {S : Nat → Nat} (hs : v.starved < 100)
include hs

theorem starved_refilled_uncounted : (v.refilled S false).starved = v.starved := by
  show (if v.starved ≥ 100 then 0 else v.starved) = _
  rw [if_neg hs.not_ge]

theorem starved_refilled_counted (net : Int) (hnet : net = S 640 - v.background) :
    (0 < net → (v.refilled S true).starved = 0) ∧
    (net ≤ 0 → v.starved < 99 → (v.refilled S true).starved = v.starved + 1) ∧
    (net ≤ 0 → v.starved = 99 → (v.refilled S true).starved = 0 ∧ (v.refilled S true).starvedDue = true) := by
  subst hnet
  unfold Acct.refilled Acct.addCredit
  simp only [Bool.not_true, Bool.false_eq_true, if_false]
  refine ⟨fun h => ?_, fun h h99 => ?_, fun h h99 => ?_⟩
  · rw [if_neg h.not_ge]
    rfl
  · rw [if_pos h, if_neg (by omega)]
  · rw [if_pos h, if_pos (by omega), decide_eq_true (by omega), Bool.or_true]
    exact ⟨rfl, rfl⟩

end

/-- All accounts are refilled at once. -/
theorem exec_creditRefill {s : State} (h10 : s.now % 10 = 0) (ht : s.power.tripped = false) :
    exec .creditRefill s = .next ((List.range 16).foldl State.refill s) :=
  congrArg Host.Outcome.next (if_pos ⟨h10, by rw [ht]; rfl⟩)

theorem creditRefill_spec {s : State} (h10 : s.now % 10 = 0) (ht : s.power.tripped = false) : Done .creditRefill s fun t =>
    (∀ a < 16, t.acct a = (s.acct a).refilled (s.shareOf (a / 4)) (s.countsStarved a)) ∧ t = { s with accts := t.accts } := by
  obtain ⟨hframe, hacct⟩ := acct_foldl_setAcct (s := s) (g := State.refill)
    (f := fun a v => v.refilled (s.shareOf (a / 4)) (s.countsStarved a)) (fun _ _ => rfl) (List.range 16) List.nodup_range
  exact ⟨_, exec_creditRefill h10 ht, fun a ha => (hacct a).trans (if_pos (List.mem_range.2 ha)), hframe⟩

theorem creditRefill_waits {s : State} (h : s.now % 10 ≠ 0 ∨ s.power.tripped = true) : exec .creditRefill s = .next s := by
  refine congrArg Host.Outcome.next (if_neg fun k => ?_)
  obtain h | h := h
  · exact h k.1
  · rw [h] at k
    exact absurd k.2 (by decide)

/-! ### The starvation of an account is told (R170) -/

/-- A steward core's queue after an event: the event waits there, or is lost and counted (R123). -/
def Steward.told (v : Steward) (r : BitVec 512) : Steward :=
  if v.evq.length < 32 then { v with evq := v.evq ++ [r] } else { v with evLost := min 65535 (v.evLost + 1) }

theorem pushEv_eq (s : State) (cl : Cl) (r : BitVec 512) : s.pushEv cl r = s.setStew cl ((s.stew cl).told r) := rfl

/-- Each steward core of a list is told once. -/
theorem stew_foldl_pushEv (r : Cl → BitVec 512) (l : List Cl) (hl : l.Nodup) (s : State) (cl : Cl) :
    (l.foldl (fun s cl => s.pushEv cl (r cl)) s).stew cl = if cl ∈ l then (s.stew cl).told (r cl) else s.stew cl := by
  induction l generalizing s with
  | nil => rfl
  | cons a l ih =>
    obtain ⟨ha, hl⟩ := List.nodup_cons.1 hl
    rw [List.foldl_cons, ih hl, pushEv_eq, State.stew_setStew_if]
    by_cases h : cl = a
    · subst h
      simp [ha]
    · simp [h]

theorem foldl_pushEv_only (r : Cl → BitVec 512) (l : List Cl) (s : State) :
    ∃ x, l.foldl (fun s cl => s.pushEv cl (r cl)) s = { s with stewards := x } :=
  foldl_inv (p := fun t : State => ∃ x, t = { s with stewards := x }) l s ⟨s.stewards, rfl⟩ fun t cl _ ht => by
    obtain ⟨x, rfl⟩ := ht
    exact ⟨_, rfl⟩

/-- The steward cores of an account's clusters are told of its starvation, with the net of its last refill. -/
def State.tellStarved (s : State) (a : Nat) (net : Int) : State :=
  (allCl.filter fun cl => acctOf cl = a).foldl (fun s cl =>
    s.pushEv cl (evRecord 0x07 0 (unitName cl 0x10) [a, (BitVec.ofInt 64 net).toNat])) s

theorem tellStarved_stew (s : State) (a : Nat) (net : Int) (cl : Cl) : (s.tellStarved a net).stew cl =
    if acctOf cl = a then (s.stew cl).told (evRecord 0x07 0 (unitName cl 0x10) [a, (BitVec.ofInt 64 net).toNat]) else s.stew cl := by
  have h := stew_foldl_pushEv (fun cl => evRecord 0x07 0 (unitName cl 0x10) [a, (BitVec.ofInt 64 net).toNat])
    (allCl.filter fun cl => acctOf cl = a) ((List.nodup_finRange 256).filter _) s cl
  simp only [List.mem_filter, mem_allCl, true_and, decide_eq_true_eq] at h
  exact h

theorem tellStarved_only (s : State) (a : Nat) (net : Int) : ∃ x, s.tellStarved a net = { s with stewards := x } :=
  foldl_pushEv_only (fun cl => evRecord 0x07 0 (unitName cl 0x10) [a, (BitVec.ofInt 64 net).toNat]) _ s

theorem exec_creditStarved {s : State} {a : Ac} (hdue : (s.acct a.val).starvedDue = true) (ht : s.power.tripped = false) :
    exec (.creditStarved a) s = .next (
      let u := s.setAcct a.val { s.acct a.val with starvedDue := false }
      { u with power := { u.power with creditStarved := sat32 u.power.creditStarved 1 } }.tellStarved a.val (s.acct a.val).lastNet) := by
  have hgo : ¬((!(s.acct a.val).starvedDue) = true ∨ s.power.tripped = true) := by
    rw [hdue, ht]
    decide
  exact congrArg Host.Outcome.next (if_neg hgo)

theorem creditStarved_tells {s : State} {a : Ac} (hdue : (s.acct a.val).starvedDue = true) (ht : s.power.tripped = false) :
    Done (.creditStarved a) s fun t => t.acct a.val = { s.acct a.val with starvedDue := false } ∧
      t.power.creditStarved = min (s.power.creditStarved + 1) 4294967295 ∧
      (∀ cl, acctOf cl = a.val → (s.stew cl).evq.length < 32 → (t.stew cl).evq =
        (s.stew cl).evq ++ [evRecord 7 0 (unitName cl 16) [a.val, (BitVec.ofInt 64 (s.acct a.val).lastNet).toNat]]) ∧
      (∀ cl, acctOf cl ≠ a.val → t.stew cl = s.stew cl) ∧ t = { s with stewards := t.stewards, accts := t.accts, power := t.power } := by
  refine ⟨_, exec_creditStarved hdue ht, ?_⟩
  dsimp only
  generalize hu : ({ s.setAcct a.val { s.acct a.val with starvedDue := false } with power := _ } : State) = u
  have hstew := tellStarved_stew u a.val (s.acct a.val).lastNet
  obtain ⟨x, hx⟩ := tellStarved_only u a.val (s.acct a.val).lastNet
  have hsame (cl : Cl) : u.stew cl = s.stew cl := by
    rw [← hu]
    rfl
  refine ⟨?_, ?_, fun cl hcl h32 => ?_, fun cl hcl => ?_, ?_⟩
  · rw [hx, ← hu]
    exact State.acct_setAcct ..
  · rw [hx, ← hu]
    rfl
  · rw [hstew, if_pos hcl, hsame, Steward.told, if_pos h32]
  · rw [hstew, if_neg hcl, hsame]
  · rw [hx, ← hu]
    rfl

/-! ### The clauses of the ledger's cycle and of its refill -/

section
variable {s : State} {a : Ac} (ht : s.power.tripped = false) {q : LReq} (hq : q ∈ (s.acct a.val).reqs) (hd : (s.acct a.val).dues = [])
  (hh : s.power.hold = false) (hfirst : ∀ x ∈ (s.acct a.val).reqs, x ≠ q → q.before x = true)
include ht hq hd hh hfirst

theorem ledgerCycle_young (hage : ∀ x ∈ (s.acct a.val).reqs, s.now - x.ready < 1000) (hc : (declared q.eclass : Int) ≤ (s.acct a.val).credit) :
    Done (.ledgerCycle a) s fun t =>
      (t.acct a.val).credit = max (-(2 ^ 47)) ((s.acct a.val).credit - declared q.eclass) ∧
      (t.acct a.val).reqs = (s.acct a.val).reqs.filter (fun x => x ≠ q) ∧ (t.acct a.val).admissions = (s.acct a.val).admissions + 1 ∧
      (t.acct a.val).guardAdmits = (s.acct a.val).guardAdmits ∧ (t.acct a.val).cap = (s.acct a.val).cap ∧
      t.ring q.cl q.ring = { s.ring q.cl q.ring with granted := true, grantAge := s.now - q.ready } ∧
      (∀ b, b ≠ a.val → t.acct b = s.acct b) ∧ t = { s with rings := t.rings, accts := t.accts } := by
  obtain ⟨t, hexec, hacct, hring, hother, hframe⟩ := ledgerCycle_admits ht hh hd (admits_young hq hfirst hage hc)
  refine ⟨t, hexec, ?_, ?_, ?_, ?_, ?_, hring, hother, hframe⟩
  all_goals
    rw [hacct]
    rfl

theorem ledgerCycle_starving (hage : 1000 ≤ s.now - q.ready) (hc : 0 ≤ (s.acct a.val).credit) : Done (.ledgerCycle a) s fun t =>
    (t.acct a.val).credit = max (-(2 ^ 47)) ((s.acct a.val).credit - declared q.eclass) ∧
    (t.acct a.val).guardAdmits = (s.acct a.val).guardAdmits + 1 ∧ (t.ring q.cl q.ring).granted = true ∧
    t = { s with rings := t.rings, accts := t.accts } := by
  obtain ⟨t, hexec, hacct, hring, -, hframe⟩ := ledgerCycle_admits ht hh hd ((admits_starving hq hfirst hage).trans (if_pos hc))
  refine ⟨t, hexec, ?_, ?_, by rw [hring], hframe⟩
  all_goals
    rw [hacct]
    rfl

theorem ledgerCycle_blocked (hage : 1000 ≤ s.now - q.ready) (hc : (s.acct a.val).credit < 0) : Done (.ledgerCycle a) s fun t =>
    t.acct a.val = s.acct a.val ∧ t = { s with accts := t.accts } :=
  ledgerCycle_admits_none ht hh hd ((admits_starving hq hfirst hage).trans (if_neg hc.not_ge))

end

theorem ledgerCycle_held {s : State} {a : Ac} (ht : s.power.tripped = false) (hd : (s.acct a.val).dues = []) (hh : s.power.hold = true) :
    Done (.ledgerCycle a) s fun t => t.acct a.val = s.acct a.val ∧ t = { s with accts := t.accts } := by
  refine ⟨_, exec_ledgerCycle_held ht hh, ?_⟩
  rw [settled_nil hd]
  exact ⟨State.acct_setAcct .., rfl⟩

/-- The corrections of a true-up, a refund or a self-test debit, in the words of R165 and R171. -/
theorem ledgerCycle_corrects {s : State} {a : Ac} (ht : s.power.tripped = false) {u : TrueUp} (hd : (s.acct a.val).dues = [u])
    (hh : s.power.hold = true) (hs : (s.acct a.val).score < 60) : Done (.ledgerCycle a) s fun t =>
      (t.acct a.val).dues = [] ∧ (t.acct a.val).reqs = (s.acct a.val).reqs ∧ t = { s with accts := t.accts } ∧
      (t.acct a.val).credit = max (-(2 ^ 47)) (min (s.acct a.val).cap ((s.acct a.val).credit +
        (if u.refund then (u.d : Int) else if u.selftest then -(u.em : Int) else u.d - u.em))) ∧
      (t.acct a.val).score = if u.refund ∨ u.selftest then (s.acct a.val).score
        else if (u.d = 0 ∧ 256 < u.em) ∨ (u.d ≠ 0 ∧ 5 * u.d < 4 * u.em) then (s.acct a.val).score + 4 else (s.acct a.val).score - 1 := by
  obtain ⟨t, hexec, hacct, hframe⟩ := ledgerCycle_trueUp ht hd hh hs
  refine ⟨t, hexec, ?_, ?_, hframe, ?_, ?_⟩
  all_goals rw [hacct]
  · rfl
  · rfl
  · rfl
  · unfold TrueUp.scored
    simp only [u.under_iff]

/-- A refill in the words of R158, R164 and R170. -/
theorem creditRefill_refills {s : State} (h10 : s.now % 10 = 0) (ht : s.power.tripped = false) : Done .creditRefill s fun t =>
    (∀ a, a < 16 → ∃ (S : Nat → Nat) (net : Int),
      (∀ k, S k = if s.fabric.dieFenced.getLsbD (a / 4) = true then 0 else
        (s.obj 0x2001 1 - 70) * k / ((List.range 4).filter fun d => !s.fabric.dieFenced.getLsbD d).length) ∧
      net = S 640 - (s.acct a).background ∧
      (t.acct a).share = S 250 ∧ (t.acct a).cap = S 6400 ∧ (t.acct a).background = 0 ∧
      (t.acct a).credit = max (-(2 ^ 47)) (min (t.acct a).cap ((s.acct a).credit + net)) ∧
      (t.acct a).reqs = (s.acct a).reqs ∧ (t.acct a).score = (s.acct a).score ∧
      (s.granOwner a < 16 → s.hasRun (s.granOwner a) = true → (s.acct a).starved < 100 →
        (0 < net → (t.acct a).starved = 0) ∧ (net ≤ 0 → (s.acct a).starved < 99 → (t.acct a).starved = (s.acct a).starved + 1) ∧
        (net ≤ 0 → (s.acct a).starved = 99 → (t.acct a).starved = 0 ∧ (t.acct a).starvedDue = true)) ∧
      (s.hasRun (s.granOwner a) = false → (s.acct a).starved < 100 → (t.acct a).starved = (s.acct a).starved)) ∧
    t = { s with accts := t.accts } := by
  obtain ⟨t, hexec, hacct, hframe⟩ := creditRefill_spec h10 ht
  refine ⟨t, hexec, fun a ha => ⟨s.shareOf (a / 4), _, fun _ => rfl, rfl, ?_⟩, hframe⟩
  rw [hacct a ha]
  refine ⟨rfl, rfl, rfl, rfl, rfl, rfl, fun ho hr hs => ?_, fun hr hs => ?_⟩
  · have hcounts : s.countsStarved a = true := by
      unfold State.countsStarved
      rw [hr, decide_eq_true ho]
      rfl
    rw [hcounts]
    exact starved_refilled_counted hs _ rfl
  · have hcounts : s.countsStarved a = false := by
      unfold State.countsStarved
      rw [hr, Bool.and_false]
    rw [hcounts]
    exact starved_refilled_uncounted hs

/-- Settles O33: the cycle's clauses by the entry that R167 admits and by its dues, the refill's by what it leaves of each account. -/
theorem ledgerCyclesAndRefill : Obligations.LedgerCyclesAndRefill := by
  unfold Obligations.LedgerCyclesAndRefill
  refine ⟨fun s a ht => ⟨fun q hq hd hh hfirst => ⟨ledgerCycle_young ht hq hd hh hfirst, ledgerCycle_starving ht hq hd hh hfirst,
      ledgerCycle_blocked ht hq hd hh hfirst⟩, ledgerCycle_held ht, fun u => ledgerCycle_corrects ht, fun u => ledgerCycle_reports ht⟩,
    fun s => ⟨creditRefill_refills, creditRefill_waits, fun a => creditStarved_tells⟩⟩

end Sys2Proof.Machine

namespace Sys2Proof.Machine

open Sys2Proof

/-! ### A flit at its island's crossing (R182, R183, R185, R201, R252) -/

theorem OnlyMemory.sameFabric {s t : State} (h : OnlyMemory s t) : t.fabric = s.fabric := by rw [h.1]

theorem clu_flitAnswer (s : State) (f : Flit) (n : Nat) :
    (s.flitAnswer f n).clu (f.src.getD f.dst) = { s.clu (f.src.getD f.dst) with flit := n } := State.clu_setClu ..

theorem cache_flitAnswer (s : State) (f : Flit) (n : Nat) (cl : Cl) : ((s.flitAnswer f n).clu cl).cache = (s.clu cl).cache := by
  unfold State.flitAnswer
  dsimp only
  rw [State.clu_setClu_if]
  split
  · rename_i h
    rw [h]
  · rfl

/-- A refused flit changes one cluster and nothing else. -/
theorem flitRefuse_clusters (s : State) (f : Flit) (n : Nat) : s.flitRefuse f n = { s with clusters := (s.flitRefuse f n).clusters } := by
  unfold State.flitRefuse
  split <;> rfl

/-- The state after the words of a flit have been checked at its destination, its header word first (R252). -/
def State.flitChecked (s : State) (f : Flit) : State :=
  f.words.zipIdx.foldl (fun s e => s.flitWord f (wordVerdict e.1) (checkBits e.1.data.toNat ^^^ e.1.check) (128 * f.line + 16 * e.2))
    (s.flitWord f (verdict f.header) f.header 0)

theorem flitWord_mgmt (s : State) (f : Flit) (v : Verdict) (syn : BitVec 16) (addr : Nat) :
    s.flitWord f v syn addr = { s with mgmt := (s.flitWord f v syn addr).mgmt } := by
  cases v <;> rfl

/-- The check of a flit's words is told to the management processor and to no one else. -/
theorem flitChecked_mgmt (s : State) (f : Flit) : ∃ x, s.flitChecked f = { s with mgmt := x } :=
  foldl_inv (p := fun t : State => ∃ x, t = { s with mgmt := x }) _ _ ⟨_, flitWord_mgmt ..⟩ fun t e _ ht => by
    obtain ⟨x, rfl⟩ := ht
    exact ⟨_, flitWord_mgmt ..⟩

theorem flitChecked_only (s : State) (f : Flit) : OnlyMemory s (s.flitChecked f) := by
  obtain ⟨x, hx⟩ := flitChecked_mgmt s f
  rw [hx]
  exact .of rfl

section
variable {f : Flit} (hh : verdict f.header = .clean)
include hh

theorem flitChecked_clean (s : State) (hw : ∀ x ∈ f.words, wordVerdict x = .clean) : s.flitChecked f = s := by
  unfold State.flitChecked
  rw [hh]
  refine foldl_inv (p := fun t => t = s) _ _ rfl fun t e he ht => ?_
  rw [hw e.1 (List.fst_mem_of_mem_zipIdx he)]
  exact ht

theorem flitChecked_one (s : State) {x : FlitWord} (hw : f.words = [x]) :
    s.flitChecked f = s.flitWord f (wordVerdict x) (checkBits x.data.toNat ^^^ x.check) (128 * f.line) := by
  unfold State.flitChecked
  rw [hh, hw]
  rfl

end

theorem flitDeliver_unowned {s : State} {f : Flit} (hk : f.kind ≠ .response) (hp : f.part ≠ s.clPart f.dst) :
    s.flitDeliver f = (s.flitAnswer f 4).refusal (unitName f.dst 0x10) f.part (128 * f.line) 4 := if_pos ⟨hk, hp⟩

/-- A flit that carries no write is let in with its words checked. -/
theorem flitDeliver_reads {s : State} {f : Flit} (h : f.kind = .response ∨ f.kind = .request ∧ f.part = s.clPart f.dst) :
    s.flitDeliver f = (s.flitChecked f).flitAnswer f 0 := by
  have hown : ¬(f.kind ≠ .response ∧ f.part ≠ s.clPart f.dst) := fun k => h.elim k.1 fun h => k.2 h.2
  have hkind : f.kind ≠ .write := by
    obtain h | ⟨h, _⟩ := h <;> rw [h] <;> decide
  unfold State.flitDeliver
  dsimp only
  rw [if_neg hown, if_neg hkind]
  rfl

/-- A write that is let in puts its words into the cluster cache. -/
theorem flitDeliver_writes {s : State} {f : Flit} (hk : f.kind = .write) (hp : f.part = s.clPart f.dst) : ∃ hint tag,
    s.flitDeliver f = ((s.flitChecked f).clWrite f.dst (flitData f) f.line (maskOf 0 (16 * f.words.length)) hint tag).flitAnswer f 0 := by
  have hown : ¬(f.kind ≠ .response ∧ f.part ≠ s.clPart f.dst) := fun k => k.2 hp
  refine ⟨(((s.flitChecked f).clu f.dst).cache.ownHint f.line).1, (((s.flitChecked f).clu f.dst).cache.ownHint f.line).2, ?_⟩
  unfold State.flitDeliver
  dsimp only
  rw [if_neg hown, if_pos hk]
  rfl

theorem flitAnswer_only (s : State) (f : Flit) (n : Nat) : OnlyMemory s (s.flitAnswer f n) := .setClu ..

theorem flitDeliver_only (s : State) (f : Flit) : OnlyMemory s (s.flitDeliver f) := by
  by_cases hk : f.kind = .response
  · rw [flitDeliver_reads (.inl hk)]
    exact (flitChecked_only s f).trans (flitAnswer_only ..)
  by_cases hp : f.part = s.clPart f.dst
  · cases hkind : f.kind with
    | response => exact absurd hkind hk
    | request =>
      rw [flitDeliver_reads (.inr ⟨hkind, hp⟩)]
      exact (flitChecked_only s f).trans (flitAnswer_only ..)
    | write =>
      obtain ⟨hint, tag, h⟩ := flitDeliver_writes hkind hp
      rw [h]
      exact ((flitChecked_only s f).trans (clWrite_only ..)).trans (flitAnswer_only ..)
  · rw [flitDeliver_unowned hk hp]
    exact .of rfl

/-- No flit changes a link: it meets its crossing, waits in a link buffer, or is refused. -/
theorem links_flitCross (s : State) (f : Flit) : (s.flitCross f).fabric.links = s.fabric.links := by
  unfold State.flitCross
  dsimp only
  split
  · rw [flitRefuse_clusters]
  · rw [flitRefuse_clusters]
  · rw [(flitDeliver_only s f).sameFabric]
  · split <;> rfl

/-- Whether a flit is dropped where it sets out: its sender is fenced, or a link end on its way has been declared failed (R183). -/
def State.flitCut (s : State) (f : Flit) : Bool :=
  match f.src with
  | some c => decide ((s.clu c).isl = .fenced) || s.pathFenced (dieOf c) (dieOf f.dst)
  | none => false

theorem flitGo_eq (s : State) (f : Flit) : s.flitGo f = if s.flitCut f ∨ s.flitRoute f = [] then s.flitRefuse f 5
    else match s.flitStops f with
      | some h => s.waitAt h f
      | none => s.flitCross f := rfl

theorem links_flitGo (s : State) (f : Flit) : (s.flitGo f).fabric.links = s.fabric.links := by
  rw [flitGo_eq]
  split
  · rw [flitRefuse_clusters]
  · split
    · rfl
    · exact links_flitCross s f

/-! ### A flit whose way is open (R183, R186, R189) -/

theorem exec_arrives {s : State} (ht : s.power.tripped = false) (f : Flit) : exec (arrives f) s = .next (s.flitGo f) :=
  congrArg Host.Outcome.next (if_neg (by simp [ht]))

section
variable {s : State} {f : Flit} (hr : s.flitRoute f ≠ [])
  (hs : ∀ c, f.src = some c → (s.clu c).isl ≠ .fenced ∧ s.pathFenced (dieOf c) (dieOf f.dst) = false)
include hr hs

theorem not_flitCut : ¬(s.flitCut f = true ∨ s.flitRoute f = []) := by
  have hcut : s.flitCut f = false := by
    unfold State.flitCut
    cases hsrc : f.src with
    | none => rfl
    | some c =>
      obtain ⟨hisl, hpath⟩ := hs c hsrc
      simp [hisl, hpath]
  simp [hcut, hr]

theorem flitGo_stops {h : Hop} (hstop : s.flitStops f = some h) : s.flitGo f = s.waitAt h f := by
  rw [flitGo_eq, if_neg (not_flitCut hr hs), hstop]

theorem flitGo_crosses (hstop : s.flitStops f = none) : s.flitGo f = s.flitCross f := by
  rw [flitGo_eq, if_neg (not_flitCut hr hs), hstop]

theorem arrives_crosses (ht : s.power.tripped = false) (hstop : s.flitStops f = none) : exec (arrives f) s = .next (s.flitCross f) := by
  rw [exec_arrives ht, flitGo_crosses hr hs hstop]

end

theorem buffer_waitAt (s : State) (h : Hop) (f : Flit) :
    (s.waitAt h f).buffer (bufKey h f.kind) = s.buffer (bufKey h f.kind) ++ [f] := look_put_same ..

section
variable {s : State} {f : Flit}

/-- What becomes of a flit whose island is fenced or gated (R183). -/
theorem flitRefuse_answers (n : Nat) : s.flitRefuse f n = { s with clusters := (s.flitRefuse f n).clusters } ∧
    (f.kind = .request → ((s.flitRefuse f n).clu (f.src.getD f.dst)).flit = n) ∧
    (f.kind ≠ .request → ((s.flitRefuse f n).clu f.dst).discards = (s.clu f.dst).discards + 1) := by
  refine ⟨flitRefuse_clusters .., fun hk => ?_, fun hk => ?_⟩
  · have hanswer : s.flitRefuse f n = s.flitAnswer f n := if_pos hk
    rw [hanswer, clu_flitAnswer]
  · have hcount : s.flitRefuse f n = s.setClu f.dst { s.clu f.dst with discards := (s.clu f.dst).discards + 1 } := if_neg hk
    rw [hcount, State.clu_setClu]

theorem flitCross_running (hi : (s.clu f.dst).isl = .running) : s.flitCross f = s.flitDeliver f := by
  unfold State.flitCross
  dsimp only
  rw [hi]

theorem flitCross_refused (hi : (s.clu f.dst).isl = .fenced ∨ (s.clu f.dst).isl = .gated) :
    s.flitCross f = s.flitRefuse f (if (s.clu f.dst).isl = .fenced then 5 else 6) := by
  unfold State.flitCross
  dsimp only
  obtain hi | hi := hi <;> rw [hi] <;> rfl

theorem flitCross_held (hi : (s.clu f.dst).isl = .held) (hx : (s.clu f.dst).xing.length < 8) :
    s.flitCross f = s.setClu f.dst { s.clu f.dst with xing := (s.clu f.dst).xing ++ [f] } := by
  unfold State.flitCross
  dsimp only
  rw [hi]
  exact if_pos hx

/-- A flit of another partition is answered with status 4, and reported (R201). -/
theorem flitDeliver_refuses (hk : f.kind ≠ .response) (hp : f.part ≠ s.clPart f.dst) : let t := s.flitDeliver f
    (t.clu (f.src.getD f.dst)).flit = 4 ∧ (∃ e, t.mgmt.inbox = s.mgmt.inbox ++ [e] ∧ e.1.status = 4 ∧ e.1.part = f.part) ∧
    t = { s with clusters := t.clusters, mgmt := t.mgmt } := by
  dsimp only
  rw [flitDeliver_unowned hk hp]
  exact ⟨congrArg Cluster.flit (clu_flitAnswer s f 4), ⟨_, rfl, rfl, rfl⟩, rfl⟩

/-- A flit that is let in without a write has its words checked, each error told once (R252, R253). -/
theorem flitDeliver_checks (hk : f.kind = .response ∨ f.kind = .request ∧ f.part = s.clPart f.dst) (hh : verdict f.header = .clean) :
    let t := s.flitDeliver f
    (t.clu (f.src.getD f.dst)).flit = 0 ∧ t = { s with clusters := t.clusters, mgmt := t.mgmt } ∧
    ((∀ x ∈ f.words, wordVerdict x = .clean) → t.mgmt = s.mgmt) ∧
    (∀ x, f.words = [x] → (wordVerdict x = .uncorrectable → ∃ e, t.mgmt.inbox = s.mgmt.inbox ++ [e] ∧ e.1.cls = 1) ∧
      (∀ sym p, wordVerdict x = .corrected sym p → ∃ e, t.mgmt.inbox = s.mgmt.inbox ++ [e] ∧ e.1.cls = 0)) := by
  dsimp only
  rw [flitDeliver_reads hk]
  refine ⟨congrArg Cluster.flit (clu_flitAnswer ..), ?_, fun hw => ?_, fun x hx => ⟨fun hv => ?_, fun sym p hv => ?_⟩⟩
  · obtain ⟨x, hx⟩ := flitChecked_mgmt s f
    rw [hx]
    rfl
  · rw [flitChecked_clean hh s hw]
    rfl
  · rw [flitChecked_one hh s hx, hv]
    exact ⟨_, rfl, rfl⟩
  · rw [flitChecked_one hh s hx, hv]
    exact ⟨_, rfl, rfl⟩

/-- A write that is let in leaves its line in the cluster cache, dirty with its words (R182, R214). -/
theorem flitDeliver_stores (hk : f.kind = .write) (hp : f.part = s.clPart f.dst) : let t := s.flitDeliver f
    (t.clu (f.src.getD f.dst)).flit = 0 ∧ OnlyMemory s t ∧
    ∃ e, (t.clu f.dst).cache.line f.line = some e ∧ e.dirty = true ∧ e.mask &&& maskOf 0 (16 * f.words.length) = maskOf 0 (16 * f.words.length) := by
  have honly := flitDeliver_only s f
  obtain ⟨hint, tag, hdeliver⟩ := flitDeliver_writes hk hp
  dsimp only
  rw [hdeliver] at honly ⊢
  refine ⟨congrArg Cluster.flit (clu_flitAnswer ..), honly, ?_⟩
  obtain ⟨e, hline, hdirty, hmask, _⟩ := line_clWrite (s.flitChecked f) f.dst (flitData f) f.line (maskOf 0 (16 * f.words.length)) hint tag
  rw [cache_flitAnswer]
  exact ⟨e, hline, hdirty, hmask⟩

end

/-! ### Links (R189, R190) -/

theorem link_of_links {s t : State} (h : t.fabric.links = s.fabric.links) (k : Nat) : t.link k = s.link k := by
  unfold State.link
  rw [h]

/-- With no flit in a link buffer there is none to take out. -/
theorem takeWaiting_empty {s : State} (hb : s.fabric.buffers = []) (p : Hop → Bool) : s.takeWaiting p = (s, []) := by
  have hf : { s.fabric with buffers := [] } = s.fabric := by rw [← hb]
  unfold State.takeWaiting
  rw [hb, List.filter_nil, List.filter_nil, hf]
  rfl

/-- What waits for a link that has come up goes its way (R189). -/
def State.linkOpens (s : State) (l : Nat) : State :=
  (s.takeWaiting fun h => h.onLink l).2.foldl State.flitGo (s.takeWaiting fun h => h.onLink l).1

theorem link_linkOpens (s : State) (l k : Nat) : (s.linkOpens l).link k = s.link k :=
  link_of_links (foldl_proj (g := fun s : State => s.fabric.links) _ _ links_flitGo) k

theorem linkOpens_empty {s : State} (hb : s.fabric.buffers = []) (l : Nat) : s.linkOpens l = s := by
  unfold State.linkOpens
  rw [takeWaiting_empty hb]
  rfl

/-- Every die that a link which is down has cut off is a fatal error (R190). -/
def State.cutOffDies (s : State) : State :=
  (List.range 10).foldl (fun s k => match s.cutOff k with
    | some d => s.dieUnreachable d k
    | none => s) s

theorem cutOffDies_inbox (s : State) : ∃ x, s.cutOffDies = { s with mgmt := { s.mgmt with inbox := x } } := by
  refine foldl_inv (p := fun t : State => ∃ x, t = { s with mgmt := { s.mgmt with inbox := x } }) _ _ ⟨s.mgmt.inbox, rfl⟩ fun t k _ ht => ?_
  obtain ⟨x, rfl⟩ := ht
  dsimp only
  split
  · unfold State.dieUnreachable
    split
    · exact ⟨x, rfl⟩
    · exact ⟨_, rfl⟩
  · exact ⟨x, rfl⟩

/-- A link that is declared down, and the log and the hosts told of it (R189). -/
def State.linkTold (s : State) (l : Nat) : State :=
  ((s.setLink l { s.link l with st := .down }).logLink l 3).devEv 0x12 0xFF (linkUnit l) l 0

theorem link_linkTold (s : State) (l : Nat) : (s.linkTold l).link l = { s.link l with st := .down } :=
  (link_of_links (s := s.setLink l { s.link l with st := .down }) rfl l).trans (State.link_setLink ..)

theorem linkDown_eq (s : State) (l : Nat) : s.linkDown l =
    (((s.linkTold l).takeWaiting fun h => h.onLink l).2.foldl State.flitReturn ((s.linkTold l).takeWaiting fun h => h.onLink l).1).cutOffDies := rfl

theorem links_flitReturn (s : State) (f : Flit) : (s.flitReturn f).fabric.links = s.fabric.links := by
  unfold State.flitReturn
  split
  · exact links_flitGo s f
  · rfl

theorem link_linkDown (s : State) (l : Nat) : (s.linkDown l).link l = { s.link l with st := .down } := by
  rw [linkDown_eq]
  obtain ⟨x, hx⟩ := cutOffDies_inbox
    (((s.linkTold l).takeWaiting fun h => h.onLink l).2.foldl State.flitReturn ((s.linkTold l).takeWaiting fun h => h.onLink l).1)
  have hlinks := foldl_proj (g := fun s : State => s.fabric.links) (f := State.flitReturn)
    ((s.linkTold l).takeWaiting fun h => h.onLink l).2 ((s.linkTold l).takeWaiting fun h => h.onLink l).1 links_flitReturn
  rw [hx]
  exact (link_of_links hlinks l).trans (link_linkTold s l)

/-- With no flit waiting, a link that goes down is recorded once, and touches no core and no memory. -/
theorem linkDown_quiet {s : State} (hb : s.fabric.buffers = []) (l : Nat) :
    (s.linkDown l).mgmt.logCount = (s.mgmt.logCount + 1) % 2 ^ 32 ∧ (s.linkDown l).cores = s.cores ∧ (s.linkDown l).dram = s.dram := by
  have hnone : (s.linkTold l).takeWaiting (fun h => h.onLink l) = (s.linkTold l, []) := takeWaiting_empty (s := s.linkTold l) hb _
  rw [linkDown_eq, hnone]
  obtain ⟨x, hx⟩ := cutOffDies_inbox (s.linkTold l)
  rw [List.foldl_nil, hx]
  exact ⟨rfl, rfl, rfl⟩

/-- The writes and acknowledgements that cross a link have returned to their writers (R189). -/
def State.writesReturn (s : State) (l : Nat) : State :=
  ((s.dram.wacks.filter fun q => s.crosses l q) ++ s.dram.wq.filter fun q => s.crosses l q).foldl State.writeReturns
    { s with dram := { s.dram with
        wq := (s.dram.wacks.filter fun q => s.crosses l q) ++ s.dram.wq, wacks := s.dram.wacks.filter fun q => !s.crosses l q } }

theorem writesReturn_none {s : State} (hq : s.dram.wq = []) (ha : s.dram.wacks = []) (l : Nat) : s.writesReturn l = s := by
  have hd : ({ s.dram with wq := [], wacks := [] } : DramSt) = s.dram := calc
    _ = { s.dram with wq := s.dram.wq, wacks := s.dram.wacks } := by rw [hq, ha]
    _ = s.dram := rfl
  unfold State.writesReturn
  simp only [hq, ha, List.filter_nil, List.append_nil, List.foldl_nil]
  rw [hd]

theorem retrain_eq (s : State) (l : Nat) : s.retrain l = (s.writesReturn l).setLink l { s.link l with
    st := .retraining, retrains := (s.link l).retrains + 1, winReplays := []
    recent := ((s.link l).recent.filter fun t => (s.writesReturn l).now < t + 1000000) ++ [(s.writesReturn l).now] } := rfl

theorem link_retrain (s : State) (l : Nat) : ∃ r, (s.retrain l).link l =
    { s.link l with st := .retraining, retrains := (s.link l).retrains + 1, winReplays := [], recent := r } := ⟨_, State.link_setLink ..⟩

/-- With no write and no acknowledgement on its way, a retrain touches the link alone. -/
theorem retrain_quiet {s : State} (hq : s.dram.wq = []) (ha : s.dram.wacks = []) (l : Nat) :
    s.retrain l = { s with fabric := (s.retrain l).fabric } := by
  rw [retrain_eq, writesReturn_none hq ha]
  rfl

/-- A link whose retrain has ended well (R189): up, at half width where a lane was lost. -/
def Link.retrained (v : Link) : Link := { v with st := .up, half := v.half || v.toHalf, toHalf := false }

/-- A link whose retrain has ended well, the log told of it, and the hosts where it goes to half width (R189, R336). -/
def State.retrainTold (s : State) (l : Nat) : State :=
  let v := s.link l
  let s := s.setLink l v.retrained
  if v.toHalf ∧ !v.half then (s.logLink l 2).devEv 0x17 0xFF (linkUnit l) l (linkRate l true)
  else s.logLink l (if v.half || v.toHalf then 2 else 1)

theorem retrainTold_leaves (s : State) (l : Nat) : (s.retrainTold l).link l = (s.link l).retrained ∧
    (s.retrainTold l).mgmt.logCount = (s.mgmt.logCount + 1) % 2 ^ 32 ∧ (s.retrainTold l).fabric.buffers = s.fabric.buffers ∧
    s.retrainTold l = { s with fabric := (s.retrainTold l).fabric, mgmt := (s.retrainTold l).mgmt, ports := (s.retrainTold l).ports } := by
  have hlink := State.link_setLink s l (s.link l).retrained
  unfold State.retrainTold
  dsimp only
  split <;> exact ⟨hlink, rfl, rfl, rfl⟩

/-- A first training brings the link up, or takes it down (R189, R356). -/
theorem exec_linkRetrainComplete_untrained {s : State} {l : Ln} (hst : (s.link l.val).st = .untrained)
    (hr : s.releasedTo (if l.val < 6 then 4 else 3) = true) (ok : Bool) : exec (.linkRetrainComplete l ok) s = .next
      (if ok then (s.setLink l.val { s.link l.val with st := .up }).linkOpens l.val else s.linkDown l.val) := by
  refine congrArg Host.Outcome.next ?_
  dsimp only
  rw [hst]
  exact if_neg (by simp [hr])

section
variable {s : State} {l : Ln} (ht : s.power.tripped = false)
include ht

section
variable (hst : (s.link l.val).st = .up)
include hst

/-- A flit that fails its check at a link is replayed, and counted as a corrected error (R189, R263). -/
theorem linkCrcFail_replays : Done (.linkCrcFail l) s fun t => (t.link l.val).replays = (s.link l.val).replays + 1 ∧ (t.link l.val).st = .up ∧
    (∃ e, t.mgmt.inbox = s.mgmt.inbox ++ [e] ∧ e.1.cls = 0) ∧ t = { s with fabric := t.fabric, mgmt := t.mgmt } := by
  have hgo : ¬((s.link l.val).st ≠ .up ∨ s.power.tripped = true) := by simp [hst, ht]
  have hlink := State.link_setLink s l.val { s.link l.val with
    replays := (s.link l.val).replays + 1, winReplays := ((s.link l.val).winReplays.filter fun t => s.now < t + 1000) ++ [s.now] }
  exact ⟨_, congrArg Host.Outcome.next (if_neg hgo), congrArg Link.replays hlink, (congrArg Link.st hlink).trans hst, ⟨_, rfl, rfl⟩, rfl⟩

theorem exec_linkReplayLimit : exec (.linkReplayLimit l) s = .next
    (if 16 < ((s.link l.val).winReplays.filter fun x => s.now < x + 1000).length then s.retrain l.val else s) := by
  refine congrArg Host.Outcome.next (if_congr ?_ rfl rfl)
  simp [hst, ht]

theorem exec_laneFail (back : Bool) : exec (.laneFail ⟨l, back⟩) s =
    .next ((s.setLink l.val ((s.link l.val).laneFails back)).retrain l.val) :=
  congrArg Host.Outcome.next (if_neg (by simp [hst, ht]))

end

section
variable (hst : (s.link l.val).st = .retraining)
include hst

/-- A retrain that fails, or is the third within a second, takes the link down (R189). -/
theorem exec_linkRetrainComplete_fails {ok : Bool} (h : ok = false ∨ 3 ≤ ((s.link l.val).recent.filter fun x => s.now < x + 1000000).length) :
    exec (.linkRetrainComplete l ok) s = .next (s.linkDown l.val) := by
  refine congrArg Host.Outcome.next ?_
  dsimp only
  rw [hst]
  dsimp only
  rw [if_neg (by simp [ht]), if_pos (by simpa using h)]

/-- A retrain that ends well is recorded, and what waits crosses (R189). -/
theorem exec_linkRetrainComplete_ends (h : ((s.link l.val).recent.filter fun x => s.now < x + 1000000).length < 3) :
    exec (.linkRetrainComplete l true) s = .next ((s.retrainTold l.val).linkOpens l.val) := by
  refine congrArg Host.Outcome.next ?_
  dsimp only
  rw [hst]
  dsimp only
  rw [if_neg (by simp [ht]), if_neg (by simpa using h)]
  rfl

end

end

theorem laneFails_spec (v : Link) (back : Bool) : (v.laneFails back).retrains = v.retrains ∧
    (v.laneFails back).spares = v.spares - (if back then 0 else 1) ∧ (v.laneFails back).sparesBack = v.sparesBack - (if back then 1 else 0) ∧
    (v.laneFails back).toHalf = (v.toHalf || decide ((if back then v.sparesBack else v.spares) = 0)) := by
  unfold Link.laneFails
  cases back with
  | false =>
    obtain h | h := Nat.eq_zero_or_pos v.spares
    · simp [h]
    · simp [h, h.ne']
  | true =>
    obtain h | h := Nat.eq_zero_or_pos v.sparesBack
    · simp [h]
    · simp [h, h.ne']

/-- Settles O37: a flit by the hop it stops at or by its island's state, a link's command by the state in which it finds the link. -/
theorem crossingsAndLinks : Obligations.CrossingsAndLinks := by
  unfold Obligations.CrossingsAndLinks
  intro s ht
  refine ⟨fun f hr hs => ⟨fun h hstop => ⟨_, exec_arrives ht f, ?_⟩, fun hstop => ?_⟩, fun l => ⟨fun hst => ?_, fun hst hr => ?_, fun hst => ?_⟩⟩
  · rw [flitGo_stops hr hs hstop]
    exact ⟨buffer_waitAt .., rfl⟩
  · have hexec := arrives_crosses hr hs ht hstop
    refine ⟨fun hi hk hp => ⟨_, hexec, ?_⟩, fun hi hk hh => ⟨_, hexec, ?_⟩, fun hi hk hp => ⟨_, hexec, ?_⟩, fun hi => ⟨_, hexec, ?_⟩,
      fun hi hx => ⟨_, hexec, ?_⟩⟩
    · rw [flitCross_running hi]
      exact flitDeliver_refuses hk hp
    · rw [flitCross_running hi]
      exact flitDeliver_checks hk hh
    · rw [flitCross_running hi]
      exact flitDeliver_stores hk hp
    · rw [flitCross_refused hi]
      exact flitRefuse_answers ..
    · rw [flitCross_held hi hx]
      exact ⟨congrArg Cluster.xing (State.clu_setClu ..), rfl⟩
  · refine ⟨linkCrcFail_replays ht hst, fun h => ⟨_, (exec_linkReplayLimit ht hst).trans (congrArg _ (if_pos h)), ?_⟩,
      fun h => (exec_linkReplayLimit ht hst).trans (congrArg _ (if_neg h.not_gt)), fun back => ⟨_, exec_laneFail ht hst back, ?_⟩⟩
    · obtain ⟨r, hlink⟩ := link_retrain s l.val
      exact ⟨congrArg Link.st hlink, congrArg Link.retrains hlink, fun hq ha => retrain_quiet hq ha _⟩
    · obtain ⟨r, hlink⟩ := link_retrain (s.setLink l.val ((s.link l.val).laneFails back)) l.val
      obtain ⟨hretrains, hspares, hback, hhalf⟩ := laneFails_spec (s.link l.val) back
      rw [State.link_setLink] at hlink
      rw [hlink]
      refine ⟨rfl, congrArg (· + 1) hretrains, hspares, hback, hhalf, fun hq ha => ?_⟩
      rw [retrain_quiet (s := s.setLink l.val ((s.link l.val).laneFails back)) hq ha]
      rfl
  · refine ⟨⟨_, exec_linkRetrainComplete_untrained hst hr true, ?_⟩, ⟨_, exec_linkRetrainComplete_untrained hst hr false, ?_⟩⟩
    · rw [if_pos rfl]
      refine ⟨(link_linkOpens ..).trans (State.link_setLink ..), fun hb => ?_⟩
      rw [linkOpens_empty (s := s.setLink l.val _) hb]
      rfl
    · rw [if_neg Bool.false_ne_true]
      exact ⟨congrArg Link.st (link_linkDown s l.val), fun hb => linkDown_quiet hb _⟩
  · refine ⟨fun h => ⟨_, exec_linkRetrainComplete_ends ht hst h, ?_⟩, fun ok h => ⟨_, exec_linkRetrainComplete_fails ht hst h, ?_⟩⟩
    · obtain ⟨hlink, hlog, hbuf, hframe⟩ := retrainTold_leaves s l.val
      refine ⟨(link_linkOpens ..).trans hlink, fun hb => ?_⟩
      rw [linkOpens_empty (hbuf.trans hb)]
      exact ⟨hlog, hframe⟩
    · exact ⟨congrArg Link.st (link_linkDown s l.val), fun hb => linkDown_quiet hb _⟩

end Sys2Proof.Machine

namespace Sys2Proof.Machine

open Sys2Proof

/-! ### Writes of RBASE, RCFG and TAIL (R230, R231, R235) -/

section
variable {s : State} {cl : Cl} {n : Nat} {reg : RReg}

theorem ringSet_refused (hreg : reg = .rbase ∨ reg = .rcfg ∨ reg = .tail) (hw : (s.ring cl n).writable = false) (v : Word) :
    s.ringSet cl n reg v = s.ringRefuse cl n := by
  have hno : ¬(s.ring cl n).writable = true := by simp [hw]
  obtain rfl | rfl | rfl := hreg <;> exact if_neg hno

section
variable (hw : (s.ring cl n).writable = true) (v : Word)
include hw

theorem ringSet_rbase : s.ringSet cl n .rbase v = s.setRing cl n { s.ring cl n with rbase := (v.toNat / 64 % 2 ^ 33) * 64 } := if_pos hw

theorem ringSet_rcfg : s.ringSet cl n .rcfg v =
    s.setRing cl n { s.ring cl n with rcfg := (v.toNat / 4096 % 16) * 4096 + min (v.toNat % 32) 16 } := if_pos hw

theorem ringSet_tail : s.ringSet cl n .tail v = s.setRing cl n { s.ring cl n with tail := v.setWidth 32 } := by
  rw [← BitVec.ofNat_toNat]
  exact if_pos hw

end

/-- A write of a ring's register sets that ring and does nothing else. -/
theorem ringSet_setRing (hreg : reg = .rbase ∨ reg = .rcfg ∨ reg = .tail) (v : Word) : ∃ r, s.ringSet cl n reg v = s.setRing cl n r := by
  cases hw : (s.ring cl n).writable with
  | false => exact ⟨_, ringSet_refused hreg hw v⟩
  | true =>
    obtain rfl | rfl | rfl := hreg
    · exact ⟨_, ringSet_rbase hw v⟩
    · exact ⟨_, ringSet_rcfg hw v⟩
    · exact ⟨_, ringSet_tail hw v⟩

end

/-! ### RSET and RGET (R235) -/

theorem exec_rset {s : State} {w : At} {n sa : Nat} {reg : RReg} (hreg : reg = .rbase ∨ reg = .rcfg ∨ reg = .tail) (hn : n < 16) (hsa : sa < 32)
    (h : s.readyFor w (.rset w n reg sa) .steward = true) : exec (.rset w n reg sa) s = .next ((s.ringSet w.cl n reg (s.reg w sa)).next1 w) := by
  refine congrArg Host.Outcome.next (issue_ready _ h ?_)
  obtain rfl | rfl | rfl := hreg <;> simp [firstBad, ringOk, regOk, hn, hsa]

theorem exec_rget {s : State} {w : At} {n sd : Nat} {reg : RReg} (hn : n < 16) (hsd : sd < 32)
    (h : s.readyFor w (.rget w sd n reg) .steward = true) :
    exec (.rget w sd n reg) s = .next (s.result w sd (BitVec.ofNat 64 ((s.ring w.cl n).register reg))) :=
  congrArg Host.Outcome.next (issue_ready _ h (by simp [firstBad, ringOk, regOk, hn, hsd]))

/-- RSET of a register that the ring takes, or refuses: the rings as the write leaves them, and the instruction issued. -/
theorem rset_leaves {s : State} {w : At} (hw : w.who = .steward) {n : Nat} {reg : RReg} (hreg : reg = .rbase ∨ reg = .rcfg ∨ reg = .tail) (v : Word) :
    let t := (s.ringSet w.cl n reg v).next1 w
    t.rings = (s.ringSet w.cl n reg v).rings ∧ Issued w t none ∧ (∀ m, t.reg w m = s.reg w m) ∧
    t = { s with stewards := t.stewards, clusters := t.clusters, rings := t.rings } := by
  obtain ⟨r, hset⟩ := ringSet_setRing (s := s) (cl := w.cl) (n := n) hreg v
  have hframe := next1_steward_only hw (s.setRing w.cl n r)
  dsimp only
  rw [hset]
  refine ⟨by rw [hframe], issued_next1 .., fun m => ?_, by rw [hframe]; rfl⟩
  rw [(next1_passed (s.setRing w.cl n r) w).1, reg_steward hw, reg_steward hw]
  rfl

/-! ### Writes to control space (R183, R201, R203, R229) -/

/-- The fields of an offset into control space (R229). -/
theorem ctlOffset_fields {d x y n o : Nat} (hd : d < 4) (hx : x < 8) (hy : y < 8) (hn : n < 16) (ho : o < 256) :
    let off := 2 ^ 24 * d + 2 ^ 18 * (8 * y + x) + 2 ^ 8 * n + o
    off / 2 ^ 26 = 0 ∧ bits 25 24 off = d ∧ bits 23 21 off = y ∧ bits 20 18 off = x ∧ bits 17 12 off = 0 ∧ bits 11 8 off = n ∧ off % 256 = o := by
  simp only [bits]
  omega

section
variable {s : State} {b : Option Cl} {cl : Cl} {n : Rn} {v : Word}

/-- A write into a ring's block reaches the router of its cluster, and its ring if the writer's partition has the cluster (R183, R201, R229). -/
theorem ctlWrite_block {o addr : Nat} (ho : o ≤ 0x48) (ho8 : o % 8 = 0)
    (ha : addr = 0xFF0000000000 + (2 ^ 24 * dieOf cl + 2 ^ 18 * (8 * yOf cl + xOf cl) + 2 ^ 8 * n.val + o)) : s.ctlWrite b addr v =
    if (s.clu cl).isl = .fenced ∨ (s.clu cl).isl = .gated then s.setClu cl { s.clu cl with discards := (s.clu cl).discards + 1 }
    else if b.isSome ∧ b.elim 0xFF s.clPart ≠ s.clPart cl then s.refusal (b.elim 0 fun c => unitName c 0x10) (b.elim 0xFF s.clPart) addr 4
    else if o = 0x00 then s.ringSet cl n.val .rbase v
    else if o = 0x08 then s.ringSet cl n.val .rcfg v
    else if o = 0x18 then s.ringSet cl n.val .tail v
    else if o = 0x48 then s.ringCmd cl n.val v.toNat
    else s := by
  have hcl := cl.isLt
  have hd : dieOf cl < 4 := by unfold dieOf; omega
  obtain ⟨htop, hdie, hy, hx, hres, hn, hreg⟩ := ctlOffset_fields (x := xOf cl) (y := yOf cl) (n := n.val) (o := o) hd
    (Nat.mod_lt _ (by decide)) (Nat.mod_lt _ (by decide)) n.isLt (by omega)
  have hoff : addr - 0xFF0000000000 = 2 ^ 24 * dieOf cl + 2 ^ 18 * (8 * yOf cl + xOf cl) + 2 ^ 8 * n.val + o := by omega
  have hctl : isCtl addr = true := by
    have hlt := Nat.lt_of_div_eq_zero (by decide) htop
    unfold isCtl
    simp only [Bool.and_eq_true, decide_eq_true_eq]
    omega
  have hin : ¬((!isCtl addr) = true ∨ 0 ≠ 0 ∨ 0 ≠ 0 ∨ o % 8 ≠ 0 ∨ 0x48 < o) := by simp [hctl, ho8, ho]
  unfold State.ctlWrite
  dsimp only
  rw [hoff, htop, hdie, hx, hy, hres, hn, hreg, clAt_coords, if_neg hin]
  cases b <;> simp only [Option.elim_none, Option.elim_some] <;> rfl

theorem ctlWrite_ctlAddr {reg : RReg} (hreg : reg = .rbase ∨ reg = .rcfg ∨ reg = .tail) : s.ctlWrite b (ctlAddr cl n reg) v =
    if (s.clu cl).isl = .fenced ∨ (s.clu cl).isl = .gated then s.setClu cl { s.clu cl with discards := (s.clu cl).discards + 1 }
    else if b.isSome ∧ b.elim 0xFF s.clPart ≠ s.clPart cl then
      s.refusal (b.elim 0 fun c => unitName c 0x10) (b.elim 0xFF s.clPart) (ctlAddr cl n reg) 4
    else s.ringSet cl n.val reg v := by
  have haddr (o : Nat) : 0xFF0000000000 + 2 ^ 24 * dieOf cl + 2 ^ 18 * (8 * yOf cl + xOf cl) + 2 ^ 8 * n.val + o =
    0xFF0000000000 + (2 ^ 24 * dieOf cl + 2 ^ 18 * (8 * yOf cl + xOf cl) + 2 ^ 8 * n.val + o) := by omega
  obtain rfl | rfl | rfl := hreg
  · exact ctlWrite_block (o := 0x00) (by decide) (by decide) (haddr 0x00)
  · exact ctlWrite_block (o := 0x08) (by decide) (by decide) (haddr 0x08)
  · exact ctlWrite_block (o := 0x18) (by decide) (by decide) (haddr 0x18)

/-- Outside the ring blocks there is nothing to write (R203, R229). -/
theorem ctlWrite_outside {addr : Nat} (h : addr < 0xFF0000000000 ∨ 0xFF0004000000 ≤ addr) :
    s.ctlWrite b addr v = s.refusal (b.elim 0 fun c => unitName c 0x10) (b.elim 0xFF s.clPart) addr 3 := by
  have hout : (!isCtl addr) = true ∨ (addr - 0xFF0000000000) / 2 ^ 26 ≠ 0 := by
    unfold isCtl
    obtain h | h := h
    · exact .inl (by simp [h])
    · exact .inr (by omega)
  unfold State.ctlWrite
  dsimp only
  rw [if_pos (hout.imp_right .inl)]
  cases b <;> simp only [Option.elim_none, Option.elim_some]

end

theorem exec_ctl (s : State) (b : Option Cl) (addr : Nat) (v : Word) : exec (.registerWrite (.ctl b addr) v) s = .next (s.ctlWrite b addr v) := rfl

/-- Settles O25: a write by whether the ring takes it, one to control space by what of the address and the writer its router checks. -/
theorem ringRegistersAreWrittenAndRead : Obligations.RingRegistersAreWrittenAndRead := by
  unfold Obligations.RingRegistersAreWrittenAndRead
  intro s cl n v
  refine ⟨fun reg hreg => ?_, rfl, fun w sd reg hw hcl hsd hi => ?_, fun b addr h => ?_⟩
  · obtain ⟨r, hset⟩ := ringSet_setRing (s := s) (cl := cl) (n := n.val) hreg v
    refine ⟨fun hw => ?_, fun hw => ?_, by rw [hset]; rfl, fun cl' n' hne => ?_, fun w sa hw hcl hsa hv hi => ?_,
      fun hf hg => ⟨fun b hb => ?_, fun c hc => ?_⟩, fun hi b => ?_⟩
    · obtain rfl | rfl | rfl := hreg
      · rw [ringSet_rbase hw, State.ring_setRing]
      · rw [ringSet_rcfg hw, State.ring_setRing]
      · rw [ringSet_tail hw, State.ring_setRing]
    · rw [ringSet_refused hreg hw]
      exact State.ring_setRing ..
    · rw [hset, State.ring_setRing_if s cl cl' n.isLt n'.isLt, if_neg (by simpa [Fin.ext_iff] using hne)]
    · subst hcl hv
      exact ⟨_, exec_rset hreg n.isLt hsa hi, rset_leaves hw hreg _⟩
    · rw [exec_ctl, ctlWrite_ctlAddr hreg, if_neg (by simp [hf, hg]), if_neg]
      rintro ⟨hsome, hpart⟩
      obtain rfl | ⟨c, rfl, hc⟩ := hb
      · exact Bool.false_ne_true hsome
      · exact hpart hc
    · rw [exec_ctl, ctlWrite_ctlAddr hreg, if_neg (by simp [hf, hg]), if_pos ⟨rfl, hc⟩, Option.elim_some, Option.elim_some]
    · rw [exec_ctl, ctlWrite_ctlAddr hreg, if_pos hi]
  · subst hcl
    exact ⟨_, exec_rget n.isLt hsd hi, result_spec ..⟩
  · rw [exec_ctl, ctlWrite_outside h]
    cases b <;> simp only [Option.elim_none, Option.elim_some]

end Sys2Proof.Machine

namespace Sys2Proof.Machine

open Sys2Proof

/-! ### The bytes that a read of an object delivers (R291, R315) -/

theorem leBytes_length (n v : Nat) : (leBytes n v).length = n := by
  induction n generalizing v with
  | zero => rfl
  | succ n ih => exact congrArg (· + 1) (ih (v / 256))

theorem getD_leBytes {n i : Nat} (h : i < n) (v : Nat) : (leBytes n v).getD i 0 = BitVec.ofNat 8 (v / 256 ^ i) := by
  induction n generalizing i v with
  | zero => exact absurd h (Nat.not_lt_zero i)
  | succ n ih =>
    cases i with
    | zero => rw [pow_zero, Nat.div_one]; rfl
    | succ i =>
      rw [pow_succ', ← Nat.div_div_eq_div_mul]
      exact ih (Nat.lt_of_succ_lt_succ h) (v / 256)

/-- A byte of a slice of a number is the number's byte at that offset. -/
theorem byte_sliceNat {n i : Nat} (h : i < n) (v off : Nat) :
    BitVec.ofNat 8 (sliceNat v off n / 256 ^ i) = BitVec.ofNat 8 (v / 256 ^ (off + i)) := by
  have hpow : ∀ k, 256 ^ k = 2 ^ (8 * k) := fun k => by rw [Nat.pow_mul]
  unfold sliceNat
  ext j hj
  simp only [hpow, ← BitVec.getLsbD_eq_getElem, BitVec.getLsbD_ofNat, Nat.testBit_div_two_pow, Nat.testBit_mod_two_pow]
  rw [show j + 8 * i + 8 * off = j + 8 * (off + i) by omega, decide_eq_true (by omega : j + 8 * i < 8 * n), Bool.true_and]

/-- Bytes put one after another from a place on. -/
theorem look_putBytes (bs : List Byte) (n : Nat) (m : SMap Byte) (i : Nat) :
    look 0 ((bs.zipIdx n).foldl (fun m e => put 0 m e.2 e.1) m) i =
      if n ≤ i ∧ i < n + bs.length then bs.getD (i - n) 0 else look 0 m i := by
  induction bs generalizing n m with
  | nil => rw [if_neg (by simp only [List.length_nil]; omega)]; rfl
  | cons b t ih =>
    rw [List.zipIdx_cons, List.foldl_cons, ih, look_put, List.length_cons]
    by_cases hat : i = n
    · subst hat
      rw [if_neg (by omega), if_pos rfl, if_pos (by omega), Nat.sub_self]
      rfl
    · rw [if_neg hat]
      by_cases hin : n + 1 ≤ i ∧ i < n + 1 + t.length
      · rw [if_pos hin, if_pos (by omega), show i - n = (i - (n + 1)) + 1 by omega]
        rfl
      · rw [if_neg hin, if_neg (by omega)]

theorem look_fillBuf (v : Fn) (bs : List Byte) (i : Nat) :
    look 0 (v.fillBuf bs).objBuf i = if i < bs.length then bs.getD i 0 else look 0 v.objBuf i := by
  refine (look_putBytes bs 0 v.objBuf i).trans ?_
  simp only [Nat.zero_le, true_and, Nat.zero_add, Nat.sub_zero]

/-! ### Object requests (R290, R291, R317, R318) -/

/-- Two functions that differ at most in the MSI-X vectors sent and pending. -/
def sameButMsix (a b : Fn) : Prop := b = { a with msixPending := b.msixPending, msixSent0 := b.msixSent0, msixSent1 := b.msixSent1 }

theorem vector_sameButMsix (v : Fn) (k : Nat) : sameButMsix v (v.vector k) := by
  unfold Fn.vector
  split
  · rfl
  · dsimp only
    split
    · rfl
    · rfl

section
variable (v : Fn) (k : Nat)

@[simp] theorem vector_objState : (v.vector k).objState = v.objState := (congrArg Fn.objState (vector_sameButMsix v k) :)
@[simp] theorem vector_objCause : (v.vector k).objCause = v.objCause := (congrArg Fn.objCause (vector_sameButMsix v k) :)
@[simp] theorem vector_objBusy : (v.vector k).objBusy = v.objBusy := (congrArg Fn.objBusy (vector_sameButMsix v k) :)
@[simp] theorem vector_objBuf : (v.vector k).objBuf = v.objBuf := (congrArg Fn.objBuf (vector_sameButMsix v k) :)

end

theorem mem_insWrite {w x : DWrite} {l : List DWrite} : x ∈ insWrite w l ↔ x = w ∨ x ∈ l := by
  induction l with
  | nil => exact List.mem_cons
  | cons y t ih =>
    unfold insWrite
    split
    · exact List.mem_cons
    · rw [List.mem_cons, ih, List.mem_cons]
      exact or_left_comm

/-- The write of OBJ_BUF that function f submits at a hub cycle (R318). -/
def State.submitted (s : State) (f hub : Nat) : DWrite :=
  { field := false, src := fnSource f, fn := f, hub := hub, idx := (s.fn f).objIndex, sub := (s.fn f).objSub, off := 0
    len := objSize (s.fn f).objIndex (s.fn f).objSub, val := (s.fn f).bufNat (objSize (s.fn f).objIndex (s.fn f).objSub) }

section
variable {s : State} {f : Nat}

theorem objRead_begins (h : (s.fn f).objBusy = 0) : s.objRead f = s.setFn f ((s.fn f).request 1
    (s.readCause f (s.fn f).objIndex (s.fn f).objSub) (objSize (s.fn f).objIndex (s.fn f).objSub)) :=
  if_neg (not_not_intro h)

theorem objRead_busy (h : (s.fn f).objBusy ≠ 0) : s.objRead f = s.ctrlBusy f := if_pos h

theorem objWrite_busy (h : (s.fn f).objBusy ≠ 0) (hub : Nat) : s.objWrite f hub = s.ctrlBusy f := if_pos h

theorem objWrite_refused (h : (s.fn f).objBusy = 0) (hc : s.writeCause f (s.fn f).objIndex (s.fn f).objSub ≠ 0) (hub : Nat) :
    s.objWrite f hub = s.setFn f ((s.fn f).request 2 (s.writeCause f (s.fn f).objIndex (s.fn f).objSub)
      (objSize (s.fn f).objIndex (s.fn f).objSub)) :=
  (if_neg (not_not_intro h)).trans (if_pos hc)

theorem objWrite_submits (h : (s.fn f).objBusy = 0) (hc : s.writeCause f (s.fn f).objIndex (s.fn f).objSub = 0) (hub : Nat) :
    s.objWrite f hub = { s.setFn f ((s.fn f).request 2 0 (objSize (s.fn f).objIndex (s.fn f).objSub)) with
      dict := { s.dict with waiting := insWrite (s.submitted f hub) s.dict.waiting } } := by
  refine (if_neg (not_not_intro h)).trans ((if_neg (not_not_intro hc)).trans ?_)
  rw [hc]
  rfl

end

section
variable {s : State} {f : Fx}

theorem exec_objRead (h : s.reach f.val = true) : exec (.objRead f) s = .next (s.objRead f.val) := congrArg Host.Outcome.next (if_pos h)

theorem exec_objWrite (h : s.reach f.val = true) (hub : Nat) : exec (.objWrite f hub) s = .next (s.objWrite f.val hub) :=
  congrArg Host.Outcome.next (if_pos h)

/-- A refused request ends: OBJ_STATUS reads refused with the cause, and vector 1 is sent. -/
theorem exec_objRequestComplete_refused (h : 16 ≤ (s.fn f.val).objBusy) : exec (.objRequestComplete f) s =
    .next (s.setFn f.val (({ s.fn f.val with objState := 3, objCause := (s.fn f.val).objBusy - 16, objBusy := 0 } : Fn).vector 1)) := by
  refine congrArg Host.Outcome.next ((if_neg ?_).trans (if_pos h))
  omega

/-- A read that is served ends with its bytes in OBJ_BUF. -/
theorem exec_objRequestComplete_read (h : (s.fn f.val).objBusy = 1) : exec (.objRequestComplete f) s =
    .next (s.setFn f.val (({ ({ s.fn f.val with objState := 2, objCause := 0 } : Fn).fillBuf
        (leBytes (min 4096 ((s.fn f.val).objLen - (s.fn f.val).reqOff)) (sliceNat (s.objValue f.val (s.fn f.val).reqIndex (s.fn f.val).reqSub)
          (s.fn f.val).reqOff (min 4096 ((s.fn f.val).objLen - (s.fn f.val).reqOff)))) with objBusy := 0 } : Fn).vector 1)) := by
  refine congrArg Host.Outcome.next ((if_neg ?_).trans ((if_neg ?_).trans (if_pos h)))
  · omega
  · omega

/-- A committed write ends, one of PERM_WRITE once the invalidations have been received (R211). -/
theorem exec_objRequestComplete_written (h : (s.fn f.val).objBusy = 3)
    (hp : (s.fn f.val).reqIndex = 0x3013 → s.permSettled ((s.fn f.val).reqSub - 1) = true) : exec (.objRequestComplete f) s =
      .next (s.setFn f.val (({ s.fn f.val with objState := 2, objCause := 0, objBusy := 0 } : Fn).vector 1)) := by
  refine congrArg Host.Outcome.next ((if_neg ?_).trans ((if_neg ?_).trans (if_neg ?_)))
  · rintro (h0 | h2 | ⟨-, hi, hs⟩)
    · omega
    · omega
    · rw [hp hi] at hs
      cases hs
  · omega
  · show ¬(s.fn f.val).objBusy = 1
    omega

theorem exec_objRequestComplete_waits (h : (s.fn f.val).objBusy = 3) (hi : (s.fn f.val).reqIndex = 0x3013)
    (hp : s.permSettled ((s.fn f.val).reqSub - 1) = false) : exec (.objRequestComplete f) s = .next s :=
  congrArg Host.Outcome.next (if_pos (.inr (.inr ⟨h, hi, by rw [hp]; rfl⟩)))

end

/-! ### Semaphores (R289, R298, R299) -/

section
variable {s : State} {f : Fx} (hr : s.reach f.val = true) (k : Fin 10)
include hr

theorem exec_semaRead_aborted {r : SemaAccess} (ha : accessOk r.off r.size = false) : exec (.semaRead f k r) s = .next (s.abort f.val) := by
  refine congrArg Host.Outcome.next ((if_neg ?_).trans (if_pos ?_))
  · rw [hr]; decide
  · rw [ha]; rfl

theorem exec_semaRead_virtual {r : SemaAccess} (ha : accessOk r.off r.size = true) (hf : f.val % 8 ≠ 0) :
    exec (.semaRead f k r) s = .next (s.respond f.val ⟨leBytes r.size 0, [], false⟩) := by
  refine congrArg Host.Outcome.next ((if_neg ?_).trans ((if_neg ?_).trans (if_pos hf)))
  · rw [hr]; decide
  · rw [ha]; decide

/-- A physical function's read: the semaphore as the read makes it, and its token. -/
theorem exec_semaRead {r : SemaAccess} (ha : accessOk r.off r.size = true) (hf : f.val % 8 = 0) {m : Sema}
    (hm : (s.sema k.val).readBy (portB f.val) r.tie s.now = m) : exec (.semaRead f k r) s =
      .next ((s.setSema k.val m).respond f.val
        ⟨leBytes r.size (halfRead (m.token k.val (decide (m.holder = some (portB f.val)))) r.off r.size), [], false⟩) := by
  subst hm
  refine congrArg Host.Outcome.next ((if_neg ?_).trans ((if_neg ?_).trans (if_neg (not_not_intro hf))))
  · rw [hr]; decide
  · rw [ha]; decide

theorem exec_semaRelease_whole (v : Word) : exec (.semaRelease f k 8 v) s = .next (s.semaWrite f.val k.val v.toNat) := by
  refine congrArg Host.Outcome.next ((if_neg ?_).trans (if_pos rfl))
  rw [hr]; decide

theorem exec_semaRelease_half (v : Word) : exec (.semaRelease f k 4 v) s = .next s.ignoredWrite := by
  refine congrArg Host.Outcome.next ((if_neg ?_).trans ((if_neg (by decide)).trans (if_pos rfl)))
  rw [hr]; decide

theorem exec_semaRelease_aborted {n : Nat} (h4 : n ≠ 4) (h8 : n ≠ 8) (v : Word) : exec (.semaRelease f k n v) s = .next (s.abort f.val) := by
  refine congrArg Host.Outcome.next ((if_neg ?_).trans ((if_neg h8).trans (if_neg h4)))
  rw [hr]; decide

end

/-- A free semaphore is granted, in a tie to the port that lost the last one (R299). -/
theorem readBy_free {m : Sema} (h : m.holder = none) (port tie : Bool) (now : Nat) : m.readBy port tie now =
    { m with
      holder := some (if tie then m.tieLoser else port), fieldWrote := false, since := now
      tieLoser := if tie then !m.tieLoser else m.tieLoser } := by
  unfold Sema.readBy
  rw [h]
  cases tie <;> rfl

theorem readBy_held {m : Sema} {q : Bool} (h : m.holder = some q) (port tie : Bool) (now : Nat) : m.readBy port tie now = m := by
  unfold Sema.readBy
  rw [h]

theorem semaWrite_fits {s : State} {f k t : Nat} (h : s.tokenFits f k t = true) : s.semaWrite f k t =
    s.setSema k { s.sema k with holder := none, gen := (s.sema k).gen + 1, ownerLost := false, lossDue := false } := if_pos h

theorem semaWrite_stale {s : State} {f k t : Nat} (h : s.tokenFits f k t = false) : s.semaWrite f k t =
    { s with ports := { s.ports with staleReleases := sat32 s.ports.staleReleases 1 } } := if_neg (by rw [h]; decide)

/-- A holder that loses a semaphore: at once, or marked to lose it after its waiting write. -/
theorem semaLost_left (s : State) (k : Nat) : SemaLeft s k ((s.semaLost k).sema k) ∧ s.semaLost k = { s with ports := (s.semaLost k).ports } := by
  unfold SemaLeft State.semaLost
  split
  · exact ⟨State.sema_setSema .., rfl⟩
  · exact ⟨State.sema_setSema .., rfl⟩

theorem exec_semaHoldExpire_due {s : State} {k : Fin 10} (h : (s.sema k.val).holder ≠ none)
    (hd : (s.sema k.val).since + s.obj 0x7010 1 * 1000000 ≤ s.now) : exec (.semaHoldExpire k) s = .next (s.semaLost k.val) :=
  congrArg Host.Outcome.next (if_pos ⟨Option.isSome_iff_ne_none.2 h, hd⟩)

theorem exec_semaHoldExpire_early {s : State} {k : Fin 10} (h : s.now < (s.sema k.val).since + s.obj 0x7010 1 * 1000000) :
    exec (.semaHoldExpire k) s = .next s :=
  congrArg Host.Outcome.next (if_neg fun hd => Nat.not_le_of_lt h hd.2)

/-! ### The obligation -/

/-- Settles O45: each clause by the equation that says what its command leaves. -/
theorem objectRequestsAndSemaphores : Obligations.ObjectRequestsAndSemaphores := by
  unfold Obligations.ObjectRequestsAndSemaphores
  intro s
  refine ⟨fun f hr h0 => ⟨?read, fun h hc => ?submit, fun h hc => ?refuse⟩, fun f hr hb => ⟨?readBusy, fun h => ?writeBusy⟩,
    fun f => ⟨fun h => ?refused, fun h => ?delivered⟩, fun f h hp => ?written, fun f h hi hp => ?waits,
    fun f k off size tie hr => ⟨fun ha => ?misaligned, fun ha hf => ?virtual, fun ha hf hh => ?granted, fun q ha hf hh => ?held,
      fun v ht => ?released, fun v ht => ?stale, fun v => ?half, fun n v h4 h8 => ?odd⟩,
    fun k => ⟨fun hh hd => ?lost, fun hd => ?early⟩⟩
  case read =>
    rw [Done, exec_objRead hr, objRead_begins h0]
    refine ⟨_, rfl, ?_⟩
    rw [State.fn_setFn]
    exact ⟨rfl, rfl, rfl, rfl, rfl⟩
  case submit =>
    rw [Done, exec_objWrite hr, objWrite_submits h0 hc]
    refine ⟨_, rfl, ?_⟩
    have hfn (v : Fn) (d : Dict) : ({ s.setFn f.val v with dict := d } : State).fn f.val = v := State.fn_setFn ..
    rw [hfn]
    exact ⟨rfl, rfl, ⟨s.submitted f.val h, mem_insWrite.2 (.inl rfl), rfl, rfl, rfl, rfl, rfl, rfl, rfl⟩,
      fun w hw => mem_insWrite.2 (.inr hw), rfl, rfl⟩
  case refuse =>
    rw [Done, exec_objWrite hr, objWrite_refused h0 hc]
    refine ⟨_, rfl, ?_⟩
    rw [State.fn_setFn]
    exact ⟨if_neg hc, rfl⟩
  case readBusy => exact ⟨_, (exec_objRead hr).trans (congrArg _ (objRead_busy hb)), State.fn_setFn .., rfl⟩
  case writeBusy => exact ⟨_, (exec_objWrite hr h).trans (congrArg _ (objWrite_busy hb h)), State.fn_setFn .., rfl⟩
  case refused =>
    rw [Done, exec_objRequestComplete_refused h]
    refine ⟨_, rfl, ?_⟩
    rw [State.fn_setFn, vector_objState, vector_objCause, vector_objBusy, vector_objBuf]
    exact ⟨rfl, rfl, rfl, rfl, rfl⟩
  case delivered =>
    rw [Done, exec_objRequestComplete_read h]
    refine ⟨_, rfl, ?_⟩
    rw [State.fn_setFn, vector_objState, vector_objCause, vector_objBusy, vector_objBuf]
    refine ⟨rfl, rfl, rfl, fun i hi => ?_, fun i hi => ?_, rfl⟩
    · refine (look_fillBuf ..).trans ?_
      rw [leBytes_length, if_pos hi, getD_leBytes hi, byte_sliceNat hi]
    · refine (look_fillBuf ..).trans ?_
      rw [leBytes_length, if_neg (Nat.not_lt.2 hi)]
  case written =>
    rw [Done, exec_objRequestComplete_written h hp]
    refine ⟨_, rfl, ?_⟩
    rw [State.fn_setFn, vector_objState, vector_objCause, vector_objBusy, vector_objBuf]
    exact ⟨rfl, rfl, rfl, rfl, rfl⟩
  case waits => exact ⟨s, exec_objRequestComplete_waits h hi hp, rfl⟩
  case misaligned => exact ⟨_, exec_semaRead_aborted hr k ha, congrArg Fn.resp (State.fn_setFn ..), rfl⟩
  case virtual => exact ⟨_, exec_semaRead_virtual hr k ha hf, congrArg Fn.resp (State.fn_setFn ..), rfl⟩
  case granted =>
    have hm (m : Sema) (r : Resp) : ((s.setSema k.val m).respond f.val r).sema k.val = m := State.sema_setSema ..
    rw [Done, exec_semaRead hr k ha hf (readBy_free hh _ _ _)]
    refine ⟨_, rfl, ?_⟩
    rw [hm]
    exact ⟨rfl, rfl, rfl, rfl, rfl, congrArg Fn.resp (State.fn_setFn ..), rfl⟩
  case held =>
    refine ⟨_, exec_semaRead hr k ha hf (readBy_held hh _ _ _), State.sema_setSema .., ?_, rfl⟩
    refine (congrArg Fn.resp (State.fn_setFn ..)).trans ?_
    rw [hh]
    simp only [Option.some.injEq]
  case released =>
    rw [Done, exec_semaRelease_whole hr, semaWrite_fits ht]
    exact ⟨_, rfl, State.sema_setSema .., rfl⟩
  case stale =>
    rw [Done, exec_semaRelease_whole hr, semaWrite_stale ht]
    exact ⟨_, rfl, rfl, rfl, rfl⟩
  case half => exact ⟨_, exec_semaRelease_half hr k v, rfl, rfl, rfl⟩
  case odd => exact ⟨_, exec_semaRelease_aborted hr k h4 h8 v, congrArg Fn.resp (State.fn_setFn ..), rfl⟩
  case lost => exact ⟨_, exec_semaHoldExpire_due hh hd, semaLost_left s k.val⟩
  case early => exact ⟨s, exec_semaHoldExpire_early hd, rfl⟩

end Sys2Proof.Machine

namespace Sys2Proof.Machine

open Sys2Proof

/-! ### Bytes of a line in stores without syndromes (R212, R249) -/

theorem getLsbD_maskOf (o n i : Nat) : (maskOf o n).getLsbD i = (decide (i < 128) && (decide (o ≤ i) && decide (i - o < n))) := by
  unfold maskOf
  rw [BitVec.getLsbD_ofNat, Nat.testBit_mul_two_pow, Nat.testBit_two_pow_sub_one]

theorem maskAll_eq : maskOf 0 128 = maskAll := by unfold maskOf maskAll; rw [pow_zero, Nat.mul_one]

theorem getD_read {m : Mem} {n i : Nat} (a : Nat) (h : i < n) : (m.read a n).getD i 0 = m.byte (a + i) := by
  unfold Mem.read
  rw [List.getD, List.getElem?_map, List.getElem?_range h]
  rfl

/-- What a copy holds is what is copied. -/
theorem byte_copyFrom {m src : Mem} (hm : m.plain) (hs : src.plain) (a b : Nat) {n i : Nat} (h : i < n) :
    (m.copyFrom src a b n).byte (a + i) = src.byte (b + i) := by
  obtain ⟨hp, hraw⟩ := Mem.copyFrom_plain hm hs a b n
  rw [Mem.byte_plain hp, hraw, if_pos ⟨Nat.le_add_right .., Nat.add_lt_add_left h a⟩, Nat.add_sub_cancel_left, Mem.byte_plain hs]

theorem read_copyFrom {m src : Mem} (hm : m.plain) (hs : src.plain) (a n : Nat) : (m.copyFrom src a a n).read a n = src.read a n :=
  List.map_congr_left fun _ hi => byte_copyFrom hm hs a a (List.mem_range.1 hi)

theorem byte_copyLine {m src : Mem} (hm : m.plain) (hs : src.plain) {a l : Nat} (h : a / 128 = l) : (copyLine m src l).byte a = src.byte a := by
  obtain ⟨hp, hraw⟩ := copyLine_plain hm hs l
  rw [Mem.byte_plain hp, hraw, if_pos h, Mem.byte_plain hs]

theorem byte_write {a i : Nat} {bs : List Byte} (h : i < bs.length) : (Mem.empty.write a bs).byte (a + i) = bs.getD i 0 := by
  obtain ⟨hp, hraw⟩ := Mem.write_plain Mem.plain_empty a bs
  rw [Mem.byte_plain hp, hraw, if_pos ⟨Nat.le_add_right .., Nat.add_lt_add_left h a⟩, Nat.add_sub_cancel_left]

/-- A store without syndromes holds nothing to report. -/
theorem wordErrors_plain {m : Mem} (h : m.plain) (s : State) (key a n source unit part cls : Nat) :
    s.wordErrors m key a n source unit part cls = s := by
  unfold State.wordErrors
  refine foldl_inv (p := fun u : State => u = s) _ s rfl ?_
  rintro u w - rfl
  dsimp only
  rw [Mem.synAt_plain h, Mem.verdict_zero]

/-- The bytes of a line as DRAM holds them, at the line's own addresses. -/
def State.dramLine (s : State) (l : Nat) : Mem := Mem.empty.copyFrom s.dram.mem (128 * l) (s.phys (128 * l)) 128

section
variable {s : State} (hd : s.dram.mem.plain)
include hd

theorem dramLine_plain (l : Nat) : (s.dramLine l).plain := (Mem.copyFrom_plain Mem.plain_empty hd ..).1

theorem byte_dramLine (l : Nat) {i : Nat} (h : i < 128) : (s.dramLine l).byte (128 * l + i) = s.dram.mem.byte (s.phys (128 * l) + i) :=
  byte_copyFrom Mem.plain_empty hd _ _ h

/-- A channel that is up delivers a line that no scrubber holds (R252). -/
theorem chanRead_line {l : Nat} (hup : s.chanDown l = false) (hfree : s.lineHeld l = false) (part cls : Nat) :
    s.chanRead (128 * l) 128 part cls = (s, s.dramLine l, 0) := by
  have hl : lineOf (128 * l) = l := Nat.mul_div_cancel_left l (by decide)
  unfold State.chanRead
  simp only [hl, hup, hfree, Mem.anyBad_plain hd, Mem.anyPoison_plain hd, wordErrors_plain hd, Bool.or_self, Bool.false_eq_true, if_false]
  rfl

end

/-! ### The requests that wait at a cluster while room is made in its cache (R210, R216) -/

/-- The requests that wait at each cluster: for a permission entry, and for a line. -/
def State.waits (s : State) (cl : Cl) : List CReq × List CReq := ((s.clu cl).cache.permWaits, (s.clu cl).cache.fillWaits)

theorem waits_of_clusters {s t : State} (h : t.clusters = s.clusters) : t.waits = s.waits := by
  unfold State.waits State.clu
  rw [h]

/-- A cluster whose cache has the same requests waiting leaves them as they were. -/
theorem waits_setClu {s t : State} (h : t.waits = s.waits) {cl : Cl} {v : Cluster}
    (hv : (v.cache.permWaits, v.cache.fillWaits) = t.waits cl) : (t.setClu cl v).waits = s.waits := by
  rw [← h]
  funext cl'
  show (((t.setClu cl v).clu cl').cache.permWaits, ((t.setClu cl v).clu cl').cache.fillWaits) = t.waits cl'
  rw [State.clu_setClu_if]
  split
  · rename_i he
    rw [he, hv]
  · rfl

theorem clusters_wordErrors (s : State) (m : Mem) (key a n source unit part cls : Nat) :
    (s.wordErrors m key a n source unit part cls).clusters = s.clusters := by rw [wordErrors_only]

theorem clusters_note (s : State) (l : Nat) : (s.note l).clusters = s.clusters := by
  unfold State.note
  dsimp only
  split
  · rfl
  · rfl

theorem clusters_chanTake (s : State) (src : Mem) (l : Nat) (mask : BitVec 128) : (s.chanTake src l mask).clusters = s.clusters := by
  unfold State.chanTake
  split
  · rfl
  · unfold State.chanWrite
    refine (clusters_note ..).trans (foldl_proj (g := State.clusters) _ s fun u w => ?_)
    dsimp only
    split
    · rfl
    · exact clusters_wordErrors ..

theorem clusters_setScrubber (s : State) (ch : Nat) (v : Scrub) : (s.setScrubber ch v).clusters = s.clusters := rfl

theorem clusters_freeLine (s : State) (l : Nat) : (s.freeLine l).clusters = s.clusters := by
  have htake (u : State) (q : WReq) : (u.takeWrite q).clusters = u.clusters := clusters_chanTake ..
  have hcorrect (ch : Nat) : (s.correctHeld ch).clusters = s.clusters := by
    unfold State.correctHeld
    dsimp only
    split
    · rfl
    · rw [foldl_proj (g := State.clusters) _ _ htake, clusters_setScrubber, State.setDram_clusters]
  unfold State.freeLine
  split
  · exact hcorrect _
  · rfl

theorem waits_ackWrite (s : State) (w : Writer) : (s.ackWrite w).waits = s.waits := by
  cases w with
  | writeBack cl l => exact waits_setClu (s := s) rfl rfl
  | ring cl n num =>
    unfold State.ackWrite
    dsimp only
    split
    · exact waits_of_clusters rfl
    · rfl

theorem waits_landWrites (s : State) (p : WReq → Bool) : (s.landWrites p).waits = s.waits := by
  unfold State.landWrites
  refine (foldl_proj (g := State.waits) _ _ fun u q => ?_).trans (waits_of_clusters rfl)
  exact (waits_ackWrite ..).trans (waits_of_clusters ((clusters_chanTake ..).trans (clusters_freeLine ..)))

theorem waits_takeAcks (s : State) (cl : Cl) (l : Nat) : (s.takeAcks cl l).waits = s.waits := by
  unfold State.takeAcks
  split
  · exact (waits_ackWrite ..).trans (waits_of_clusters rfl)
  · rfl

theorem waits_checkLine (s : State) (cl : Cl) (l : Nat) : (s.checkLine cl l).waits = s.waits := by
  unfold State.checkLine
  dsimp only
  have hc := waits_of_clusters (clusters_wordErrors s (s.clu cl).cache.mem (128 * l) (128 * l) 128 0x03 (unitName cl 0x10) (s.clPart cl) 1)
  refine waits_setClu hc ?_
  rw [hc]
  rfl

theorem waits_writeBack (s : State) (cl : Cl) (l : Nat) : (s.writeBack cl l).waits = s.waits := by
  have h := (waits_takeAcks (s.landWrites fun q => decide (q.line = l)) cl l).trans (waits_landWrites ..)
  unfold State.writeBack
  split
  · rfl
  · dsimp only
    split
    · split
      · have hc := (waits_checkLine _ cl l).trans h
        refine waits_setClu ((waits_of_clusters ((clusters_chanTake ..).trans (clusters_freeLine ..))).trans hc) ?_
        rw [waits_of_clusters ((clusters_chanTake ..).trans (clusters_freeLine ..))]
        rfl
      · exact h
    · exact h

theorem waits_evict (s : State) (cl : Cl) (x : Nat) : (s.evict cl x).waits = s.waits := by
  have hc (c : Cache) (h : Hint) : ((c.countEvict h).permWaits, (c.countEvict h).fillWaits) = (c.permWaits, c.fillWaits) := by
    cases h <;> rfl
  unfold State.evict
  exact waits_setClu (waits_writeBack ..) (hc ..)

theorem waits_makeRoom (s : State) (cl : Cl) (l : Nat) : (s.makeRoom cl l).waits = s.waits := by
  unfold State.makeRoom
  dsimp only
  split
  · rfl
  split
  · exact waits_evict ..
  split
  · exact (waits_evict ..).trans (waits_landWrites ..)
  split
  · exact waits_evict ..
  split
  · exact waits_evict ..
  · rfl

theorem waits_clWrite (s : State) (cl : Cl) (src : Mem) (l : Nat) (mask : BitVec 128) (h : Hint) (tag : Nat) :
    (s.clWrite cl src l mask h tag).waits = s.waits := by
  have hm : (s.mergeErrors cl (s.clu cl).cache.mem l mask).clusters = s.clusters := by
    refine foldl_proj (g := State.clusters) _ s fun u w => ?_
    dsimp only
    split
    · rfl
    · exact clusters_wordErrors ..
  have hw := waits_of_clusters hm
  unfold State.clWrite
  split
  · refine waits_setClu hw ?_
    rw [hw]
    rfl
  · exact waits_setClu (waits_makeRoom ..) rfl

/-! ### A line is installed where none was (R214, R216) -/

section
variable {s : State} {cl : Cl} {l : Nat} {m : Mem} (hl : (s.clu cl).cache.line l = none)
include hl

theorem install_absent (h : Hint) (tag : Nat) : s.install cl l m h tag = (s.makeRoom cl l).setClu cl { (s.makeRoom cl l).clu cl with cache :=
    { ((s.makeRoom cl l).clu cl).cache with
      mem := copyLine (Machine.dropLine ((s.makeRoom cl l).clu cl).cache.mem l) m l
      lines := ins ((s.makeRoom cl l).clu cl).cache.lines l ⟨false, maskAll, h, tag, ((s.makeRoom cl l).clu cl).cache.tick, false, false⟩
      tick := ((s.makeRoom cl l).clu cl).cache.tick + 1, fills := ((s.makeRoom cl l).clu cl).cache.fills + 1 } } := by
  unfold State.install
  rw [hl]

theorem waits_install (h : Hint) (tag : Nat) : (s.install cl l m h tag).waits = s.waits := by
  rw [install_absent hl]
  exact waits_setClu (waits_makeRoom ..) rfl

/-- The line stands clean and whole. -/
theorem line_install (h : Hint) (tag : Nat) :
    ∃ e, ((s.install cl l m h tag).clu cl).cache.line l = some e ∧ e.dirty = false ∧ e.mask = maskAll := by
  rw [install_absent hl, State.clu_setClu]
  exact ⟨_, find_ins_same .., rfl, rfl⟩

/-- In a cache without syndromes it has the bytes that it came with. -/
theorem mem_install (hp : (s.clu cl).cache.mem.plain) (hm : m.plain) (h : Hint) (tag : Nat) :
    ((s.install cl l m h tag).clu cl).cache.mem.plain ∧
    ∀ i, i < 128 → ((s.install cl l m h tag).clu cl).cache.mem.byte (128 * l + i) = m.byte (128 * l + i) := by
  have hdrop := (dropLine_plain ((makeRoom_plain s cl l).plain cl hp) l).1
  rw [install_absent hl, State.clu_setClu]
  exact ⟨(copyLine_plain hdrop hm l).1, fun i hi => byte_copyLine hdrop hm (by omega)⟩

end

end Sys2Proof.Machine

namespace Sys2Proof.Machine

open Sys2Proof

/-! ### Answers, refusals and requests that wait (R201, R210, R254) -/

/-- What a refusal leaves: an answer without bytes, and a report of its status and address. -/
def Refused (cl : Cl) (a st : Nat) (s t : State) : Prop :=
  (t.clu cl).cache = { (s.clu cl).cache with lastData := [], lastStatus := st } ∧
  (∃ e, t.mgmt.inbox = s.mgmt.inbox ++ [e] ∧ e.1.status = st ∧ e.1.addr = a) ∧ t = { s with clusters := t.clusters, mgmt := t.mgmt }

section
variable (s : State) (cl : Cl)

theorem cache_answer (bs : List Byte) (st : Nat) :
    ((s.answer cl bs st).clu cl).cache = { (s.clu cl).cache with lastData := bs, lastStatus := st } :=
  congrArg Cluster.cache (State.clu_setClu ..)

theorem line_answer (bs : List Byte) (st l : Nat) : ((s.answer cl bs st).clu cl).cache.line l = (s.clu cl).cache.line l := by
  rw [cache_answer]
  rfl

theorem answer_only (bs : List Byte) (st : Nat) : OnlyMemory s (s.answer cl bs st) := .setClu ..

theorem cache_parkReq (r : CReq) :
    ((s.parkReq cl r).clu cl).cache = { (s.clu cl).cache with fillWaits := (s.clu cl).cache.fillWaits ++ [r] } :=
  congrArg Cluster.cache (State.clu_setClu ..)

theorem refusal_refused (unit part a st : Nat) : Refused cl a st s ((s.refusal unit part a st).answer cl [] st) :=
  ⟨cache_answer .., ⟨_, rfl, rfl, rfl⟩, rfl⟩

theorem refuseReq_refused (r : CReq) (st : Nat) : Refused cl r.addr st s (s.refuseReq cl r st) := refusal_refused ..

end

/-! ### Reads through the cache (R213, R214, R215) -/

section
variable {s : State} {cl : Cl} {a : Nat}

theorem readHits_whole {e : Line} (h : (s.clu cl).cache.line (lineOf a) = some e) (hm : e.mask = maskAll) :
    s.readHits cl none (128 * lineOf a) 128 = true := by
  have hl : lineOf (128 * lineOf a) = lineOf a := Nat.mul_div_cancel_left _ (by decide)
  unfold State.readHits
  dsimp only
  rw [hl, h, Nat.mul_mod_right, maskAll_eq]
  exact decide_eq_true (by rw [hm, BitVec.and_self])

theorem readHits_absent (h : (s.clu cl).cache.line (lineOf a) = none) : s.readHits cl none (128 * lineOf a) 128 = false := by
  have hl : lineOf (128 * lineOf a) = lineOf a := Nat.mul_div_cancel_left _ (by decide)
  unfold State.readHits
  dsimp only
  rw [hl, h]
  rfl

/-- A read that hits a cache without syndromes gets its words as they stand. -/
theorem cacheRead_hit {n : Nat} (hh : s.readHits cl none a n = true) (hp : (s.clu cl).cache.mem.plain) (h : Hint) (tag cls : Nat) (alloc : Bool) :
    s.cacheRead cl none a n h tag cls alloc = (s.setClu cl { s.clu cl with cache := (s.clu cl).cache.touch (lineOf a) h tag },
      Mem.empty.copyFrom (s.clu cl).cache.mem a a n, 0) := by
  unfold State.cacheRead
  simp only [hh, if_true, Mem.anyBad_plain hp, wordErrors_plain hp, Mem.settleBad_plain hp, Mem.fixWords_plain hp, Bool.false_eq_true, if_false]

variable (hl : (s.clu cl).cache.line (lineOf a) = none) {m : Mem}
  (hc : ∀ part cls, s.chanRead (128 * lineOf a) 128 part cls = (s, m, 0)) (tag cls : Nat)
include hl hc

/-- A miss that may install its line does so, unless its hint is dead. -/
theorem cacheRead_installs {h : Hint} (hh : h ≠ .dead) : s.cacheRead cl none (128 * lineOf a) 128 h tag cls true =
    (s.install cl (lineOf a) m h tag,
      Mem.empty.copyFrom ((s.install cl (lineOf a) m h tag).clu cl).cache.mem (128 * lineOf a) (128 * lineOf a) 128, 0) := by
  have hlo : lineOf (128 * lineOf a) = lineOf a := Nat.mul_div_cancel_left _ (by decide)
  unfold State.cacheRead
  simp [hlo, readHits_absent hl, hc, hh]

/-- A dead read, and one that may not install its line, gets the bytes and leaves the cache as it is (R215, R219). -/
theorem cacheRead_passes {h : Hint} {alloc : Bool} (hh : h = .dead ∨ alloc = false) : s.cacheRead cl none (128 * lineOf a) 128 h tag cls alloc =
    (s, Mem.empty.copyFrom (copyLine Mem.empty m (lineOf a)) (128 * lineOf a) (128 * lineOf a) 128, 0) := by
  have hlo : lineOf (128 * lineOf a) = lineOf a := Nat.mul_div_cancel_left _ (by decide)
  have hpass : (!alloc || (((s.clu cl).cache.line (lineOf a)).isNone && decide (h = .dead))) = true := by
    rw [hl]
    obtain rfl | rfl := hh
    · simp
    · rfl
  have hmerged : s.mergedLine cl (lineOf a) m = copyLine Mem.empty m (lineOf a) := by
    unfold State.mergedLine
    rw [hl]
  unfold State.cacheRead
  simp only [hlo, readHits_absent hl, hc, hpass, hmerged, ne_eq, not_true_eq_false, false_and, Bool.false_eq_true, if_false, if_true]

end

/-! ### A request that is served from its cache (R132, R213 to R215) -/

theorem touch_mem (c : Cache) (l : Nat) (h : Hint) (tag : Nat) : (c.touch l h tag).mem = c.mem := by
  unfold Cache.touch
  split
  · rfl
  · rfl

/-- What a request for a whole line that hits leaves: the line's bytes in the answer, and a use of the line noted. -/
def Delivered (cl : Cl) (r : CReq) (s t : State) : Prop :=
  (t.clu cl).cache.lastData = (s.clu cl).cache.mem.read (r.addr / 128 * 128) 128 ∧ (t.clu cl).cache.lastStatus = 0 ∧
  (t.clu cl).cache.mem = (s.clu cl).cache.mem ∧ t = { s with clusters := t.clusters }

section
variable {s : State} {cl : Cl} {r : CReq} (hp : (s.clu cl).cache.mem.plain) (hh : s.readHits cl none (128 * lineOf r.addr) 128 = true)
include hp hh

omit hh in
theorem touched_delivered (h : Hint) (tag : Nat) : Delivered cl r s
    ((s.setClu cl { s.clu cl with cache := (s.clu cl).cache.touch (lineOf r.addr) h tag }).answer cl
      ((Mem.empty.copyFrom (s.clu cl).cache.mem (128 * lineOf r.addr) (128 * lineOf r.addr) 128).read (128 * lineOf r.addr) 128) 0) := by
  unfold Delivered
  rw [cache_answer, State.clu_setClu, read_copyFrom Mem.plain_empty hp, Nat.mul_comm (r.addr / 128)]
  exact ⟨rfl, rfl, touch_mem .., rfl⟩

theorem serveRead_hit (hs : s.requesterSlot cl r.who = none) : Delivered cl r s (s.serveRead cl r) := by
  have hlo : lineOf (128 * lineOf r.addr) = lineOf r.addr := Nat.mul_div_cancel_left _ (by decide)
  have ha : r.addr / 128 * 128 = 128 * lineOf r.addr := Nat.mul_comm ..
  have ht := touched_delivered (r := r) hp r.hint r.tag
  unfold State.serveRead
  simp only [hs, ha, cacheRead_hit hh hp, hlo]
  exact ht

theorem serveFetch_hit : Delivered cl r s (s.serveFetch cl r) := by
  have hlo : lineOf (128 * lineOf r.addr) = lineOf r.addr := Nat.mul_div_cancel_left _ (by decide)
  have ha : r.addr / 128 * 128 = 128 * lineOf r.addr := Nat.mul_comm ..
  have ht := touched_delivered (r := r) hp ((s.clu cl).cache.ownHint (lineOf r.addr)).1 ((s.clu cl).cache.ownHint (lineOf r.addr)).2
  unfold State.serveFetch State.fetchLine
  simp only [ha, cacheRead_hit hh hp, hlo]
  exact ht

end

end Sys2Proof.Machine

namespace Sys2Proof.Machine

open Sys2Proof

/-! ### A write to an ordinary line (R214, R215) -/

section
variable {s : State} {cl : Cl} {r : CReq} {bs : List Byte} (hs : s.requesterSlot cl r.who = none)
include hs

/-- The bytes of a write up to the end of its line go into the cache. -/
theorem serveWrite_ordinary (first : Bool) : s.serveWrite cl r bs first =
    (s.clWrite cl (Mem.empty.write r.addr (bs.take (128 - r.addr % 128))) (lineOf r.addr)
      (maskOf (r.addr % 128) (bs.take (128 - r.addr % 128)).length) r.hint r.tag).answer cl [] 0 := by
  unfold State.serveWrite
  simp only [hs]

/-- The write is answered, its line is dirty, and nothing but memory is touched. -/
theorem serveWrite_leaves (first : Bool) : let t := s.serveWrite cl r bs first
    (t.clu cl).cache.lastStatus = 0 ∧ (∃ e, (t.clu cl).cache.line (lineOf r.addr) = some e ∧ e.dirty = true) ∧
    (t.clu cl).cache.perm = (s.clu cl).cache.perm ∧ (t.clu cl).cache.permWaits = (s.clu cl).cache.permWaits ∧ OnlyMemory s t := by
  dsimp only
  rw [serveWrite_ordinary hs, cache_answer]
  obtain ⟨e, hline, hdirty, -⟩ := line_clWrite s cl (Mem.empty.write r.addr (bs.take (128 - r.addr % 128))) (lineOf r.addr)
    (maskOf (r.addr % 128) (bs.take (128 - r.addr % 128)).length) r.hint r.tag
  exact ⟨rfl, ⟨e, hline, hdirty⟩, (clWrite_perm ..).2 cl, congrArg Prod.fst (congrFun (waits_clWrite ..) cl),
    (clWrite_only ..).trans (answer_only ..)⟩

/-- In a cache without syndromes a write within one line reads back. -/
theorem byte_serveWrite (hp : (s.clu cl).cache.mem.plain) (hin : r.addr % 128 + bs.length ≤ 128) (first : Bool) {i : Nat} (hi : i < bs.length) :
    ((s.serveWrite cl r bs first).clu cl).cache.mem.byte (r.addr + i) = bs.getD i 0 := by
  have htake : bs.take (128 - r.addr % 128) = bs := List.take_of_length_le (by omega)
  rw [serveWrite_ordinary hs, cache_answer, htake]
  have hline : (r.addr + i) / 128 = lineOf r.addr := by unfold lineOf; omega
  have hmask : (maskOf (r.addr % 128) bs.length).getLsbD ((r.addr + i) % 128) = true := by
    rw [getLsbD_maskOf]
    simp only [Bool.and_eq_true, decide_eq_true_eq]
    omega
  exact (byte_clWrite hp (Mem.write_plain Mem.plain_empty ..).1 _ _ _ _ hline hmask).trans (byte_write hi)

end

/-! ### A read miss that the stream detectors take note of (R220) -/

/-- More requests may wait for their lines at a cluster; its lines and its answer are as before. -/
structure AsksMore (cl : Cl) (s t : State) : Prop where
  waits : ∃ more, (t.clu cl).cache.fillWaits = (s.clu cl).cache.fillWaits ++ more
  lines : (t.clu cl).cache.lines = (s.clu cl).cache.lines
  data : (t.clu cl).cache.lastData = (s.clu cl).cache.lastData
  frame : t = { s with clusters := t.clusters }

theorem AsksMore.refl (cl : Cl) (s : State) : AsksMore cl s s := ⟨⟨[], (List.append_nil _).symm⟩, rfl, rfl, rfl⟩

theorem AsksMore.trans {cl : Cl} {s t u : State} (h : AsksMore cl s t) (k : AsksMore cl t u) : AsksMore cl s u := by
  obtain ⟨m, hm⟩ := h.waits
  obtain ⟨n, hn⟩ := k.waits
  refine ⟨⟨m ++ n, by rw [hn, hm, List.append_assoc]⟩, k.lines.trans h.lines, k.data.trans h.data, ?_⟩
  rw [k.frame, h.frame]

theorem AsksMore.setClu {s : State} {cl : Cl} {v : Cluster} (hw : ∃ more, v.cache.fillWaits = (s.clu cl).cache.fillWaits ++ more)
    (hl : v.cache.lines = (s.clu cl).cache.lines) (hd : v.cache.lastData = (s.clu cl).cache.lastData) : AsksMore cl s (s.setClu cl v) :=
  ⟨by rwa [State.clu_setClu], by rwa [State.clu_setClu], by rwa [State.clu_setClu], rfl⟩

theorem AsksMore.permUse (s : State) (cl : Cl) (page : Nat) : AsksMore cl s (s.permUse cl page).1 := by
  obtain ⟨p, hp⟩ := permUse_clu s cl page
  have hc := hp cl
  rw [if_pos rfl] at hc
  exact ⟨⟨[], by rw [hc, List.append_nil]⟩, by rw [hc], by rw [hc], permUse_clusters s cl page⟩

theorem askAhead_asksMore (s : State) (cl : Cl) (who : Requester) (l tag cyc : Nat) : AsksMore cl s (s.askAhead cl who l tag cyc) := by
  refine foldl_inv (p := AsksMore cl s) _ s (.refl cl s) fun u j _ hu => hu.trans ?_
  dsimp only
  split
  · exact .setClu ⟨[], (List.append_nil _).symm⟩ rfl rfl
  split
  · exact .refl cl u
  split
  · refine (AsksMore.permUse u cl ((l + 1 + j) / 16384)).trans (AsksMore.setClu ?_ ?_ ?_)
    · exact ⟨_, rfl⟩
    · rfl
    · rfl
  · exact .permUse ..

theorem detect_asksMore (s : State) (cl : Cl) (who : Requester) (l tag cyc : Nat) : AsksMore cl s (s.detect cl who l tag cyc) := by
  have noted (m : List (Requester × Nat × Nat)) :
      AsksMore cl s (s.setClu cl { s.clu cl with cache := { (s.clu cl).cache with lastMiss := m } }) :=
    .setClu ⟨[], (List.append_nil _).symm⟩ rfl rfl
  have asks {u : State} (h : AsksMore cl s u) (i : Nat) (d : Option Detector) :
      AsksMore cl s ((u.setClu cl { u.clu cl with cache := (u.clu cl).cache.setDetector i d }).askAhead cl who l tag cyc) := by
    refine h.trans ((AsksMore.setClu (v := { u.clu cl with cache := (u.clu cl).cache.setDetector i d }) ?_ rfl rfl).trans (askAhead_asksMore ..))
    exact ⟨[], (List.append_nil _).symm⟩
  unfold State.detect
  split
  · exact .refl cl s
  dsimp only
  split
  · split
    · exact asks (noted _) _ _
    · exact noted _
  split
  · split
    · exact asks (noted _) _ _
    · exact noted _
  · exact noted _

end Sys2Proof.Machine

namespace Sys2Proof.Machine

open Sys2Proof

/-! ### A request whose permission entry is known (R210, R213 to R216) -/

section
variable {s : State} {cl : Cl} {r : CReq} {p : BitVec 4}

theorem serve_refused (h : ((r.kind = .read ∨ r.kind = .prefetch) ∧ permR p = false) ∨ ((∃ bs, r.kind = .write bs) ∧ permW p = false)) :
    s.serve cl p r = s.refuseReq cl r 2 := by
  unfold State.serve
  obtain ⟨hk | hk, hperm⟩ | ⟨⟨bs, hk⟩, hperm⟩ := h
  all_goals simp only [hk, hperm, Bool.not_false, if_true]

theorem serve_fetch_refused (hx : permX p = false) :
    (r.kind = .runahead → s.serve cl p r = s) ∧ (r.kind = .ifetch → s.serve cl p r = s.answer cl [] 2) := by
  unfold State.serve
  refine ⟨fun hk => ?_, fun hk => ?_⟩
  · simp only [hk, hx, Bool.not_false, if_true]
  · simp only [hk, hx, Bool.not_false, if_true]

theorem serve_read_hit (hk : r.kind = .read) (hperm : permR p = true) (hb : s.lineBusy cl (lineOf r.addr) = false)
    (hh : s.readHits cl (s.requesterSlot cl r.who) (128 * lineOf r.addr) 128 = true) : s.serve cl p r = s.serveRead cl r := by
  unfold State.serve
  simp only [hk, hperm, hb, hh, Bool.not_true, Bool.false_eq_true, if_false, if_true]

theorem serve_read_miss (hk : r.kind = .read) (hperm : permR p = true) (hb : s.lineBusy cl (lineOf r.addr) = false)
    (hh : s.readHits cl (s.requesterSlot cl r.who) (128 * lineOf r.addr) 128 = false) :
    s.serve cl p r = (s.parkReq cl r).detect cl r.who (lineOf r.addr) r.tag r.cyc := by
  unfold State.serve
  simp only [hk, hperm, hb, hh, Bool.not_true, Bool.false_eq_true, if_false]

theorem serve_fetch_hit (hk : r.kind = .ifetch ∨ r.kind = .runahead) (hperm : permX p = true) (hb : s.lineBusy cl (lineOf r.addr) = false)
    (hh : s.readHits cl none (128 * lineOf r.addr) 128 = true) : s.serve cl p r = s.serveFetch cl r := by
  unfold State.serve
  obtain hk | hk := hk
  all_goals simp only [hk, hperm, hb, hh, Bool.not_true, Bool.not_false, Bool.and_self, Bool.false_eq_true, if_false, if_true]

/-- A fetch and a prefetch of an absent line wait for it (R213, R216). -/
theorem serve_absent (hk : ((r.kind = .ifetch ∨ r.kind = .runahead) ∧ permX p = true) ∨ (r.kind = .prefetch ∧ permR p = true))
    (hl : (s.clu cl).cache.line (lineOf r.addr) = none) : s.serve cl p r = s.parkReq cl r := by
  unfold State.serve
  obtain ⟨hk | hk, hperm⟩ | ⟨hk, hperm⟩ := hk
  all_goals simp only [hk, hperm, hl, readHits_absent hl, Bool.not_true, Bool.false_and, Option.isSome_none, Bool.false_eq_true, if_false]

/-- A read and a write of a line that a commit is at work on wait for its end (R134). -/
theorem serve_busy (hk : (r.kind = .read ∧ permR p = true) ∨ ((∃ bs, r.kind = .write bs) ∧ permW p = true))
    (hb : s.lineBusy cl (lineOf r.addr) = true) : s.serve cl p r = s.parkReq cl r := by
  unfold State.serve
  obtain ⟨hk, hperm⟩ | ⟨⟨bs, hk⟩, hperm⟩ := hk
  all_goals simp only [hk, hperm, hb, Bool.not_true, Bool.false_eq_true, if_false, if_true]

theorem serve_prefetch_present (hk : r.kind = .prefetch) (hperm : permR p = true) {e : Line}
    (hl : (s.clu cl).cache.line (lineOf r.addr) = some e) : s.serve cl p r = s.answer cl [] 0 := by
  unfold State.serve
  simp only [hk, hperm, hl, Bool.not_true, Option.isSome_some, Bool.false_eq_true, if_false, if_true]

theorem serve_write {bs : List Byte} (hk : r.kind = .write bs) (hperm : permW p = true) (hb : s.lineBusy cl (lineOf r.addr) = false) :
    s.serve cl p r = s.serveWrite cl r bs true := by
  unfold State.serve
  simp only [hk, hperm, hb, Bool.not_true, Bool.false_eq_true, if_false]

/-- A read, or a fetch, of a line that is present whole gets its bytes. -/
theorem serve_delivers {e : Line}
    (hk : (r.kind = .read ∧ permR p = true ∧ s.requesterSlot cl r.who = none) ∨ ((r.kind = .ifetch ∨ r.kind = .runahead) ∧ permX p = true))
    (hb : s.lineBusy cl (lineOf r.addr) = false) (hl : (s.clu cl).cache.line (lineOf r.addr) = some e) (hm : e.mask = maskAll)
    (hp : (s.clu cl).cache.mem.plain) : Delivered cl r s (s.serve cl p r) := by
  have hh := readHits_whole hl hm
  obtain ⟨hk, hperm, hs⟩ | ⟨hk, hperm⟩ := hk
  · rw [serve_read_hit hk hperm hb (by rw [hs, hh])]
    exact serveRead_hit hp hh hs
  · rw [serve_fetch_hit hk hperm hb hh]
    exact serveFetch_hit hp hh

/-- A read of an absent line waits for it; the stream detectors may ask for more. -/
theorem serve_read_absent (hk : r.kind = .read) (hperm : permR p = true) (hs : s.requesterSlot cl r.who = none)
    (hl : (s.clu cl).cache.line (lineOf r.addr) = none) : AsksMore cl (s.parkReq cl r) (s.serve cl p r) := by
  cases hb : s.lineBusy cl (lineOf r.addr)
  · rw [serve_read_miss hk hperm hb (by rw [hs, readHits_absent hl])]
    exact detect_asksMore ..
  · rw [serve_busy (.inl ⟨hk, hperm⟩) hb]
    exact .refl ..

end

/-! ### CACHE_REQUEST (R201, R203, R210) -/

section
variable {s : State} {cl : Cl} {r : CReq} (hi : (s.clu cl).isl = .running)
include hi

/-- Outside DRAM a request is refused; an instruction read ahead is dropped. -/
theorem exec_cacheRequest_outside (hd : isDram r.addr = false) :
    (r.kind = .runahead → exec (.cacheRequest cl r) s = .next s) ∧
    (r.kind ≠ .runahead → exec (.cacheRequest cl r) s = .next (s.refuseReq cl r 3)) := by
  show (_ → execCacheRequest cl r s = _) ∧ (_ → execCacheRequest cl r s = _)
  unfold execCacheRequest
  rw [hd, if_neg (not_not_intro hi)]
  refine ⟨fun hk => ?_, fun hk => ?_⟩
  · rw [hk]
    rfl
  · cases h : r.kind
    case runahead => exact absurd h hk
    all_goals rfl

variable (hd : isDram r.addr = true)
include hd

/-- A ring of another partition is refused UNOWNED. -/
theorem exec_cacheRequest_foreign {c : Cl} {n : Rn} (hw : r.who = .peer c n) (hp : s.clPart c ≠ s.clPart cl) :
    exec (.cacheRequest cl r) s = .next ((s.refusal (unitName cl 0x10) (s.clPart c) r.addr 4).answer cl [] 4) := by
  show execCacheRequest cl r s = _
  unfold execCacheRequest
  simp only [hi, hd, hw, hp, ne_eq, not_true_eq_false, not_false_eq_true, decide_true, Bool.not_true, Bool.false_eq_true, if_false, if_true]

variable (ho : ∀ c n, r.who = .peer c n → s.clPart c = s.clPart cl)
include ho

/-- Any other request goes on with the cached permission entry, or waits for it. -/
theorem exec_cacheRequest_own : exec (.cacheRequest cl r) s = .next (((s.clu cl).cache.perm.find? fun e => e.1 = r.addr / 2 ^ 21).elim
    (s.setClu cl { s.clu cl with cache := { (s.clu cl).cache with permWaits := (s.clu cl).cache.permWaits ++ [r] } })
    fun e => s.serve cl e.2 r) := by
  show execCacheRequest cl r s = _
  unfold execCacheRequest
  have hout : (!isDram r.addr) = false := by rw [hd]; rfl
  dsimp only
  rw [if_neg (not_not_intro hi), hout, if_neg Bool.false_ne_true, if_neg]
  · cases (s.clu cl).cache.perm.find? fun e => e.1 = r.addr / 2 ^ 21
    · rfl
    · rfl
  · cases hw : r.who with
    | peer c n => exact fun hf => of_decide_eq_true hf (ho c n hw)
    | core => exact Bool.false_ne_true
    | steward => exact Bool.false_ne_true
    | ring => exact Bool.false_ne_true

theorem exec_cacheRequest_uncached (hp : ∀ e ∈ (s.clu cl).cache.perm, e.1 ≠ r.addr / 2 ^ 21) : exec (.cacheRequest cl r) s =
    .next (s.setClu cl { s.clu cl with cache := { (s.clu cl).cache with permWaits := (s.clu cl).cache.permWaits ++ [r] } }) := by
  rw [exec_cacheRequest_own hi hd ho, List.find?_eq_none.2 fun e he h => hp e he (of_decide_eq_true h)]
  rfl

theorem exec_cacheRequest_cached {e : Nat × BitVec 4} (hp : ((s.clu cl).cache.perm.find? fun e => e.1 = r.addr / 2 ^ 21) = some e) :
    exec (.cacheRequest cl r) s = .next (s.serve cl e.2 r) := by
  rw [exec_cacheRequest_own hi hd ho, hp]
  rfl

end

/-! ### PERMISSION_CACHE_FILL (R210) -/

/-- The requests that wait for the entry of a page are taken off the list. -/
def State.permTaken (s : State) (cl : Cl) (page : Nat) : State :=
  s.setClu cl { s.clu cl with cache := { (s.clu cl).cache with permWaits := (s.clu cl).cache.permWaits.filter fun r => r.addr / 2 ^ 21 ≠ page } }

/-- And the entry of the page is cached. -/
def State.permFilled (s : State) (cl : Cl) (page : Nat) : State := ((s.permTaken cl page).permUse cl page).1

theorem permUse_uncached {s : State} {cl : Cl} {page : Nat} (h : ∀ e ∈ (s.clu cl).cache.perm, e.1 ≠ page) : s.permUse cl page =
    (s.setClu cl { s.clu cl with cache := { (s.clu cl).cache with perm := ((page, s.permEntry (s.clPart cl) page) :: (s.clu cl).cache.perm).take 256 } },
      s.permEntry (s.clPart cl) page) := by
  unfold State.permUse
  dsimp only
  rw [List.find?_eq_none.2 fun e he hp => h e he (of_decide_eq_true hp)]

section
variable {s : State} {cl : Cl} {page : Nat}

theorem permFilled_frame (s : State) (cl : Cl) (page : Nat) : s.permFilled cl page = { s with clusters := (s.permFilled cl page).clusters } := by
  unfold State.permFilled
  rw [permUse_clusters]
  rfl

variable (hp : ∀ e ∈ (s.clu cl).cache.perm, e.1 ≠ page)
include hp

theorem permUse_permTaken : (s.permTaken cl page).permUse cl page =
    ((s.permTaken cl page).setClu cl { (s.permTaken cl page).clu cl with cache := { ((s.permTaken cl page).clu cl).cache with
      perm := ((page, s.permEntry (s.clPart cl) page) :: ((s.permTaken cl page).clu cl).cache.perm).take 256 } },
      s.permEntry (s.clPart cl) page) :=
  permUse_uncached (by unfold State.permTaken; rwa [State.clu_setClu])

theorem clu_permFilled : (s.permFilled cl page).clu cl = { s.clu cl with cache := { (s.clu cl).cache with
    permWaits := (s.clu cl).cache.permWaits.filter fun r => r.addr / 2 ^ 21 ≠ page
    perm := ((page, s.permEntry (s.clPart cl) page) :: (s.clu cl).cache.perm).take 256 } } := by
  unfold State.permFilled
  rw [permUse_permTaken hp, State.clu_setClu]
  unfold State.permTaken
  rw [State.clu_setClu]

/-- The entry that arrives serves the one request that waited for it. -/
theorem exec_permissionCacheFill {r : CReq} (hi : (s.clu cl).isl = .running)
    (hr : ((s.clu cl).cache.permWaits.filter fun q => q.addr / 2 ^ 21 = page) = [r]) :
    exec (.permissionCacheFill cl page) s = .next ((s.permFilled cl page).serve cl (s.permEntry (s.clPart cl) page) r) := by
  show execPermissionCacheFill cl page s = _
  have hgo : ¬([r] = [] ∨ (s.clu cl).isl ≠ .running) := by simp [hi]
  have he : ((s.permTaken cl page).permUse cl page).2 = s.permEntry (s.clPart cl) page := by rw [permUse_permTaken hp]
  unfold execPermissionCacheFill
  dsimp only
  rw [hr, if_neg hgo]
  refine congrArg Host.Outcome.next ?_
  rw [← he]
  rfl

theorem requesterSlot_permFilled (who : Requester) : (s.permFilled cl page).requesterSlot cl who = s.requesterSlot cl who := by
  unfold State.requesterSlot State.slotOf
  rw [clu_permFilled hp, permFilled_frame]
  rfl

theorem lineBusy_permFilled (l : Nat) : (s.permFilled cl page).lineBusy cl l = s.lineBusy cl l := by
  unfold State.lineBusy
  rw [clu_permFilled hp]

end

/-! ### CACHE_FILL (R213 to R216, R219) -/

/-- The requests that wait for a line are taken off the list. -/
def State.fillTaken (s : State) (cl : Cl) (l : Nat) : State :=
  s.setClu cl { s.clu cl with cache := { (s.clu cl).cache with fillWaits := (s.clu cl).cache.fillWaits.filter fun r => lineOf r.addr ≠ l } }

/-- A line that arrives serves the one request that waited for it. -/
theorem exec_cacheFill {s : State} {cl : Cl} {l : Nat} {r : CReq} (hi : (s.clu cl).isl = .running)
    (hr : ((s.clu cl).cache.fillWaits.filter fun q => lineOf q.addr = l) = [r]) :
    exec (.cacheFill cl l) s = .next ((s.fillTaken cl l).serveFill cl r) := by
  show execCacheFill cl l s = _
  have hgo : ¬([r] = [] ∨ (s.clu cl).isl ≠ .running) := by simp [hi]
  unfold execCacheFill
  dsimp only
  rw [hr, if_neg hgo]
  rfl

/-- The bytes that a read gets of the line that it brings into the cache. -/
def State.broughtLine (s : State) (cl : Cl) (l : Nat) (h : Hint) (tag : Nat) : List Byte :=
  (Mem.empty.copyFrom ((s.install cl l (s.dramLine l) h tag).clu cl).cache.mem (128 * l) (128 * l) 128).read (128 * l) 128

theorem getD_broughtLine {s : State} {cl : Cl} {l : Nat} (hl : (s.clu cl).cache.line l = none) (hd : s.dram.mem.plain) (hp : (s.clu cl).cache.mem.plain)
    (h : Hint) (tag : Nat) {i : Nat} (hi : i < 128) : (s.broughtLine cl l h tag).getD i 0 = s.dram.mem.byte (s.phys (128 * l) + i) := by
  obtain ⟨hplain, hbytes⟩ := mem_install hl hp (dramLine_plain hd l) h tag
  unfold State.broughtLine
  rw [read_copyFrom Mem.plain_empty hplain, getD_read _ hi, hbytes i hi, byte_dramLine hd l hi]

/-- The bytes of a line that is read past the cache. -/
def State.passedLine (s : State) (l : Nat) : List Byte :=
  (Mem.empty.copyFrom (copyLine Mem.empty (s.dramLine l) l) (128 * l) (128 * l) 128).read (128 * l) 128

theorem getD_passedLine {s : State} (hd : s.dram.mem.plain) (l : Nat) {i : Nat} (hi : i < 128) :
    (s.passedLine l).getD i 0 = s.dram.mem.byte (s.phys (128 * l) + i) := by
  have hline := (copyLine_plain Mem.plain_empty (dramLine_plain hd l) l).1
  unfold State.passedLine
  rw [read_copyFrom Mem.plain_empty hline, getD_read _ hi, byte_copyLine Mem.plain_empty (dramLine_plain hd l) (by omega), byte_dramLine hd l hi]

section
variable {s : State} {cl : Cl} {r : CReq} (hl : (s.clu cl).cache.line (lineOf r.addr) = none) (hd : s.dram.mem.plain)
  (hb : s.lineBusy cl (lineOf r.addr) = false) (hup : s.chanDown (lineOf r.addr) = false) (hfree : s.lineHeld (lineOf r.addr) = false)
include hl hd hb hup hfree

theorem serveFill_prefetch (hk : r.kind = .prefetch) : s.serveFill cl r =
    (s.install cl (lineOf r.addr) (s.dramLine (lineOf r.addr)) r.hint r.tag).answer cl [] 0 := by
  unfold State.serveFill
  simp [hk, hb, hl, chanRead_line hd hup hfree, retryStatus]

theorem serveFill_read (hk : r.kind = .read) (hs : s.requesterSlot cl r.who = none) (hh : r.hint ≠ .dead) (ho : ∀ c n, r.who ≠ .peer c n) :
    s.serveFill cl r = (s.install cl (lineOf r.addr) (s.dramLine (lineOf r.addr)) r.hint r.tag).answer cl
      (s.broughtLine cl (lineOf r.addr) r.hint r.tag) 0 := by
  have ha : r.addr / 128 * 128 = 128 * lineOf r.addr := Nat.mul_comm ..
  have hread := cacheRead_installs hl (fun part cls => chanRead_line hd hup hfree part cls) r.tag 2 hh
  unfold State.serveFill State.serveRead
  cases hw : r.who with
  | peer c n => exact absurd hw (ho c n)
  | _ =>
    rw [hw] at hs
    simp [hk, hb, hs, ha, hread, State.broughtLine]

/-- A dead read, a read from another cluster and a fetch get their line and keep none of it (R213, R215, R219). -/
theorem serveFill_passes (hs : s.requesterSlot cl r.who = none)
    (hk : (r.kind = .read ∧ (r.hint = .dead ∨ ∃ c n, r.who = .peer c n)) ∨ r.kind = .ifetch ∨ r.kind = .runahead) :
    s.serveFill cl r = s.answer cl (s.passedLine (lineOf r.addr)) 0 := by
  have ha : r.addr / 128 * 128 = 128 * lineOf r.addr := Nat.mul_comm ..
  have hread (h : Hint) (tag : Nat) {alloc : Bool} (hh : h = .dead ∨ alloc = false) :=
    cacheRead_passes hl (fun part cls => chanRead_line hd hup hfree part cls) tag 2 hh
  have hfetch : s.serveFetch cl r = s.answer cl (s.passedLine (lineOf r.addr)) 0 := by
    unfold State.serveFetch State.fetchLine
    simp only [ha, hread _ _ (.inr (readHits_absent hl)), ne_eq, not_true_eq_false, if_false]
    rfl
  have hdead (hh : r.hint = .dead ∨ ∃ c n, r.who = .peer c n) : s.serveRead cl r = s.answer cl (s.passedLine (lineOf r.addr)) 0 := by
    unfold State.serveRead
    obtain hh | ⟨c, n, hw⟩ := hh
    · simp only [ha, hs, hread r.hint r.tag (.inl hh), ne_eq, not_true_eq_false, OfNat.zero_ne_ofNat, if_false]
      rfl
    · rw [hw] at hs
      simp only [ha, hw, hs, hread r.hint r.tag (.inr rfl), ne_eq, not_true_eq_false, OfNat.zero_ne_ofNat, if_false]
      rfl
  unfold State.serveFill
  obtain ⟨hk, hh⟩ | hk | hk := hk
  · simp only [hb, hk, hdead hh, Bool.false_eq_true, if_false]
  · simp only [hb, hk, hfetch, Bool.false_eq_true, if_false]
  · simp only [hb, hk, hfetch, Bool.false_eq_true, if_false]

end

end Sys2Proof.Machine

namespace Sys2Proof.Machine

open Sys2Proof

/-! ### Detectors and pages (R211, R220) -/

theorem detector_setDetector (c : Cache) (i j : Fin 8) (d : Option Detector) :
    (c.setDetector i.val d).detector j.val = if j = i then d else c.detector j.val := by
  show (((List.range 8).map c.detector).set i.val d)[j.val]?.join = _
  have hlen : i.val < ((List.range 8).map c.detector).length := by rw [List.length_map, List.length_range]; exact i.isLt
  rw [List.getElem?_set, if_pos hlen]
  by_cases h : j = i
  · rw [if_pos (congrArg Fin.val h).symm, if_pos h]
    rfl
  · rw [if_neg fun hv => h (Fin.ext hv.symm), if_neg h, List.getElem?_map, List.getElem?_range j.isLt]
    rfl

theorem exec_streamDetectorTimeout {s : State} (h : s.power.tripped = false) (cl : Cl) (i : Fin 8) : exec (.streamDetectorTimeout cl i) s =
    .next (s.setClu cl { s.clu cl with cache := (s.clu cl).cache.setDetector i.val none }) :=
  congrArg Host.Outcome.next (if_neg (by rw [h]; decide))

theorem exec_permissionInvalidate {s : State} (h : s.power.tripped = false) (cl : Cl) (page : Nat) :
    exec (.permissionInvalidate cl page) s = .next (s.permDrop cl page) :=
  congrArg Host.Outcome.next (if_neg (by rw [h]; decide))

theorem cache_permDrop (s : State) (cl : Cl) (page : Nat) : ((s.permDrop cl page).clu cl).cache =
    { (s.clu cl).cache with perm := (s.clu cl).cache.perm.filter fun e => e.1 ≠ page } :=
  congrArg Cluster.cache (State.clu_setClu ..)

/-! ### A fill that keeps its line (R214, R220) -/

/-- A line that has been brought into the cache: clean and whole, with the bytes of DRAM, answered, and with no request left that waits for it. -/
def Brought (cl : Cl) (l : Nat) (s t : State) : Prop :=
  (∃ e, (t.clu cl).cache.line l = some e ∧ e.dirty = false ∧ e.mask = maskAll) ∧ (t.clu cl).cache.lastStatus = 0 ∧
  (∀ i, i < 128 → (t.clu cl).cache.mem.byte (128 * l + i) = s.dram.mem.byte (s.phys (128 * l) + i)) ∧
  (t.clu cl).cache.fillWaits = ((s.clu cl).cache.fillWaits.filter fun q => lineOf q.addr ≠ l) ∧ OnlyMemory s t

section
variable {s : State} {cl : Cl} {l : Nat}

theorem cache_fillTaken (s : State) (cl : Cl) (l : Nat) : ((s.fillTaken cl l).clu cl).cache =
    { (s.clu cl).cache with fillWaits := (s.clu cl).cache.fillWaits.filter fun r => lineOf r.addr ≠ l } :=
  congrArg Cluster.cache (State.clu_setClu ..)

theorem fillTaken_only (s : State) (cl : Cl) (l : Nat) : OnlyMemory s (s.fillTaken cl l) := .setClu ..

theorem line_fillTaken (hl : (s.clu cl).cache.line l = none) : ((s.fillTaken cl l).clu cl).cache.line l = none := by
  rw [cache_fillTaken]
  exact hl

theorem dramLine_fillTaken (l' : Nat) : (s.fillTaken cl l).dramLine l' = s.dramLine l' := rfl

theorem plain_fillTaken (hp : (s.clu cl).cache.mem.plain) : ((s.fillTaken cl l).clu cl).cache.mem.plain := by
  rw [cache_fillTaken]
  exact hp

theorem requesterSlot_fillTaken (who : Requester) : (s.fillTaken cl l).requesterSlot cl who = s.requesterSlot cl who := by
  unfold State.fillTaken State.requesterSlot State.slotOf
  rw [State.clu_setClu]
  rfl

theorem lineBusy_fillTaken (l' : Nat) : (s.fillTaken cl l).lineBusy cl l' = s.lineBusy cl l' := by
  unfold State.fillTaken State.lineBusy
  rw [State.clu_setClu]

theorem fillTaken_brought (hl : (s.clu cl).cache.line l = none) (hd : s.dram.mem.plain) (hp : (s.clu cl).cache.mem.plain) (h : Hint) (tag : Nat)
    (bs : List Byte) : Brought cl l s (((s.fillTaken cl l).install cl l (s.dramLine l) h tag).answer cl bs 0) := by
  have hl' := line_fillTaken hl
  have hp' := plain_fillTaken (l := l) hp
  obtain ⟨e, hline, hclean, hwhole⟩ := line_install (m := s.dramLine l) hl' h tag
  obtain ⟨-, hbytes⟩ := mem_install hl' hp' (dramLine_plain hd l) h tag
  have hwaits := congrArg Prod.snd (congrFun (waits_install (m := s.dramLine l) hl' h tag) cl)
  refine ⟨⟨e, (line_answer ..).trans hline, hclean, hwhole⟩, congrArg Cache.lastStatus (cache_answer ..), fun i hi => ?_, ?_, ?_⟩
  · rw [cache_answer]
    exact (hbytes i hi).trans (byte_dramLine hd l hi)
  · rw [cache_answer]
    exact hwaits.trans (congrArg Cache.fillWaits (cache_fillTaken s cl l))
  · exact (fillTaken_only ..).trans ((install_only ..).trans (answer_only ..))

end

/-- Settles O38: each request by the branch of `serve` that its entry and its line select, each fill by what it brings. -/
theorem cacheRequestsFillsAndInvalidations : Obligations.CacheRequestsFillsAndInvalidations := by
  unfold Obligations.CacheRequestsFillsAndInvalidations
  refine ⟨fun s cl r hi => ⟨fun hd => ⟨fun hk => ?outsideAhead, fun hk => ?outside⟩, fun c n hd hw hp => ?foreign,
    fun ho hd => ⟨fun hp => ?uncached, fun p hp => ?cached⟩⟩, fun s cl => ⟨fun page r bs hi hr hp hk hs hb => ?permFill,
      fun l r hi hr hs hl hd hc hb hup hfree => ?fill, fun ht i => ?timeout, fun ht page => ?invalidate⟩⟩
  case outsideAhead => exact (exec_cacheRequest_outside hi hd).1 hk
  case outside => exact ⟨_, (exec_cacheRequest_outside hi hd).2 hk, refuseReq_refused ..⟩
  case foreign => exact ⟨_, exec_cacheRequest_foreign hi hd hw hp, refusal_refused ..⟩
  case uncached => exact ⟨_, exec_cacheRequest_uncached hi hd ho hp, congrArg Cluster.cache (State.clu_setClu ..), rfl⟩
  case cached =>
    have he := exec_cacheRequest_cached hi hd ho hp
    refine ⟨fun h => ⟨_, he, ?refused⟩, fun e h hb hl hm hc => ⟨_, he, ?hit⟩, fun hk hperm hs hl => ⟨_, he, ?absent⟩,
      fun hk hl => ⟨_, he, ?asked⟩, fun hk hb => ⟨_, he, ?busy⟩, fun hk hperm hl => ⟨_, he, ?present⟩,
      fun hx => ⟨fun hk => ?ahead, fun hk => ⟨_, he, ?fetch⟩⟩, fun bs hk hperm hs hb hn hin hc => ⟨_, he, ?write⟩⟩
    case refused =>
      rw [serve_refused h]
      exact refuseReq_refused ..
    case hit => exact serve_delivers h hb hl hm hc
    case absent =>
      obtain ⟨⟨more, hmore⟩, hlines, hdata, hframe⟩ := serve_read_absent hk hperm hs hl
      rw [cache_parkReq] at hmore hlines hdata
      refine ⟨⟨more, ?_⟩, hlines, hdata, ?_⟩
      · rw [hmore, List.append_assoc]
        rfl
      · rw [hframe]
        rfl
    case asked =>
      rw [serve_absent hk hl]
      exact ⟨cache_parkReq .., rfl⟩
    case busy =>
      rw [serve_busy hk hb]
      exact ⟨cache_parkReq .., rfl⟩
    case present =>
      obtain ⟨e, hl⟩ := hl
      rw [serve_prefetch_present hk hperm hl]
      exact ⟨cache_answer .., rfl⟩
    case ahead => rw [he, (serve_fetch_refused hx).1 hk]
    case fetch =>
      rw [(serve_fetch_refused hx).2 hk]
      exact ⟨cache_answer .., rfl⟩
    case write =>
      obtain ⟨hst, hline, -, -, hframe⟩ := serveWrite_leaves (r := r) (bs := bs) hs true
      rw [serve_write hk hperm hb]
      exact ⟨hst, hline, fun i h => byte_serveWrite hs hc hin true h, hframe⟩
  case permFill =>
    have he := exec_permissionCacheFill hp hi hr
    have hs' : (s.permFilled cl page).requesterSlot cl r.who = none := by rw [requesterSlot_permFilled hp, hs]
    have hb' : (s.permFilled cl page).lineBusy cl (lineOf r.addr) = false := by rw [lineBusy_permFilled hp, hb]
    have hclu := clu_permFilled hp
    have hframe := permFilled_frame s cl page
    refine ⟨fun hperm => ⟨_, he, ?written⟩, fun hperm => ⟨_, he, ?denied⟩⟩
    case written =>
      obtain ⟨hst, hline, hkept, hwaits, honly⟩ := serveWrite_leaves (r := r) (bs := bs) hs' true
      rw [hclu] at hkept hwaits
      rw [serve_write hk hperm hb']
      exact ⟨hkept, hwaits, hline, hst, (OnlyMemory.of (by rw [hframe])).trans honly⟩
    case denied =>
      obtain ⟨hcache, ⟨e, hinbox, hstatus, -⟩, ht⟩ := refuseReq_refused (s.permFilled cl page) cl r 2
      rw [hclu] at hcache
      rw [serve_refused (.inr ⟨⟨bs, hk⟩, hperm⟩), hcache]
      refine ⟨rfl, rfl, rfl, ⟨e, ?_, hstatus⟩, ?_⟩
      · rw [hinbox, hframe]
      · rw [ht, hframe]
  case fill =>
    have hmem : r ∈ (s.clu cl).cache.fillWaits.filter fun q => lineOf q.addr = l := by
      rw [hr]
      exact List.mem_singleton_self r
    obtain rfl : lineOf r.addr = l := of_decide_eq_true (List.mem_filter.1 hmem).2
    have he := exec_cacheFill hi hr
    have hl' := line_fillTaken hl
    have hs' : (s.fillTaken cl (lineOf r.addr)).requesterSlot cl r.who = none := (requesterSlot_fillTaken _).trans hs
    have hb' : (s.fillTaken cl (lineOf r.addr)).lineBusy cl (lineOf r.addr) = false := (lineBusy_fillTaken _).trans hb
    refine ⟨fun hk hh ho => ⟨_, he, ?keep⟩, fun hk => ⟨_, he, ?prefetch⟩, fun hk => ⟨_, he, ?pass⟩⟩
    case keep =>
      rw [serveFill_read hl' hd hb' hup hfree hk hs' hh ho, dramLine_fillTaken]
      obtain ⟨hline, hst, hbytes, hwaits, honly⟩ := fillTaken_brought hl hd hc r.hint r.tag
        ((s.fillTaken cl (lineOf r.addr)).broughtLine cl (lineOf r.addr) r.hint r.tag)
      refine ⟨hline, hst, fun i hi => ⟨hbytes i hi, ?_⟩, hwaits, honly⟩
      rw [cache_answer]
      exact getD_broughtLine hl' hd (plain_fillTaken hc) r.hint r.tag hi
    case prefetch =>
      rw [serveFill_prefetch hl' hd hb' hup hfree hk, dramLine_fillTaken]
      exact fillTaken_brought hl hd hc ..
    case pass =>
      rw [serveFill_passes hl' hd hb' hup hfree hs' hk]
      dsimp only
      rw [cache_answer, cache_fillTaken]
      exact ⟨rfl, rfl, rfl, fun i hi => getD_passedLine hd _ hi, rfl, (fillTaken_only ..).trans (answer_only ..)⟩
  case timeout =>
    rw [Done, exec_streamDetectorTimeout ht]
    refine ⟨_, rfl, ?_⟩
    rw [State.clu_setClu]
    refine ⟨?_, fun j hj => ?_, rfl⟩
    · rw [detector_setDetector, if_pos rfl]
    · rw [detector_setDetector, if_neg hj]
  case invalidate =>
    rw [Done, exec_permissionInvalidate ht]
    refine ⟨_, rfl, ?_⟩
    rw [cache_permDrop]
    refine ⟨fun e he => ?_, fun e he hne => List.mem_filter.2 ⟨he, decide_eq_true hne⟩, rfl, fun cl' hne => ?_, rfl⟩
    · exact of_decide_eq_true (List.mem_filter.1 he).2
    · exact (State.clu_setClu_if ..).trans (if_neg hne)

end Sys2Proof.Machine

namespace Sys2Proof.Machine

open Sys2Proof

/-! ### A ring that halts, and faults no task (R234, R245) -/

theorem ring_setRing_other (s : State) {cl cl' : Cl} {n n' : Nat} (hn : n < 16) (hn' : n' < 16) (h : ¬(cl' = cl ∧ n' = n)) (r : Ring) :
    (s.setRing cl n r).ring cl' n' = s.ring cl' n' := by
  rw [State.ring_setRing_if _ _ _ hn hn', if_neg h]

/-- A ring that has halted with a cause: its progress in the descriptor at HEAD is given up. -/
def Ring.haltedBy (r : Ring) (cause erraddr : Nat) : Ring := { r with
  st := .halted, cause := cause, stopAs := 0, erraddr := erraddr, ph := .unread, next := 0, retries := 0, sum := 0
  sumBytes := 0, waitSince := none, tripped := false }

/-- A halt with a cause that faults no task: it is STOPPED or OVERRUN, or the descriptor at HEAD has no task's tile store on a side. -/
def Ring.HaltsAlone (r : Ring) (cause : Nat) : Prop := cause = 1 ∨ cause = 7 ∨ ∀ b, r.headDesc = some b → dTsv b.desc = false

section
variable {s : State} {cl : Cl} {n cause : Nat} (h : (s.ring cl n).HaltsAlone cause) (erraddr status : Nat)
include h

theorem haltRing_alone : let u := s.setRing cl n ((s.ring cl n).haltedBy cause erraddr)
    s.haltRing cl n cause erraddr status = if cause = 1 ∨ (s.ring cl n).isTask = true then u
      else u.pushEv cl (evRecord 0x05 0 (unitName cl (0x20 + n)) [cause, (s.ring cl n).head.toNat, erraddr]) := by
  unfold State.haltRing
  dsimp only
  split
  · rename_i b hb
    refine if_neg fun ⟨_, htsv, _, h1, h7, _⟩ => ?_
    obtain hc | hc | hc := h
    · exact h1 hc
    · exact h7 hc
    · rw [hc b hb] at htsv
      cases htsv
  · rfl

/-- Such a halt changes the ring, and of the cluster's steward core at most the event queue. -/
theorem haltRing_leaves : let t := s.haltRing cl n cause erraddr status
    t.ring cl n = (s.ring cl n).haltedBy cause erraddr ∧
    (n < 16 → ∀ cl' n', n' < 16 → ¬(cl' = cl ∧ n' = n) → t.ring cl' n' = s.ring cl' n') ∧
    (∀ cl', (t.stew cl').posts = (s.stew cl').posts) ∧
    t = { s with stewards := t.stewards, rings := t.rings } := by
  dsimp only
  rw [haltRing_alone h]
  split
  · exact ⟨State.ring_setRing .., fun hn cl' n' hn' hne => ring_setRing_other s hn hn' hne _, fun _ => rfl, rfl⟩
  · refine ⟨State.ring_setRing .., fun hn cl' n' hn' hne => ring_setRing_other s hn hn' hne _, fun cl' => ?_, rfl⟩
    unfold State.pushEv
    rw [State.stew_setStew_if]
    split
    · next e =>
      rw [e]
      split <;> rfl
    · rfl

end

/-- A ring halts for an error that is told to the management processor (R239, R245, R246). -/
theorem raise_haltRing {s : State} {cl : Cl} {n cause : Nat} (h : (s.ring cl n).HaltsAlone cause) (e : ErrIn) (sc : Scope) (erraddr status : Nat) :
    let t := (s.raise e sc).haltRing cl n cause erraddr status
    t.ring cl n = (s.ring cl n).haltedBy cause erraddr ∧ t.net = s.net ∧ t.mgmt.inbox = s.mgmt.inbox ++ [(e, sc)] := by
  obtain ⟨hring, -, -, hframe⟩ := haltRing_leaves (s := s.raise e sc) h erraddr status
  refine ⟨hring, ?_, ?_⟩
  · rw [hframe]
    rfl
  · rw [hframe]
    rfl

/-! ### A line of a descriptor that comes back (R243 to R245) -/

section
variable {s : State} {cl : Cl} {n : Nat}

theorem ringRetryLine_again (h : (s.ring cl n).retries < 3) (addr : Nat) :
    s.ringRetryLine cl n addr = s.setRing cl n { s.ring cl n with retries := (s.ring cl n).retries + 1 } := if_pos h

/-- The fourth retry halts the ring RETRY_LIMIT. -/
theorem ringRetryLine_limit (h3 : 3 ≤ (s.ring cl n).retries) (h : (s.ring cl n).HaltsAlone 3) (addr : Nat) :
    let t := s.ringRetryLine cl n addr
    t.ring cl n = (s.ring cl n).haltedBy 3 (addr % 2 ^ 39 / 128 * 128) ∧ t.net = s.net ∧
    ∃ e sc, t.mgmt.inbox = s.mgmt.inbox ++ [(e, sc)] ∧ e.source = 8 ∧ e.status = 7 := by
  have he : s.ringRetryLine cl n addr = (s.refusal (unitName cl (0x20 + n)) (s.clPart cl) (addr % 2 ^ 39 / 128 * 128) 7).haltRing cl n 3
    (addr % 2 ^ 39 / 128 * 128) 7 := if_neg (by omega)
  dsimp only
  rw [he]
  obtain ⟨hring, hnet, hbox⟩ := raise_haltRing h _ _ _ _
  exact ⟨hring, hnet, _, _, hbox, rfl, rfl⟩

/-- A bus error that is not an uncorrectable word's is told as a refusal, and halts the ring BUS_ERROR. -/
theorem ringBusError_halts {status : Nat} (hs : status ≠ 1) (h : (s.ring cl n).HaltsAlone 2) (addr : Nat) :
    let t := s.ringBusError cl n addr status
    t.ring cl n = (s.ring cl n).haltedBy 2 (addr % 2 ^ 39 / 128 * 128) ∧ t.net = s.net ∧
    ∃ e sc, t.mgmt.inbox = s.mgmt.inbox ++ [(e, sc)] ∧ e.status = status := by
  unfold State.ringBusError
  dsimp only
  rw [if_neg hs]
  obtain ⟨hring, hnet, hbox⟩ := raise_haltRing h _ _ _ _
  exact ⟨hring, hnet, _, _, hbox, rfl⟩

end

/-- The address of a line, cut to a device address, is still one of a line. -/
theorem lineAddr_mod (l : Nat) : 128 * l % 2 ^ 39 / 128 * 128 = 128 * l % 2 ^ 39 := by omega

theorem toNat_emod_mod (x : Int) : (x % 2 ^ 39).toNat % 2 ^ 39 = (x % 2 ^ 39).toNat := Nat.mod_eq_of_lt (by omega)

section
variable {s : State} {cl : Cl} {n : Rn} {b : Buffered} (hph : (s.ring cl n.val).ph = .moving)
include hph

theorem exec_ringBusError (addr status : Nat) : exec (.ringBusError cl n addr status) s = .next (s.ringBusError cl n.val addr status) :=
  congrArg Host.Outcome.next (if_pos hph)

variable (hb : (s.ring cl n.val).headDesc = some b)
include hb

/-- What comes back is the line that is read next, or the oldest write without an answer. -/
theorem exec_ringRetry {wr : Bool} (h : wr = false ∨ (s.ring cl n.val).wrOut ++ (s.ring cl n.val).wtOut ≠ []) :
    ∃ addr, exec (.ringRetry cl ⟨n, wr⟩) s = .next (s.ringRetryLine cl n.val addr) ∧
      (wr = false → addr = (dSrc b.desc (s.ring cl n.val).next % 2 ^ 39).toNat) ∧
      (∀ l rest, wr = true → (s.ring cl n.val).wrOut ++ (s.ring cl n.val).wtOut = l :: rest → addr = 128 * l) := by
  cases wr with
  | false =>
    refine ⟨_, ?_, fun _ => rfl, nofun⟩
    show execRingRetry cl ⟨n, false⟩ s = _
    unfold execRingRetry
    simp only [hph, hb, Bool.false_eq_true, if_false]
    rfl
  | true =>
    obtain ⟨l, rest, hl⟩ := List.exists_cons_of_ne_nil (h.resolve_left nofun)
    refine ⟨128 * l, ?_, nofun, fun l' rest' _ hl' => ?_⟩
    · show execRingRetry cl ⟨n, true⟩ s = _
      unfold execRingRetry
      simp only [hph, hb, hl, if_true]
    · rw [(List.cons.inj (hl.symm.trans hl')).1]

end

/-! ### The end of a descriptor (R243, R244, R246) -/

/-- A ring whose descriptor is complete: HEAD and DONECNT have advanced. -/
def Ring.completed (r : Ring) (b : Buffered) : Ring := { r with
  head := r.head + 1, donecnt := r.donecnt + 1, buf := r.buf.filter fun x => x.num ≠ b.num, ph := .unread, next := 0, retries := 0
  postBy := del r.postBy b.num }

/-- A ring that shows the transfer sum that it has found (R246). -/
def Ring.summed (r : Ring) : Ring := { r with sumgot := BitVec.ofNat 64 r.sum }

/-- What the management processor is told of a wrong transfer sum (R246). -/
def State.sumError (s : State) (cl : Cl) (n : Rn) : ErrIn where
  source := 0x09
  cls := 2
  unit := unitName cl (0x20 + n.val)
  part := s.clPart cl
  addr := 0
  syndrome := 0
  symbol := 0xFF
  status := 0
  taskId := 0

/-- The state once a descriptor's pulse, if it has one, is on its way. -/
def State.pulsed (s : State) (cl : Cl) (n : Rn) (d : BitVec 512) : State :=
  if dfl d 476 476 = 0 then s else s.send ⟨dfl d 475 452, 1, .ring cl n, s.clPart cl⟩

theorem pulsed_leaves (s : State) (cl : Cl) (n : Rn) (d : BitVec 512) : let t := s.pulsed cl n d
    t.net.flight = s.net.flight ++ (if dfl d 476 476 = 0 then [] else [⟨dfl d 475 452, 1, .ring cl n, s.clPart cl⟩]) ∧
    t = { s with net := t.net } := by
  unfold State.pulsed
  split
  · exact ⟨(List.append_nil _).symm, rfl⟩
  · exact ⟨rfl, rfl⟩

/-- A pulse of no speculative task's descriptor is sent (R130). -/
theorem pulseTo_send {r : Ring} {num : Nat} (h : (look PostBy.none r.postBy num).slot = none) (s : State) (cl : Cl) (ctr : Nat) :
    s.pulseTo cl r num ctr = .send := by
  unfold State.pulseTo
  simp only [h]

/-- No halt falls due behind a descriptor of a ring that runs on. -/
theorem ringBoundary_running {s : State} {cl : Cl} {n : Nat} (hst : (s.ring cl n).st = .running) (ho : (s.ring cl n).overrun = false) :
    s.ringBoundary cl n = s := by
  unfold State.ringBoundary
  simp only [hst, ho, reduceCtorEq, false_and, Bool.false_eq_true, if_false]

section
variable {s : State} {cl : Cl} {n : Rn} {b : Buffered} (hb : (s.ring cl n.val).headDesc = some b) (hph : (s.ring cl n.val).ph = .moving)
  (hall : dType b.desc = 7 ∨ dElems b.desc ≤ (s.ring cl n.val).next)
  (hw : (s.ring cl n.val).waitsWrites b.desc = true → (s.ring cl n.val).wrOut = [] ∧ (s.ring cl n.val).wtOut = [])
include hb hph hall hw

omit hb in
/-- A descriptor that has been moved, and whose writes need not be waited for, is complete. -/
theorem descriptor_over : ¬((s.ring cl n.val).ph ≠ .moving ∨ (!(dType b.desc = 7 || decide ((s.ring cl n.val).next ≥ dElems b.desc))) = true ∨
    ((s.ring cl n.val).waitsWrites b.desc = true ∧ ((s.ring cl n.val).wrOut ≠ [] ∨ (s.ring cl n.val).wtOut ≠ []))) := by
  rintro (h | h | ⟨h, ho⟩)
  · exact h hph
  · simp only [Bool.not_eq_true', Bool.or_eq_false_iff, decide_eq_false_iff_not] at h
    exact hall.elim h.1 h.2
  · exact ho.elim (absurd (hw h).1) (absurd (hw h).2)

theorem exec_ringDescriptorComplete_sent (hs : dSumEn b.desc = false) (hp : (look PostBy.none (s.ring cl n.val).postBy b.num).slot = none)
    (hst : (s.ring cl n.val).st = .running) (ho : (s.ring cl n.val).overrun = false) :
    exec (.ringDescriptorComplete cl n) s = .next ((s.pulsed cl n b.desc).setRing cl n.val ((s.ring cl n.val).completed b)) := by
  rw [← ringBoundary_running (s := (s.pulsed cl n b.desc).setRing cl n.val ((s.ring cl n.val).completed b)) (cl := cl) (n := n.val)
    (by rw [State.ring_setRing]; exact hst) (by rw [State.ring_setRing]; exact ho)]
  refine congrArg Host.Outcome.next ?_
  simp only [hb]
  rw [if_neg (descriptor_over hph hall hw)]
  unfold State.pulsed
  simp only [hs, pulseTo_send hp, Bool.false_eq_true, false_and, if_false]
  split
  · rfl
  · rfl

/-- A descriptor whose transfer sum is another than it states halts the ring CHECKSUM. -/
theorem exec_ringDescriptorComplete_sum (hs : dSumEn b.desc = true) (hne : (s.ring cl n.val).sum ≠ dfl b.desc 63 0) :
    exec (.ringDescriptorComplete cl n) s =
      .next (((s.setRing cl n.val (s.ring cl n.val).summed).raise (s.sumError cl n) .none).haltRing cl n.val 4 0 0) := by
  refine congrArg Host.Outcome.next ?_
  simp only [hb]
  rw [if_neg (descriptor_over hph hall hw)]
  simp only [hs, if_true, State.ring_setRing]
  exact if_pos ⟨trivial, hne⟩

end

/-- Settles O28: a retried line and a bus error by the halt that faults no task, a complete descriptor by the ring and the pulse that it leaves. -/
theorem ringsCompleteOrHalt : Obligations.RingsCompleteOrHalt := by
  unfold Obligations.RingsCompleteOrHalt
  intro s cl n
  have other (r : Ring) (cl' : Cl) (n' : Rn) (hne : ¬(cl' = cl ∧ n' = n)) : (s.setRing cl n.val r).ring cl' n'.val = s.ring cl' n'.val :=
    ring_setRing_other s n.isLt n'.isLt (by simpa [Fin.ext_iff] using hne) r
  refine ⟨fun h => ⟨_, congrArg (Host.Outcome.next <| s.setRing cl n.val ·) (if_pos h), State.ring_setRing .., other _, rfl⟩,
    fun h => ⟨_, congrArg (Host.Outcome.next <| s.setRing cl n.val ·) (if_neg (by omega)), State.ring_setRing .., other _, rfl⟩,
    fun b hb hph htsv _ => ?_⟩
  have alone (cause : Nat) : (s.ring cl n.val).HaltsAlone cause := .inr (.inr fun b' hb' => by rw [Option.some.inj (hb'.symm.trans hb), htsv])
  refine ⟨fun wr hwr => ?retry, fun addr status hs => ⟨_, exec_ringBusError hph addr status, ?bus⟩,
    fun hall hw hst ho => ⟨fun hsum hslot => ⟨_, exec_ringDescriptorComplete_sent hb hph hall hw hsum hslot hst ho, ?sent⟩,
      fun hsum hne => ⟨_, exec_ringDescriptorComplete_sum hb hph hall hw hsum hne, ?sum⟩⟩⟩
  case retry =>
    obtain ⟨addr, he, hread, hwrite⟩ := exec_ringRetry hph hb hwr
    refine ⟨fun h3 => ⟨_, he, ?_⟩, fun h3 => ⟨_, he, ?_⟩⟩
    · rw [ringRetryLine_again h3]
      exact ⟨State.ring_setRing .., rfl⟩
    · obtain ⟨hring, hnet, hbox⟩ := ringRetryLine_limit h3 (alone 3) addr
      rw [hring]
      refine ⟨rfl, rfl, fun h => ?_, fun l rest h hl => ?_, rfl, hnet, hbox⟩
      · rw [← toNat_emod_mod, ← hread h]
        rfl
      · rw [← lineAddr_mod, ← hwrite l rest h hl]
        rfl
  case bus =>
    obtain ⟨hring, hnet, hbox⟩ := ringBusError_halts hs (alone 2) addr
    rw [hring]
    exact ⟨rfl, rfl, rfl, rfl, rfl, hnet, hbox⟩
  case sent =>
    obtain ⟨hflight, hframe⟩ := pulsed_leaves s cl n b.desc
    rw [State.ring_setRing]
    refine ⟨rfl, rfl, hst, rfl, rfl, hflight, ?_⟩
    rw [hframe]
    rfl
  case sum =>
    obtain ⟨hring, hnet, hbox⟩ := raise_haltRing (s := s.setRing cl n.val (s.ring cl n.val).summed) (cl := cl) (n := n.val) (cause := 4)
      (by rw [State.ring_setRing]; exact alone 4) (s.sumError cl n) .none 0 0
    rw [State.ring_setRing] at hring
    rw [hring]
    exact ⟨rfl, rfl, rfl, rfl, hnet, _, _, hbox, rfl⟩

end Sys2Proof.Machine

namespace Sys2Proof.Machine

open Sys2Proof

/-! ### What a ring command touches (R235, R241) -/

/-- Nothing has changed but one ring, and that of the cores at most move slots have been freed. -/
def OnlyRing (cl : Cl) (n : Rn) (s t : State) : Prop :=
  (∀ cl' (n' : Rn), ¬(cl' = cl ∧ n' = n) → t.ring cl' n'.val = s.ring cl' n'.val) ∧
  (∀ cl' c, t.core cl' c = { s.core cl' c with moves := (t.core cl' c).moves }) ∧ t = { s with cores := t.cores, rings := t.rings }

theorem OnlyRing.refl (cl : Cl) (n : Rn) (s : State) : OnlyRing cl n s s := ⟨fun _ _ _ => rfl, fun _ _ => rfl, rfl⟩

theorem OnlyRing.trans {cl : Cl} {n : Rn} {s t u : State} (h : OnlyRing cl n s t) (k : OnlyRing cl n t u) : OnlyRing cl n s u := by
  obtain ⟨hring, hcore, hframe⟩ := h
  obtain ⟨kring, kcore, kframe⟩ := k
  refine ⟨fun cl' n' hne => (kring cl' n' hne).trans (hring cl' n' hne), fun cl' c => ?_, by rw [kframe, hframe]⟩
  rw [kcore, hcore]

theorem OnlyRing.setRing (cl : Cl) (n : Rn) (s : State) (r : Ring) : OnlyRing cl n s (s.setRing cl n.val r) :=
  ⟨fun _ n' hne => ring_setRing_other s n.isLt n'.isLt (by simpa [Fin.ext_iff] using hne) r, fun _ _ => rfl, rfl⟩

theorem OnlyRing.freeMoves (cl : Cl) (n : Rn) (s : State) (cl' : Cl) (c : Cn) (ms : SMap Move) :
    OnlyRing cl n s (s.setCore cl' c { s.core cl' c with moves := ms }) := by
  refine ⟨fun _ _ _ => rfl, fun cl'' c' => ?_, rfl⟩
  rw [State.core_setCore_if]
  split
  · next e => rw [e.1, e.2]
  · rfl

/-- The move slots of descriptors that make no further access are freed; the rings stay as they are. -/
theorem ringUnmark_leaves (s : State) (cl : Cl) (n : Rn) (num : Nat → Bool) :
    (s.ringUnmark cl n.val num).rings = s.rings ∧ OnlyRing cl n s (s.ringUnmark cl n.val num) := by
  unfold State.ringUnmark
  refine foldl_inv (p := fun u : State => u.rings = s.rings ∧ OnlyRing cl n s u) _ s ⟨rfl, .refl ..⟩ fun u c _ hu => ?_
  dsimp only
  split
  · exact ⟨hu.1, hu.2.trans (.freeMoves ..)⟩
  · exact hu

/-- A ring command and the instruction of the same name do the same: the ring as said, and nothing beside it (R235). -/
theorem ringDoes_of {s : State} {cl : Cl} {n : Rn} {cmd : Cl → Rn → Instr} {instr : At → Instr} {post : Ring → Prop} {t : State}
    (hcmd : exec (cmd cl n) s = .next t)
    (hinstr : ∀ w, w.who = .steward → w.cl = cl → s.readyFor w (instr w) .steward = true → exec (instr w) s = .next (t.next1 w))
    (hpost : post (t.ring cl n.val)) (honly : OnlyRing cl n s t) : RingDoes s cl n cmd instr post := by
  refine ⟨⟨t, hcmd, hpost, honly⟩, fun w hw hcl hi => ⟨_, hinstr w hw hcl hi, ?_⟩⟩
  obtain ⟨hring, -, hframe⟩ := honly
  rw [ring_next1_steward hw]
  refine ⟨hpost, fun cl' n' hne => ?_, issued_next1 .., fun m => ?_, ?_⟩
  · rw [ring_next1_steward hw, hring cl' n' hne]
  · rw [(next1_passed t w).1, reg_steward hw, reg_steward hw, hframe]
    rfl
  · rw [next1_steward_only hw, hframe]

/-! ### Start, stop, skip and clear of a data ring (R231, R234, R235, R245) -/

/-- A ring that starts at its HEAD, and reads a bad slot again. -/
def Ring.started (r : Ring) : Ring := { r with
  st := .running, stopAs := 0, ph := .unread, next := 0, retries := 0, buf := r.buf.filter fun b => !b.bad }

/-- A ring that leaves out the descriptor at HEAD. -/
def Ring.headSkipped (r : Ring) : Ring := { r with head := r.head + 1, buf := r.buf.filter fun b => b.num ≠ r.head.toNat }

/-- A ring that has been cleared: empty and IDLE, with its flags and its count of overruns cleared. -/
def Ring.cleared (r : Ring) : Ring := { r with
  head := 0, tail := 0, cause := 0, overrun := false, refused := false, ovrcnt := 0, st := .idle, buf := [], ph := .unread, badTask := false
  readySince := none, readyRank := 0, keptAge := none, posted := false, granted := false, target := none, postBy := [] }

section
variable {s : State} {cl : Cl} {n : Nat}

theorem refreshRing_data (h : (s.ring cl n).isTask = false) : s.refreshRing cl n = s := if_neg (by rw [h]; decide)

theorem checkHead_data (h : (s.ring cl n).isTask = false) : s.checkHead cl n = s := by
  unfold State.checkHead
  dsimp only
  split
  · rfl
  · exact if_neg (by simp [h])

theorem isTask_data (hk : (s.ring cl n).kind = 0) : (s.ring cl n).isTask = false := by simp [Ring.isTask, hk]

theorem ringStart_refused (h : (s.ring cl n).overrun = true ∨ (s.ring cl n).st = .running ∨
    ((s.ring cl n).st = .stopping ∧ (s.ring cl n).stopAs = 10)) : s.ringStart cl n = s.ringRefuse cl n := by
  unfold State.ringStart
  dsimp only
  split
  · rfl
  · next hno =>
    obtain h | h | ⟨h, h10⟩ := h
    · exact absurd (.inr h) hno
    · simp only [h, reduceCtorEq, false_and, and_false, if_false]
    · simp only [h, h10, reduceCtorEq, false_and, and_false, if_false, if_true]

theorem ringStop_refused (h : (s.ring cl n).st = .idle ∨ (s.ring cl n).st = .halted) : s.ringStop cl n = s.ringRefuse cl n := by
  unfold State.ringStop
  obtain h | h := h
  · simp only [h]
  · simp only [h]

/-- A descriptor that runs is run to its end first (R245). -/
theorem ringStop_later (h : (s.ring cl n).st = .running) (hph : (s.ring cl n).ph = .moving) :
    s.ringStop cl n = s.setRing cl n { s.ring cl n with st := .stopping, stopAs := 1 } := by
  unfold State.ringStop
  simp only [h, hph, if_true]

theorem ringStop_stopping (h : (s.ring cl n).st = .stopping) : s.ringStop cl n = s := by
  unfold State.ringStop
  simp only [h]

theorem ringClear_refused (h : (s.ring cl n).st = .running ∨ (s.ring cl n).st = .stopping) : s.ringClear cl n = s.ringRefuse cl n :=
  if_neg (by obtain h | h := h <;> simp [Ring.writable, h])

theorem ringClear_clears (hp : (s.ring cl n).posted = false) (hg : (s.ring cl n).granted = false)
    (h : (s.ring cl n).st = .idle ∨ (s.ring cl n).st = .halted) :
    s.ringClear cl n = (s.setRing cl n (s.ring cl n).cleared).ringUnmark cl n fun x => x < 2 ^ 32 := by
  unfold State.ringClear
  rw [withdraw_idle hp hg]
  exact if_pos (by simpa [Ring.writable] using h)

variable (hk : (s.ring cl n).kind = 0)
include hk

theorem ringStop_halts (hp : (s.ring cl n).posted = false) (hg : (s.ring cl n).granted = false) (h : (s.ring cl n).st = .running)
    (hph : (s.ring cl n).ph ≠ .moving) : s.ringStop cl n = s.setRing cl n ((s.ring cl n).haltedBy 1 0) := by
  have ht : ((s.setRing cl n ((s.ring cl n).haltedBy 1 0)).ring cl n).isTask = false := by
    rw [State.ring_setRing]
    exact isTask_data hk
  unfold State.ringStop
  simp only [h, hph, if_false, withdraw_idle hp hg]
  rw [haltRing_stopped]
  exact refreshRing_data ht

theorem ringSkip_skips (h : (s.ring cl n).st = .halted) :
    s.ringSkip cl n = (s.setRing cl n (s.ring cl n).headSkipped).ringUnmark cl n fun x => x = (s.ring cl n).head.toNat := by
  unfold State.ringSkip
  dsimp only
  rw [if_neg (by simp [isTask_data hk]), if_pos h]
  rfl

theorem ringSkip_refused (h : (s.ring cl n).st ≠ .halted) : s.ringSkip cl n = s.ringRefuse cl n := by
  unfold State.ringSkip
  simp only [isTask_data hk, h, Bool.false_eq_true, if_false]

section
variable (ho : (s.ring cl n).overrun = false)
include ho

theorem ringStart_begins (h : (s.ring cl n).st = .idle ∨ (s.ring cl n).st = .halted) :
    s.ringStart cl n = s.setRing cl n (s.ring cl n).started := by
  have ht : ((s.setRing cl n (s.ring cl n).started).ring cl n).isTask = false := by
    rw [State.ring_setRing]
    exact isTask_data hk
  have he : ((s.setRing cl n (s.ring cl n).started).checkHead cl n).refreshRing cl n = s.setRing cl n (s.ring cl n).started := by
    rw [checkHead_data ht, refreshRing_data ht]
  unfold State.ringStart
  dsimp only
  rw [if_neg (by simp [hk, ho]), if_neg (by simp [isTask_data hk])]
  obtain h | h := h
  · simp only [h]
    exact he
  · simp only [h]
    exact he

/-- A ring that is about to stop runs on (R245). -/
theorem ringStart_resumes (h : (s.ring cl n).st = .stopping) (h10 : (s.ring cl n).stopAs ≠ 10) :
    s.ringStart cl n = s.setRing cl n { s.ring cl n with st := .running, stopAs := 0 } := by
  unfold State.ringStart
  dsimp only
  rw [if_neg (by simp [hk, ho]), if_neg (by simp [isTask_data hk])]
  simp only [h, h10, if_false]

end

theorem ringStart_setRing : ∃ r, s.ringStart cl n = s.setRing cl n r := by
  cases ho : (s.ring cl n).overrun with
  | true => exact ⟨_, ringStart_refused (.inl ho)⟩
  | false =>
    cases hst : (s.ring cl n).st with
    | idle => exact ⟨_, ringStart_begins hk ho (.inl hst)⟩
    | running => exact ⟨_, ringStart_refused (.inr (.inl hst))⟩
    | stopping =>
      by_cases h10 : (s.ring cl n).stopAs = 10
      · exact ⟨_, ringStart_refused (.inr (.inr ⟨hst, h10⟩))⟩
      · exact ⟨_, ringStart_resumes hk ho hst h10⟩
    | halted => exact ⟨_, ringStart_begins hk ho (.inr hst)⟩

end

/-! ### RSTART, RSTOP, RSKIP and RCLEAR (R235) -/

section
variable {s : State} {w : At} {n : Nat} (hn : n < 16)
include hn

theorem exec_rstart (h : s.readyFor w (.rstart w n) .steward = true) : exec (.rstart w n) s = .next ((s.ringStart w.cl n).next1 w) :=
  congrArg Host.Outcome.next (issue_ready _ h (by simp [firstBad, ringOk, hn]))

theorem exec_rstop (h : s.readyFor w (.rstop w n) .steward = true) : exec (.rstop w n) s = .next ((s.ringStop w.cl n).next1 w) :=
  congrArg Host.Outcome.next (issue_ready _ h (by simp [firstBad, ringOk, hn]))

theorem exec_rskip (h : s.readyFor w (.rskip w n) .steward = true) : exec (.rskip w n) s = .next ((s.ringSkip w.cl n).next1 w) :=
  congrArg Host.Outcome.next (issue_ready _ h (by simp [firstBad, ringOk, hn]))

theorem exec_rclear (h : s.readyFor w (.rclear w n) .steward = true) : exec (.rclear w n) s = .next ((s.ringClear w.cl n).next1 w) :=
  congrArg Host.Outcome.next (issue_ready _ h (by simp [firstBad, ringOk, hn]))

end

section
variable (s : State) (cl : Cl) (n : Rn)

theorem ring_ringRefuse : (s.ringRefuse cl n.val).ring cl n.val = { s.ring cl n.val with refused := true } := State.ring_setRing ..

theorem onlyRing_ringRefuse : OnlyRing cl n s (s.ringRefuse cl n.val) := .setRing ..

/-- A ring that is set, with move slots of it freed, is as it was set. -/
theorem ring_unmarked (r : Ring) (num : Nat → Bool) : ((s.setRing cl n.val r).ringUnmark cl n.val num).ring cl n.val = r := by
  unfold State.ring
  rw [(ringUnmark_leaves (s.setRing cl n.val r) cl n num).1]
  exact State.ring_setRing s cl n.val r

theorem onlyRing_unmarked (r : Ring) (num : Nat → Bool) : OnlyRing cl n s ((s.setRing cl n.val r).ringUnmark cl n.val num) :=
  (OnlyRing.setRing ..).trans (ringUnmark_leaves ..).2

end

/-- Settles O26: each command by the ring that it sets in the states that accept it, and by its refusal elsewhere. -/
theorem ringCommands : Obligations.RingCommands := by
  unfold Obligations.RingCommands
  intro s cl n hk hp hg
  refine ⟨ringDoes_of (t := s.ringStart cl n.val) rfl (fun w _ hcl hi => hcl ▸ exec_rstart n.isLt hi) ⟨fun ho h => ?begins, fun ho h h10 => ?resumes,
      fun h => ?running⟩ ?start,
    ringDoes_of (t := s.ringStop cl n.val) rfl (fun w _ hcl hi => hcl ▸ exec_rstop n.isLt hi) ⟨fun h hph => ?later, fun h hph => ?halts,
      fun h => ?stopped⟩ ?stop,
    ringDoes_of (t := s.ringSkip cl n.val) rfl (fun w _ hcl hi => hcl ▸ exec_rskip n.isLt hi) ⟨fun h => ?skips, fun h => ?unhalted⟩ ?skip,
    ringDoes_of (t := s.ringClear cl n.val) rfl (fun w _ hcl hi => hcl ▸ exec_rclear n.isLt hi) ⟨fun h => ?clears, fun h => ?busy⟩ ?clear⟩
  case begins => rw [ringStart_begins hk ho h, State.ring_setRing]; rfl
  case resumes => rw [ringStart_resumes hk ho h h10, State.ring_setRing]
  case running => rw [ringStart_refused (h.imp_right .inl), ring_ringRefuse]
  case start =>
    obtain ⟨r, hr⟩ := ringStart_setRing hk
    exact hr ▸ .setRing ..
  case later => rw [ringStop_later h hph, State.ring_setRing]
  case halts =>
    rw [ringStop_halts hk hp hg h hph, State.ring_setRing]
    exact ⟨rfl, rfl, rfl, rfl, rfl⟩
  case stopped => rw [ringStop_refused h, ring_ringRefuse]
  case stop =>
    cases hst : (s.ring cl n.val).st with
    | idle => exact ringStop_refused (.inl hst) ▸ onlyRing_ringRefuse ..
    | running =>
      by_cases hph : (s.ring cl n.val).ph = .moving
      · exact ringStop_later hst hph ▸ .setRing ..
      · exact ringStop_halts hk hp hg hst hph ▸ .setRing ..
    | stopping => exact (ringStop_stopping hst).symm ▸ .refl ..
    | halted => exact ringStop_refused (.inr hst) ▸ onlyRing_ringRefuse ..
  case skips => rw [ringSkip_skips hk h, ring_unmarked]; rfl
  case unhalted => rw [ringSkip_refused hk h, ring_ringRefuse]
  case skip =>
    by_cases h : (s.ring cl n.val).st = .halted
    · exact ringSkip_skips hk h ▸ onlyRing_unmarked ..
    · exact ringSkip_refused hk h ▸ onlyRing_ringRefuse ..
  case clears =>
    rw [ringClear_clears hp hg h, ring_unmarked]
    exact ⟨rfl, rfl, rfl, rfl, rfl, rfl, rfl, rfl, rfl, rfl, rfl⟩
  case busy => rw [ringClear_refused h, ring_ringRefuse]
  case clear =>
    cases hst : (s.ring cl n.val).st with
    | idle => exact ringClear_clears hp hg (.inl hst) ▸ onlyRing_unmarked ..
    | running => exact ringClear_refused (.inl hst) ▸ onlyRing_ringRefuse ..
    | stopping => exact ringClear_refused (.inr hst) ▸ onlyRing_ringRefuse ..
    | halted => exact ringClear_clears hp hg (.inr hst) ▸ onlyRing_unmarked ..

end Sys2Proof.Machine

namespace Sys2Proof.Machine

open Sys2Proof

/-! ### A poster whose oldest post is on its way (R233) -/

/-- The posts of a core or of a steward core that are to be written, in its program order. -/
def State.postsOf (s : State) (cl : Cl) : Who → List Post
  | .core c => (s.core cl c).posts
  | .steward => (s.stew cl).posts

/-- Replaces the posts of a poster. -/
def State.withPosts (s : State) (cl : Cl) (who : Who) (ps : List Post) : State :=
  match who with
  | .core c => s.setCore cl c { s.core cl c with posts := ps }
  | .steward => s.setStew cl { s.stew cl with posts := ps }

theorem postsOf_withPosts (s : State) (cl : Cl) (who : Who) (ps : List Post) : (s.withPosts cl who ps).postsOf cl who = ps := by
  cases who with
  | core c => exact congrArg Core.posts (State.core_setCore ..)
  | steward => exact congrArg Steward.posts (State.stew_setStew ..)

theorem withPosts_only (s : State) (cl : Cl) (who : Who) (ps : List Post) :
    s.withPosts cl who ps = { s with cores := (s.withPosts cl who ps).cores, stewards := (s.withPosts cl who ps).stewards } := by
  cases who <;> rfl

theorem exec_postSlotWritten {s : State} {cl : Cl} {who : Who} {p : Post} {rest : List Post} (h : s.postsOf cl who = p :: rest)
    (hw : s.postWaits cl p = false) : exec (.postSlotWritten cl who) s = .next ((s.withPosts cl who rest).postWrite cl who p) := by
  show execPostSlotWritten cl who s = _
  unfold execPostSlotWritten
  cases who with
  | core c =>
    have h : (s.core cl c).posts = p :: rest := h
    simp only [h, hw, Bool.false_eq_true, if_false]
    rfl
  | steward =>
    have h : (s.stew cl).posts = p :: rest := h
    simp only [h, hw, Bool.false_eq_true, if_false]
    rfl

/-! ### What a post's source and slot meet in memory (R132, R183, R209, R233) -/

/-- A read that its cache or its slot serves, or whose channel works, is not answered FENCED. -/
theorem clRead_not_fenced {s : State} {cl : Cl} {slot : Option Nat} {a n : Nat} (hr : s.readHits cl slot a n = true ∨ s.chanDown (lineOf a) = false)
    (h : Hint) (tag cls : Nat) : (s.clRead cl slot a n h tag cls).2.2 ≠ 5 := by
  have hlo : lineOf (128 * lineOf a) = lineOf a := Nat.mul_div_cancel_left _ (by decide)
  have hbad (b : Bool) : (if b = true then 1 else 0) ≠ 5 := by cases b <;> decide
  have hchan (hd : s.chanDown (lineOf a) = false) : (s.chanRead (128 * lineOf a) 128 (s.clPart cl) cls).2.2 ≠ 5 := by
    unfold State.chanRead
    rw [hlo, if_neg (by simp [hd])]
    split
    · exact show retryStatus ≠ 5 by decide
    · exact hbad _
  unfold State.clRead State.cacheRead
  dsimp only
  split
  · exact hbad _
  · next hshadow =>
    split
    · exact hbad _
    · next hno =>
      have hd : s.chanDown (lineOf a) = false := by
        refine hr.resolve_left fun hit => hno ?_
        unfold State.readHits at hit ⊢
        cases slot with
        | none => exact hit
        | some k =>
          cases hf : (find ((s.clu cl).slot k).written (lineOf a)).isSome with
          | false => simpa only [hf, Bool.false_or] using hit
          | true => simp [hf] at hshadow
      split
      · exact hchan hd
      · split
        · exact hchan hd
        · exact hchan hd

/-! ### TAIL advances, and an overrun is recorded (R233, R234, R245) -/

/-- A ring in which a post has been written into the slot at TAIL: a post beyond DEPTH is an overrun. -/
def Ring.tookPost (r : Ring) (who : PostBy) : Ring :=
  { r with
    tail := r.tail + 1
    overrun := r.overrun || decide (r.depth ≤ r.fill)
    ovrcnt := if decide (r.depth ≤ r.fill) then min 65535 (r.ovrcnt + 1) else r.ovrcnt
    postBy := ins r.postBy r.tail.toNat who }

/-- Whether an overrun finds a ring between descriptors, where it halts (R234). -/
def Ring.StopsOverrun (r : Ring) : Prop := (r.st = .running ∨ r.st = .stopping) ∧ r.ph ≠ .moving

/-- The move of a core's post with REGION gets the number of its descriptor (R241). -/
def State.numbered (s : State) (cl : Cl) (who : Who) (p : Post) (num : Nat) : State :=
  match who with
  | .core c => if p.region.isSome then s.setCore cl c ((s.core cl c).numberMove p.ring num) else s
  | .steward => s

/-- The state once the slot of a post has been written, where its ring was `r`: TAIL advances, and an overrun stops the ring. -/
def State.postTaken (s : State) (cl : Cl) (who : Who) (p : Post) (r : Ring) : State :=
  let t := (s.setRing cl p.ring (r.tookPost p.who)).numbered cl who p r.tail.toNat
  if decide (r.depth ≤ r.fill) then t.overrunStop cl p.ring else t

/-- A post whose source can be read, and whose slot can be written, is written behind the requests to memory. -/
theorem postWrite_taken {s : State} {cl : Cl} {p : Post} (hc : PermCoherent s cl)
    (hr : s.readHits cl p.who.slot p.src 64 = true ∨ s.chanDown (lineOf p.src) = false) (hsrc : Allowed s cl p.src false) {a : Nat}
    (ha : (s.ring cl p.ring).slotAddr (s.ring cl p.ring).tail.toNat = a) (hslot : Allowed s cl a true) (who : Who) :
    ∃ u, OnlyMemory s u ∧
      (∃ e, (u.clu cl).cache.line (lineOf a) = some e ∧ e.dirty = true ∧ e.mask &&& maskOf (a % 128) 64 = maskOf (a % 128) 64) ∧
      s.postWrite cl who p = u.postTaken cl who p (s.ring cl p.ring) := by
  have hring : (s.reqStatus cl p.src false).1.ring cl p.ring = s.ring cl p.ring := by rw [reqStatus_dram hsrc.1, permUse_ring]
  have hread (h : Hint) (tag : Nat) : ((s.reqStatus cl p.src false).1.clRead cl p.who.slot p.src 64 h tag 2).2.2 ≠ 5 := by
    refine clRead_not_fenced ?_ h tag 2
    rw [reqStatus_dram hsrc.1, permUse_readHits, permUse_clusters]
    exact hr
  have hx (h : Hint) (tag : Nat) := (reqStatus_only s cl p.src false).trans (clRead_only _ cl p.who.slot p.src 64 h tag 2)
  have hok (h : Hint) (tag : Nat) : (((s.reqStatus cl p.src false).1.clRead cl p.who.slot p.src 64 h tag 2).1.reqStatus cl a true).2 = 0 := by
    have hperm := clRead_perm (s.reqStatus cl p.src false).1 cl p.who.slot p.src 64 h tag 2
    exact reqStatus_allowed ((reqStatus_keeps hc p.src false).same (clRead_only ..) hperm)
      (hslot.same (hx h tag) (hperm.1.trans (reqStatus_table ..)))
  have heq : ∃ h tag m h' tag', s.postWrite cl who p =
      ((((s.reqStatus cl p.src false).1.clRead cl p.who.slot p.src 64 h tag 2).1.reqStatus cl a true).1.clWrite cl m (lineOf a)
        (maskOf (a % 128) 64) h' tag').postTaken cl who p (s.ring cl p.ring) := by
    unfold State.postWrite
    simp only [reqStatus_allowed hc hsrc, hring, ha, hread, hok, ne_eq, not_true_eq_false, if_false]
    exact ⟨_, _, _, _, _, rfl⟩
  obtain ⟨h, tag, m, h', tag', heq⟩ := heq
  obtain ⟨e, hline, hdirty, hmask, -⟩ := line_clWrite (((s.reqStatus cl p.src false).1.clRead cl p.who.slot p.src 64 h tag 2).1.reqStatus cl a true).1
    cl m (lineOf a) (maskOf (a % 128) 64) h' tag'
  exact ⟨_, (hx h tag).trans ((reqStatus_only _ cl a true).trans (clWrite_only ..)), ⟨e, hline, hdirty, hmask⟩, heq⟩

theorem numberMove_posts (k : Core) (n num : Nat) : (k.numberMove n num).posts = k.posts := by
  unfold Core.numberMove
  dsimp only
  split <;> rfl

theorem numbered_leaves (s : State) (cl : Cl) (who : Who) (p : Post) (num : Nat) : let t := s.numbered cl who p num
    (∀ cl' who', t.postsOf cl' who' = s.postsOf cl' who') ∧ t = { s with cores := t.cores } := by
  unfold State.numbered
  cases who with
  | steward => exact ⟨fun _ _ => rfl, rfl⟩
  | core c =>
    dsimp only
    split
    · refine ⟨fun cl' who' => ?_, rfl⟩
      cases who' with
      | steward => rfl
      | core c' =>
        show Core.posts _ = _
        rw [State.core_setCore_if]
        split
        · next e =>
          rw [numberMove_posts, e.1, e.2]
          rfl
        · rfl
    · exact ⟨fun _ _ => rfl, rfl⟩

theorem ring_numbered (s : State) (cl : Cl) (who : Who) (p : Post) (r : Ring) :
    ((s.setRing cl p.ring (r.tookPost p.who)).numbered cl who p r.tail.toNat).ring cl p.ring = r.tookPost p.who := by
  rw [(numbered_leaves ..).2]
  exact State.ring_setRing ..

section
variable {s : State} {cl : Cl} {n : Nat}

theorem overrunStop_stays (h : ¬(s.ring cl n).StopsOverrun) : s.overrunStop cl n = s := if_neg h

/-- A ring that an overrun finds between descriptors halts OVERRUN. -/
theorem overrunStop_halts (hp : (s.ring cl n).posted = false) (hg : (s.ring cl n).granted = false) (h : (s.ring cl n).StopsOverrun) :
    s.overrunStop cl n = s.haltRing cl n 7 0 0 :=
  (if_pos h).trans (congrArg (State.haltRing · cl n 7 0 0) (withdraw_idle hp hg))

/-- An overrun touches at most its ring, and the steward core's event queue. -/
theorem overrunStop_leaves (hp : (s.ring cl n).posted = false) (hg : (s.ring cl n).granted = false) (hn : n < 16) : let t := s.overrunStop cl n
    (∀ cl' n', n' < 16 → ¬(cl' = cl ∧ n' = n) → t.ring cl' n' = s.ring cl' n') ∧
    (∀ cl' who', t.postsOf cl' who' = s.postsOf cl' who') ∧ t = { s with stewards := t.stewards, rings := t.rings } := by
  by_cases h : (s.ring cl n).StopsOverrun
  · obtain ⟨-, hother, hposts, hframe⟩ := haltRing_leaves (s := s) (cl := cl) (n := n) (.inr (.inl rfl)) 0 0
    dsimp only
    rw [overrunStop_halts hp hg h]
    refine ⟨hother hn, fun cl' who' => ?_, hframe⟩
    cases who' with
    | core c =>
      rw [hframe]
      rfl
    | steward => exact hposts cl'
  · dsimp only
    rw [overrunStop_stays h]
    exact ⟨fun _ _ _ _ => rfl, fun _ _ => rfl, rfl⟩

end

section
variable {s : State} {cl : Cl} {p : Post} {r : Ring} (hp : r.posted = false) (hg : r.granted = false) (who : Who)

/-- A post within DEPTH, and one that is an overrun while a descriptor moves, leave the ring's state as it is. -/
theorem ring_postTaken_stays (h : r.fill < r.depth ∨ ¬r.StopsOverrun) : (s.postTaken cl who p r).ring cl p.ring = r.tookPost p.who := by
  have hring := ring_numbered s cl who p r
  unfold State.postTaken
  dsimp only
  split
  · next hfull =>
    rw [overrunStop_stays, hring]
    rw [hring]
    exact h.resolve_left (Nat.not_lt.2 (of_decide_eq_true hfull))
  · exact hring

include hp hg

/-- An overrun that finds the ring between descriptors halts it. -/
theorem ring_postTaken_halts (hf : r.depth ≤ r.fill) (h : r.StopsOverrun) :
    (s.postTaken cl who p r).ring cl p.ring = (r.tookPost p.who).haltedBy 7 0 := by
  have hring := ring_numbered s cl who p r
  unfold State.postTaken
  dsimp only
  rw [if_pos (decide_eq_true hf), overrunStop_halts (by rw [hring]; exact hp) (by rw [hring]; exact hg) (by rw [hring]; exact h),
    (haltRing_leaves (.inr (.inl rfl)) 0 0).1, hring]

/-- A post that has been written leaves every other ring, every poster's other posts, and what is not a core, steward core or ring. -/
theorem postTaken_leaves (hn : p.ring < 16) : let t := s.postTaken cl who p r
    (∀ cl' n', n' < 16 → ¬(cl' = cl ∧ n' = p.ring) → t.ring cl' n' = s.ring cl' n') ∧
    (∀ cl' who', t.postsOf cl' who' = s.postsOf cl' who') ∧
    t = { s with cores := t.cores, stewards := t.stewards, rings := t.rings } := by
  obtain ⟨hposts, hframe⟩ := numbered_leaves (s.setRing cl p.ring (r.tookPost p.who)) cl who p r.tail.toNat
  have hring := ring_numbered s cl who p r
  unfold State.postTaken
  dsimp only
  generalize (s.setRing cl p.ring (r.tookPost p.who)).numbered cl who p r.tail.toNat = u at *
  have hother (cl' : Cl) (n' : Nat) (hn' : n' < 16) (hne : ¬(cl' = cl ∧ n' = p.ring)) : u.ring cl' n' = s.ring cl' n' := by
    rw [hframe]
    exact ring_setRing_other s hn hn' hne _
  split
  · obtain ⟨kother, kposts, kframe⟩ := overrunStop_leaves (s := u) (cl := cl) (n := p.ring) (by rw [hring]; exact hp) (by rw [hring]; exact hg) hn
    refine ⟨fun cl' n' hn' hne => (kother cl' n' hn' hne).trans (hother cl' n' hn' hne),
      fun cl' who' => (kposts cl' who').trans (hposts cl' who'), ?_⟩
    rw [kframe, hframe]
    rfl
  · refine ⟨hother, hposts, ?_⟩
    rw [hframe]
    rfl

end

/-- A post that is no overrun leaves the flag and the count; one beyond DEPTH sets and advances them. -/
theorem tookPost_within {r : Ring} (h : r.fill < r.depth) (who : PostBy) :
    (r.tookPost who).overrun = r.overrun ∧ (r.tookPost who).ovrcnt = r.ovrcnt := by
  unfold Ring.tookPost
  simp [Nat.not_le.2 h]

theorem tookPost_beyond {r : Ring} (h : r.depth ≤ r.fill) (who : PostBy) :
    (r.tookPost who).overrun = true ∧ (r.tookPost who).ovrcnt = min 65535 (r.ovrcnt + 1) := by
  unfold Ring.tookPost
  simp [h]

/-- The ring once a post has been written: TAIL has advanced; an overrun is recorded, and halts a ring between descriptors (R233, R234). -/
theorem ring_postTaken (s : State) (cl : Cl) (who : Who) (p : Post) {r : Ring} (hp : r.posted = false) (hg : r.granted = false) :
    let x := (s.postTaken cl who p r).ring cl p.ring
    x.tail = r.tail + 1 ∧ x.head = r.head ∧
    (r.fill < r.depth → x.overrun = r.overrun ∧ x.ovrcnt = r.ovrcnt ∧ x.st = r.st) ∧
    (r.depth ≤ r.fill → x.overrun = true ∧ x.ovrcnt = min 65535 (r.ovrcnt + 1) ∧
      ((r.st = .running ∨ r.st = .stopping) → r.ph ≠ .moving → x.st = .halted ∧ x.cause = 7) ∧ (r.ph = .moving → x.st = r.st)) := by
  dsimp only
  by_cases h : r.depth ≤ r.fill ∧ r.StopsOverrun
  · rw [ring_postTaken_halts hp hg who h.1 h.2]
    obtain ⟨hover, hcount⟩ := tookPost_beyond h.1 p.who
    exact ⟨rfl, rfl, fun hlt => absurd h.1 (Nat.not_le.2 hlt), fun _ => ⟨hover, hcount, fun _ _ => ⟨rfl, rfl⟩, fun hm => absurd hm h.2.2⟩⟩
  · rw [ring_postTaken_stays who ((Nat.lt_or_ge r.fill r.depth).imp_right fun hf hs => h ⟨hf, hs⟩)]
    refine ⟨rfl, rfl, fun hlt => ?_, fun hf => ?_⟩
    · obtain ⟨hover, hcount⟩ := tookPost_within hlt p.who
      exact ⟨hover, hcount, rfl⟩
    · obtain ⟨hover, hcount⟩ := tookPost_beyond hf p.who
      exact ⟨hover, hcount, fun hst hph => absurd ⟨hf, hst, hph⟩ h, fun _ => rfl⟩

/-- Settles O14: the slot by the write through the cluster cache, the ring by whether the post is an overrun. -/
theorem postWritesSlotAndAdvancesTail : Obligations.PostWritesSlotAndAdvancesTail := by
  unfold Obligations.PostWritesSlotAndAdvancesTail
  intro s cl who p rest hn hc hposts hw hr hsrc hslot hp hg
  have hposts : s.postsOf cl who = p :: rest := by cases who <;> exact hposts
  have hs := withPosts_only s cl who rest
  have hleft := postsOf_withPosts s cl who rest
  refine ⟨_, exec_postSlotWritten hposts hw, ?_⟩
  generalize s.withPosts cl who rest = v at *
  have hring (cl' : Cl) (n' : Nat) : v.ring cl' n' = s.ring cl' n' := by rw [hs]; rfl
  have hslot : Allowed v cl ((s.ring cl p.ring).slotAddr (s.ring cl p.ring).tail.toNat) true := by rw [hs]; exact hslot
  obtain ⟨u, ⟨hmem, hrings⟩, hline, he⟩ := postWrite_taken (s := v) (cl := cl) (p := p) (by rw [hs]; exact hc) (by rw [hs]; exact hr)
    (by rw [hs]; exact hsrc) (by rw [hring]) hslot who
  rw [he, hring]
  obtain ⟨htail, hhead, hwithin, hbeyond⟩ := ring_postTaken u cl who p hp hg
  obtain ⟨hother, hkept, hframe⟩ := postTaken_leaves (s := u) (cl := cl) (p := p) hp hg who hn
  refine ⟨htail, hhead, hwithin, hbeyond, ?_, fun cl' n' hn' hne => ?_, ?_, ?_⟩
  · rw [hframe]
    exact hline
  · rw [hother cl' n' hn' hne, ← hring]
    exact hrings cl' ⟨n', hn'⟩
  · have hrest : u.postsOf cl who = rest := by
      rw [← hleft, hmem]
      cases who <;> rfl
    cases who <;> exact (hkept cl _).trans hrest
  · rw [hframe, hmem, hs]

end Sys2Proof.Machine
namespace Sys2Proof.Machine

open Sys2Proof

/-! Every step keeps the invariant (O58). `State.Inv.f` says that the model's operation f keeps it: `h.setPart.hostEv` follows a state through setPart
and then hostEv. Of each operation only what it does to DRAM, the log mirror and the fuses matters; the rest of the state is framed away. -/

/-- Filtering keeps the canonical form of a table. -/
theorem canon_filter {α : Type} [DecidableEq α] (d : α) (p : Nat × α → Bool) {m : SMap α} (h : canon d m = true) : canon d (m.filter p) = true := by
  induction m with
  | nil => rfl
  | cons e t ih =>
    obtain ⟨j, v⟩ := e
    simp only [canon, Bool.and_eq_true, List.all_eq_true] at h
    obtain ⟨⟨hv, hlt⟩, ht⟩ := h
    rw [List.filter_cons]
    split
    · simp only [canon, Bool.and_eq_true, List.all_eq_true]
      exact ⟨⟨hv, fun x hx => hlt x (List.mem_of_mem_filter hx)⟩, ih ht⟩
    · exact ih ht

/-- A command that answers a state of the invariant. -/
def Keeps (o : Out) : Prop := ∃ t, o = .next t ∧ t.Inv

theorem Keeps.next {t : State} (h : t.Inv) : Keeps (.next t) := ⟨t, rfl, h⟩

section
variable {s t : State}

/-! ### The frame, the writers of what the invariant speaks of, and the shapes of the model's definitions -/

theorem State.Inv.wf (h : s.Inv) : s.dram.mem.wf = true := h.1

theorem State.Inv.mirror_length (h : s.Inv) : s.mgmt.mirror.length ≤ 256 := h.2.1

theorem State.Inv.openings_le (h : s.Inv) : s.fw.fuses.openings ≤ 8 := h.2.2.1

theorem State.Inv.svn_le (h : s.Inv) : s.fw.fuses.svn ≤ 32 := h.2.2.2

/-- Whatever leaves DRAM, the management processor and the firmware keeps the invariant. -/
theorem State.Inv.frame
    {now freeCtr cores stewards clusters rings counters net accts power fabric parts totals dict ports store field trust boot jtag pins pending}
    (h : s.Inv) :
    State.Inv ⟨now, freeCtr, cores, stewards, clusters, rings, counters, net, accts, power, fabric,
      s.dram, s.mgmt, parts, totals, dict, ports, store, field,
      s.fw, trust, boot, jtag, pins, pending⟩ := h

/-- Of DRAM only its words matter. -/
theorem State.Inv.frameDram
    {now freeCtr cores stewards clusters rings counters net accts power fabric parts totals dict ports store field trust boot jtag pins pending}
    {wq wacks permTable scrub fenced discards touched scrubPasses poisonSeen lastRead lastVerdict} (h : s.Inv) :
    State.Inv ⟨now, freeCtr, cores, stewards, clusters, rings, counters, net, accts, power, fabric,
      ⟨s.dram.mem, wq, wacks, permTable, scrub, fenced, discards, touched, scrubPasses, poisonSeen, lastRead, lastVerdict⟩, s.mgmt, parts, totals, dict, ports, store, field,
      s.fw, trust, boot, jtag, pins, pending⟩ := h

/-- Of the management processor only the log mirror matters. -/
theorem State.Inv.frameMgmt
    {now freeCtr cores stewards clusters rings counters net accts power fabric parts totals dict ports store field trust boot jtag pins pending}
    {inbox running queue ce de ur fatal lostCe lostDe lostUr ceUnits storms urUnits logCount}
    {slots fenced fencedDue fenceField fenceCauses} (h : s.Inv) :
    State.Inv ⟨now, freeCtr, cores, stewards, clusters, rings, counters, net, accts, power, fabric,
      s.dram, ⟨inbox, running, queue, ce, de, ur, fatal, lostCe, lostDe, lostUr, ceUnits, storms, urUnits, logCount, s.mgmt.mirror,
        slots, fenced, fencedDue, fenceField, fenceCauses⟩, parts, totals, dict, ports, store, field,
      s.fw, trust, boot, jtag, pins, pending⟩ := h

/-- Of the firmware only the fuses matter, and of them the counts of R340 and R350. -/
theorem State.Inv.fuse {fuses : Fuses}
    {now freeCtr cores stewards clusters rings counters net accts power fabric parts totals dict ports store field trust boot jtag pins pending}
    {flash hold holdDie state cause progress cmd recovery inRecovery recOwner version svn measure up upSince bootSource}
    (h : s.Inv) (ho : fuses.openings ≤ 8) (hs : fuses.svn ≤ 32) :
    State.Inv ⟨now, freeCtr, cores, stewards, clusters, rings, counters, net, accts, power, fabric,
      s.dram, s.mgmt, parts, totals, dict, ports, store, field,
      ⟨fuses, flash, hold, holdDie, state, cause, progress, cmd, recovery, inRecovery, recOwner, version, svn, measure, up, upSince, bootSource⟩, trust, boot, jtag, pins, pending⟩ :=
  ⟨h.wf, h.mirror_length, ho, hs⟩

theorem State.Inv.frameFw
    {now freeCtr cores stewards clusters rings counters net accts power fabric parts totals dict ports store field trust boot jtag pins pending}
    {flash hold holdDie state cause progress cmd recovery inRecovery recOwner version svn measure up upSince bootSource}
    (h : s.Inv) :
    State.Inv ⟨now, freeCtr, cores, stewards, clusters, rings, counters, net, accts, power, fabric,
      s.dram, s.mgmt, parts, totals, dict, ports, store, field,
      ⟨s.fw.fuses, flash, hold, holdDie, state, cause, progress, cmd, recovery, inRecovery, recOwner, version, svn, measure, up, upSince, bootSource⟩, trust, boot, jtag, pins, pending⟩ := h

theorem State.Inv.ite {c : Prop} [Decidable c] (hs : s.Inv) (ht : t.Inv) : (if c then s else t : State).Inv := by split <;> assumption

/-- The first branch goes on from the second. -/
theorem State.Inv.iteThen {c : Prop} [Decidable c] (ht : t.Inv) (hs : t.Inv → s.Inv) : (if c then s else t : State).Inv := .ite (hs ht) ht

/-- The second branch goes on from the first. -/
theorem State.Inv.iteElse {c : Prop} [Decidable c] (hs : s.Inv) (ht : s.Inv → t.Inv) : (if c then s else t : State).Inv := .ite hs (ht hs)

theorem State.Inv.fst_ite {α : Type} {c : Prop} [Decidable c] {x y : State × α} (hx : x.1.Inv) (hy : y.1.Inv) : (if c then x else y).1.Inv := by
  split <;> assumption

theorem State.Inv.snd_ite {α : Type} {c : Prop} [Decidable c] {x y : α × State} (hx : x.2.Inv) (hy : y.2.Inv) : (if c then x else y).2.Inv := by
  split <;> assumption

theorem State.Inv.foldl {α : Type} {f : State → α → State} {l : List α} (h : s.Inv) (hf : ∀ s a, s.Inv → (f s a).Inv) : (l.foldl f s).Inv :=
  foldl_inv l s h fun s a _ => hf s a


/-! ### Memory, free values, events, errors and the log -/

theorem State.Inv.setCore {cl c v} (h : s.Inv) : (s.setCore cl c v).Inv := h.frame

theorem State.Inv.setStew {cl v} (h : s.Inv) : (s.setStew cl v).Inv := h.frame

theorem State.Inv.setClu {cl v} (h : s.Inv) : (s.setClu cl v).Inv := h.frame

theorem State.Inv.setRing {cl n v} (h : s.Inv) : (s.setRing cl n v).Inv := h.frame

theorem State.Inv.setCtr {name v} (h : s.Inv) : (s.setCtr name v).Inv := h.frame

theorem State.Inv.setAcct {a v} (h : s.Inv) : (s.setAcct a v).Inv := h.frame

theorem State.Inv.setPart {p v} (h : s.Inv) : (s.setPart p v).Inv := h.frame

theorem State.Inv.setFn {f v} (h : s.Inv) : (s.setFn f v).Inv := h.frame

theorem State.Inv.setSema {k v} (h : s.Inv) : (s.setSema k v).Inv := h.frame

theorem State.Inv.setLink {l v} (h : s.Inv) : (s.setLink l v).Inv := h.frame

theorem State.Inv.setSport {k v} (h : s.Inv) : (s.setSport k v).Inv := h.frame

theorem State.Inv.setPhy {i v} (h : s.Inv) : (s.setPhy i v).Inv := h.frame

theorem State.Inv.setMapEntry {i v} (h : s.Inv) : (s.setMapEntry i v).Inv := h.frame

theorem State.Inv.setObj {idx sub v} (h : s.Inv) : (s.setObj idx sub v).Inv := h.frame

/-- R248: DRAM takes words in their canonical form only. -/
theorem State.Inv.setDram {m} (h : s.Inv) (hm : m.wf = true) : (s.setDram m).Inv := ⟨hm, h.mirror_length, h.openings_le, h.svn_le⟩

theorem State.Inv.dramWr {a bs poison} (h : s.Inv) : (s.dramWr a bs poison).Inv := by
  refine h.setDram ?_
  split
  · exact Mem.poison_wf _ _ h.wf
  · exact Mem.writeOpt_wf _ _ h.wf

theorem State.Inv.dramBytesWr {a bs} (h : s.Inv) : (s.dramBytesWr a bs).Inv := h.foldl fun _ _ h => h.dramWr

theorem State.Inv.fresh (h : s.Inv) : s.fresh.2.Inv := h.frame

theorem State.Inv.pushEv {cl r} (h : s.Inv) : (s.pushEv cl r).Inv := h.setStew

theorem State.Inv.fnEvent {f r} (h : s.Inv) : (s.fnEvent f r).Inv := h.setFn

theorem State.Inv.hostEv {p code die unit detail aux} (h : s.Inv) : (s.hostEv p code die unit detail aux).Inv := by
  unfold State.hostEv
  split
  · exact h.fnEvent
  · exact h

theorem State.Inv.devEv {code die unit detail aux} (h : s.Inv) : (s.devEv code die unit detail aux).Inv := h.fnEvent.fnEvent

/-- R335: the mirror keeps the last 256 records. -/
theorem State.Inv.logRec {r} (h : s.Inv) : (s.logRec r).Inv := by
  refine ⟨h.wf, ?_, h.openings_le, h.svn_le⟩
  simp only [State.logRec, List.length_drop]
  omega

theorem State.Inv.logEvent {type part unit step detail aux} (h : s.Inv) : (s.logEvent type part unit step detail aux).Inv := h.logRec

theorem State.Inv.raise {e sc} (h : s.Inv) : (s.raise e sc).Inv := h.frameMgmt

theorem State.Inv.refusal {unit part addr status} (h : s.Inv) : (s.refusal unit part addr status).Inv := h.raise

theorem State.Inv.wordErrors {m key a n source unit part cls} (h : s.Inv) : (s.wordErrors m key a n source unit part cls).Inv := by
  unfold State.wordErrors
  refine h.foldl fun _ _ h => ?_
  dsimp only
  split
  · exact h.raise
  · exact h.raise
  · exact h

theorem State.Inv.send {k} (h : s.Inv) : (s.send k).Inv := h.frame


/-! ### Buffers of the mesh -/

theorem State.Inv.setBuffer {k fs} (h : s.Inv) : (s.setBuffer k fs).Inv := h.frame

theorem State.Inv.waitAt {x f} (h : s.Inv) : (s.waitAt x f).Inv := h.setBuffer

theorem State.Inv.takeWaiting {p} (h : s.Inv) : (s.takeWaiting p).1.Inv := h.frame


/-! ### Registers and the tile store -/

theorem State.Inv.setReg {w n v} (h : s.Inv) : (s.setReg w n v).Inv := by
  unfold State.setReg
  split
  · exact h.setCore
  · exact h.setStew

theorem State.Inv.reportFound {cl c fs} (h : s.Inv) : (s.reportFound cl c fs).Inv := by
  unfold State.reportFound
  refine h.foldl fun _ _ h => ?_
  dsimp only
  split
  · exact h.raise
  · exact h.raise
  · exact h

theorem State.Inv.coreTo {cl c t} (h : s.Inv) : (s.coreTo cl c t).Inv := h.setCore.reportFound


/-! ### Channels and cluster caches -/

theorem State.Inv.permUse {cl page} (h : s.Inv) : (s.permUse cl page).1.Inv := by
  unfold State.permUse
  dsimp only
  split
  · exact h
  · exact h.setClu

theorem State.Inv.reqStatus {cl a write} (h : s.Inv) : (s.reqStatus cl a write).1.Inv := .fst_ite h h.permUse

theorem State.Inv.note {line} (h : s.Inv) : (s.note line).Inv := .ite h.frameDram h

theorem State.Inv.setScrubber {ch v} (h : s.Inv) : (s.setScrubber ch v).Inv := h.frameDram

/-- The words of a channel's write are merged or poisoned one by one. -/
theorem State.Inv.chanWrite {src line mask} (h : s.Inv) : (s.chanWrite src line mask).Inv := by
  refine .note (.setDram (h.foldl fun _ _ h => .ite h h.wordErrors) ?_)
  refine foldl_inv (p := fun m : Mem => m.wf = true) _ _ (State.Inv.wf (.foldl h fun _ _ h => .ite h h.wordErrors)) fun m w _ hm => ?_
  dsimp only
  split
  · exact hm
  · split
    · exact Mem.poisonWord_wf _ hm
    · exact Mem.mergeWord_wf _ _ hm

theorem State.Inv.chanTake {src line mask} (h : s.Inv) : (s.chanTake src line mask).Inv := .ite h.frameDram h.chanWrite

theorem State.Inv.takeWrite {q} (h : s.Inv) : (s.takeWrite q).Inv := .frameDram h.chanTake

theorem State.Inv.correctHeld {ch} (h : s.Inv) : (s.correctHeld ch).Inv := by
  unfold State.correctHeld
  dsimp only
  split
  · exact h
  · refine .foldl (.setScrubber (h.setDram ?_)) fun _ _ h => h.takeWrite
    exact foldl_inv (p := fun m : Mem => m.wf = true) _ _ h.wf fun _ w _ hm => Mem.fixWord_wf w hm

theorem State.Inv.freeLine {line} (h : s.Inv) : (s.freeLine line).Inv := .ite h.correctHeld h

theorem State.Inv.chanRead {a n part cls} (h : s.Inv) : (s.chanRead a n part cls).1.Inv :=
  .fst_ite h (.fst_ite h (.iteThen (.iteThen h.wordErrors fun hw => hw.setDram (Mem.settleBad_wf _ _ h.wf)) fun h => h.note))

theorem State.Inv.ackWrite {x0} (h : s.Inv) : (s.ackWrite x0).Inv := by
  unfold State.ackWrite
  split
  · exact h.setClu
  · exact .ite h.setRing h

theorem State.Inv.landWrites {p} (h : s.Inv) : (s.landWrites p).Inv := h.frameDram.foldl fun _ _ h => h.freeLine.chanTake.ackWrite

theorem State.Inv.checkLine {cl l} (h : s.Inv) : (s.checkLine cl l).Inv := h.wordErrors.setClu

theorem State.Inv.takeAcks {cl l} (h : s.Inv) : (s.takeAcks cl l).Inv := .ite h.frameDram.ackWrite h

theorem State.Inv.writeBack {cl l} (h : s.Inv) : (s.writeBack cl l).Inv := by
  unfold State.writeBack
  refine .ite h ?_
  dsimp only
  split
  · exact .iteThen h.landWrites.takeAcks fun h => h.checkLine.freeLine.chanTake.setClu
  · exact h.landWrites.takeAcks

theorem State.Inv.evict {cl x} (h : s.Inv) : (s.evict cl x).Inv := h.writeBack.setClu

theorem State.Inv.makeRoom {cl l} (h : s.Inv) : (s.makeRoom cl l).Inv := by
  unfold State.makeRoom
  dsimp only
  refine .ite h ?_
  split
  · exact h.evict
  · split
    · exact h.landWrites.evict
    · split
      · exact h.evict
      · split
        · exact h.evict
        · exact h

theorem State.Inv.mergeErrors {cl base l mask} (h : s.Inv) : (s.mergeErrors cl base l mask).Inv := h.foldl fun _ _ h => .ite h h.wordErrors

theorem State.Inv.install {cl l m x tag} (h : s.Inv) : (s.install cl l m x tag).Inv := by
  unfold State.install
  split
  · exact h.checkLine.setClu
  · exact h.makeRoom.setClu

theorem State.Inv.cacheRead {cl slot a n x tag cls alloc} (h : s.Inv) : (s.cacheRead cl slot a n x tag cls alloc).1.Inv := by
  unfold State.cacheRead
  dsimp only
  split
  · exact h.wordErrors.setClu
  · exact .fst_ite h.wordErrors.setClu (.fst_ite h.chanRead (.fst_ite h.chanRead h.chanRead.install))

theorem State.Inv.clRead {cl slot a n x tag cls} (h : s.Inv) : (s.clRead cl slot a n x tag cls).1.Inv := h.cacheRead

theorem State.Inv.clWrite {cl src l mask x tag} (h : s.Inv) : (s.clWrite cl src l mask x tag).Inv := by
  unfold State.clWrite
  split
  · exact h.mergeErrors.setClu
  · exact h.makeRoom.setClu

theorem State.Inv.shadowWrite {cl k src l mask x tag} (h : s.Inv) : (s.shadowWrite cl k src l mask x tag).1.Inv :=
  .fst_ite h.mergeErrors.setClu (.fst_ite h.clRead h.clRead.makeRoom.setClu)

theorem State.Inv.emptyCache {cl} (h : s.Inv) : (s.emptyCache cl).Inv := .setClu (h.landWrites.foldl fun _ _ h => h.writeBack)

theorem State.Inv.cleanRange {cl base len} (h : s.Inv) : (s.cleanRange cl base len).Inv := h.foldl fun _ _ h => .ite h.writeBack h

theorem State.Inv.askAhead {cl who l tag cyc} (h : s.Inv) : (s.askAhead cl who l tag cyc).Inv :=
  h.foldl fun _ _ h => .ite h.setClu (.ite h (.iteThen h.permUse fun h => h.setClu))

theorem State.Inv.detect {cl who l tag cyc} (h : s.Inv) : (s.detect cl who l tag cyc).Inv := by
  unfold State.detect
  split
  · exact h
  · dsimp only
    split
    · exact .iteThen h.setClu fun h => h.setClu.askAhead
    · split
      · exact .iteThen h.setClu fun h => h.setClu.askAhead
      · exact h.setClu


/-! ### Trace -/

theorem State.Inv.trace {cl r} (h : s.Inv) : (s.trace cl r).Inv := .ite h.setClu h

theorem State.Inv.traceFlush {cl} (h : s.Inv) : (s.traceFlush cl).Inv := .ite h.setClu h


/-! ### Waits and rings -/

theorem State.Inv.refreshRing {cl n} (h : s.Inv) : (s.refreshRing cl n).Inv := by
  unfold State.refreshRing
  dsimp only
  refine .ite ?_ h
  split
  · exact h.setRing
  · exact h.setRing

theorem State.Inv.refresh {cl} (h : s.Inv) : (s.refresh cl).Inv := h.foldl fun _ _ h => h.refreshRing

theorem State.Inv.trip {cl limit} (h : s.Inv) : (s.trip cl limit).Inv :=
  .foldl (.setStew (h.foldl fun _ _ h => h.setCore)) fun _ _ h => .ite h.setRing h


/-! ### Tasks, faults and stops -/

theorem State.Inv.trueUp {cl t} (h : s.Inv) : (s.trueUp cl t).Inv := h.setAcct

theorem State.Inv.abortCore {cl c} (h : s.Inv) : (s.abortCore cl c).Inv := h.coreTo.setCore

theorem State.Inv.abortCores {cl m} (h : s.Inv) : (s.abortCores cl m).Inv := h.foldl fun _ _ h => .ite h.abortCore h

theorem State.Inv.traceEnd {t outcome} (h : s.Inv) : (s.traceEnd t outcome).Inv := h.fresh.trace.traceFlush

theorem State.Inv.voidPosts {cl key} (h : s.Inv) : (s.voidPosts cl key).Inv := h.foldl fun _ _ h => .ite h.setRing h

theorem State.Inv.stopTask {cl key outcome} (h : s.Inv) : (s.stopTask cl key outcome).Inv := by
  unfold State.stopTask
  split
  · exact h
  · exact h.abortCores.voidPosts.trueUp.traceEnd.setClu

theorem State.Inv.beginDiscard {cl k cause} (h : s.Inv) : (s.beginDiscard cl k cause).Inv :=
  .ite (.iteThen (.setClu (.ite h.stopTask h.voidPosts)) fun h => h.refresh.refresh) h

theorem State.Inv.report {unit part ia kind status taskId} (h : s.Inv) : (s.report unit part ia kind status taskId).Inv := h.raise

theorem State.Inv.taskFault {cl key kind core ia ws status} (h : s.Inv) : (s.taskFault cl key kind core ia ws status).Inv := by
  unfold State.taskFault
  split
  · exact h
  · dsimp only
    refine .refresh ?_
    refine .refresh ?_
    refine .report ?_
    refine .pushEv ?_
    refine .setRing ?_
    split
    · exact h.stopTask.setClu
    · exact h.stopTask

theorem State.Inv.coreFault {cl c kind ia ws status} (h : s.Inv) : (s.coreFault cl c kind ia ws status).Inv := by
  unfold State.coreFault
  split
  · exact h.taskFault
  · exact h

theorem State.Inv.stewardFault {cl ia} (h : s.Inv) : (s.stewardFault cl ia).Inv := h.setStew.report

theorem State.Inv.wake {n} (h : s.Inv) : (s.wake n).Inv := .iteThen h.frame fun h => h.refresh

theorem State.Inv.dropInc {p} (h : s.Inv) : (s.dropInc p).Inv := h.setPart

theorem State.Inv.applyInc {k} (h : s.Inv) : (s.applyInc k).Inv := .ite h.frame.dropInc h.frame.setCtr.wake

theorem State.Inv.defer {cl k p} (h : s.Inv) : (s.defer cl k p).1.Inv := .fst_ite h.setClu h

theorem State.Inv.deferFull {cl c k} (h : s.Inv) : (s.deferFull cl c k).Inv := .ite h h.setCore.pushEv

theorem State.Inv.haltRing {cl n cause erraddr status} (h : s.Inv) : (s.haltRing cl n cause erraddr status).Inv := by
  unfold State.haltRing
  dsimp only
  split
  · exact .iteThen (.iteElse h.setRing fun h => h.pushEv) fun h => .coreFault (.snd_ite h h.fresh)
  · exact .iteElse h.setRing fun h => h.pushEv

theorem State.Inv.stopDispatch {p} (h : s.Inv) : (s.stopDispatch p).Inv := h.foldl fun _ _ h => h.setClu

theorem State.Inv.abortAll {cl} (h : s.Inv) : (s.abortAll cl).Inv := .foldl (h.foldl fun _ _ h => h.stopTask.setRing) fun _ _ h => .ite h.setClu h

theorem State.Inv.endStewWait {cl outcome} (h : s.Inv) : (s.endStewWait cl outcome).Inv := by
  unfold State.endStewWait
  dsimp only
  split
  · split
    · exact h.setStew
    · exact h
  · exact h

theorem State.Inv.hangRings {cl} (h : s.Inv) : (s.hangRings cl).Inv := by
  unfold State.hangRings
  refine h.foldl fun _ _ h => ?_
  dsimp only
  refine .ite h ?_
  split
  · exact h.haltRing
  · exact h.setRing
  · exact h.haltRing

theorem State.Inv.landAll {p} (h : s.Inv) : (s.landAll p).Inv := h.frame.foldl fun _ _ h => h.applyInc

theorem State.Inv.takeDump {p cause unit cls} (h : s.Inv) : (s.takeDump p cause unit cls).Inv := h.setPart

theorem State.Inv.hangStop {p cause unit} (h : s.Inv) : (s.hangStop p cause unit).Inv :=
  h.stopDispatch.landAll.takeDump.setPart.foldl fun _ _ h => h.abortAll.endStewWait.hangRings.traceFlush

theorem State.Inv.withdraw {cl n} (h : s.Inv) : (s.withdraw cl n).Inv := .ite h.setAcct.setRing h

theorem State.Inv.abandonRings {cl} (h : s.Inv) : (s.abandonRings cl).Inv := h.foldl fun _ _ h => .ite h.haltRing h

theorem State.Inv.beginStop {p} (h : s.Inv) : (s.beginStop p).Inv :=
  .foldl (h.stopDispatch.setPart.foldl fun _ _ h => h.foldl fun _ _ h => h.withdraw) fun _ _ h => h.abortAll.abandonRings.setClu.traceFlush

theorem State.Inv.failHead {cl n b} (h : s.Inv) : (s.failHead cl n b).Inv := h.setRing.pushEv.report

theorem State.Inv.checkHead {cl n} (h : s.Inv) : (s.checkHead cl n).Inv := by
  unfold State.checkHead
  dsimp only
  split
  · exact h
  · exact .ite (.ite h.setRing h.failHead) h

theorem State.Inv.failMissing {cl n} (h : s.Inv) : (s.failMissing cl n).Inv := by
  unfold State.failMissing
  dsimp only
  split
  · refine .ite h ?_
    refine .ite ?_ ?_
    · split
      · exact h.withdraw.setRing.pushEv.report
      · exact h.withdraw
    · split
      · exact h.withdraw.failHead
      · exact h.withdraw
  · exact h

theorem State.Inv.overrunTask {cl n} (h : s.Inv) : (s.overrunTask cl n).Inv := h.withdraw.haltRing

theorem State.Inv.advanceHead {cl n} (h : s.Inv) : (s.advanceHead cl n).Inv := .ite h.setRing.overrunTask h.setRing.checkHead

theorem State.Inv.heldEmptied {cl n} (h : s.Inv) : (s.heldEmptied cl n).Inv := .ite h.overrunTask (.ite h.setRing h.setRing.checkHead)

theorem State.Inv.startTask {cl tgt n d} (h : s.Inv) : (s.startTask cl tgt n d).Inv :=
  .refresh (.refresh (.ite (.iteThen (.setRing (h.setClu.foldl fun _ _ h => .ite h.setCore h)) fun h => h.heldEmptied) (.advanceHead (h.setClu.foldl
    fun _ _ h => .ite h.setCore h))))

theorem State.Inv.balanceFault {cl c x bad} (h : s.Inv) : (s.balanceFault cl c x bad).Inv := h.setClu.coreFault

theorem State.Inv.done {t} (h : s.Inv) : (s.done t).Inv := by
  unfold State.done
  split
  · exact h.send
  · exact h

theorem State.Inv.endTask {cl c key t} (h : s.Inv) : (s.endTask cl c key t).Inv := by
  unfold State.endTask
  dsimp only
  split
  · exact .refresh (.setClu (.traceEnd (.trueUp (h.done.foldl fun _ _ h => .ite h.setCore h))))
  · refine .ite ?_ h.deferFull
    refine .setClu ?_
    refine .refresh ?_
    refine .setClu ?_
    refine .traceEnd ?_
    refine .trueUp ?_
    refine .foldl ?_ fun _ _ h => ?_
    · split
      · exact h.defer
      · exact h
    · exact .ite h.setCore h


/-! ### Issue -/

theorem State.Inv.setHold {w x} (h : s.Inv) : (s.setHold w x).Inv := by
  unfold State.setHold
  split
  · exact h.setCore
  · exact h.setStew

theorem State.Inv.holdFor {w i why} (h : s.Inv) : (s.holdFor w i why).Inv := by
  unfold State.holdFor
  split
  · exact .ite h h.setHold
  · exact h.setHold

theorem State.Inv.advance {w npc cyc} (h : s.Inv) : (s.advance w npc cyc).Inv := by
  unfold State.advance
  split
  · exact h.setCore
  · exact h.setStew.setClu

theorem State.Inv.next1 {w} (h : s.Inv) : (s.next1 w).Inv := h.advance

theorem State.Inv.instrFault {w i pos} (h : s.Inv) : (s.instrFault w i pos).Inv := by
  unfold State.instrFault
  split
  · split
    · exact h.coreFault
    · exact h.fresh.coreFault
  · exact h.stewardFault

theorem State.Inv.setBp {p e v} (h : s.Inv) : (s.setBp p e v).Inv := h.setObj

theorem State.Inv.bpPass {w} (h : s.Inv) : (s.bpPass w).Inv := by
  unfold State.bpPass
  split
  · exact .ite h h.setBp
  · exact h

/-- Every instruction issues, is held, or faults. -/
theorem State.Inv.issue {w i k oks} {run : State → State} (h : s.Inv) (hr : ∀ s : State, s.Inv → (run s).Inv) : (s.issue w i k oks run).Inv := by
  refine .ite h (.ite h.holdFor (.ite h.bpPass.instrFault ?_))
  split
  · exact h.bpPass.instrFault
  · exact hr _ h.bpPass


/-! ### The array -/

theorem State.Inv.arrayIssue {w i c ask now act} (h : s.Inv) : (s.arrayIssue w i c ask now act).Inv := by
  unfold State.arrayIssue
  dsimp only
  refine .ite h.coreTo.holdFor ?_
  split
  · exact h.coreTo.coreTo.coreFault
  · exact h.coreTo.setCore.coreTo.setCore.reportFound.coreTo.next1

theorem State.Inv.doTprod {w i acc srcA srcB sclA sclB n add tb drn} (h : s.Inv) : (s.doTprod w i acc srcA srcB sclA sclB n add tb drn).Inv := by
  unfold State.doTprod
  split
  · exact h
  · exact h.arrayIssue

theorem State.Inv.doTew {w i op srcX srcY vec neg d} (h : s.Inv) : (s.doTew w i op srcX srcY vec neg d).Inv := by
  unfold State.doTew
  split
  · exact h
  · exact h.arrayIssue

theorem State.Inv.doTdrain {w i acc d} (h : s.Inv) : (s.doTdrain w i acc d).Inv := by
  unfold State.doTdrain
  split
  · exact h
  · exact h.arrayIssue

theorem State.Inv.whenClear {w i f} (h : s.Inv) : (s.whenClear w i f).Inv := by
  unfold State.whenClear
  split
  · exact h
  · exact .ite h.holdFor h.coreTo.setCore.next1

theorem execConfig_keeps {w fmtA fmtB} (h : s.Inv) : Keeps (execConfig w fmtA fmtB s) := .next (h.issue fun _ h => h.whenClear)

theorem execSetmask_keeps {w row col} (h : s.Inv) : Keeps (execSetmask w row col s) := by
  unfold execSetmask
  refine .next ?_
  refine h.issue fun _ h => ?_
  split
  · exact h.setCore.next1
  · exact h

theorem execSrseed_keeps {w sa} (h : s.Inv) : Keeps (execSrseed w sa s) := by
  unfold execSrseed
  refine .next ?_
  refine h.issue fun _ h => ?_
  split
  · exact h.coreTo.setCore.next1
  · exact h

theorem execTprod_keeps {w acc srcA srcB sclA sclB n ad tb drn} (h : s.Inv) : Keeps (execTprod w acc srcA srcB sclA sclB n ad tb drn s) :=
  .next (h.issue fun _ h => h.doTprod)

theorem execTdrain_keeps {w acc drn} (h : s.Inv) : Keeps (execTdrain w acc drn s) := .next (h.issue fun _ h => h.doTdrain)

theorem execTew_keeps {w op srcX srcY vec neg drn} (h : s.Inv) : Keeps (execTew w op srcX srcY vec neg drn s) := .next (h.issue fun _ h => h.doTew)

theorem execArrayOutputVisible_keeps {cl c} (h : s.Inv) : Keeps (execArrayOutputVisible cl c s) := by
  unfold execArrayOutputVisible
  refine .next ?_
  split
  · exact h
  · exact h.coreTo


/-! ### Tile moves -/

theorem State.Inv.doTload {w i m} (h : s.Inv) : (s.doTload w i m).Inv := by
  unfold State.doTload
  split
  · exact h
  · dsimp only
    split
    · exact h.holdFor
    · exact .ite h.holdFor h.coreTo.setCore.next1

theorem State.Inv.doTstore {w i m} (h : s.Inv) : (s.doTstore w i m).Inv := by
  unfold State.doTstore
  split
  · exact h
  · dsimp only
    split
    · exact h.holdFor
    · exact .ite h.holdFor h.coreTo.reportFound.setCore.next1

theorem execTload_keeps {w m} (h : s.Inv) : Keeps (execTload w m s) := .next (h.issue fun _ h => h.doTload)

theorem execTstore_keeps {w m} (h : s.Inv) : Keeps (execTstore w m s) := .next (h.issue fun _ h => h.doTstore)

theorem State.Inv.setMove {cl c slot v} (h : s.Inv) : (s.setMove cl c slot v).Inv := h.setCore

theorem State.Inv.moveFault {cl c v addr status} (h : s.Inv) : (s.moveFault cl c v addr status).Inv := h.coreFault

theorem State.Inv.moveRefused {cl c v addr status} (h : s.Inv) : (s.moveRefused cl c v addr status).Inv := h.refusal.moveFault

theorem State.Inv.interruptMove {cl c slot v} (h : s.Inv) : (s.interruptMove cl c slot v).Inv := .ite h.moveFault (.ite h.setCore.setMove h.setMove)

theorem State.Inv.loadLine {cl c slot i v} (h : s.Inv) : (s.loadLine cl c slot i v).Inv :=
  .ite h.reqStatus.moveRefused (.ite h (.ite h.reqStatus.interruptMove (.ite h.reqStatus.clRead.moveFault (.ite h.reqStatus.clRead.moveRefused
    (.setMove (.setCore (.iteElse h.reqStatus.clRead fun h => h.detect)))))))

theorem State.Inv.storeLine {cl c slot i v} (h : s.Inv) : (s.storeLine cl c slot i v).Inv := by
  unfold State.storeLine
  dsimp only
  refine .ite h.reqStatus.moveRefused ?_
  refine .ite h ?_
  split
  · exact h.reqStatus.clWrite.setMove
  · split
    · exact .ite h.reqStatus.shadowWrite.setMove (.ite h.reqStatus.shadowWrite.interruptMove h.reqStatus.shadowWrite.moveRefused)
    · exact .iteElse h.reqStatus fun h => h.setMove.pushEv

theorem execMoveLineResponse_keeps {cl c slot line} (h : s.Inv) : Keeps (execMoveLineResponse cl c slot line s) := by
  unfold execMoveLineResponse
  refine .next ?_
  split
  · exact h
  · exact .ite (.ite h.loadLine h.storeLine) h

theorem execMoveInterrupted_keeps {cl c slot} (h : s.Inv) : Keeps (execMoveInterrupted cl c slot s) := by
  unfold execMoveInterrupted
  refine .next ?_
  split
  · exact h
  · exact .ite h h.interruptMove

theorem execMoveBusError_keeps {cl c slot addr status} (h : s.Inv) : Keeps (execMoveBusError cl c slot addr status s) := by
  unfold execMoveBusError
  refine .next ?_
  split
  · exact h
  · exact .ite h h.moveRefused

theorem execMoveComplete_keeps {cl c slot} (h : s.Inv) : Keeps (execMoveComplete cl c slot s) := by
  unfold execMoveComplete
  refine .next ?_
  split
  · exact h
  · exact .ite h.setCore h


/-! ### Posts -/

theorem State.Inv.addPost {w p} (h : s.Inv) : (s.addPost w p).Inv := by
  unfold State.addPost
  split
  · exact h.setCore
  · exact h.setStew

theorem State.Inv.doRpost {w i n sa region} (h : s.Inv) : (s.doRpost w i n sa region).Inv := by
  unfold State.doRpost
  split
  · exact h
  · dsimp only
    split
    · split
      · exact h.holdFor
      · exact .ite h.holdFor h.coreTo.setCore.addPost.next1
    · exact h.addPost.next1

theorem State.Inv.doStewPost {w n sa task} (h : s.Inv) : (s.doStewPost w n sa task).Inv := .ite h.addPost.next1 h.setRing.next1

theorem execRpost_keeps {w n sa region} (h : s.Inv) : Keeps (execRpost w n sa region s) := by
  unfold execRpost
  refine .next ?_
  split
  · exact h.issue fun _ h => h.doRpost
  · exact h.issue fun _ h => h.doStewPost

theorem State.Inv.postRefused {cl who p which addr status} (h : s.Inv) : (s.postRefused cl who p which addr status).Inv := by
  unfold State.postRefused
  dsimp only
  split
  · exact .iteThen h.refusal fun h => h.coreFault
  · exact h.refusal.setRing.pushEv

theorem State.Inv.overrunStop {cl n} (h : s.Inv) : (s.overrunStop cl n).Inv := .ite h.overrunTask h

theorem State.Inv.postWrite {cl who p} (h : s.Inv) : (s.postWrite cl who p).Inv := by
  unfold State.postWrite
  dsimp only
  refine .ite h.reqStatus.postRefused ?_
  refine .ite h.reqStatus.clRead.postRefused ?_
  refine .ite h.reqStatus.clRead.reqStatus.postRefused ?_
  refine .iteThen ?_ fun h => h.overrunStop
  split
  · exact .iteThen h.reqStatus.clRead.reqStatus.clWrite.setRing fun h => h.setCore
  · exact h.reqStatus.clRead.reqStatus.clWrite.setRing

theorem execPostSlotWritten_keeps {cl who} (h : s.Inv) : Keeps (execPostSlotWritten cl who s) := by
  unfold execPostSlotWritten
  refine .next ?_
  split
  · dsimp only
    split
    · exact h
    · exact .ite h h.setCore.postWrite
  · dsimp only
    split
    · exact h
    · exact .ite h h.setStew.postWrite


/-! ### Counters, fetches and the sync network -/

theorem State.Inv.coreInc {cl c n amt} (h : s.Inv) : (s.coreInc cl c n amt).1.Inv := by
  unfold State.coreInc
  dsimp only
  split
  · exact .fst_ite h.defer h.deferFull
  · exact h.setCore.send

theorem State.Inv.doCinc {w i n amt whenDone} (h : s.Inv) : (s.doCinc w i n amt whenDone).Inv := by
  unfold State.doCinc
  split
  · exact h.setStew.send.next1
  · exact .ite h.setCore.next1 (.ite h.setCore.coreInc.next1 h.setCore.coreInc.holdFor)

theorem execCinc_keeps {w ctr amt whenDone} (h : s.Inv) : Keeps (execCinc w ctr amt whenDone s) := .next (h.issue fun _ h => h.doCinc)

theorem execWhenDoneIncrement_keeps {cl c} (h : s.Inv) : Keeps (execWhenDoneIncrement cl c s) := by
  unfold execWhenDoneIncrement
  refine .next ?_
  dsimp only
  split
  · exact h
  · exact .ite h (.iteElse h.coreTo.setCore.coreInc fun h => h.setCore)

theorem State.Inv.expect {w n by_} (h : s.Inv) : (s.expect w n by_).Inv := by
  unfold State.expect
  dsimp only
  split
  · exact h.setCtr.setCore
  · exact h.setCtr

theorem execCexp_keeps {w ctr amt} (h : s.Inv) : Keeps (execCexp w ctr amt s) := .next (h.issue fun _ h => h.expect.wake.next1)

theorem State.Inv.doCwait {w i n} (h : s.Inv) : (s.doCwait w i n).Inv := by
  unfold State.doCwait
  dsimp only
  refine .ite ?_ h.expect.holdFor
  refine .next1 ?_
  split
  · exact h.expect.setStew
  · exact h.expect

theorem execCwait_keeps {w ctr} (h : s.Inv) : Keeps (execCwait w ctr s) := .next (h.issue fun _ h => h.doCwait)

theorem execCread_keeps {w sd ctr expected} (h : s.Inv) : Keeps (execCread w sd ctr expected s) := by
  unfold execCread
  refine .next ?_
  refine h.issue fun _ h => ?_
  dsimp only
  split
  · exact h.next1.setCore
  · exact h.next1.setStew

theorem execCreadResult_keeps {cl who} (h : s.Inv) : Keeps (execCreadResult cl who s) := by
  unfold execCreadResult
  refine .next ?_
  split
  · dsimp only
    split
    · exact h
    · exact h.setCore
  · dsimp only
    split
    · exact h
    · exact h.setStew

theorem execCwstat_keeps {w sd} (h : s.Inv) : Keeps (execCwstat w sd s) := .next (h.issue fun _ h => h.setReg.next1)

theorem execFence_keeps {w} (h : s.Inv) : Keeps (execFence w s) := .next (h.issue fun _ h => h.whenClear)

theorem execEndTask_keeps {w} (h : s.Inv) : Keeps (execEndTask w s) := .next (h.issue fun _ h => h.whenClear)

theorem State.Inv.balance {cl c key t} (h : s.Inv) : (s.balance cl c key t).Inv :=
  .ite h.balanceFault (.iteElse h.setClu.setCore fun h => .ite h.endTask h.balanceFault)

theorem execEndBalanceCheck_keeps {cl c} (h : s.Inv) : Keeps (execEndBalanceCheck cl c s) := by
  unfold execEndBalanceCheck
  refine .next ?_
  dsimp only
  split
  · split
    · exact .ite h.balance h
    · exact h
  · exact h

theorem State.Inv.fetchFault {w} (h : s.Inv) : (s.fetchFault w).Inv := by
  unfold State.fetchFault
  split
  · exact h.coreFault
  · exact h.stewardFault

theorem State.Inv.setFetchBad {w b} (h : s.Inv) : (s.setFetchBad w b).Inv := by
  unfold State.setFetchBad
  split
  · exact h.setCore
  · exact h.setStew

theorem State.Inv.icFill {w l} (h : s.Inv) : (s.icFill w l).Inv := by
  unfold State.icFill
  dsimp only
  split
  · exact h.setClu.setCore
  · exact h.setClu.setFetchBad

theorem execInstructionFetchFill_keeps {w} (h : s.Inv) : Keeps (execInstructionFetchFill w s) :=
  .next (.ite h (.ite (.iteThen (.fst_ite h.permUse h) fun h => h.fetchFault) (.ite (.icFill (.fst_ite h.permUse h)) (.ite h (.ite (.iteThen
    (.cacheRead (.fst_ite h.permUse h)) fun h => h.fetchFault) (.ite (.icFill (.cacheRead (.fst_ite h.permUse h))) (.iteElse (.cacheRead
    (.fst_ite h.permUse h)) fun h => .ite h.setFetchBad.fetchFault h.setFetchBad)))))))

theorem State.Inv.packetLost {cl} (h : s.Inv) : (s.packetLost cl).Inv := h.raise

theorem execIncrementApplied_keeps {i crcFails} (h : s.Inv) : Keeps (execIncrementApplied i crcFails s) := by
  unfold execIncrementApplied
  refine .next ?_
  split
  · exact h
  · exact .ite h.frame.applyInc h.frame.packetLost

theorem State.Inv.takeAck {x0} (h : s.Inv) : (s.takeAck x0).Inv := by
  unfold State.takeAck
  split
  · exact h.setCore
  · exact h.setStew
  · exact h
  · exact h
  · exact h

theorem execIncrementAck_keeps {k} (h : s.Inv) : Keeps (execIncrementAck k s) := by
  unfold execIncrementAck
  refine .next ?_
  split
  · exact h
  · exact .ite h.frame.takeAck h.frame.packetLost

theorem execManagementRaise_keeps {ctr v} (h : s.Inv) : Keeps (execManagementRaise ctr v s) := .next (.ite h.setCtr.wake h)

theorem execCounterSettle_keeps {cl c} (h : s.Inv) : Keeps (execCounterSettle cl c s) := .next (.ite (h.setCore.foldl fun _ _ h => h.setCtr.wake) h)


/-! ### Rings -/

theorem State.Inv.ringRefuse {cl n} (h : s.Inv) : (s.ringRefuse cl n).Inv := h.setRing

theorem State.Inv.ringSet {cl n reg v} (h : s.Inv) : (s.ringSet cl n reg v).Inv := by
  unfold State.ringSet
  dsimp only
  split
  · exact .ite h.setRing h.ringRefuse
  · exact .ite h.setRing h.ringRefuse
  · exact .ite h.setRing h.ringRefuse
  · exact h

theorem State.Inv.ringUnmark {cl n num} (h : s.Inv) : (s.ringUnmark cl n num).Inv := h.foldl fun _ _ h => .ite h.setCore h

theorem State.Inv.tRetry {cl n} (h : s.Inv) : (s.tRetry cl n).Inv := by
  unfold State.tRetry
  dsimp only
  refine .ite h.ringRefuse ?_
  split
  · exact .ite h.withdraw.setRing.refreshRing h.withdraw.setRing.pushEv.report
  · exact .ite (.ite h.overrunTask h.setRing.checkHead.refreshRing) h.ringRefuse

theorem State.Inv.tSkip {cl n} (h : s.Inv) : (s.tSkip cl n).Inv := by
  unfold State.tSkip
  dsimp only
  refine .ite h.ringRefuse ?_
  split
  · exact .refreshRing (.iteThen h.withdraw.setRing fun h => h.heldEmptied)
  · exact .ite h.setRing.advanceHead.refreshRing h.ringRefuse

theorem State.Inv.ringStart {cl n} (h : s.Inv) : (s.ringStart cl n).Inv := by
  unfold State.ringStart
  dsimp only
  refine .ite h.ringRefuse ?_
  refine .ite h.tRetry ?_
  split
  · exact h.setRing.checkHead.refreshRing
  · exact h.setRing.checkHead.refreshRing
  · exact .ite h.ringRefuse h.setRing
  · exact h.ringRefuse

theorem State.Inv.ringStop {cl n} (h : s.Inv) : (s.ringStop cl n).Inv := by
  unfold State.ringStop
  dsimp only
  split
  · exact .ite h.setRing h.withdraw.haltRing.refreshRing
  · exact h
  · exact h.ringRefuse
  · exact h.ringRefuse

theorem State.Inv.ringSkip {cl n} (h : s.Inv) : (s.ringSkip cl n).Inv := .ite h.tSkip (.ite h.setRing.ringUnmark h.ringRefuse)

theorem State.Inv.ringClear {cl n} (h : s.Inv) : (s.ringClear cl n).Inv := .ite h.withdraw.setRing.ringUnmark h.ringRefuse

theorem State.Inv.ringCmd {cl n v} (h : s.Inv) : (s.ringCmd cl n v).Inv := .ite h.ringStart (.ite h.ringStop (.ite h.ringSkip (.ite h.ringClear h)))

theorem execRingCmdStart_keeps {cl n} (h : s.Inv) : Keeps (execRingCmdStart cl n s) := .next (h.ringCmd)

theorem execRingCmdStop_keeps {cl n} (h : s.Inv) : Keeps (execRingCmdStop cl n s) := .next (h.ringCmd)

theorem execRingCmdSkip_keeps {cl n} (h : s.Inv) : Keeps (execRingCmdSkip cl n s) := .next (h.ringCmd)

theorem execRingCmdClear_keeps {cl n} (h : s.Inv) : Keeps (execRingCmdClear cl n s) := .next (h.ringCmd)

theorem execTailWrite_keeps {cl n v} (h : s.Inv) : Keeps (execTailWrite cl n v s) := .next (h.ringSet)

theorem State.Inv.ctlWrite {by_ addr v} (h : s.Inv) : (s.ctlWrite by_ addr v).Inv :=
  .ite h.refusal (.ite h.setClu (.ite h.refusal (.ite h.ringSet (.ite h.ringSet (.ite h.ringSet (.ite h.ringCmd h))))))

theorem execRingSlotRead_keeps {cl n} (h : s.Inv) : Keeps (execRingSlotRead cl n s) := by
  unfold execRingSlotRead
  refine .next ?_
  dsimp only
  split
  · exact h
  · exact .ite h (.ite h (.iteThen (.setRing (.fst_ite h.reqStatus.refusal (.fst_ite h.reqStatus.clRead.refusal h.reqStatus.clRead)))
      fun h => h.checkHead.refreshRing))

theorem State.Inv.orphanWrites {cl n} (h : s.Inv) : (s.orphanWrites cl n).Inv := h.frameDram

theorem execRingDescriptorStart_keeps {cl n} (h : s.Inv) : Keeps (execRingDescriptorStart cl n s) := by
  unfold execRingDescriptorStart
  refine .next ?_
  dsimp only
  split
  · exact h
  · refine .ite h ?_
    refine .ite h.haltRing ?_
    split
    · split
      · exact h.raise.haltRing
      · exact .ite h.setRing (.ite h.setRing h.orphanWrites.setRing)
    · exact .ite h.setRing h.orphanWrites.setRing
    · exact h

theorem State.Inv.ringBusError {cl n addr status} (h : s.Inv) : (s.ringBusError cl n addr status).Inv := .haltRing (.ite h h.refusal)

theorem State.Inv.ringRetryLine {cl n addr} (h : s.Inv) : (s.ringRetryLine cl n addr).Inv := .ite h.setRing h.refusal.haltRing

theorem State.Inv.ringStatus {cl n addr status} (h : s.Inv) : (s.ringStatus cl n addr status).Inv := .ite h.ringRetryLine h.ringBusError

theorem State.Inv.intStatus {cl a write} (h : s.Inv) : (s.intStatus cl a write).1.Inv := .fst_ite h h.reqStatus

theorem State.Inv.ringLine {cl n d a peer train} (h : s.Inv) : (s.ringLine cl n d a peer train).s.Inv := .iteElse h.cacheRead fun h => h.detect

theorem State.Inv.ringRead {cl n d i} (h : s.Inv) : (s.ringRead cl n d i).s.Inv := by
  unfold State.ringRead
  dsimp only
  split
  · exact h.wordErrors.setCore
  · split
    · exact h.intStatus
    · split
      · split
        · exact h.intStatus
        · exact h.intStatus.ringLine
      · exact h.intStatus.ringLine

theorem State.Inv.gatherRead {cl n d entry} (h : s.Inv) : (s.gatherRead cl n d entry).s.Inv := by
  unfold State.gatherRead
  split
  · exact h
  · dsimp only
    split
    · exact h.reqStatus
    · exact h.reqStatus.ringLine

theorem State.Inv.destStatus {cl d a} (h : s.Inv) : (s.destStatus cl d a).1.Inv :=
  .fst_ite h (.fst_ite h.intStatus (.fst_ite h.intStatus h.intStatus))

theorem State.Inv.ringPut {cl n d w} (h : s.Inv) : (s.ringPut cl n d w).Inv := by
  unfold State.ringPut
  dsimp only
  refine .ite (.iteElse h.setRing fun h => .setCore (h.foldl fun _ _ h => .ite h h.wordErrors)) ?_
  refine .ite h.clWrite.setRing ?_
  refine .ite ?_ h.clWrite.setRing
  refine .setRing ?_
  refine .frameDram ?_
  split
  · exact h.mergeErrors.setClu
  · exact h

theorem State.Inv.ringFlush {cl n d x3} (h : s.Inv) : (s.ringFlush cl n d x3).Inv := by
  unfold State.ringFlush
  split
  · exact h
  · exact h.ringPut

theorem State.Inv.ringPuts {cl n d src m i k w} (h : s.Inv) : (s.ringPuts cl n d src m i k w).Inv := by
  induction k generalizing s i w with
  | zero => exact h.ringFlush
  | succ k ih =>
    unfold State.ringPuts
    refine .ite h.destStatus.ringFlush.ringBusError (ih (.setRing ?_))
    split
    · exact h.destStatus
    · exact h.destStatus.ringFlush

theorem State.Inv.ringPrefetch {cl n d i k} (h : s.Inv) : (s.ringPrefetch cl n d i k).Inv :=
  .ite h.intStatus.ringBusError (.ite h.intStatus.setRing (.ite h.intStatus.chanRead.ringStatus h.intStatus.chanRead.install.setRing))

theorem execRingLineResponse_keeps {cl n} (h : s.Inv) : Keeps (execRingLineResponse cl n s) := by
  unfold execRingLineResponse
  refine .next ?_
  dsimp only
  split
  · exact h
  · exact .ite h (.iteThen (.ite h.ringPrefetch (.ite h.ringRead.ringStatus (.ite (.ite h
      (.ite h.ringRead.gatherRead.ringStatus h.ringRead.gatherRead.ringPuts)) h.ringRead.ringPuts))) fun h => h.ringUnmark)

theorem execRingWriteResponse_keeps {cl n} (h : s.Inv) : Keeps (execRingWriteResponse cl n s) := .next (h.setRing)

theorem execRingRetry_keeps {cl x} (h : s.Inv) : Keeps (execRingRetry cl x s) := by
  unfold execRingRetry
  refine .next ?_
  dsimp only
  split
  · refine .ite ?_ h.ringRetryLine
    split
    · exact h.ringRetryLine
    · exact h
  · exact h

theorem execRingBusError_keeps {cl n addr status} (h : s.Inv) : Keeps (execRingBusError cl n addr status s) := .next (.ite h.ringBusError h)

theorem State.Inv.ringBoundary {cl n} (h : s.Inv) : (s.ringBoundary cl n).Inv := .ite h.haltRing (.ite h.haltRing (.ite h.haltRing h))

theorem execRingDescriptorComplete_keeps {cl n} (h : s.Inv) : Keeps (execRingDescriptorComplete cl n s) := by
  unfold execRingDescriptorComplete
  refine .next ?_
  extract_lets r
  generalize r.headDesc = o
  cases o with
  | none => exact h
  | some b =>
    refine .ite h (.ite (.haltRing (.raise (.ite h.setRing h))) (.iteElse (.fst_ite (.ite h.setRing h) ?_) fun h => h.setRing.ringBoundary))
    split
    · exact .send (.ite h.setRing h)
    · exact .ite h.setRing h
    · exact .fst_ite (.defer (.ite h.setRing h)) (.deferFull (.ite h.setRing h))


/-! ### Steward cores -/

theorem execTpost_keeps {w n sa} (h : s.Inv) : Keeps (execTpost w n sa s) := .next (h.issue fun _ h => h.doStewPost)

theorem execTretry_keeps {w n} (h : s.Inv) : Keeps (execTretry w n s) := .next (h.issue fun _ h => h.tRetry.next1)

theorem execTskip_keeps {w n} (h : s.Inv) : Keeps (execTskip w n s) := .next (h.issue fun _ h => h.tSkip.next1)

theorem State.Inv.tAbort {cl cs} (h : s.Inv) : (s.tAbort cl cs).Inv := h.foldl fun _ _ h => .ite h h.taskFault

theorem execTabort_keeps {w coreset} (h : s.Inv) : Keeps (execTabort w coreset s) := .next (h.issue fun _ h => h.tAbort.next1)

theorem execScommit_keeps {w slot} (h : s.Inv) : Keeps (execScommit w slot s) := .next (h.issue fun _ h => .next1 (.ite h.setClu h))

theorem execSdiscard_keeps {w slot} (h : s.Inv) : Keeps (execSdiscard w slot s) := .next (h.issue fun _ h => h.beginDiscard.next1)

theorem execIcinv_keeps {w} (h : s.Inv) : Keeps (execIcinv w s) := .next (h.issue fun _ h => .next1 (h.setClu.foldl fun _ _ h => h.setCore))

theorem execEvwait_keeps {w} (h : s.Inv) : Keeps (execEvwait w s) := .next (h.issue fun _ h => .ite h.holdFor h.next1)

theorem execEvread_keeps {w sd} (h : s.Inv) : Keeps (execEvread w sd s) := by
  unfold execEvread
  refine .next ?_
  refine h.issue fun _ h => ?_
  dsimp only
  split
  · exact h.setStew.setReg.next1
  · exact h.setStew.setReg.next1

theorem execEvarg_keeps {w sd k} (h : s.Inv) : Keeps (execEvarg w sd k s) := .next (h.issue fun _ h => h.setReg.next1)

theorem State.Inv.cleanStart {cl a n} (h : s.Inv) : (s.cleanStart cl a n).Inv :=
  h.foldl fun _ _ h => .ite (.ite h.setClu (.frameDram h.checkLine.setClu)) h

theorem State.Inv.dropRange {cl a n} (h : s.Inv) : (s.dropRange cl a n).Inv := h.setClu

theorem State.Inv.doClean {w i sa sb flush} (h : s.Inv) : (s.doClean w i sa sb flush).Inv :=
  .ite (.holdFor (.ite h h.cleanStart)) (.next1 (.iteThen (.ite h h.cleanStart) fun h => h.cleanRange.dropRange))

theorem execCclean_keeps {w sa sb} (h : s.Inv) : Keeps (execCclean w sa sb s) := .next (h.issue fun _ h => h.doClean)

theorem execCcflush_keeps {w sa sb} (h : s.Inv) : Keeps (execCcflush w sa sb s) := .next (h.issue fun _ h => h.doClean)

theorem execCcdiscard_keeps {w sa sb} (h : s.Inv) : Keeps (execCcdiscard w sa sb s) := .next (h.issue fun _ h => h.dropRange.next1)

theorem execCcmark_keeps {w tag hint} (h : s.Inv) : Keeps (execCcmark w tag hint s) := .next (h.issue fun _ h => h.setClu.next1)

theorem execStewardRpost_keeps {w n sa} (h : s.Inv) : Keeps (execStewardRpost w n sa s) := .next (h.issue fun _ h => h.doStewPost)

theorem execRset_keeps {w n reg sa} (h : s.Inv) : Keeps (execRset w n reg sa s) := .next (h.issue fun _ h => h.ringSet.next1)

theorem execRget_keeps {w sd n reg} (h : s.Inv) : Keeps (execRget w sd n reg s) := .next (h.issue fun _ h => h.setReg.next1)

theorem execRstart_keeps {w n} (h : s.Inv) : Keeps (execRstart w n s) := .next (h.issue fun _ h => h.ringStart.next1)

theorem execRstop_keeps {w n} (h : s.Inv) : Keeps (execRstop w n s) := .next (h.issue fun _ h => h.ringStop.next1)

theorem execRskip_keeps {w n} (h : s.Inv) : Keeps (execRskip w n s) := .next (h.issue fun _ h => h.ringSkip.next1)

theorem execRclear_keeps {w n} (h : s.Inv) : Keeps (execRclear w n s) := .next (h.issue fun _ h => h.ringClear.next1)


/-! ### Speculation -/

theorem execTaskStart_keeps {cl n} (h : s.Inv) : Keeps (execTaskStart cl n s) := by
  unfold execTaskStart
  refine .next ?_
  dsimp only
  split
  · exact .ite h (.ite h.failMissing (.ite h.startTask h.withdraw.refreshRing))
  · exact .ite h.withdraw h

theorem execSpecCommit_keeps {cl k} (h : s.Inv) : Keeps (execSpecCommit cl k s) := .next (.ite h (.ite h.beginDiscard h.setClu))

theorem State.Inv.liftStalls {cl key} (h : s.Inv) : (s.liftStalls cl key).Inv := h.foldl fun _ _ h => .ite h.setCore h

theorem State.Inv.resolve {cl k outcome cause} (h : s.Inv) : (s.resolve cl k outcome cause).Inv := h.setClu.liftStalls.pushEv.trace.refresh

theorem execSpecCommitComplete_keeps {cl k} (h : s.Inv) : Keeps (execSpecCommitComplete cl k s) :=
  .next (.ite h (.resolve (.setClu (.foldl (h.setClu.foldl fun _ _ h => h.clWrite) fun _ _ h => h.send))))

theorem execSpecDiscard_keeps {cl k} (h : s.Inv) : Keeps (execSpecDiscard cl k s) := .next (.ite h.beginDiscard h)

theorem execSpecDiscardComplete_keeps {cl k} (h : s.Inv) : Keeps (execSpecDiscardComplete cl k s) := .next (.ite h h.resolve)


/-! ### The energy ledger -/

theorem State.Inv.addBackground {a e} (h : s.Inv) : (s.addBackground a e).Inv := h.setAcct

theorem State.Inv.bookPart {i part} (h : s.Inv) : (s.bookPart i part).Inv := by
  unfold State.bookPart
  dsimp only
  refine .ite h.setPhy ?_
  split
  · split
    · exact h.setClu
    · exact h.addBackground
  · exact h.addBackground

theorem execMonitorSample_keeps {m} (h : s.Inv) : Keeps (execMonitorSample m s) := by
  unfold execMonitorSample
  refine .next ?_
  split
  · exact .setClu (.addBackground (h.foldl fun _ _ h => h.bookPart))
  · exact h.addBackground
  · exact h.foldl fun _ _ h => h.addBackground

theorem State.Inv.refill {a} (h : s.Inv) : (s.refill a).Inv := h.setAcct

theorem execCreditRefill_keeps (h : s.Inv) : Keeps (execCreditRefill s) := .next (.ite (h.foldl fun _ _ h => h.refill) h)

theorem execCreditStarved_keeps {a} (h : s.Inv) : Keeps (execCreditStarved a s) := .next (.ite h (.foldl (.frame h.setAcct) fun _ _ h => h.pushEv))

theorem execLedgerRequestPost_keeps {cl n} (h : s.Inv) : Keeps (execLedgerRequestPost cl n s) := by
  unfold execLedgerRequestPost
  refine .next ?_
  dsimp only
  split
  · refine .ite h.refreshRing ?_
    refine .ite h.refreshRing ?_
    split
    · exact h.refreshRing
    · exact h.refreshRing.setAcct.setRing
  · exact h.refreshRing

theorem execLedgerRequestWithdraw_keeps {cl n} (h : s.Inv) : Keeps (execLedgerRequestWithdraw cl n s) :=
  .next (.iteThen h.refreshRing fun h => h.withdraw)

theorem State.Inv.applyDue {a u} (h : s.Inv) : (s.applyDue a u).Inv := .ite h.setAcct (.ite h.setAcct (.ite (.pushEv (.frame h.setAcct)) h.setAcct))

theorem execLedgerCycle_keeps {a} (h : s.Inv) : Keeps (execLedgerCycle a s) := by
  unfold execLedgerCycle
  refine .next ?_
  dsimp only
  refine .ite (.ite h (h.setAcct.foldl fun _ _ h => h.applyDue)) ?_
  split
  · exact .ite h (h.setAcct.foldl fun _ _ h => h.applyDue)
  · exact .setRing (.setAcct (.ite h (h.setAcct.foldl fun _ _ h => h.applyDue)))

theorem execLedgerGrant_keeps {cl n} (h : s.Inv) : Keeps (execLedgerGrant cl n s) := by
  unfold execLedgerGrant
  refine .next ?_
  dsimp only
  refine .ite ?_ h
  split
  · exact .ite h.setRing h.withdraw.refreshRing
  · exact h.withdraw

theorem execGuardSample_keeps {hub die0 die1 die2 die3} (h : s.Inv) : Keeps (execGuardSample hub die0 die1 die2 die3 s) :=
  .next (.ite h.frame (.ite h.frame.logEvent h.frame))

theorem execGuardStart_keeps (h : s.Inv) : Keeps (execGuardStart s) := .next (.ite h.frame h)

theorem execGuardStepUp_keeps (h : s.Inv) : Keeps (execGuardStepUp s) := .next (.ite h.frame h)

theorem execThermalSample_keeps {r temp} (h : s.Inv) : Keeps (execThermalSample r temp s) := by
  unfold execThermalSample
  refine .next ?_
  split
  · exact .ite (.iteThen h.setClu fun h => h.frame) h.setClu
  · exact h.frame

theorem execThermalStepRecover_keeps {cl} (h : s.Inv) : Keeps (execThermalStepRecover cl s) := .next (.ite h.setClu h)

theorem execClockStepChange_keeps {cl} (h : s.Inv) : Keeps (execClockStepChange cl s) := .next (h.setClu)

theorem execThermalTrip_keeps {r temp} (h : s.Inv) : Keeps (execThermalTrip r temp s) :=
  .next (.ite h (.frame (h.fresh.logEvent.foldl fun _ _ h => h.setClu)))


/-! ### Hang dumps and step restarts -/

theorem execWaitExamination_keeps {cl} (h : s.Inv) : Keeps (execWaitExamination cl s) := .next (.ite h (.ite h.trip.setPart h))

theorem execWaitTimeout_keeps {p} (h : s.Inv) : Keeps (execWaitTimeout p s) := .next (.ite h.hangStop h)

theorem State.Inv.fenceTold (h : s.Inv) : (s.fenceTold).Inv := .ite (.devEv (.frameMgmt h.fresh)) h

theorem execDumpComplete_keeps {p} (h : s.Inv) : Keeps (execDumpComplete p s) := by
  unfold execDumpComplete
  refine .next ?_
  dsimp only
  split
  · exact h
  · exact .ite h (.fenceTold (.ite h.setPart.hostEv.logEvent (.iteThen h.setPart fun h => h.hostEv)))

theorem State.Inv.stopRings {cl} (h : s.Inv) : (s.stopRings cl).Inv := h.foldl fun _ _ h => .ite h.ringStop h

theorem State.Inv.dropMarks {p} (h : s.Inv) : (s.dropMarks p).Inv := h.setPart

theorem State.Inv.beginDrop {p d} (h : s.Inv) : (s.beginDrop p d).Inv := h.setPart.foldl fun _ _ h => h.stopRings

theorem State.Inv.clearTouched {p} (h : s.Inv) : (s.clearTouched p).Inv := h.frameDram

theorem State.Inv.ckptEv {p code die detail aux} (h : s.Inv) : (s.ckptEv p code die detail aux).Inv := h.hostEv.logEvent

theorem State.Inv.stepRestarted {p} (h : s.Inv) : (s.stepRestarted p).Inv := .foldl (.ckptEv (.frame h.setPart.clearTouched)) fun _ _ h => h.beginDrop

theorem State.Inv.stepRestart {p cause} (h : s.Inv) : (s.stepRestart p cause).Inv :=
  .iteThen (.setPart (.dropMarks (h.foldl fun _ _ h => h.abortAll))) fun h => h.stepRestarted

theorem execMicrobatchDrop_keeps {p d} (h : s.Inv) : Keeps (execMicrobatchDrop p d s) := .next (.ite h (.ite h.setPart h.beginDrop))

theorem State.Inv.raiseCounter {p n} (h : s.Inv) : (s.raiseCounter p n).Inv := .ite h.setCtr.wake h

theorem State.Inv.testFaulted {p d} (h : s.Inv) : (s.testFaulted p d).Inv := h.foldl fun _ _ h => h.setPhy

theorem execDropRingsHalted_keeps {p x} (h : s.Inv) : Keeps (execDropRingsHalted p x s) :=
  .next (.ite h (.iteThen (.testFaulted (.hostEv (.frame (.setPart (h.foldl fun _ _ h => h.raiseCounter))))) fun h => h.stepRestart))


/-! ### Storage commands -/

theorem State.Inv.startJob {d j} (h : s.Inv) : (s.startJob d j).Inv := h.foldl fun _ _ h => h.setSport

theorem State.Inv.dropJobs {d p} (h : s.Inv) : (s.dropJobs d p).Inv := h.foldl fun _ _ h => h.setSport


/-! ### Failures -/

theorem State.Inv.setMapState {i st} (h : s.Inv) : (s.setMapState i st).Inv := h.setMapEntry

theorem State.Inv.logCore {i what} (h : s.Inv) : (s.logCore i what).Inv := h.logEvent

theorem State.Inv.degradedEvent {cl core} (h : s.Inv) : (s.degradedEvent cl core).Inv := h.foldl fun _ _ h => h.fnEvent

theorem State.Inv.degrade {cl core} (h : s.Inv) : (s.degrade cl core).Inv :=
  h.frame.degradedEvent.foldl fun _ _ h => h.foldl fun _ _ h => h.failMissing

theorem State.Inv.loseCore {cl c} (h : s.Inv) : (s.loseCore cl c).Inv := .ite h.frame h.degrade.logCore

theorem State.Inv.giveSpare {i home c} (h : s.Inv) : (s.giveSpare i home c).Inv := .iteThen (.setCore (.frame h.setMapEntry)) fun h => h.setClu

theorem State.Inv.keepCounts {i k} (h : s.Inv) : (s.keepCounts i k).Inv := h.setPhy

theorem State.Inv.fillRange {base len bs bad} (h : s.Inv) : (s.fillRange base len bs bad).Inv := by
  obtain ⟨hb, hs⟩ := (Mem.wf_iff _).1 h.wf
  refine h.setDram (foldl_inv (p := fun m : Mem => m.wf = true) _ _ ?_ fun _ _ _ hm => Mem.poisonWord_wf _ hm)
  refine foldl_inv (p := fun m : Mem => m.wf = true) _ _ ?_ fun _ _ _ hm => Mem.setRaw_wf _ _ hm
  exact (Mem.wf_iff _).2 ⟨canon_filter _ _ hb, canon_filter _ _ hs⟩

theorem State.Inv.scatterRanges {rs bs bad} (h : s.Inv) : (s.scatterRanges rs bs bad).Inv :=
  foldl_inv (p := fun a : State × Nat => a.1.Inv) _ _ h fun _ _ _ h => h.fillRange

theorem State.Inv.setSlotHeader {a x} (h : s.Inv) : (s.setSlotHeader a x).Inv := h.dramBytesWr

theorem State.Inv.slotBit {a bit on} (h : s.Inv) : (s.slotBit a bit on).Inv := h.setSlotHeader

theorem State.Inv.setImage {d a v} (h : s.Inv) : (s.setImage d a v).Inv := h.frame

theorem State.Inv.reprotect {p} (h : s.Inv) : (s.reprotect p).Inv := .ite h h.setPart.hostEv.logEvent

theorem State.Inv.flashFail {p d a} (h : s.Inv) : (s.flashFail p d a).Inv := h.slotBit.dropJobs.dropJobs.setPart.ckptEv.reprotect

theorem State.Inv.flashAbandon {p f} (h : s.Inv) : (s.flashAbandon p f).Inv := h.foldl fun _ _ h => h.flashFail

theorem State.Inv.readImages {p} (h : s.Inv) : (s.readImages p).Inv := h.foldl fun _ _ h => h.dropJobs.startJob

theorem State.Inv.beginRollback {p} (h : s.Inv) : (s.beginRollback p).Inv := by
  unfold State.beginRollback
  dsimp only
  split
  · exact .ckptEv (.readImages (.setPart (.setPart (h.stopDispatch.foldl fun _ _ h => h.abortAll))))
  · exact .ckptEv (.setPart (h.stopDispatch.foldl fun _ _ h => h.abortAll))

theorem State.Inv.leaveRun {p d} (h : s.Inv) : (s.leaveRun p d).Inv := h.flashAbandon.setPart

theorem State.Inv.dieLost {p d} (h : s.Inv) : (s.dieLost p d).Inv :=
  .ite h (.ite h.ckptEv.leaveRun.beginRollback (.ite (.ckptEv (.frame h.ckptEv.leaveRun.fresh.stopDispatch))
    (h.ckptEv.leaveRun.fresh.stopDispatch.setPart.foldl fun _ _ h => h.abortAll)))

theorem State.Inv.clusterLost {p cl} (h : s.Inv) : (s.clusterLost p cl).Inv := .ite h (.iteElse h.hostEv.logEvent fun h => h.stepRestart)

theorem State.Inv.abortAway {home} (h : s.Inv) : (s.abortAway home).Inv := h.foldl fun _ _ h => h.foldl fun _ _ h => .ite h.stopTask h

theorem State.Inv.fenceIsland {cl} (h : s.Inv) : (s.fenceIsland cl).Inv := .frame h.abortAll.abortAway.setClu

theorem State.Inv.clusterFence {cl} (h : s.Inv) : (s.clusterFence cl).Inv := by
  unfold State.clusterFence
  refine .ite h ?_
  dsimp only
  refine .iteThen ?_ fun h => h.clusterLost
  refine .degrade ?_
  refine .foldl (.foldl (h.fenceIsland.foldl fun _ _ h => h.setMapState) fun _ _ h => h.setMapState) fun _ _ h => ?_
  refine .loseCore ?_
  refine .foldl ?_ fun _ _ h => ?_
  · split
    · exact h.stopTask
    · exact h
  · exact h.setCtr

theorem State.Inv.dieFence {d} (h : s.Inv) : (s.dieFence d).Inv :=
  .ite h (.foldl (.foldl (.frame (.foldl (h.frame.foldl fun _ _ h => h.fenceIsland) fun _ _ h => h.setMapState)) fun _ _ h => h.degradedEvent)
    fun _ _ h => .ite h.dieLost.reprotect h)

theorem State.Inv.deviceFence {causes field} (h : s.Inv) : (s.deviceFence causes field).Inv :=
  .ite h (.fenceTold (.foldl (h.frameMgmt.foldl fun _ _ h => h.setClu) fun _ _ h => .ite h.hangStop.setPart.logEvent h.setPart))


/-! ### Self-test and the mesh -/

theorem State.Inv.noteFault {cl c} (h : s.Inv) : (s.noteFault cl c).Inv := .ite h.setPart h

theorem State.Inv.release58 {p} (h : s.Inv) : (s.release58 p).Inv := h.setPart.foldl fun _ _ h => h.setCtr.wake

theorem State.Inv.nextStepMay {p} (h : s.Inv) : (s.nextStepMay p).Inv := .ite h.setPart h.release58

theorem State.Inv.heldSteps (h : s.Inv) : (s.heldSteps).Inv := h.foldl fun _ _ h => .ite h.release58 h

theorem execSelftestDue_keeps {cl c} (h : s.Inv) : Keeps (execSelftestDue cl c s) := .next (.ite h.setPhy h)

theorem execSelftestStart_keeps {cl c} (h : s.Inv) : Keeps (execSelftestStart cl c s) := .next (.ite (.frame h.setPhy) h)

theorem State.Inv.selftestFailed {nm v} (h : s.Inv) : (s.selftestFailed nm v).Inv := h.hostEv.noteFault

theorem execSelftestEnd_keeps {cl c fails more} (h : s.Inv) : Keeps (execSelftestEnd cl c fails more s) := by
  unfold execSelftestEnd
  refine .next ?_
  dsimp only
  refine .ite h ?_
  refine .ite (.heldSteps (.setPhy (.ite h h.setCore.setAcct))) ?_
  refine .ite (.setMapState (.setPhy (.frame (.ite h h.setCore.setAcct)))) ?_
  split
  · exact .setPhy (.selftestFailed (.frame (.ite h h.setCore.setAcct)))
  · exact .setPhy (.selftestFailed (.frame (.ite h h.setCore.setAcct)))

theorem execIfrFuseProgrammed_keeps {cl c readbackOk} (h : s.Inv) : Keeps (execIfrFuseProgrammed cl c readbackOk s) := by
  unfold execIfrFuseProgrammed
  refine .next ?_
  dsimp only
  split
  · exact h
  · exact .ite (.logCore (.fuse h.setPhy h.openings_le h.svn_le)) h.setPhy

theorem execCoreRetire_keeps {cl c} (h : s.Inv) : Keeps (execCoreRetire cl c s) :=
  .next (.ite h (.heldSteps (.loseCore (.logCore (.setMapState (.setCore
    (.fuse h.setPhy.keepCounts h.setPhy.keepCounts.openings_le h.setPhy.keepCounts.svn_le)))))))

theorem execCoppiceRemap_keeps {cl c} (h : s.Inv) : Keeps (execCoppiceRemap cl c s) := by
  unfold execCoppiceRemap
  refine .next ?_
  dsimp only
  refine .ite h ?_
  split
  · exact h.giveSpare.logCore.refresh.heldSteps
  · exact .ite h h.frame.degrade.logCore.heldSteps

theorem execSpareSelftestDue_keeps {cl} (h : s.Inv) : Keeps (execSpareSelftestDue cl s) := .next (.ite h (h.setClu.foldl fun _ _ h => h.setPhy))

theorem execClusterPowerGate_keeps {cl} (h : s.Inv) : Keeps (execClusterPowerGate cl s) := .next (.ite h.emptyCache.setClu h)

theorem State.Inv.flitWord {f v syn addr} (h : s.Inv) : (s.flitWord f v syn addr).Inv := by
  unfold State.flitWord
  dsimp only
  split
  · exact h.raise
  · exact h.raise
  · exact h

theorem State.Inv.flitAnswer {f n} (h : s.Inv) : (s.flitAnswer f n).Inv := h.setClu

theorem State.Inv.flitRefuse {f n} (h : s.Inv) : (s.flitRefuse f n).Inv := .ite h.flitAnswer h.setClu

theorem State.Inv.flitDeliver {f} (h : s.Inv) : (s.flitDeliver f).Inv :=
  .ite h.flitAnswer.refusal (.flitAnswer (.iteThen (h.flitWord.foldl fun _ _ h => h.flitWord) fun h => h.clWrite))

theorem State.Inv.flitCross {f} (h : s.Inv) : (s.flitCross f).Inv := by
  unfold State.flitCross
  dsimp only
  split
  · exact h.flitRefuse
  · exact h.flitRefuse
  · exact h.flitDeliver
  · exact .ite h.setClu h.waitAt

theorem State.Inv.flitGo {f} (h : s.Inv) : (s.flitGo f).Inv := by
  unfold State.flitGo
  dsimp only
  refine .ite h.flitRefuse ?_
  split
  · exact h.waitAt
  · exact h.flitCross

theorem execFlitArrives_keeps {dst fr kind b} (h : s.Inv) : Keeps (execFlitArrives dst fr kind b s) := .next (.ite h h.flitGo)

theorem State.Inv.flitsRelease {cl} (h : s.Inv) : (s.flitsRelease cl).Inv :=
  .foldl (.takeWaiting (h.setClu.foldl fun _ _ h => h.flitCross)) fun _ _ h => h.flitCross

theorem State.Inv.logLink {l ev} (h : s.Inv) : (s.logLink l ev).Inv := h.logEvent

theorem State.Inv.dieUnreachable {d l} (h : s.Inv) : (s.dieUnreachable d l).Inv := .ite h h.raise

theorem State.Inv.flitReturn {f} (h : s.Inv) : (s.flitReturn f).Inv := .ite h.flitGo h.flitAnswer

theorem State.Inv.linkDown {l} (h : s.Inv) : (s.linkDown l).Inv := by
  unfold State.linkDown
  dsimp only
  refine .foldl (h.setLink.logLink.devEv.takeWaiting.foldl fun _ _ h => h.flitReturn) fun _ _ h => ?_
  split
  · exact h.dieUnreachable
  · exact h

theorem State.Inv.writeReturns {q} (h : s.Inv) : (s.writeReturns q).Inv := by
  unfold State.writeReturns
  split
  · exact .ite h.ringRetryLine h
  · exact h

theorem State.Inv.retrain {l} (h : s.Inv) : (s.retrain l).Inv := .setLink (h.frameDram.foldl fun _ _ h => h.writeReturns)

theorem execLinkCrcFail_keeps {l} (h : s.Inv) : Keeps (execLinkCrcFail l s) := .next (.ite h h.setLink.raise)

theorem execLinkReplayLimit_keeps {l} (h : s.Inv) : Keeps (execLinkReplayLimit l s) := .next (.ite h.retrain h)

theorem execLaneFail_keeps {l} (h : s.Inv) : Keeps (execLaneFail l s) := .next (.ite h h.setLink.retrain)

theorem execLinkRetrainComplete_keeps {l ok} (h : s.Inv) : Keeps (execLinkRetrainComplete l ok s) := by
  unfold execLinkRetrainComplete
  refine .next ?_
  dsimp only
  split
  · exact .ite h (.ite (h.setLink.takeWaiting.foldl fun _ _ h => h.flitGo) h.linkDown)
  · exact .ite h (.ite h.linkDown (.foldl (.takeWaiting (.ite h.setLink.logLink.devEv h.setLink.logLink)) fun _ _ h => h.flitGo))
  · exact h


/-! ### Requests to the caches -/

theorem State.Inv.answer {cl bs status} (h : s.Inv) : (s.answer cl bs status).Inv := h.setClu

theorem State.Inv.refuseReq {cl r status} (h : s.Inv) : (s.refuseReq cl r status).Inv := h.refusal.answer

theorem State.Inv.serveRead {cl r} (h : s.Inv) : (s.serveRead cl r).Inv := .ite h.cacheRead.refuseReq (.ite h.cacheRead.answer h.cacheRead.answer)

theorem State.Inv.parkReq {cl r} (h : s.Inv) : (s.parkReq cl r).Inv := h.setClu

theorem State.Inv.serveWrite {cl r bytes first} (h : s.Inv) : (s.serveWrite cl r bytes first).Inv := by
  unfold State.serveWrite
  dsimp only
  split
  · exact h.clWrite.answer
  · split
    · exact h.shadowWrite.answer
    · exact .iteThen h.parkReq fun h => h.pushEv

theorem State.Inv.fetchLine {cl l} (h : s.Inv) : (s.fetchLine cl l).1.Inv := h.cacheRead

theorem State.Inv.serveFetch {cl r} (h : s.Inv) : (s.serveFetch cl r).Inv := .ite h.fetchLine.answer h.fetchLine.answer

theorem State.Inv.serve {cl e r} (h : s.Inv) : (s.serve cl e r).Inv := by
  unfold State.serve
  dsimp only
  split
  · exact .ite h.refuseReq (.ite h.parkReq (.ite h.serveRead h.parkReq.detect))
  · exact .ite h.refuseReq (.ite h.parkReq h.serveWrite)
  · exact .ite h.answer (.ite h.serveFetch h.parkReq)
  · exact .ite h (.ite h.serveFetch h.parkReq)
  · exact .ite h.refuseReq (.ite h.answer h.parkReq)

theorem execCacheRequest_keeps {cl r} (h : s.Inv) : Keeps (execCacheRequest cl r s) := by
  unfold execCacheRequest
  refine .next ?_
  dsimp only
  refine .ite h ?_
  refine .ite ?_ ?_
  · split
    · exact h
    · exact h.refuseReq
  · refine .ite ?_ ?_
    · split
      · exact h.refusal.answer
      · exact h
    · split
      · exact h.serve
      · exact h.setClu

theorem execPermissionCacheFill_keeps {cl page} (h : s.Inv) : Keeps (execPermissionCacheFill cl page s) :=
  .next (.ite h (h.setClu.permUse.foldl fun _ _ h => h.serve))

theorem State.Inv.serveFill {cl r} (h : s.Inv) : (s.serveFill cl r).Inv := by
  unfold State.serveFill
  dsimp only
  refine .ite h.parkReq ?_
  split
  · exact .ite h.answer (.ite h.parkReq (.ite h.chanRead.refuseReq h.chanRead.install.answer))
  · exact h.serveFetch
  · exact h.serveFetch
  · exact h.serveWrite
  · exact h.serveRead

theorem execCacheFill_keeps {cl line} (h : s.Inv) : Keeps (execCacheFill cl line s) := .next (.ite h (h.setClu.foldl fun _ _ h => h.serveFill))

theorem execStreamDetectorTimeout_keeps {cl i} (h : s.Inv) : Keeps (execStreamDetectorTimeout cl i s) := .next (.ite h h.setClu)

theorem State.Inv.permDrop {cl page} (h : s.Inv) : (s.permDrop cl page).Inv := h.setClu

theorem execPermissionInvalidate_keeps {cl page} (h : s.Inv) : Keeps (execPermissionInvalidate cl page s) := .next (.ite h h.permDrop)

theorem State.Inv.discardWrite {q} (h : s.Inv) : (s.discardWrite q).Inv := by
  unfold State.discardWrite
  split
  · exact h.takeWrite
  · exact .iteThen h.frameDram fun h => h.ringBusError

theorem execDramWriteAccept_keeps (h : s.Inv) : Keeps (execDramWriteAccept s) := by
  unfold execDramWriteAccept
  refine .next ?_
  refine .ite h ?_
  split
  · exact h
  · exact .ite h.frameDram.discardWrite (.ite h.frameDram.setScrubber h.frameDram.takeWrite)

theorem execWriteAcceptResponse_keeps (h : s.Inv) : Keeps (execWriteAcceptResponse s) := by
  unfold execWriteAcceptResponse
  refine .next ?_
  refine .ite h ?_
  split
  · exact h
  · exact h.frameDram.ackWrite

theorem execDramRead_keeps {addr} (h : s.Inv) : Keeps (execDramRead addr s) :=
  .next (.ite h (.ite h.frameDram (.ite h.frameDram (.frameDram h.chanRead))))


/-! ### Errors, scrubbers and the test window -/

theorem execScrubLine_keeps {ch} (h : s.Inv) : Keeps (execScrubLine ch s) := by
  unfold execScrubLine
  refine .next (.ite h (.iteThen ?_ fun h => h.frameDram))
  refine .iteThen (.setScrubber (h.foldl fun _ _ h => ?_)) fun h => h.reprotect
  dsimp only
  split
  · exact h.raise
  · exact .raise (h.setDram (Mem.poisonWord_wf _ h.wf))
  · exact h.frameDram
  · exact h

theorem execScrubCorrectionWrite_keeps {ch} (h : s.Inv) : Keeps (execScrubCorrectionWrite ch s) := .next (.ite h h.correctHeld)

theorem State.Inv.logError {e preempted} (h : s.Inv) : (s.logError e preempted).Inv := h.logRec

theorem State.Inv.noteUnit {e} (h : s.Inv) : (s.noteUnit e).Inv := .ite h.frameMgmt (.ite h.frameMgmt h)

theorem State.Inv.programFault {p unit} (h : s.Inv) : (s.programFault p unit).Inv := .ite h.hangStop h

theorem State.Inv.fenceScope {e x1} (h : s.Inv) : (s.fenceScope e x1).Inv := by
  unfold State.fenceScope
  split
  · exact h
  · exact h.clusterFence
  · exact .ite h h.frameDram
  · exact .ite h h.frame
  · exact .ite h.hangStop h
  · exact h.dieFence
  · exact h.deviceFence

theorem State.Inv.takeError {e sc} (h : s.Inv) : (s.takeError e sc).Inv := by
  unfold State.takeError
  dsimp only
  refine .ite ?_ ?_
  · split
    · exact .deviceFence (.frameMgmt h.noteUnit)
    · exact .fenceScope (.frameMgmt h.noteUnit)
  · split
    · exact .frameMgmt h.noteUnit
    · exact .ite (.frameMgmt h.noteUnit) (.ite (.frameMgmt h.noteUnit) (.ite (.frameMgmt h.noteUnit) (.ite (.frameMgmt h.noteUnit)
        (.frameMgmt h.noteUnit))))

theorem State.Inv.decideFault {e} (h : s.Inv) : (s.decideFault e).Inv := .ite h.programFault (.ite h.noteFault h)

theorem execErrorReported_keeps {x pl} (h : s.Inv) : Keeps (execErrorReported x pl s) :=
  .next (.ite h.frameMgmt.decideFault (.iteThen h.frameMgmt.takeError fun h => h.programFault))

theorem State.Inv.countError {cls} (h : s.Inv) : (s.countError cls).Inv := .ite h.frameMgmt (.ite h.frameMgmt (.ite h.frameMgmt h.frameMgmt))

theorem execErrorHandlerComplete_keeps (h : s.Inv) : Keeps (execErrorHandlerComplete s) := by
  unfold execErrorHandlerComplete
  refine .next ?_
  split
  · exact h
  · dsimp only
    split
    · exact .frameMgmt (.iteElse h.countError fun h => h.logError)
    · split
      · exact .frameMgmt (.iteElse h.countError fun h => h.logError)
      · exact .frameMgmt (.iteElse h.countError fun h => h.logError)

theorem execUrEscalation_keeps {cl n} (h : s.Inv) : Keeps (execUrEscalation cl n s) := .next (.ite h.frameMgmt.takeError h)

theorem execCeStorm_keeps {unit} (h : s.Inv) : Keeps (execCeStorm unit s) := .next (.ite h.frameMgmt.logError h)

theorem execStormWindowEnd_keeps (h : s.Inv) : Keeps (execStormWindowEnd s) := .next (.ite h.frameMgmt h)

theorem State.Inv.twFree {x0} (h : s.Inv) : (s.twFree x0).Inv := by
  unfold State.twFree
  split
  · exact h.freeLine
  · exact h

theorem State.Inv.setTwMem {m T} (h : s.Inv) (hm : ∀ w, T = .dram w → m.wf = true) : (s.setTwMem m T).Inv := by
  cases T with
  | tile => exact h.setCore
  | dram w => exact h.setDram (hm w rfl)
  | refused => exact h

theorem State.Inv.twEnd {refused} (h : s.Inv) : (s.twEnd refused).Inv := .logError (.frame h.setObj)

theorem State.Inv.twWrite {which data check} (h : s.Inv) : (s.twWrite which data check).Inv := by
  refine .ite h (.ite h.twEnd (.twEnd (h.twFree.setTwMem fun w hw => Mem.setSyn_wf _ _ (Mem.setRaws_wf _ _ ?_))))
  rw [hw]
  exact h.twFree.wf

theorem execTwReadRaw_keeps (h : s.Inv) : Keeps (execTwReadRaw s) := .next (.ite h (.ite h.twEnd h.twFree.setObj.setObj.setObj.twEnd))

theorem execTwWriteData_keeps (h : s.Inv) : Keeps (execTwWriteData s) := .next (h.twWrite)

theorem execTwWriteCheck_keeps (h : s.Inv) : Keeps (execTwWriteCheck s) := .next (h.twWrite)

theorem execTwWriteBoth_keeps (h : s.Inv) : Keeps (execTwWriteBoth s) := .next (h.twWrite)


/-! ### Mirrors, restores and rollbacks -/

theorem State.Inv.sweep {rs} (h : s.Inv) : (s.sweep rs).Inv := by
  refine h.foldl fun _ _ h => ?_
  split
  · exact h.raise
  · exact .raise (h.setDram (Mem.poisonWord_wf _ h.wf))
  · exact h

theorem State.Inv.mirrorDone {p} (h : s.Inv) : (s.mirrorDone p).Inv := .ite h.nextStepMay h

theorem State.Inv.invalidateArea {d} (h : s.Inv) : (s.invalidateArea d).Inv := h.setImage

theorem State.Inv.beginCopy {p d a} (h : s.Inv) : (s.beginCopy p d a).Inv :=
  .setPart (.ite h.slotBit.invalidateArea.invalidateArea.startJob.startJob h.slotBit.invalidateArea.startJob)

theorem State.Inv.startFlash {p} (h : s.Inv) : (s.startFlash p).Inv := by
  unfold State.startFlash
  dsimp only
  refine .ite h ?_
  refine h.foldl fun _ _ h => ?_
  split
  · exact h.beginCopy
  · exact h

theorem execMirrorStart_keeps {p} (h : s.Inv) : Keeps (execMirrorStart p s) := by
  unfold execMirrorStart
  refine .next ?_
  dsimp only
  refine .ite h ?_
  refine .iteThen ?_ fun h => h.startFlash
  refine .reprotect ?_
  refine .mirrorDone ?_
  refine .ite (.clearTouched (.setPart (.iteElse h.setPart fun h => h.foldl fun _ _ h => h.foldl fun _ _ h => h.cleanRange))) ?_
  refine .foldl (.clearTouched (.setPart (.iteElse h.setPart fun h => h.foldl fun _ _ h => h.foldl fun _ _ h => h.cleanRange))) fun _ _ h => ?_
  split
  · exact h.slotBit.setPart
  · exact h.frame.ckptEv

theorem execMirrorComplete_keeps {p d} (h : s.Inv) : Keeps (execMirrorComplete p d s) := by
  unfold execMirrorComplete
  refine .next ?_
  dsimp only
  split
  · exact h
  · exact .iteThen h.sweep.fillRange.setSlotHeader.setPart fun h => h.mirrorDone.reprotect.startFlash

theorem State.Inv.writeImage {d a off len sum} (h : s.Inv) : (s.writeImage d a off len sum).Inv := h.setImage

theorem State.Inv.endCopy {p d} (h : s.Inv) : (s.endCopy p d).Inv := .iteThen h.dropJobs fun h => h.dropJobs

theorem execFlashCopyComplete_keeps {p d} (h : s.Inv) : Keeps (execFlashCopyComplete p d s) := by
  unfold execFlashCopyComplete
  refine .next ?_
  dsimp only
  split
  · exact h
  · exact .ite h.sweep.flashFail (.iteElse h.sweep fun h => .reprotect (.ckptEv (.setPart (.endCopy (.slotBit
      (.ite h.writeImage.writeImage h.writeImage))))))

theorem execFlashCopyFail_keeps {p d} (h : s.Inv) : Keeps (execFlashCopyFail p d s) := by
  unfold execFlashCopyFail
  refine .next ?_
  split
  · exact h
  · exact h.flashFail

theorem execTensorWatchComplete_keeps {p} (h : s.Inv) : Keeps (execTensorWatchComplete p s) :=
  .next (.ite h (.mirrorDone (.setPart (.setObj (.ite h h.sweep.fillRange.dramBytesWr)))))

theorem State.Inv.resumeDispatch {p} (h : s.Inv) : (s.resumeDispatch p).Inv := .ite h (h.foldl fun _ _ h => .ite h h.setClu.refresh)

theorem execRestoreComplete_keeps {p d} (h : s.Inv) : Keeps (execRestoreComplete p d s) := by
  unfold execRestoreComplete
  refine .next ?_
  dsimp only
  refine .ite h ?_
  split
  · exact h.beginRollback
  · exact .ite (.iteThen h.sweep.scatterRanges.setPart fun h => h.stepRestarted) (.ckptEv (.frame h.sweep.scatterRanges))

theorem execRollback_keeps {p} (h : s.Inv) : Keeps (execRollback p s) := by
  unfold execRollback
  refine .next ?_
  dsimp only
  split
  · exact h
  · split
    · exact .ite h h.setPart.readImages.ckptEv
    · exact h.setPart.ckptEv

theorem execRollbackComplete_keeps {p} (h : s.Inv) : Keeps (execRollbackComplete p s) := by
  unfold execRollbackComplete
  refine .next ?_
  dsimp only
  split
  · exact h
  · refine .ite h ?_
    refine .resumeDispatch ?_
    refine .reprotect ?_
    refine .dropMarks ?_
    refine .clearTouched ?_
    refine .setPart ?_
    refine h.foldl fun _ _ h => ?_
    split
    · exact h.scatterRanges.dropJobs
    · exact h

theorem State.Inv.endHold {p} (h : s.Inv) : (s.endHold p).Inv := by
  unfold State.endHold
  dsimp only
  split
  · exact h
  · exact .ckptEv (.setObj (.setPart (h.foldl fun _ _ h => h.slotBit)))

theorem State.Inv.holdCkpt {p v} (h : s.Inv) : (s.holdCkpt p v).Inv := .ite h.endHold (.ite h (.setObj (.setPart (h.foldl fun _ _ h => h.slotBit))))

theorem execCkptHold_keeps {p v} (h : s.Inv) : Keeps (execCkptHold p v s) := .next (h.holdCkpt)

theorem execCkptHoldExpire_keeps {p} (h : s.Inv) : Keeps (execCkptHoldExpire p s) := by
  unfold execCkptHoldExpire
  refine .next ?_
  split
  · exact .ite h.endHold h
  · exact h

theorem State.Inv.ackCoreMap {p v} (h : s.Inv) : (s.ackCoreMap p v).Inv :=
  .iteThen h.setObj fun h => .resumeDispatch (.iteThen h.setPart fun h => h.dropMarks.stepRestarted)

theorem execCoreMapAck_keeps {p v} (h : s.Inv) : Keeps (execCoreMapAck p v s) := .next (h.ackCoreMap)


/-! ### Runs and permissions -/

theorem State.Inv.logRun {p v} (h : s.Inv) : (s.logRun p v).Inv := h.logEvent

theorem State.Inv.traceHeaders {p} (h : s.Inv) : (s.traceHeaders p).Inv := .ite h (h.dramBytesWr.foldl fun _ _ h => h.dramBytesWr)

theorem State.Inv.startCluster {cl} (h : s.Inv) : (s.startCluster cl).Inv :=
  .foldl (.setStew (h.setClu.foldl fun _ _ h => h.setRing)) fun _ _ h => h.setCore

theorem State.Inv.startRun {p} (h : s.Inv) : (s.startRun p).Inv :=
  .logRun (.reprotect (.traceHeaders (.setPart (.foldl (.frame (h.clearTouched.foldl fun _ _ h => h.startCluster)) fun _ _ h => .ite h.setAcct h))))

theorem State.Inv.runStart {p} (h : s.Inv) : (s.runStart p).Inv := .ite h (.ite h.startRun h.setPart)

theorem execRemapReestablish_keeps {d} (h : s.Inv) : Keeps (execRemapReestablish d s) := by
  unfold execRemapReestablish
  refine .next ?_
  dsimp only
  refine .ite h ?_
  refine .iteThen ?_ fun h => h.foldl fun _ _ h => .ite h.startRun h
  refine .frame ?_
  refine h.foldl fun _ _ h => ?_
  split
  · exact h.giveSpare
  · exact h.frame

theorem execRunStart_keeps {p} (h : s.Inv) : Keeps (execRunStart p s) := .next (h.runStart)

theorem State.Inv.runStop {p v} (h : s.Inv) : (s.runStop p v).Inv := .ite h.logRun.flashAbandon.beginStop h

theorem execRunStop_keeps {p} (h : s.Inv) : Keeps (execRunStop p s) := .next (h.runStop)

theorem execRunPreempt_keeps {p} (h : s.Inv) : Keeps (execRunPreempt p s) := .next (h.runStop)

theorem execPartitionStop_keeps {p} (h : s.Inv) : Keeps (execPartitionStop p s) :=
  .next (.ite h (.setPart (.setObj (h.landAll.foldl fun _ _ h => .traceFlush (.emptyCache (h.endStewWait.abandonRings.foldl
    fun _ _ h => .ite h.resolve h))))))

theorem State.Inv.permWrite {p addr count entry} (h : s.Inv) : (s.permWrite p addr count entry).Inv := .iteThen h.frameDram fun h => h.setPart

theorem execPermWrite_keeps {p addr count entry} (h : s.Inv) : Keeps (execPermWrite p addr count entry s) := .next (h.permWrite)

theorem State.Inv.clearGranule {g} (h : s.Inv) : (s.clearGranule g).Inv :=
  h.foldl fun _ _ h => h.emptyCache.setClu.setStew.foldl fun _ _ h => h.setCore

theorem State.Inv.setGranule {g owner} (h : s.Inv) : (s.setGranule g owner).Inv :=
  .ite h (.iteElse h.clearGranule.setObj fun h => h.foldl fun _ _ h => .ite h.setClu h)

theorem execGranuleOwner_keeps {d q owner} (h : s.Inv) : Keeps (execGranuleOwner d q owner s) := .next (h.setGranule)

theorem State.Inv.dramPassed {d g} (h : s.Inv) : (s.dramPassed d g).Inv := .frame h.frameDram

theorem State.Inv.selftestReq {p mask} (h : s.Inv) : (s.selftestReq p mask).Inv := h.foldl fun _ _ h => .ite h.setPhy h

theorem execSelftestReq_keeps {p mask} (h : s.Inv) : Keeps (execSelftestReq p mask s) := .next (h.selftestReq)

theorem execSupFence_keeps (h : s.Inv) : Keeps (execSupFence s) := .next (h.deviceFence)

theorem State.Inv.partResets {mask} (h : s.Inv) : (s.partResets mask).Inv := h.foldl fun _ _ h => .ite h.runStop h

theorem execSupPartReset_keeps {mask} (h : s.Inv) : Keeps (execSupPartReset mask s) := .next (h.partResets)

theorem State.Inv.clearLedger (h : s.Inv) : (s.clearLedger).Inv := h.frame

theorem execLedgerCountsClear_keeps {v} (h : s.Inv) : Keeps (execLedgerCountsClear v s) := .next (.ite h h.clearLedger)


/-! ### Breakpoints and samples -/

theorem execBreakpointWrite_keeps {p v} (h : s.Inv) : Keeps (execBreakpointWrite p v s) := .next (h.setObj)

theorem execBreakpointHalt_keeps {cl ia} (h : s.Inv) : Keeps (execBreakpointHalt cl ia s) := by
  unfold execBreakpointHalt
  refine .next ?_
  dsimp only
  split
  · exact .ite h h.setBp.trace.traceFlush.setClu.setStew.setPart.stopRings
  · exact h

theorem execBreakpointClusterHalted_keeps {cl} (h : s.Inv) : Keeps (execBreakpointClusterHalted cl s) := by
  unfold execBreakpointClusterHalted
  refine .next ?_
  split
  · exact .ite h (.takeDump (h.setClu.foldl fun _ _ h => h.pushEv))
  · exact h

theorem State.Inv.shiftWaits {cl x} (h : s.Inv) : (s.shiftWaits cl x).Inv := .foldl (.setStew (h.foldl fun _ _ h => h.setCore)) fun _ _ h => h.setRing

theorem execBreakpointResume_keeps {cl} (h : s.Inv) : Keeps (execBreakpointResume cl s) := by
  unfold execBreakpointResume
  refine .next ?_
  dsimp only
  split
  · refine .ite h ?_
    refine .iteElse ?_ fun h => h.setClu.refresh
    refine .ite (h.setClu.foldl fun _ _ h => .ite h.ringStart h) ?_
    split
    · exact .setPart (.foldl (h.setClu.foldl fun _ _ h => .ite h.ringStart h) fun _ _ h => h.shiftWaits)
    · exact h.setClu.foldl fun _ _ h => .ite h.ringStart h
  · refine .ite h ?_
    refine .iteElse ?_ fun h => h.setClu.refresh
    refine .ite (h.setClu.foldl fun _ _ h => .ite h.ringStart h) ?_
    split
    · exact .setPart (.foldl (h.setClu.foldl fun _ _ h => .ite h.ringStart h) fun _ _ h => h.shiftWaits)
    · exact h.setClu.foldl fun _ _ h => .ite h.ringStart h
  · exact h

theorem execPcSample_keeps {cl c stall} (h : s.Inv) : Keeps (execPcSample cl c stall s) := .next (.ite h h.fresh.trace)

theorem execTraceLineAccepted_keeps {cl} (h : s.Inv) : Keeps (execTraceLineAccepted cl s) := by
  unfold execTraceLineAccepted
  refine .next ?_
  dsimp only
  split
  · exact h
  · exact .iteElse h.setClu fun h => h.dramBytesWr.dramBytesWr


/-! ### Trust and updates -/

theorem State.Inv.jump {recovery} (h : s.Inv) : (s.jump recovery).Inv := h.frameFw

theorem execBootImageLoaded_keeps (h : s.Inv) : Keeps (execBootImageLoaded s) :=
  .next (.ite h (.ite (.frameFw (.frameFw (.ite h.frame h))) (.ite (.jump (.frameFw (.frameFw (.ite h.frame h)))) (.frameFw (.frameFw
    (.ite h.frame h))))))

theorem State.Inv.restoreLog (h : s.Inv) : (s.restoreLog).Inv := h.frameMgmt

theorem execFirmwareUp_keeps (h : s.Inv) : Keeps (execFirmwareUp s) :=
  .next (.ite h (.frameFw (.logEvent (.iteElse h.restoreLog fun h => h.logEvent))))

theorem State.Inv.logUnlock {verdict} (h : s.Inv) : (s.logUnlock verdict).Inv := h.logEvent

theorem State.Inv.evalToken (h : s.Inv) : (s.evalToken).Inv := .ite h.frame (.ite (.frame h.frame) h.frame.logUnlock)

theorem State.Inv.writeToken {v} (h : s.Inv) : (s.writeToken v).Inv := .ite (.frame h.setObj) h.setObj.evalToken

theorem execUnlockToken_keeps {v} (h : s.Inv) : Keeps (execUnlockToken v s) := .next (h.writeToken)

theorem execUnlockEraseComplete_keeps (h : s.Inv) : Keeps (execUnlockEraseComplete s) := .next (.ite h h.frame)

/-- R350: at most 8 opening fuses are blown. -/
theorem execOpeningFuseBlown_keeps {readbackOk} (h : s.Inv) : Keeps (execOpeningFuseBlown readbackOk s) := by
  unfold execOpeningFuseBlown
  refine .next ?_
  split
  · exact .ite h (.ite (.logUnlock (h.fuse (Nat.min_le_left ..) h.svn_le)) (.logUnlock h.frame))
  · exact h

theorem State.Inv.fwEnd {st cause} (h : s.Inv) : (s.fwEnd st cause).Inv := .iteThen h.frameFw.logEvent fun h => h.evalToken

theorem State.Inv.fwStart {cmd} (h : s.Inv) : (s.fwStart cmd).Inv := .ite h (.ite (.frameFw h.frameFw) (.ite (.frameFw h.frameFw) h.frameFw.fwEnd))

theorem execFwVerify_keeps (h : s.Inv) : Keeps (execFwVerify s) := .next (h.fwStart)

theorem execFwVerifyAndWrite_keeps (h : s.Inv) : Keeps (execFwVerifyAndWrite s) := .next (h.fwStart)

theorem execFwCopyComplete_keeps (h : s.Inv) : Keeps (execFwCopyComplete s) := .next (.ite h (.ite h.sweep.fwEnd (.frameFw h.sweep)))

theorem execFwVerifyComplete_keeps (h : s.Inv) : Keeps (execFwVerifyComplete s) :=
  .next (.ite h (.ite h.fwEnd (.ite h.frameFw (.iteThen h.fwEnd fun h => h.jump))))

theorem execFwFlashProgramComplete_keeps {ok} (h : s.Inv) : Keeps (execFwFlashProgramComplete ok s) := .next (.ite h (.ite h.fwEnd h.frameFw))

theorem execFwReadbackComplete_keeps (h : s.Inv) : Keeps (execFwReadbackComplete s) :=
  .next (.ite h (.ite (.iteThen h.fwEnd fun h => h.jump) h.fwEnd))

/-- R340: the SVN count is raised to at most 32. -/
theorem execSvnFuseRaise_keeps (h : s.Inv) : Keeps (execSvnFuseRaise s) :=
  .next (.ite (h.fuse h.openings_le (max_le h.svn_le (Nat.min_le_left ..))) h)

theorem execPageMeasured_keeps {p} (h : s.Inv) : Keeps (execPageMeasured p s) := by
  unfold execPageMeasured
  refine .next ?_
  dsimp only
  split
  · exact h
  · exact h.setPart

theorem State.Inv.writeNonce {f v} (h : s.Inv) : (s.writeNonce f v).Inv := h.setFn

theorem execQuoteNonce_keeps {f v} (h : s.Inv) : Keeps (execQuoteNonce f v s) := .next (h.writeNonce)

theorem execQuoteReady_keeps {f} (h : s.Inv) : Keeps (execQuoteReady f s) := .next (.ite h h.setFn)


/-! ### Resets -/

/-- R352: a reset clears DRAM, keeps the fuses, and keeps or clears the log mirror. -/
theorem State.Inv.cleared {src low} (h : s.Inv) : (s.cleared src low).Inv := by
  refine ⟨Mem.empty_wf, ?_, h.openings_le, h.svn_le⟩
  simp only [State.cleared, Mgmt.afterReset]
  split <;> split <;> first | exact Nat.zero_le _ | exact h.mirror_length

theorem State.Inv.resetBy {src low} (h : s.Inv) : (s.resetBy src low).Inv := by
  unfold State.resetBy
  dsimp only
  split
  · exact .frame h.cleared
  · exact .ite (.frame h.cleared) (.frame h.cleared)
  · exact .frame h.cleared

theorem State.Inv.deviceReset {src} (h : s.Inv) : (s.deviceReset src).Inv := h.resetBy

theorem execPowerOnReset_keeps {vddIoLow} (h : s.Inv) : Keeps (execPowerOnReset vddIoLow s) := .next (h.frame.resetBy)

theorem execBrownOut_keeps (h : s.Inv) : Keeps (execBrownOut s) := .next (.ite h.deviceReset h)

theorem execPinReset_keeps (h : s.Inv) : Keeps (execPinReset s) := .next (h.frame.deviceReset)

theorem execResetHoldoffEnd_keeps (h : s.Inv) : Keeps (execResetHoldoffEnd s) := .next (.ite h.frame h)

theorem execPwrgdRise_keeps (h : s.Inv) : Keeps (execPwrgdRise s) := .next (h.frame)

theorem execWatchdogExpire_keeps (h : s.Inv) : Keeps (execWatchdogExpire s) := .next (.ite h.deviceReset h)

theorem State.Inv.supReset {v} (h : s.Inv) : (s.supReset v).Inv := .ite h.deviceReset h

theorem execSupDeviceReset_keeps {v} (h : s.Inv) : Keeps (execSupDeviceReset v s) := .next (h.supReset)

theorem execClockFailure_keeps (h : s.Inv) : Keeps (execClockFailure s) := .next (h.frame.deviceReset)

theorem execLockUp_keeps (h : s.Inv) : Keeps (execLockUp s) := .next (h.deviceReset)

theorem execHoldEnd_keeps (h : s.Inv) : Keeps (execHoldEnd s) := .next (.ite h h.frame)

theorem execOptionLoadingComplete_keeps {st} (h : s.Inv) : Keeps (execOptionLoadingComplete st s) :=
  .next (.ite h (h.fuse h.openings_le h.svn_le))

theorem State.Inv.releaseGranule {g} (h : s.Inv) : (s.releaseGranule g).Inv :=
  h.foldl fun _ _ h => .ite h.setClu (h.setClu.flitsRelease.foldl fun _ _ h => .ite h.setPhy h)

theorem State.Inv.releaseStorage (h : s.Inv) : (s.releaseStorage).Inv := h.foldl fun _ _ h => h.setSport

theorem execDomainRelease_keeps (h : s.Inv) : Keeps (execDomainRelease s) := by
  unfold execDomainRelease
  refine .next ?_
  split
  · exact .ite h (.frame (.ite h.releaseGranule (.ite h.releaseStorage h)))
  · exact h

theorem execDramCalibrationDone_keeps {d ok} (h : s.Inv) : Keeps (execDramCalibrationDone d ok s) := .next (.ite h (.ite h.frame h.frame.dieFence))

theorem execCalibrationTimeout_keeps (h : s.Inv) : Keeps (execCalibrationTimeout s) := .next (.ite h.frame h)

theorem State.Inv.loadIr {i tdr debug} (h : s.Inv) : (s.loadIr i tdr debug).Inv := .ite h h.frame

theorem State.Inv.loadDriver {i} (h : s.Inv) : (s.loadDriver i).Inv := by
  unfold State.loadDriver
  refine .ite h ?_
  dsimp only
  split
  · exact .deviceReset (.frame h.frame)
  · exact h.frame.deviceReset

theorem execTrst_keeps (h : s.Inv) : Keeps (execTrst s) := .next (h.loadIr)

theorem execBypass_keeps (h : s.Inv) : Keeps (execBypass s) := .next (h.loadIr)

theorem execIdcode_keeps (h : s.Inv) : Keeps (execIdcode s) := .next (h.loadIr)

theorem execSamplePreload_keeps {shiftIn} (h : s.Inv) : Keeps (execSamplePreload shiftIn s) := .next (.ite h (.frame h.fresh.loadIr))

theorem execExtest_keeps (h : s.Inv) : Keeps (execExtest s) := .next (h.loadDriver)

theorem execClamp_keeps (h : s.Inv) : Keeps (execClamp s) := .next (h.loadDriver)

theorem execHighz_keeps (h : s.Inv) : Keeps (execHighz s) := .next (h.loadDriver)

theorem execDbgAccess_keeps (h : s.Inv) : Keeps (execDbgAccess s) := .next (.ite h.loadIr h.loadIr)

theorem execDbgReset_keeps (h : s.Inv) : Keeps (execDbgReset s) := .next (.ite h.loadIr.deviceReset h.loadIr)


/-! ### The object dictionary -/

theorem State.Inv.setDramOwners {sub v} (h : s.Inv) : (s.setDramOwners sub v).Inv := h.setObj.foldl fun _ _ h => h.dramPassed

theorem State.Inv.twStart {v} (h : s.Inv) : (s.twStart v).Inv := .iteElse h.setObj fun h => .frame h.setObj

theorem State.Inv.applyObj {f idx sub v} (h : s.Inv) : (s.applyObj f idx sub v).Inv :=
  .ite h.writeNonce (.ite h.setGranule (.ite h.setDramOwners (.ite h.permWrite (.ite (.ite h.runStart (.ite h h.runStop)) (.ite h.selftestReq (.ite
    (.iteThen h.setObj fun h => h.reprotect) (.ite h.holdCkpt (.ite h.ackCoreMap (.ite (.ite (.ite h.deviceFence h) (.ite h.partResets h.supReset))
    (.ite h.writeToken (.ite (.ite (.ite h h.frameFw) h.fwStart) (.ite h.twStart (.ite (.ite h h.clearLedger) h.setObj)))))))))))))

theorem State.Inv.reportClamp {idx sub src c} (h : s.Inv) : (s.reportClamp idx sub src c).Inv := h.frame

theorem State.Inv.wrote {w clamps size} (h : s.Inv) : (s.wrote w clamps size).Inv := .ite (.ite h.setSema h) (.ite h.setFn h)

theorem State.Inv.commitOne {w} (h : s.Inv) : (s.commitOne w).Inv := by
  unfold State.commitOne
  split
  · exact h
  · exact .applyObj (.wrote (h.foldl fun _ _ h => h.reportClamp))

theorem State.Inv.commitAll {ws} (h : s.Inv) : (State.commitAll ws s).Inv := by
  induction ws generalizing s with
  | nil => exact h
  | cons w t ih => exact .ite h.commitOne (ih h.commitOne)

theorem State.Inv.semaDrop {sec} (h : s.Inv) : (s.semaDrop sec).Inv := h.setSema

theorem State.Inv.semaDropsDue (h : s.Inv) : (s.semaDropsDue).Inv := h.foldl fun _ _ h => .ite h.semaDrop h

theorem execDictionaryCommit_keeps (h : s.Inv) : Keeps (execDictionaryCommit s) := .next (.ite h h.frame.commitAll.semaDropsDue)


/-! ### Control ports -/

theorem State.Inv.setCport {b c} (h : s.Inv) : (s.setCport b c).Inv := h.frame

theorem State.Inv.ignoredWrite (h : s.Inv) : (s.ignoredWrite).Inv := h.frame

theorem State.Inv.respond {f r} (h : s.Inv) : (s.respond f r).Inv := h.setFn

theorem State.Inv.ctrlBusy {f} (h : s.Inv) : (s.ctrlBusy f).Inv := h.setFn

theorem State.Inv.objRead {f} (h : s.Inv) : (s.objRead f).Inv := .ite h.ctrlBusy h.setFn

theorem execObjRead_keeps {f} (h : s.Inv) : Keeps (execObjRead f s) := .next (.ite h.objRead h)

theorem State.Inv.objWrite {f hub} (h : s.Inv) : (s.objWrite f hub).Inv := .ite h.ctrlBusy (.iteElse h.setFn fun h => h.frame)

theorem execObjWrite_keeps {f hubCycle} (h : s.Inv) : Keeps (execObjWrite f hubCycle s) := .next (.ite h.objWrite h)

theorem execObjRequestComplete_keeps {f} (h : s.Inv) : Keeps (execObjRequestComplete f s) := .next (.ite h (.ite h.setFn (.ite h.setFn h.setFn)))

theorem State.Inv.abort {f} (h : s.Inv) : (s.abort f).Inv := h.respond

theorem execSemaRead_keeps {f sec r} (h : s.Inv) : Keeps (execSemaRead f sec r s) := .next (.ite h (.ite h.abort (.ite h.respond h.setSema.respond)))

theorem State.Inv.semaWrite {f sec t} (h : s.Inv) : (s.semaWrite f sec t).Inv := .ite h.setSema h.frame

theorem execSemaRelease_keeps {f sec size token} (h : s.Inv) : Keeps (execSemaRelease f sec size token s) :=
  .next (.ite h (.ite h.semaWrite (.ite h.ignoredWrite h.abort)))

theorem State.Inv.semaLost {sec} (h : s.Inv) : (s.semaLost sec).Inv := .ite h.setSema h.semaDrop

theorem execSemaHoldExpire_keeps {sec} (h : s.Inv) : Keeps (execSemaHoldExpire sec s) := .next (.ite h.semaLost h)

theorem State.Inv.fnReset {f} (h : s.Inv) : (s.fnReset f).Inv := .iteThen (h.setFn.foldl fun _ _ h => .ite h.semaLost h) fun h => h.endHold

theorem State.Inv.portReset {b} (h : s.Inv) : (s.portReset b).Inv := h.setCport.foldl fun _ _ h => h.fnReset

theorem execFunctionLevelReset_keeps {f} (h : s.Inv) : Keeps (execFunctionLevelReset f s) := .next (.ite h.fnReset h)

theorem execHotReset_keeps {b} (h : s.Inv) : Keeps (execHotReset b s) := .next (h.portReset)

theorem execPerst_keeps {b} (h : s.Inv) : Keeps (execPerst b s) := .next (h.portReset)

theorem State.Inv.clockFail (h : s.Inv) : (s.clockFail).Inv := h.frame

theorem execRefclkLoss_keeps {b} (h : s.Inv) : Keeps (execRefclkLoss b s) := .next (h.setCport.clockFail.foldl fun _ _ h => .ite h.portReset h)

theorem execRefclkReturn_keeps {b} (h : s.Inv) : Keeps (execRefclkReturn b s) := .next (h.setCport)

theorem execControlLinkUp_keeps {b gen width mode} (h : s.Inv) : Keeps (execControlLinkUp b gen width mode s) := .next (.ite h h.setCport)

theorem State.Inv.doorbell {f n v} (h : s.Inv) : (s.doorbell f n v).Inv := .ite h.setFn h

theorem execDbWrite_keeps {f n v} (h : s.Inv) : Keeps (execDbWrite f n v s) := .next (.ite h.doorbell h)

theorem execDoorbellEventQueued_keeps {f} (h : s.Inv) : Keeps (execDoorbellEventQueued f s) := by
  unfold execDoorbellEventQueued
  refine .next ?_
  dsimp only
  split
  · exact h
  · split
    · exact h.setFn
    · split
      · exact .ite h.setFn.setStew.setFn h.setFn.pushEv.setFn
      · exact h.setFn.pushEv.setFn

theorem State.Inv.headWrite {f v} (h : s.Inv) : (s.headWrite f v).Inv := h.setFn

theorem execEvqHeadWrite_keeps {f v} (h : s.Inv) : Keeps (execEvqHeadWrite f v s) := .next (.ite h.headWrite h)

theorem execHostEventRecordWrite_keeps {f} (h : s.Inv) : Keeps (execHostEventRecordWrite f s) := by
  unfold execHostEventRecordWrite
  refine .next ?_
  dsimp only
  split
  · exact h
  · exact .ite h h.frame.setFn

theorem State.Inv.bar0Write {f off size v} (h : s.Inv) : (s.bar0Write f off size v).Inv :=
  .ite h.setFn (.ite h.setFn (.ite (.ite h.ignoredWrite (.ite h.objRead (.ite h.objWrite h))) (.ite (.ite h.semaWrite h.ignoredWrite)
    (.ite h h.ignoredWrite))))

theorem State.Inv.bar2Write {f off size v} (h : s.Inv) : (s.bar2Write f off size v).Inv :=
  .ite (.ite h.ignoredWrite h.doorbell) (.ite h.setFn (.ite (.ite h h.setFn) (.ite (.ite h.ignoredWrite h.headWrite) (.ite h.setFn (.ite h.setFn
    (.ite h h.ignoredWrite))))))

theorem execRegisterWrite_keeps {t v} (h : s.Inv) : Keeps (execRegisterWrite t v s) := by
  unfold execRegisterWrite
  refine .next ?_
  split
  · exact h.ctlWrite
  · exact .ite h (.ite h.bar0Write h.abort)
  · exact .ite h (.ite h.bar2Write h.abort)

theorem State.Inv.windowWord {f off n} (h : s.Inv) : (s.windowWord f off n).1.Inv := by
  unfold State.windowWord
  split
  · exact h
  · exact .iteThen (h.freeLine.wordErrors.setDram (Mem.settleBad_wf _ _ h.freeLine.wordErrors.wf)) fun h => h.setFn

theorem execBar4Read_keeps {f off len} (h : s.Inv) : Keeps (execBar4Read f off len s) :=
  .next (.ite h (.ite h.respond (.respond
    (foldl_inv (p := fun a : State × List Byte × List Nat => a.1.Inv) _ (s, [], []) h fun _ _ _ h => h.windowWord))))

theorem State.Inv.holdWrite {source off bs} (h : s.Inv) : (s.holdWrite source off bs).Inv := .ite h.frameFw h

theorem execBar4Write_keeps {f off bytes} (h : s.Inv) : Keeps (execBar4Write f off bytes s) := by
  unfold execBar4Write
  refine .next ?_
  refine .ite h ?_
  refine .ite h.holdWrite ?_
  refine .ite h ?_
  dsimp only
  refine .iteThen ?_ fun h => h.frame
  refine h.foldl fun _ _ h => ?_
  split
  · exact h.freeLine.chanWrite
  · exact h


/-! ### Storage ports -/

theorem State.Inv.logStorage {k code} (h : s.Inv) : (s.logStorage k code).Inv := h.logEvent

theorem State.Inv.reprotectAll (h : s.Inv) : (s.reprotectAll).Inv := h.foldl fun _ _ h => .ite h.reprotect h

theorem State.Inv.storageFail {d} (h : s.Inv) : (s.storageFail d).Inv := by
  unfold State.storageFail
  refine h.foldl fun _ _ h => ?_
  dsimp only
  split
  · split
    · exact .iteThen (h.foldl fun _ _ h => .ite h.flashFail h) fun h => h.setImage.dropJobs
    · exact h.foldl fun _ _ h => .ite h.flashFail h
  · exact h.foldl fun _ _ h => .ite h.flashFail h

theorem State.Inv.storageDown {k cause} (h : s.Inv) : (s.storageDown k cause).Inv := h.storageFail.setSport.logStorage.devEv.reprotectAll

theorem State.Inv.nvmeFail {k} (h : s.Inv) : (s.nvmeFail k).Inv := h.storageFail.setSport

theorem execStoragePortBringup_keeps {k r} (h : s.Inv) : Keeps (execStoragePortBringup k r s) :=
  .next (.ite h (.ite h.setSport.setSport.reprotectAll h.setSport.storageDown))

theorem execNvmeCompletionPoll_keeps {k cs} (h : s.Inv) : Keeps (execNvmeCompletionPoll k cs s) := .next (.ite h (.ite h.nvmeFail h.setSport))

theorem execNvmeCommandTimeout_keeps {k} (h : s.Inv) : Keeps (execNvmeCommandTimeout k s) := .next (.ite h.nvmeFail h)

theorem execSmartPoll_keeps {k warning} (h : s.Inv) : Keeps (execSmartPoll k warning s) := .next (.ite h h.setSport.logStorage.devEv)

theorem execSsdInboundRequest_keeps {k addr len write} (h : s.Inv) : Keeps (execSsdInboundRequest k addr len write s) :=
  .next (.ite h (.ite h.setSport h.setSport.logStorage))

theorem execStoragePortDown_keeps {k cause} (h : s.Inv) : Keeps (execStoragePortDown k cause s) := .next (.ite h.storageDown h)


/-! ### The field link -/

theorem State.Inv.slotRead {sl} (h : s.Inv) : (s.slotRead sl).s.Inv := by
  unfold State.slotRead
  dsimp only
  split
  · exact h
  · split
    · exact h
    · exact h

theorem State.Inv.slotWrite {i done sl} (h : s.Inv) : (s.slotWrite i done sl).s.Inv := by
  unfold State.slotWrite
  dsimp only
  split
  · exact h
  · split
    · exact h
    · split
      · exact h
      · split
        · exact h
        · exact h.frame

theorem State.Inv.slotRdata {sl} (h : s.Inv) : (s.slotRdata sl).s.Inv := by
  unfold State.slotRdata
  dsimp only
  split
  · exact h
  · split
    · exact h
    · exact h.holdWrite

theorem State.Inv.slotRboot {sl} (h : s.Inv) : (s.slotRboot sl).s.Inv := by
  unfold State.slotRboot
  split
  · exact h
  · exact .iteElse h.setObj fun h => h.fwStart

theorem State.Inv.slotRun {version i done sl} (h : s.Inv) : (s.slotRun version i done sl).s.Inv := by
  unfold State.slotRun
  dsimp only
  split
  · exact h
  · split
    · exact h
    · split
      · exact h.slotRead
      · split
        · exact h.slotWrite
        · split
          · exact h.slotRdata
          · exact h.slotRboot

theorem State.Inv.runSlots {version hops p n} (h : s.Inv) : (s.runSlots version hops p n).1.Inv := by
  refine foldl_inv (p := fun a : State × Nat × List Byte => a.1.Inv) _ (s, 0, []) h fun a _ _ h => ?_
  dsimp only
  split
  · exact h.slotRun
  · exact h

theorem State.Inv.forward {fr mark} (h : s.Inv) : (s.forward fr mark).Inv := .ite h.frame (.ite h h.frame)

theorem State.Inv.badFrame (h : s.Inv) : (s.badFrame).Inv := h.frame

theorem State.Inv.runFrame {fr} (h : s.Inv) : (s.runFrame fr).Inv := .forward (.iteElse (.frame h.runSlots) fun h => h.badFrame)

theorem execFieldFrame_keeps {fr} (h : s.Inv) : Keeps (execFieldFrame fr s) :=
  .next (.ite h (.ite h.forward (.ite h.frame.forward (.ite h.runFrame h.badFrame.forward))))

theorem execFieldReturnFrame_keeps {fr} (h : s.Inv) : Keeps (execFieldReturnFrame fr s) := .next (.ite h h.frame)

theorem execFieldTurnRound_keeps (h : s.Inv) : Keeps (execFieldTurnRound s) := .next (h.frame)

theorem execFieldOutLinkUp_keeps (h : s.Inv) : Keeps (execFieldOutLinkUp s) := .next (.ite h h.frame)

theorem State.Inv.fieldGone (h : s.Inv) : (s.fieldGone).Inv := h.frame.devEv

theorem execFieldLost_keeps (h : s.Inv) : Keeps (execFieldLost s) := .next (.ite h.fieldGone h)


/-! ### Clocks -/

theorem State.Inv.clockFatal {unit part sc} (h : s.Inv) : (s.clockFatal unit part sc).Inv := h.fresh.takeError

theorem execClockLockLoss_keeps {d} (h : s.Inv) : Keeps (execClockLockLoss d s) := by
  unfold execClockLockLoss
  refine .next ?_
  dsimp only
  split
  · exact h.clockFail.clockFatal
  · exact h.clockFail.clockFatal
  · exact .iteElse h.clockFail fun h => h.linkDown
  · exact .iteElse h.clockFail fun h => h.linkDown
  · exact h.clockFail.clockFatal
  · exact h.clockFail.portReset.fresh.setCport.devEv
  · exact h.clockFail.storageDown
  · exact .fieldGone (.ite (.frame h.clockFail) (.frame h.clockFail))


/-! ### Scalar instructions -/

theorem State.Inv.result {w sd v} (h : s.Inv) : (s.result w sd v).Inv := h.setReg.next1

theorem State.Inv.alu {w i sd sa b f} (h : s.Inv) : (s.alu w i sd sa b f).Inv := h.issue fun _ h => h.result

theorem State.Inv.branch {w taken target} (h : s.Inv) : (s.branch w taken target).Inv := .ite h.advance h.next1

theorem State.Inv.cmpBranch {w i sa sb target f} (h : s.Inv) : (s.cmpBranch w i sa sb target f).Inv := h.issue fun _ h => h.branch

theorem execMovi_keeps {w sd imm} (h : s.Inv) : Keeps (execMovi w sd imm s) := .next (h.issue fun _ h => h.result)

theorem execAdd_keeps {w sd sa b} (h : s.Inv) : Keeps (execAdd w sd sa b s) := .next (h.alu)

theorem execSub_keeps {w sd sa b} (h : s.Inv) : Keeps (execSub w sd sa b s) := .next (h.alu)

theorem execAnd_keeps {w sd sa b} (h : s.Inv) : Keeps (execAnd w sd sa b s) := .next (h.alu)

theorem execOr_keeps {w sd sa b} (h : s.Inv) : Keeps (execOr w sd sa b s) := .next (h.alu)

theorem execXor_keeps {w sd sa b} (h : s.Inv) : Keeps (execXor w sd sa b s) := .next (h.alu)

theorem execShl_keeps {w sd sa b} (h : s.Inv) : Keeps (execShl w sd sa b s) := .next (h.alu)

theorem execShr_keeps {w sd sa b} (h : s.Inv) : Keeps (execShr w sd sa b s) := .next (h.alu)

theorem execSra_keeps {w sd sa b} (h : s.Inv) : Keeps (execSra w sd sa b s) := .next (h.alu)

theorem execMul_keeps {w sd sa sb} (h : s.Inv) : Keeps (execMul w sd sa sb s) := .next (h.issue fun _ h => h.result)

theorem execBeq_keeps {w sa sb target} (h : s.Inv) : Keeps (execBeq w sa sb target s) := .next (h.cmpBranch)

theorem execBne_keeps {w sa sb target} (h : s.Inv) : Keeps (execBne w sa sb target s) := .next (h.cmpBranch)

theorem execBlt_keeps {w sa sb target} (h : s.Inv) : Keeps (execBlt w sa sb target s) := .next (h.cmpBranch)

theorem execBge_keeps {w sa sb target} (h : s.Inv) : Keeps (execBge w sa sb target s) := .next (h.cmpBranch)

theorem execJmp_keeps {w target} (h : s.Inv) : Keeps (execJmp w target s) := .next (h.issue fun _ h => h.branch)

theorem execNop_keeps {w} (h : s.Inv) : Keeps (execNop w s) := .next (h.issue fun _ h => h.next1)

/-! ### Every command, every step -/

/-- Every command answers a state of the invariant. -/
theorem exec_keeps (c : Instr) (h : s.Inv) : Keeps (exec c s) := by
  cases c with
  | movi => exact execMovi_keeps h
  | add => exact execAdd_keeps h
  | sub => exact execSub_keeps h
  | and => exact execAnd_keeps h
  | or => exact execOr_keeps h
  | xor => exact execXor_keeps h
  | shl => exact execShl_keeps h
  | shr => exact execShr_keeps h
  | sra => exact execSra_keeps h
  | mul => exact execMul_keeps h
  | beq => exact execBeq_keeps h
  | bne => exact execBne_keeps h
  | blt => exact execBlt_keeps h
  | bge => exact execBge_keeps h
  | jmp => exact execJmp_keeps h
  | nop => exact execNop_keeps h
  | config => exact execConfig_keeps h
  | setmask => exact execSetmask_keeps h
  | srseed => exact execSrseed_keeps h
  | tprod => exact execTprod_keeps h
  | tdrain => exact execTdrain_keeps h
  | tew => exact execTew_keeps h
  | arrayOutputVisible => exact execArrayOutputVisible_keeps h
  | tload => exact execTload_keeps h
  | tstore => exact execTstore_keeps h
  | moveLineResponse => exact execMoveLineResponse_keeps h
  | moveInterrupted => exact execMoveInterrupted_keeps h
  | moveBusError => exact execMoveBusError_keeps h
  | moveComplete => exact execMoveComplete_keeps h
  | rpost => exact execRpost_keeps h
  | postSlotWritten => exact execPostSlotWritten_keeps h
  | cinc => exact execCinc_keeps h
  | whenDoneIncrement => exact execWhenDoneIncrement_keeps h
  | cexp => exact execCexp_keeps h
  | cwait => exact execCwait_keeps h
  | cread => exact execCread_keeps h
  | creadResult => exact execCreadResult_keeps h
  | cwstat => exact execCwstat_keeps h
  | fence => exact execFence_keeps h
  | endTask => exact execEndTask_keeps h
  | endBalanceCheck => exact execEndBalanceCheck_keeps h
  | instructionFetchFill => exact execInstructionFetchFill_keeps h
  | tpost => exact execTpost_keeps h
  | tretry => exact execTretry_keeps h
  | tskip => exact execTskip_keeps h
  | tabort => exact execTabort_keeps h
  | scommit => exact execScommit_keeps h
  | sdiscard => exact execSdiscard_keeps h
  | icinv => exact execIcinv_keeps h
  | evwait => exact execEvwait_keeps h
  | evread => exact execEvread_keeps h
  | evarg => exact execEvarg_keeps h
  | cclean => exact execCclean_keeps h
  | ccflush => exact execCcflush_keeps h
  | ccdiscard => exact execCcdiscard_keeps h
  | ccmark => exact execCcmark_keeps h
  | stewardRpost => exact execStewardRpost_keeps h
  | rset => exact execRset_keeps h
  | rget => exact execRget_keeps h
  | rstart => exact execRstart_keeps h
  | rstop => exact execRstop_keeps h
  | rskip => exact execRskip_keeps h
  | rclear => exact execRclear_keeps h
  | ringCmdStart => exact execRingCmdStart_keeps h
  | ringCmdStop => exact execRingCmdStop_keeps h
  | ringCmdSkip => exact execRingCmdSkip_keeps h
  | ringCmdClear => exact execRingCmdClear_keeps h
  | tailWrite => exact execTailWrite_keeps h
  | registerWrite => exact execRegisterWrite_keeps h
  | ringSlotRead => exact execRingSlotRead_keeps h
  | ringDescriptorStart => exact execRingDescriptorStart_keeps h
  | ringLineResponse => exact execRingLineResponse_keeps h
  | ringWriteResponse => exact execRingWriteResponse_keeps h
  | ringRetry => exact execRingRetry_keeps h
  | ringBusError => exact execRingBusError_keeps h
  | ringDescriptorComplete => exact execRingDescriptorComplete_keeps h
  | taskStart => exact execTaskStart_keeps h
  | specCommit => exact execSpecCommit_keeps h
  | specCommitComplete => exact execSpecCommitComplete_keeps h
  | specDiscard => exact execSpecDiscard_keeps h
  | specDiscardComplete => exact execSpecDiscardComplete_keeps h
  | incrementApplied => exact execIncrementApplied_keeps h
  | incrementAck => exact execIncrementAck_keeps h
  | managementRaise => exact execManagementRaise_keeps h
  | counterSettle => exact execCounterSettle_keeps h
  | waitExamination => exact execWaitExamination_keeps h
  | waitTimeout => exact execWaitTimeout_keeps h
  | dumpComplete => exact execDumpComplete_keeps h
  | microbatchDrop => exact execMicrobatchDrop_keeps h
  | dropRingsHalted => exact execDropRingsHalted_keeps h
  | ledgerRequestPost => exact execLedgerRequestPost_keeps h
  | ledgerRequestWithdraw => exact execLedgerRequestWithdraw_keeps h
  | ledgerCycle => exact execLedgerCycle_keeps h
  | creditRefill => exact execCreditRefill_keeps h
  | ledgerGrant => exact execLedgerGrant_keeps h
  | creditStarved => exact execCreditStarved_keeps h
  | guardSample => exact execGuardSample_keeps h
  | guardStart => exact execGuardStart_keeps h
  | guardStepUp => exact execGuardStepUp_keeps h
  | thermalSample => exact execThermalSample_keeps h
  | thermalStepRecover => exact execThermalStepRecover_keeps h
  | clockStepChange => exact execClockStepChange_keeps h
  | thermalTrip => exact execThermalTrip_keeps h
  | selftestDue => exact execSelftestDue_keeps h
  | selftestStart => exact execSelftestStart_keeps h
  | selftestEnd => exact execSelftestEnd_keeps h
  | ifrFuseProgrammed => exact execIfrFuseProgrammed_keeps h
  | coreRetire => exact execCoreRetire_keeps h
  | coppiceRemap cl c =>
    show Keeps (execCoppiceRemap cl c s)
    exact execCoppiceRemap_keeps h
  | remapReestablish => exact execRemapReestablish_keeps h
  | spareSelftestDue => exact execSpareSelftestDue_keeps h
  | clusterPowerGate => exact execClusterPowerGate_keeps h
  | flitArrives => exact execFlitArrives_keeps h
  | linkCrcFail => exact execLinkCrcFail_keeps h
  | linkReplayLimit => exact execLinkReplayLimit_keeps h
  | laneFail => exact execLaneFail_keeps h
  | linkRetrainComplete => exact execLinkRetrainComplete_keeps h
  | cacheRequest => exact execCacheRequest_keeps h
  | permissionCacheFill => exact execPermissionCacheFill_keeps h
  | cacheFill => exact execCacheFill_keeps h
  | dramWriteAccept => exact execDramWriteAccept_keeps h
  | writeAcceptResponse => exact execWriteAcceptResponse_keeps h
  | dramRead => exact execDramRead_keeps h
  | streamDetectorTimeout => exact execStreamDetectorTimeout_keeps h
  | permissionInvalidate => exact execPermissionInvalidate_keeps h
  | scrubLine => exact execScrubLine_keeps h
  | scrubCorrectionWrite => exact execScrubCorrectionWrite_keeps h
  | errorReported => exact execErrorReported_keeps h
  | errorHandlerComplete => exact execErrorHandlerComplete_keeps h
  | urEscalation => exact execUrEscalation_keeps h
  | ceStorm => exact execCeStorm_keeps h
  | stormWindowEnd => exact execStormWindowEnd_keeps h
  | twReadRaw => exact execTwReadRaw_keeps h
  | twWriteData => exact execTwWriteData_keeps h
  | twWriteCheck => exact execTwWriteCheck_keeps h
  | twWriteBoth => exact execTwWriteBoth_keeps h
  | mirrorStart => exact execMirrorStart_keeps h
  | mirrorComplete => exact execMirrorComplete_keeps h
  | flashCopyComplete => exact execFlashCopyComplete_keeps h
  | flashCopyFail => exact execFlashCopyFail_keeps h
  | tensorWatchComplete => exact execTensorWatchComplete_keeps h
  | restoreComplete => exact execRestoreComplete_keeps h
  | rollback => exact execRollback_keeps h
  | rollbackComplete => exact execRollbackComplete_keeps h
  | ckptHold => exact execCkptHold_keeps h
  | ckptHoldExpire => exact execCkptHoldExpire_keeps h
  | coreMapAck => exact execCoreMapAck_keeps h
  | semaRead => exact execSemaRead_keeps h
  | semaRelease => exact execSemaRelease_keeps h
  | semaHoldExpire => exact execSemaHoldExpire_keeps h
  | objRead => exact execObjRead_keeps h
  | objWrite => exact execObjWrite_keeps h
  | objRequestComplete => exact execObjRequestComplete_keeps h
  | dbWrite => exact execDbWrite_keeps h
  | doorbellEventQueued => exact execDoorbellEventQueued_keeps h
  | evqHeadWrite => exact execEvqHeadWrite_keeps h
  | hostEventRecordWrite => exact execHostEventRecordWrite_keeps h
  | bar4Read => exact execBar4Read_keeps h
  | bar4Write => exact execBar4Write_keeps h
  | functionLevelReset => exact execFunctionLevelReset_keeps h
  | hotReset => exact execHotReset_keeps h
  | perst => exact execPerst_keeps h
  | refclkLoss => exact execRefclkLoss_keeps h
  | storagePortBringup => exact execStoragePortBringup_keeps h
  | nvmeCompletionPoll => exact execNvmeCompletionPoll_keeps h
  | nvmeCommandTimeout => exact execNvmeCommandTimeout_keeps h
  | smartPoll => exact execSmartPoll_keeps h
  | ssdInboundRequest => exact execSsdInboundRequest_keeps h
  | storagePortDown => exact execStoragePortDown_keeps h
  | fieldFrame => exact execFieldFrame_keeps h
  | fieldReturnFrame => exact execFieldReturnFrame_keeps h
  | fieldTurnRound => exact execFieldTurnRound_keeps h
  | fieldLost => exact execFieldLost_keeps h
  | dictionaryCommit => exact execDictionaryCommit_keeps h
  | runStart => exact execRunStart_keeps h
  | runStop => exact execRunStop_keeps h
  | runPreempt => exact execRunPreempt_keeps h
  | partitionStop => exact execPartitionStop_keeps h
  | permWrite => exact execPermWrite_keeps h
  | granuleOwner => exact execGranuleOwner_keeps h
  | selftestReq => exact execSelftestReq_keeps h
  | supFence => exact execSupFence_keeps h
  | supPartReset => exact execSupPartReset_keeps h
  | supDeviceReset => exact execSupDeviceReset_keeps h
  | ledgerCountsClear => exact execLedgerCountsClear_keeps h
  | breakpointWrite => exact execBreakpointWrite_keeps h
  | breakpointHalt => exact execBreakpointHalt_keeps h
  | breakpointClusterHalted => exact execBreakpointClusterHalted_keeps h
  | breakpointResume => exact execBreakpointResume_keeps h
  | pcSample => exact execPcSample_keeps h
  | traceLineAccepted => exact execTraceLineAccepted_keeps h
  | quoteNonce => exact execQuoteNonce_keeps h
  | quoteReady => exact execQuoteReady_keeps h
  | pageMeasured => exact execPageMeasured_keeps h
  | fwVerify => exact execFwVerify_keeps h
  | fwVerifyAndWrite => exact execFwVerifyAndWrite_keeps h
  | fwCopyComplete => exact execFwCopyComplete_keeps h
  | fwVerifyComplete => exact execFwVerifyComplete_keeps h
  | fwFlashProgramComplete => exact execFwFlashProgramComplete_keeps h
  | fwReadbackComplete => exact execFwReadbackComplete_keeps h
  | svnFuseRaise => exact execSvnFuseRaise_keeps h
  | unlockToken => exact execUnlockToken_keeps h
  | unlockEraseComplete => exact execUnlockEraseComplete_keeps h
  | openingFuseBlown => exact execOpeningFuseBlown_keeps h
  | bootImageLoaded => exact execBootImageLoaded_keeps h
  | firmwareUp => exact execFirmwareUp_keeps h
  | powerOnReset => exact execPowerOnReset_keeps h
  | brownOut => exact execBrownOut_keeps h
  | pinReset => exact execPinReset_keeps h
  | resetHoldoffEnd => exact execResetHoldoffEnd_keeps h
  | pwrgdRise => exact execPwrgdRise_keeps h
  | watchdogExpire => exact execWatchdogExpire_keeps h
  | clockFailure => exact execClockFailure_keeps h
  | clockLockLoss => exact execClockLockLoss_keeps h
  | lockUp => exact execLockUp_keeps h
  | holdEnd => exact execHoldEnd_keeps h
  | optionLoadingComplete => exact execOptionLoadingComplete_keeps h
  | domainRelease => exact execDomainRelease_keeps h
  | dramCalibrationDone => exact execDramCalibrationDone_keeps h
  | calibrationTimeout => exact execCalibrationTimeout_keeps h
  | trst => exact execTrst_keeps h
  | bypass => exact execBypass_keeps h
  | idcode => exact execIdcode_keeps h
  | samplePreload => exact execSamplePreload_keeps h
  | extest => exact execExtest_keeps h
  | clamp => exact execClamp_keeps h
  | highz => exact execHighz_keeps h
  | dbgAccess => exact execDbgAccess_keeps h
  | dbgReset => exact execDbgReset_keeps h
  | monitorSample => exact execMonitorSample_keeps h
  | refclkReturn => exact execRefclkReturn_keeps h
  | controlLinkUp => exact execControlLinkUp_keeps h
  | fieldOutLinkUp => exact execFieldOutLinkUp_keeps h

theorem State.Inv.idle (h : s.Inv) : (idle s).Inv := h.frame

end

/-- Settles O58: by the lemma of the command at the front of the queue, or of the idle step. -/
theorem everyStepKeepsTheInvariant : Obligations.EveryStepKeepsTheInvariant := by
  unfold Obligations.EveryStepKeepsTheInvariant
  intro s t h ht
  cases hq : s.pending with
  | nil =>
    cases (step_of_empty hq).symm.trans ht
    exact h.idle
  | cons c q =>
    obtain ⟨u, hu, hkept⟩ := exec_keeps c (s := { s with pending := q }) h.frame
    cases hu.symm.trans ((step_of_cons hq).symm.trans ht)
    exact hkept

end Sys2Proof.Machine
namespace Sys2Proof.Machine

open Sys2Proof

/-! The word code of R248 to R251 (O57). A syndrome is read as four symbols over GF(16). The 36 columns of the code and the poison syndrome lie on one
quadric of the space of syndromes, and no secant of two of them lies in it: so a sum of multiples of two columns is off the quadric, while every
syndrome whose verdict is not uncorrectable lies on it. -/

/-! ### GF(16) -/

theorem gfx_lt {d : Nat} (h : d < 16) : gfx d < 16 := by
  have : ∀ d : Fin 16, gfx d.val < 16 := by decide +kernel
  exact this ⟨d, h⟩

theorem gfx_xor {a b : Nat} (ha : a < 16) (hb : b < 16) : gfx (a ^^^ b) = gfx a ^^^ gfx b := by
  have : ∀ a b : Fin 16, gfx (a.val ^^^ b.val) = gfx a.val ^^^ gfx b.val := by decide +kernel
  exact this ⟨a, ha⟩ ⟨b, hb⟩

theorem ite_xor_ite (c : Prop) [Decidable c] (a b : Nat) : (if c then a ^^^ b else 0) = (if c then a else 0) ^^^ if c then b else 0 := by
  split <;> simp

/-- A product is linear in its second factor. -/
theorem gfmul_xor (h : Nat) {a b : Nat} (ha : a < 16) (hb : b < 16) : gfmul h (a ^^^ b) = gfmul h a ^^^ gfmul h b := by
  unfold gfmul
  rw [gfx_xor ha hb, gfx_xor (gfx_lt ha) (gfx_lt hb), gfx_xor (gfx_lt (gfx_lt ha)) (gfx_lt (gfx_lt hb))]
  simp only [ite_xor_ite]
  ac_rfl

theorem gfmul_zero (h : Nat) : gfmul h 0 = 0 := by
  unfold gfmul
  simp [gfx]

theorem gfmul_lt (h : Nat) {d : Nat} (hd : d < 16) : gfmul h d < 16 := by
  have ite_lt (c : Prop) [Decidable c] {a : Nat} (ha : a < 16) : (if c then a else 0) < 2 ^ 4 := by
    split
    · exact ha
    · decide
  have h1 := gfx_lt hd
  have h2 := gfx_lt h1
  exact Nat.xor_lt_two_pow (Nat.xor_lt_two_pow (Nat.xor_lt_two_pow (ite_lt _ hd) (ite_lt _ h1)) (ite_lt _ h2)) (ite_lt _ (gfx_lt h2))

/-- The product of GF(16) on symbols of four bits. -/
def gmul (a b : BitVec 4) : BitVec 4 := BitVec.ofNat 4 (gfmul a.toNat b.toNat)

theorem ofNat_gfmul {a b : Nat} (ha : a < 16) (hb : b < 16) : BitVec.ofNat 4 (gfmul a b) = gmul (BitVec.ofNat 4 a) (BitVec.ofNat 4 b) := by
  unfold gmul
  rw [BitVec.toNat_ofNat, BitVec.toNat_ofNat, Nat.mod_eq_of_lt ha, Nat.mod_eq_of_lt hb]

theorem gmul_comm (a b : BitVec 4) : gmul a b = gmul b a := by
  revert a b
  decide +kernel

theorem gmul_assoc (a b c : BitVec 4) : gmul (gmul a b) c = gmul a (gmul b c) := by
  revert a b c
  decide +kernel

theorem gmul_left_comm (a b c : BitVec 4) : gmul a (gmul b c) = gmul b (gmul a c) := by
  rw [← gmul_assoc, gmul_comm a b, gmul_assoc]

theorem gmul_xor (a b c : BitVec 4) : gmul a (b ^^^ c) = gmul a b ^^^ gmul a c := by
  unfold gmul
  rw [BitVec.toNat_xor, gfmul_xor _ b.isLt c.isLt, BitVec.ofNat_xor]

theorem xor_gmul (a b c : BitVec 4) : gmul (a ^^^ b) c = gmul a c ^^^ gmul b c := by
  rw [gmul_comm, gmul_xor, gmul_comm c, gmul_comm c]

theorem gmul_zero (a : BitVec 4) : gmul a 0#4 = 0#4 := congrArg (BitVec.ofNat 4) (gfmul_zero _)

theorem zero_gmul (a : BitVec 4) : gmul 0#4 a = 0#4 := by rw [gmul_comm, gmul_zero]

theorem one_gmul (a : BitVec 4) : gmul 1#4 a = a := by
  revert a
  decide +kernel

theorem gmul_one (a : BitVec 4) : gmul a 1#4 = a := by rw [gmul_comm, one_gmul]

theorem gmul_ne_zero {a b : BitVec 4} (ha : a ≠ 0#4) (hb : b ≠ 0#4) : gmul a b ≠ 0#4 := by
  revert a b
  decide +kernel

/-! ### Symbols of a syndrome -/

/-- Symbol k of a syndrome, S0 the lowest (R250). -/
def sym (x : BitVec 16) (k : Fin 4) : BitVec 4 := x.extractLsb' (4 * k.val) 4

theorem sym_xor (x y : BitVec 16) : sym (x ^^^ y) = fun k => sym x k ^^^ sym y k := funext fun _ => BitVec.extractLsb'_xor

theorem sym_toNat (x : BitVec 16) (k : Fin 4) : (sym x k).toNat = x.toNat / 2 ^ (4 * k.val) % 16 := by
  rw [sym, BitVec.extractLsb'_toNat, Nat.shiftRight_eq_div_pow]

theorem sym_inj {x y : BitVec 16} (h : sym x = sym y) : x = y := by
  have hk (k : Fin 4) := congrArg BitVec.toNat (congrFun h k)
  simp only [sym_toNat] at hk
  have h0 := hk 0
  have h1 := hk 1
  have h2 := hk 2
  have h3 := hk 3
  simp only [Fin.val_zero, Fin.val_one, Fin.val_two, show (3 : Fin 4).val = 3 from rfl] at h0 h1 h2 h3
  have := x.isLt
  have := y.isLt
  apply BitVec.eq_of_toNat_eq
  omega

/-- Four symbols as a syndrome. -/
def ofSyms (a b c d : Nat) : BitVec 16 := BitVec.ofNat 16 (a + 16 * b + 256 * c + 4096 * d)

theorem sym_ofSyms {a b c d : Nat} (ha : a < 16) (hb : b < 16) (hc : c < 16) (hd : d < 16) :
    sym (ofSyms a b c d) = ![BitVec.ofNat 4 a, BitVec.ofNat 4 b, BitVec.ofNat 4 c, BitVec.ofNat 4 d] := by
  have hn : a + 16 * b + 256 * c + 4096 * d < 65536 := by omega
  funext k
  apply BitVec.eq_of_toNat_eq
  rw [sym_toNat, ofSyms, BitVec.toNat_ofNat, Nat.mod_eq_of_lt hn]
  fin_cases k <;> simp <;> omega

/-! ### The check bits are linear (R249) -/

theorem checkFrom_lt (cols : List (Nat × Nat × Nat)) (v : Nat) :
    (checkFrom cols v).1 < 16 ∧ (checkFrom cols v).2.1 < 16 ∧ (checkFrom cols v).2.2.1 < 16 ∧ (checkFrom cols v).2.2.2 < 16 := by
  induction cols generalizing v with
  | nil => simp [checkFrom]
  | cons h t ih =>
    obtain ⟨h0, h1, h2, h3⟩ := ih (v / 16)
    have hd : v % 16 < 16 := Nat.mod_lt _ (by decide)
    exact ⟨Nat.xor_lt_two_pow (n := 4) hd h0, Nat.xor_lt_two_pow (n := 4) (gfmul_lt _ hd) h1, Nat.xor_lt_two_pow (n := 4) (gfmul_lt _ hd) h2,
      Nat.xor_lt_two_pow (n := 4) (gfmul_lt _ hd) h3⟩

theorem checkFrom_xor (cols : List (Nat × Nat × Nat)) (v w : Nat) :
    checkFrom cols (v ^^^ w) = ((checkFrom cols v).1 ^^^ (checkFrom cols w).1, (checkFrom cols v).2.1 ^^^ (checkFrom cols w).2.1,
      (checkFrom cols v).2.2.1 ^^^ (checkFrom cols w).2.2.1, (checkFrom cols v).2.2.2 ^^^ (checkFrom cols w).2.2.2) := by
  induction cols generalizing v w with
  | nil => simp [checkFrom]
  | cons h t ih =>
    have hm : (v ^^^ w) % 16 = v % 16 ^^^ w % 16 := Nat.xor_mod_two_pow (n := 4)
    have hd : (v ^^^ w) / 16 = v / 16 ^^^ w / 16 := Nat.xor_div_two_pow (n := 4)
    have hv : v % 16 < 16 := Nat.mod_lt _ (by decide)
    have hw : w % 16 < 16 := Nat.mod_lt _ (by decide)
    obtain ⟨a, b, c⟩ := h
    simp only [checkFrom, hm, hd, ih, gfmul_xor _ hv hw, Prod.mk.injEq]
    refine ⟨?_, ?_, ?_, ?_⟩ <;> ac_rfl

theorem sym_checkBits (v : Nat) : sym (checkBits v) = ![BitVec.ofNat 4 (checkFrom codeCols v).1, BitVec.ofNat 4 (checkFrom codeCols v).2.1,
    BitVec.ofNat 4 (checkFrom codeCols v).2.2.1, BitVec.ofNat 4 (checkFrom codeCols v).2.2.2] := by
  obtain ⟨h0, h1, h2, h3⟩ := checkFrom_lt codeCols v
  exact sym_ofSyms h0 h1 h2 h3

theorem checkBits_xor (v w : Nat) : checkBits (v ^^^ w) = checkBits v ^^^ checkBits w := by
  apply sym_inj
  rw [sym_xor, sym_checkBits, sym_checkBits, sym_checkBits, checkFrom_xor]
  funext k
  fin_cases k <;> simp [BitVec.ofNat_xor]

theorem checkFrom_zero (cols : List (Nat × Nat × Nat)) : checkFrom cols 0 = (0, 0, 0, 0) := by
  induction cols with
  | nil => rfl
  | cons h t ih => simp [checkFrom, ih, gfmul_zero]

/-- One data symbol alone meets its own column (R249). -/
theorem checkFrom_symbol {cols : List (Nat × Nat × Nat)} {i : Nat} {h : Nat × Nat × Nat} (hi : cols[i]? = some h) {e : Nat} (he : e < 16) :
    checkFrom cols (e * 16 ^ i) = (e, gfmul h.1 e, gfmul h.2.1 e, gfmul h.2.2 e) := by
  induction cols generalizing i with
  | nil => simp at hi
  | cons c t ih =>
    cases i with
    | zero =>
      obtain rfl : c = h := by simpa using hi
      simp [checkFrom, Nat.mod_eq_of_lt he, Nat.div_eq_of_lt he, checkFrom_zero]
    | succ i =>
      have hd : e * 16 ^ (i + 1) / 16 = e * 16 ^ i := by rw [pow_succ, ← mul_assoc, Nat.mul_div_cancel _ (by decide)]
      have hm : e * 16 ^ (i + 1) % 16 = 0 := by rw [pow_succ, ← mul_assoc, Nat.mul_mod_left]
      simp [checkFrom, hd, hm, gfmul_zero, ih (by simpa using hi)]

/-! ### The quadric -/

/-- A quadratic form that vanishes on every column of the code and on the poison syndrome. -/
def quad (v : Fin 4 → BitVec 4) : BitVec 4 :=
  gmul 15 (gmul (v 0) (v 1)) ^^^ gmul 15 (gmul (v 0) (v 2)) ^^^ gmul (v 0) (v 3) ^^^ gmul 15 (gmul (v 1) (v 2)) ^^^ gmul 15 (gmul (v 1) (v 3)) ^^^
    gmul (v 2) (v 3)

/-- Its polar form. -/
def polar (u v : Fin 4 → BitVec 4) : BitVec 4 :=
  gmul 15 (gmul (u 0) (v 1) ^^^ gmul (v 0) (u 1)) ^^^ gmul 15 (gmul (u 0) (v 2) ^^^ gmul (v 0) (u 2)) ^^^ (gmul (u 0) (v 3) ^^^ gmul (v 0) (u 3)) ^^^
    gmul 15 (gmul (u 1) (v 2) ^^^ gmul (v 1) (u 2)) ^^^ gmul 15 (gmul (u 1) (v 3) ^^^ gmul (v 1) (u 3)) ^^^ (gmul (u 2) (v 3) ^^^ gmul (v 2) (u 3))

/-- A multiple of a syndrome's symbols. -/
def scale (e : BitVec 4) (v : Fin 4 → BitVec 4) : Fin 4 → BitVec 4 := fun k => gmul e (v k)

theorem quad_xor (u v : Fin 4 → BitVec 4) : quad (fun k => u k ^^^ v k) = quad u ^^^ polar u v ^^^ quad v := by
  simp only [quad, polar, gmul_xor, xor_gmul]
  ac_rfl

theorem quad_scale (e : BitVec 4) (v : Fin 4 → BitVec 4) : quad (scale e v) = gmul (gmul e e) (quad v) := by
  simp only [quad, scale, gmul_xor, gmul_left_comm, gmul_comm]

theorem polar_scale (e f : BitVec 4) (u v : Fin 4 → BitVec 4) : polar (scale e u) (scale f v) = gmul (gmul e f) (polar u v) := by
  simp only [polar, scale, gmul_xor, gmul_left_comm, gmul_comm]

/-- The column of a data symbol (R249): S0 counts the symbol itself. -/
def dataColumn (h : Nat × Nat × Nat) : Fin 4 → BitVec 4 := ![1#4, BitVec.ofNat 4 h.1, BitVec.ofNat 4 h.2.1, BitVec.ofNat 4 h.2.2]

/-- Column i of the code: data symbols 0 to 31, check symbols 32 to 35. -/
def column (i : Nat) : Fin 4 → BitVec 4 :=
  match codeCols[i]? with
  | some h => dataColumn h
  | none => fun k => if k.val + 32 = i then 1#4 else 0#4

theorem codeCols_lt : ∀ h ∈ codeCols, h.1 < 16 ∧ h.2.1 < 16 ∧ h.2.2 < 16 := by decide +kernel

/-- Four symbols whose ratios to the first are a column are a multiple of it. -/
theorem sym_multiple {h : Nat × Nat × Nat} (hh : h ∈ codeCols) {e : Nat} (he : e < 16) :
    sym (ofSyms e (gfmul h.1 e) (gfmul h.2.1 e) (gfmul h.2.2 e)) = scale (BitVec.ofNat 4 e) (dataColumn h) := by
  obtain ⟨h1, h2, h3⟩ := codeCols_lt h hh
  rw [sym_ofSyms he (gfmul_lt _ he) (gfmul_lt _ he) (gfmul_lt _ he), ofNat_gfmul h1 he, ofNat_gfmul h2 he, ofNat_gfmul h3 he]
  funext k
  fin_cases k
  · exact (gmul_one _).symm
  all_goals exact gmul_comm _ _

theorem errorSyn_data {i e : Nat} {h : Nat × Nat × Nat} (hi : codeCols[i]? = some h) (he : e < 16) :
    errorSyn i e = ofSyms e (gfmul h.1 e) (gfmul h.2.1 e) (gfmul h.2.2 e) := by
  have hlt : i < 32 := (List.getElem?_eq_some_iff.1 hi).1
  rw [errorSyn, if_pos hlt, checkBits, checkFrom_symbol hi he]
  rfl

theorem sym_errorSyn_check {i e : Nat} (hi : 32 ≤ i) (hi' : i < 36) (he : e < 16) : sym (errorSyn i e) = scale (BitVec.ofNat 4 e) (column i) := by
  have h : ∀ (i : Fin 4) (e : Fin 16) (k : Fin 4), sym (errorSyn (32 + i.val) e.val) k = scale (BitVec.ofNat 4 e.val) (column (32 + i.val)) k := by
    decide +kernel
  have := h ⟨i - 32, by omega⟩ ⟨e, he⟩
  rw [Nat.add_sub_cancel' hi] at this
  exact funext this

/-- An error in symbol i leaves a multiple of column i. -/
theorem sym_errorSyn {i e : Nat} (hi : i < 36) (he : e < 16) : sym (errorSyn i e) = scale (BitVec.ofNat 4 e) (column i) := by
  rcases Nat.lt_or_ge i 32 with h | h
  · obtain ⟨c, hc⟩ : ∃ c, codeCols[i]? = some c := ⟨codeCols[i], List.getElem?_eq_getElem h⟩
    rw [errorSyn_data hc he, sym_multiple (List.mem_of_getElem? hc) he, column, hc]
  · exact sym_errorSyn_check h hi he

theorem quad_dataColumn : ∀ h ∈ codeCols, quad (dataColumn h) = 0#4 := by decide +kernel

theorem quad_column {i : Nat} (hi : i < 36) : quad (column i) = 0#4 := by
  have h : ∀ i : Fin 36, quad (column i.val) = 0#4 := by decide +kernel
  exact h ⟨i, hi⟩

theorem quad_poison : quad (sym poisonSyn) = 0#4 := by decide +kernel

/-- The line through two columns does not lie in the quadric. -/
theorem polar_columns {i j : Nat} (hij : i < j) (hj : j < 36) : polar (column i) (column j) ≠ 0#4 := by
  have h : ∀ j : Fin 36, ∀ i : Fin j.val, polar (column i.val) (column j.val) ≠ 0#4 := by decide +kernel
  exact h ⟨j, hj⟩ ⟨i, hij⟩

theorem polar_poison {i : Nat} (hi : i < 36) : polar (sym poisonSyn) (column i) ≠ 0#4 := by
  have h : ∀ i : Fin 36, polar (sym poisonSyn) (column i.val) ≠ 0#4 := by decide +kernel
  exact h ⟨i, hi⟩

theorem ofNat_ne_zero {e : Nat} (he : 0 < e) (hlt : e < 16) : BitVec.ofNat 4 e ≠ 0#4 := by
  intro h
  have := congrArg BitVec.toNat h
  rw [BitVec.toNat_ofNat, Nat.mod_eq_of_lt hlt] at this
  exact he.ne' this

/-- Errors in two symbols leave a syndrome off the quadric. -/
theorem quad_two {i j e f : Nat} (hij : i < j) (hj : j < 36) (he : 0 < e) (he' : e < 16) (hf : 0 < f) (hf' : f < 16) :
    quad (sym (errorSyn i e ^^^ errorSyn j f)) ≠ 0#4 := by
  rw [sym_xor, quad_xor, sym_errorSyn (hij.trans hj) he', sym_errorSyn hj hf', quad_scale, quad_scale, polar_scale, quad_column (hij.trans hj),
    quad_column hj, gmul_zero, gmul_zero, BitVec.zero_xor, BitVec.xor_zero]
  exact gmul_ne_zero (gmul_ne_zero (ofNat_ne_zero he he') (ofNat_ne_zero hf hf')) (polar_columns hij hj)

/-- So does an error in one symbol of a poisoned word. -/
theorem quad_poisoned {i e : Nat} (hi : i < 36) (he : 0 < e) (he' : e < 16) : quad (sym (poisonSyn ^^^ errorSyn i e)) ≠ 0#4 := by
  have h1 : sym poisonSyn = scale 1#4 (sym poisonSyn) := funext fun _ => (one_gmul _).symm
  rw [sym_xor, quad_xor, quad_poison, sym_errorSyn hi he', quad_scale, quad_column hi, gmul_zero, h1, polar_scale, BitVec.zero_xor, BitVec.xor_zero]
  exact gmul_ne_zero (gmul_ne_zero (by decide) (ofNat_ne_zero he he')) (polar_poison hi)

/-! ### The verdicts of R250's table -/

theorem matchCol_none {s0 s1 s2 s3 : Nat} {cols : List (Nat × Nat × Nat)}
    (h : ∀ c ∈ cols, ¬(s1 = gfmul c.1 s0 ∧ s2 = gfmul c.2.1 s0 ∧ s3 = gfmul c.2.2 s0)) (i : Nat) :
    matchCol s0 s1 s2 s3 cols i = none := by
  induction cols generalizing i with
  | nil => rfl
  | cons c t ih =>
    rw [matchCol, if_neg (h c (by simp))]
    exact ih (fun c hc => h c (by simp [hc])) (i + 1)

/-- No multiple of a column is a multiple of an earlier one. -/
theorem matchCol_column {i e : Nat} {h : Nat × Nat × Nat} (hi : codeCols[i]? = some h) (he : e ≠ 0) (he' : e < 16) :
    matchCol e (gfmul h.1 e) (gfmul h.2.1 e) (gfmul h.2.2 e) codeCols 0 = some i := by
  have hc : ∀ (i : Fin 32) (e : Fin 16), e ≠ 0 →
      matchCol e.val (gfmul codeCols[i.val].1 e.val) (gfmul codeCols[i.val].2.1 e.val) (gfmul codeCols[i.val].2.2 e.val) codeCols 0 = some i.val := by
    decide +kernel
  obtain ⟨hlt, rfl⟩ := List.getElem?_eq_some_iff.1 hi
  exact hc ⟨i, hlt⟩ ⟨e, he'⟩ (by simpa [Fin.ext_iff] using he)

/-- No multiple of a column is a multiple of a check symbol's column, or the poison syndrome. -/
theorem column_apart {h : Nat × Nat × Nat} (hh : h ∈ codeCols) {e : Nat} (he : e ≠ 0) (he' : e < 16) :
    ¬(gfmul h.1 e = 0 ∧ gfmul h.2.1 e = 0 ∧ gfmul h.2.2 e = 0) ∧ ¬(e = 1 ∧ gfmul h.1 e = 3 ∧ gfmul h.2.1 e = 8 ∧ gfmul h.2.2 e = 0) := by
  have hc : ∀ h ∈ codeCols, ∀ e : Fin 16, e ≠ 0 → ¬(gfmul h.1 e.val = 0 ∧ gfmul h.2.1 e.val = 0 ∧ gfmul h.2.2 e.val = 0) ∧
      ¬(e.val = 1 ∧ gfmul h.1 e.val = 3 ∧ gfmul h.2.1 e.val = 8 ∧ gfmul h.2.2 e.val = 0) := by decide +kernel
  exact hc h hh ⟨e, he'⟩ (by simpa [Fin.ext_iff] using he)

section
variable {x : BitVec 16} {s0 s1 s2 s3 : Nat} (h0 : s0 = x.toNat % 16) (h1 : s1 = x.toNat / 16 % 16) (h2 : s2 = x.toNat / 256 % 16) (h3 : s3 = x.toNat / 4096)
include h0 h1 h2 h3

theorem eq_poison_iff_syms : x = poisonSyn ↔ s0 = 1 ∧ s1 = 3 ∧ s2 = 8 ∧ s3 = 0 := by
  rw [← BitVec.toNat_inj, show poisonSyn.toNat = 2097 from rfl]
  omega

theorem eq_ofSyms : x = ofSyms s0 s1 s2 s3 := by
  apply BitVec.eq_of_toNat_eq
  rw [ofSyms, BitVec.toNat_ofNat]
  omega

/-- R250's table in terms of the four symbols. -/
theorem verdict_eq : verdict x =
    if s0 = 0 ∧ s1 = 0 ∧ s2 = 0 ∧ s3 = 0 then .clean
    else if s0 = 1 ∧ s1 = 3 ∧ s2 = 8 ∧ s3 = 0 then .poisoned
    else if s0 ≠ 0 ∧ s1 = 0 ∧ s2 = 0 ∧ s3 = 0 then .corrected 32 0
    else if s0 = 0 ∧ s2 = 0 ∧ s3 = 0 then .corrected 33 0
    else if s0 = 0 ∧ s1 = 0 ∧ s3 = 0 then .corrected 34 0
    else if s0 = 0 ∧ s1 = 0 ∧ s2 = 0 then .corrected 35 0
    else if s0 = 0 then .uncorrectable
    else match matchCol s0 s1 s2 s3 codeCols 0 with
      | some i => .corrected i s0
      | none => .uncorrectable := by
  have hz : x.toNat = 0 ↔ s0 = 0 ∧ s1 = 0 ∧ s2 = 0 ∧ s3 = 0 := by omega
  unfold verdict
  simp only [eq_poison_iff_syms h0 h1 h2 h3, hz, ← h0, ← h1, ← h2, ← h3] <;> rfl

/-- A multiple of a data symbol's column is corrected at that symbol. -/
theorem verdict_column {i : Nat} {h : Nat × Nat × Nat} (hi : codeCols[i]? = some h) (hs : s0 ≠ 0) (e1 : s1 = gfmul h.1 s0) (e2 : s2 = gfmul h.2.1 s0)
    (e3 : s3 = gfmul h.2.2 s0) : verdict x = .corrected i s0 := by
  obtain ⟨hc, hp⟩ := column_apart (List.mem_of_getElem? hi) hs (by omega)
  rw [← e1, ← e2, ← e3] at hc hp
  rw [verdict_eq h0 h1 h2 h3]
  simp only [hs, hc, hp, ne_eq, not_false_eq_true, false_and, true_and, if_false]
  rw [e1, e2, e3, matchCol_column hi hs (by omega)]

theorem verdict_check (h : (s0 ≠ 0 ∧ s1 = 0 ∧ s2 = 0 ∧ s3 = 0) ∨
    (s0 = 0 ∧ ((s1 ≠ 0 ∧ s2 = 0 ∧ s3 = 0) ∨ (s1 = 0 ∧ s2 ≠ 0 ∧ s3 = 0) ∨ (s1 = 0 ∧ s2 = 0 ∧ s3 ≠ 0)))) :
    ∃ sym, 32 ≤ sym ∧ verdict x = .corrected sym 0 := by
  rw [verdict_eq h0 h1 h2 h3]
  rcases h with ⟨a0, a1, a2, a3⟩ | ⟨a0, ⟨a1, a2, a3⟩ | ⟨a1, a2, a3⟩ | ⟨a1, a2, a3⟩⟩
  · exact ⟨32, by decide, by simp [a0, a1, a2, a3]⟩
  · exact ⟨33, by decide, by simp [a0, a1, a2, a3]⟩
  · exact ⟨34, by decide, by simp [a0, a1, a2, a3]⟩
  · exact ⟨35, by decide, by simp [a0, a1, a2, a3]⟩

theorem verdict_no_column (hs : s0 ≠ 0) (hn : s1 ≠ 0 ∨ s2 ≠ 0 ∨ s3 ≠ 0) (hp : x ≠ poisonSyn)
    (hc : ∀ h ∈ codeCols, ¬(s1 = gfmul h.1 s0 ∧ s2 = gfmul h.2.1 s0 ∧ s3 = gfmul h.2.2 s0)) : verdict x = .uncorrectable := by
  have hz : ¬(s1 = 0 ∧ s2 = 0 ∧ s3 = 0) := by omega
  rw [ne_eq, eq_poison_iff_syms h0 h1 h2 h3] at hp
  rw [verdict_eq h0 h1 h2 h3]
  simp only [hs, hz, hp, ne_eq, not_false_eq_true, false_and, true_and, if_false, matchCol_none hc]

theorem verdict_two_checks (hs : s0 = 0) (h : s1 ≠ 0 ∧ s2 ≠ 0 ∨ s1 ≠ 0 ∧ s3 ≠ 0 ∨ s2 ≠ 0 ∧ s3 ≠ 0) : verdict x = .uncorrectable := by
  rw [verdict_eq h0 h1 h2 h3]
  rcases h with ⟨a, b⟩ | ⟨a, b⟩ | ⟨a, b⟩ <;> simp [hs, a, b]

end

/-- Every syndrome off the quadric is uncorrectable. -/
theorem verdict_of_quad {x : BitVec 16} (h : quad (sym x) ≠ 0#4) : verdict x = .uncorrectable := by
  have hlt := x.isLt
  obtain ⟨s0, h0⟩ : ∃ s, s = x.toNat % 16 := ⟨_, rfl⟩
  obtain ⟨s1, h1⟩ : ∃ s, s = x.toNat / 16 % 16 := ⟨_, rfl⟩
  obtain ⟨s2, h2⟩ : ∃ s, s = x.toNat / 256 % 16 := ⟨_, rfl⟩
  obtain ⟨s3, h3⟩ : ∃ s, s = x.toNat / 4096 := ⟨_, rfl⟩
  have hx := eq_ofSyms h0 h1 h2 h3
  have hsym : sym x = ![BitVec.ofNat 4 s0, BitVec.ofNat 4 s1, BitVec.ofNat 4 s2, BitVec.ofNat 4 s3] := by
    rw [hx, sym_ofSyms] <;> omega
  by_cases hs : s0 = 0
  · refine verdict_two_checks h0 h1 h2 h3 hs ?_
    by_contra hn
    refine h ?_
    have : (s1 = 0 ∧ s2 = 0) ∨ (s1 = 0 ∧ s3 = 0) ∨ (s2 = 0 ∧ s3 = 0) := by omega
    rcases this with ⟨a, b⟩ | ⟨a, b⟩ | ⟨a, b⟩ <;> simp [hsym, quad, hs, a, b, gmul_zero, zero_gmul]
  · refine verdict_no_column h0 h1 h2 h3 hs ?_ ?_ ?_
    · by_contra hn
      push Not at hn
      exact h (by simp [hsym, quad, hn, gmul_zero])
    · rintro rfl
      exact h quad_poison
    · rintro c hc ⟨e1, e2, e3⟩
      refine h ?_
      rw [hx, e1, e2, e3, sym_multiple hc (by omega), quad_scale, quad_dataColumn c hc, gmul_zero]

theorem verdict_errorSyn {i e : Nat} (hi : i < 36) (he : 0 < e) (he' : e < 16) :
    (i < 32 → verdict (errorSyn i e) = .corrected i e) ∧ (32 ≤ i → verdict (errorSyn i e) = .corrected i 0) := by
  refine ⟨fun h => ?_, fun h => ?_⟩
  · obtain ⟨c, hc⟩ : ∃ c, codeCols[i]? = some c := ⟨codeCols[i], List.getElem?_eq_getElem h⟩
    have h1 := gfmul_lt c.1 he'
    have h2 := gfmul_lt c.2.1 he'
    have h3 := gfmul_lt c.2.2 he'
    have hn : (errorSyn i e).toNat = e + 16 * gfmul c.1 e + 256 * gfmul c.2.1 e + 4096 * gfmul c.2.2 e := by
      rw [errorSyn_data hc he', ofSyms, BitVec.toNat_ofNat]
      omega
    exact verdict_column (by omega) (by omega) (by omega) (by omega) hc he.ne' rfl rfl rfl
  · have hd : ∀ (i : Fin 4) (e : Fin 16), e ≠ 0 → verdict (errorSyn (32 + i.val) e.val) = .corrected (32 + i.val) 0 := by decide +kernel
    have := hd ⟨i - 32, by omega⟩ ⟨e, he'⟩ (by simpa [Fin.ext_iff] using he.ne')
    rwa [Nat.add_sub_cancel' h] at this

/-! ### Bytes under the code -/

theorem Mem.raw_setRaws (bs : List Byte) (m : Mem) (a x : Nat) : (m.setRaws a bs).raw x = if a ≤ x ∧ x < a + bs.length then bs.getD (x - a) 0 else m.raw x := by
  induction bs generalizing m a with
  | nil => simp [Mem.setRaws]
  | cons b t ih =>
    rw [Mem.setRaws, ih, Mem.raw_setRaw]
    by_cases hx : x = a
    · simp [hx]
    · by_cases hin : a + 1 ≤ x ∧ x < a + 1 + t.length
      · rw [if_pos hin, if_pos (by simp; omega), show x - a = (x - (a + 1)) + 1 by omega]
        rfl
      · rw [if_neg hin, if_neg hx, if_neg (by simp; omega)]

theorem Mem.word_poisonWord (m : Mem) (w : Nat) : (m.poisonWord w).word w = List.replicate 16 0 := by
  have h (i : Nat) (hi : i < 16) : (m.poisonWord w).raw (16 * w + i) = 0 := by
    rw [Mem.poisonWord, Mem.raw_setSyn, Mem.raw_setRaws, if_pos (by simp; omega), Nat.add_sub_cancel_left,
      List.getD_eq_getElem _ _ (by simpa using hi), List.getElem_replicate]
  rw [Mem.word, List.eq_replicate_iff]
  refine ⟨by simp, fun b hb => ?_⟩
  obtain ⟨i, hi, rfl⟩ := List.mem_map.1 hb
  exact h i (List.mem_range.1 hi)

/-- R251: the poison word. -/
theorem Mem.checkAt_poisonWord (m : Mem) (w : Nat) : (m.poisonWord w).checkAt w = 0x0831#16 := by
  rw [Mem.checkAt, Mem.word_poisonWord, Mem.poisonWord, Mem.synAt_setSyn, if_pos rfl]
  decide +kernel

theorem Mem.byte_of_clean {m : Mem} {a : Nat} (h : verdict (m.synAt (a / 16)) = .clean) : m.byte a = m.raw a := by
  simp [Mem.byte, h]

theorem Mem.byte_of_corrected {m : Mem} {a i e : Nat} (h : verdict (m.synAt (a / 16)) = .corrected i e) :
    m.byte a = if i < 32 ∧ i / 2 = a % 16 then m.raw a ^^^ BitVec.ofNat 8 (e * 16 ^ (i % 2)) else m.raw a := by
  have hz : m.synAt (a / 16) ≠ 0 := fun hz => by
    rw [hz, verdict_zero] at h
    cases h
  simp only [Mem.byte, hz, if_false, h]

/-- Settles O57: the table by its rows, one wrong symbol by its column, two by the quadric. -/
theorem wordCodeVerdicts : Obligations.WordCodeVerdicts := by
  unfold Obligations.WordCodeVerdicts
  refine ⟨fun syn s0 s1 s2 s3 h0 h1 h2 h3 => ⟨?_, ?_, verdict_check h0 h1 h2 h3, ?_, ?_, verdict_two_checks h0 h1 h2 h3⟩, ?_, ?_, ?_, ?_, ?_, ?_⟩
  · rintro rfl
    exact Mem.verdict_zero
  · rintro rfl
    decide +kernel
  · exact fun i c1 c2 c3 hi hs e1 e2 e3 => verdict_column h0 h1 h2 h3 hi hs e1 e2 e3
  · exact fun hs hn hp hc => verdict_no_column h0 h1 h2 h3 hs hn hp hc
  · intro d e i _ hi _ _
    rw [checkBits_xor, ← BitVec.xor_assoc, BitVec.xor_self, BitVec.zero_xor, errorSyn, if_pos hi]
  · intro i e hi he he'
    obtain ⟨hdata, hcheck⟩ := verdict_errorSyn hi he he'
    exact ⟨hdata, hcheck, verdict_of_quad (quad_poisoned hi he he')⟩
  · exact fun i j e f hij hj he he' hf hf' => verdict_of_quad (quad_two hij hj he he' hf hf')
  · intro m w
    refine ⟨fun b hb => ?_, m.checkAt_poisonWord w⟩
    rw [m.word_poisonWord w] at hb
    exact (List.mem_replicate.1 hb).2
  · refine fun m a => ⟨Mem.byte_of_clean, fun i e h hi => ?_, fun i e h hi => ?_⟩
    · rw [Mem.byte_of_corrected h]
      simp only [hi, true_and]
    · rw [Mem.byte_of_corrected h, if_neg (by omega)]
  · decide +kernel

end Sys2Proof.Machine

namespace Sys2Proof.Machine

open Sys2Proof

/-! ### Errors reach the management processor (R263 to R266, R278) -/

/-- Where a reported error comes from: the inbox, with the scope it was sent with, or the command alone; `box` is the inbox after it. -/
def State.Brings (s : State) (e : ErrIn) (sc : Scope) (box : List (ErrIn × Scope)) : Prop :=
  (∃ x, s.mgmt.inbox.find? (fun x => x.1 = e) = some x ∧ sc = x.2 ∧ box = s.mgmt.inbox.erase x) ∨
    (s.mgmt.inbox.find? (fun x => x.1 = e) = none ∧ sc = scopeOf e ∧ box = s.mgmt.inbox)

/-- The state once an error has left the inbox. -/
def State.withInbox (s : State) (box : List (ErrIn × Scope)) : State := { s with mgmt := { s.mgmt with inbox := box } }

section
variable {s : State} {e : ErrIn} {sc : Scope} {box : List (ErrIn × Scope)}

theorem errIn_of_parts (e : ErrIn) :
    ErrIn.of ⟨e.source, e.cls, e.syndrome, e.symbol, e.status⟩ ⟨e.unit, e.part, e.addr, e.taskId⟩ = e := rfl

/-- ERROR_REPORTED by the source of its error: a fault report is decided on, any other is taken, and a refusal is a program fault too. -/
theorem exec_reported (h : s.Brings e sc box) : exec (reported e) s = .next (
    if e.source = 0 then (s.withInbox box).decideFault e
    else if e.source = 8 ∧ 2 ≤ e.status ∧ e.status ≤ 4 then ((s.withInbox box).takeError e sc).programFault e.part e.unit
    else (s.withInbox box).takeError e sc) := by
  change execErrorReported _ _ s = _
  unfold execErrorReported
  rw [errIn_of_parts]
  dsimp only
  obtain ⟨x, hx, rfl, rfl⟩ | ⟨hx, rfl, rfl⟩ := h <;> rw [hx] <;> rfl

theorem exec_reported_fault (h : s.Brings e sc box) (h0 : e.source = 0) : exec (reported e) s = .next ((s.withInbox box).decideFault e) := by
  rw [exec_reported h, if_pos h0]

theorem exec_reported_error (h : s.Brings e sc box) (h0 : e.source ≠ 0) (h8 : ¬(e.source = 8 ∧ 2 ≤ e.status ∧ e.status ≤ 4)) :
    exec (reported e) s = .next ((s.withInbox box).takeError e sc) := by
  rw [exec_reported h, if_neg h0, if_neg h8]

theorem exec_reported_refusal (h : s.Brings e sc box) (h8 : e.source = 8 ∧ 2 ≤ e.status ∧ e.status ≤ 4) :
    exec (reported e) s = .next (((s.withInbox box).takeError e sc).programFault e.part e.unit) := by
  have h0 : e.source ≠ 0 := by rw [h8.1]; decide
  rw [exec_reported h, if_neg h0, if_pos h8]

/-- Noting an error's unit changes the counts by unit alone. -/
theorem noteUnit_only (s : State) (e : ErrIn) : s.noteUnit e =
    { s with mgmt := { s.mgmt with ceUnits := (s.noteUnit e).mgmt.ceUnits, urUnits := (s.noteUnit e).mgmt.urUnits } } := by
  unfold State.noteUnit
  dsimp only
  split
  · rfl
  · split <;> rfl

@[simp] theorem noteUnit_running (s : State) (e : ErrIn) : (s.noteUnit e).mgmt.running = s.mgmt.running := by rw [noteUnit_only]

@[simp] theorem noteUnit_queue (s : State) (e : ErrIn) : (s.noteUnit e).mgmt.queue = s.mgmt.queue := by rw [noteUnit_only]

theorem noteUnit_fatal (s : State) (h : 3 ≤ e.cls) : s.noteUnit e = s := by
  unfold State.noteUnit
  dsimp only
  rw [if_neg (by omega), if_neg (by omega)]

/-! What `takeError` does, a lemma for each case of R265. -/

theorem takeError_starts (sc : Scope) (hc : e.cls < 3) (hr : s.mgmt.running = []) :
    s.takeError e sc = { s with mgmt := { (s.noteUnit e).mgmt with running := [⟨e, sc, false⟩] } } := by
  unfold State.takeError
  dsimp only
  rw [if_neg (by omega), noteUnit_running, hr, noteUnit_only]

theorem takeError_suspends (sc : Scope) (hc : e.cls < 3) {cur : Handler} {rest : List Handler} (hr : s.mgmt.running = cur :: rest)
    (hlt : cur.err.cls < e.cls) : s.takeError e sc =
      { s with mgmt := { (s.noteUnit e).mgmt with running := ⟨e, sc, false⟩ :: { cur with preempted := true } :: rest } } := by
  unfold State.takeError
  dsimp only
  rw [if_neg (by omega), noteUnit_running, hr]
  dsimp only
  rw [if_pos hlt, noteUnit_only]

theorem takeError_waits (sc : Scope) (hc : e.cls < 3) {cur : Handler} {rest : List Handler} (hr : s.mgmt.running = cur :: rest)
    (hle : e.cls ≤ cur.err.cls) (hq : s.mgmt.queue.length < 64) :
    s.takeError e sc = { s with mgmt := { (s.noteUnit e).mgmt with queue := s.mgmt.queue ++ [⟨e, sc, false⟩] } } := by
  unfold State.takeError
  dsimp only
  rw [if_neg (by omega), noteUnit_running, hr]
  dsimp only
  rw [if_neg (by omega), noteUnit_queue, if_pos hq, noteUnit_only]

/-- An error beyond 64 waiting ones is counted as lost, in the count of its class. -/
def Mgmt.lose (m : Mgmt) (cls : Nat) : Mgmt := { m with
  lostCe := if cls = 0 then sat32 m.lostCe 1 else m.lostCe
  lostDe := if cls = 1 then sat32 m.lostDe 1 else m.lostDe
  lostUr := if cls = 2 then sat32 m.lostUr 1 else m.lostUr }

theorem takeError_loses (sc : Scope) (hc : e.cls < 3) {cur : Handler} {rest : List Handler} (hr : s.mgmt.running = cur :: rest)
    (hle : e.cls ≤ cur.err.cls) (hq : 64 ≤ s.mgmt.queue.length) : s.takeError e sc = { s with mgmt := (s.noteUnit e).mgmt.lose e.cls } := by
  unfold State.takeError
  dsimp only
  rw [if_neg (by omega), noteUnit_running, hr]
  dsimp only
  rw [if_neg (by omega), noteUnit_queue, if_neg (by omega)]
  rw [noteUnit_only]
  obtain h | h | h : e.cls = 0 ∨ e.cls = 1 ∨ e.cls = 2 := by omega
  all_goals rw [h, ← hr]; rfl

/-- An error that is not fatal changes the management processor alone. -/
theorem takeError_only (s : State) (sc : Scope) (hc : e.cls < 3) : s.takeError e sc = { s with mgmt := (s.takeError e sc).mgmt } := by
  cases hr : s.mgmt.running with
  | nil => rw [takeError_starts sc hc hr]
  | cons cur rest =>
    rcases Nat.lt_or_ge cur.err.cls e.cls with hlt | hle
    · rw [takeError_suspends sc hc hr hlt]
    · rcases Nat.lt_or_ge s.mgmt.queue.length 64 with hq | hq
      · rw [takeError_waits sc hc hr hle hq]
      · rw [takeError_loses sc hc hr hle hq]

/-- The management processor's handlers once a fatal error's handler has suspended them (R265). -/
def State.suspendAll (s : State) (e : ErrIn) (sc : Scope) : State :=
  { s with mgmt := { s.mgmt with running := ⟨e, sc, false⟩ :: s.mgmt.running.map fun x => { x with preempted := true } } }

theorem takeError_fences (sc : Scope) (hc : 3 ≤ e.cls) (hr : ∀ x ∈ s.mgmt.running, x.err.cls < 3) :
    s.takeError e sc = (s.suspendAll e sc).fenceScope e sc := by
  have hn : (s.mgmt.running.find? fun x => decide (3 ≤ x.err.cls)) = none := by
    rw [List.find?_eq_none]
    intro x hx
    have := hr x hx
    simp only [decide_eq_true_eq]
    omega
  unfold State.takeError
  dsimp only
  rw [if_pos hc, noteUnit_fatal s hc, hn]
  rfl

/-- A channel's fence: the channel is among the fenced ones, which lie in DRAM's part of the state. -/
theorem fenceScope_channel (s : State) (e : ErrIn) (c : Fin 64) :
    c.val ∈ (s.fenceScope e (.channel c)).dram.fenced ∧ s.fenceScope e (.channel c) = { s with dram := (s.fenceScope e (.channel c)).dram } := by
  unfold State.fenceScope
  dsimp only
  split
  · next h => exact ⟨by simpa using h, rfl⟩
  · exact ⟨by simp, rfl⟩

/-- A link end's fence: the end is among the fenced ones, which lie in the fabric's part of the state. -/
theorem fenceScope_linkEnd (s : State) (e : ErrIn) (l : Fin 10) (d : Fin 4) :
    (l.val, d.val) ∈ (s.fenceScope e (.linkEnd l d)).fabric.endsFenced ∧
      s.fenceScope e (.linkEnd l d) = { s with fabric := (s.fenceScope e (.linkEnd l d)).fabric } := by
  unfold State.fenceScope
  dsimp only
  split
  · next h => exact ⟨by simpa using h, rfl⟩
  · exact ⟨by simp, rfl⟩

/-- A fatal error whose scope is a channel, a link end or none suspends every handler and fences that scope and no more. -/
theorem takeError_fatal (hc : 3 ≤ e.cls) (hr : ∀ x ∈ s.mgmt.running, x.err.cls < 3)
    (hsc : sc = .none ∨ (∃ c, sc = .channel c) ∨ ∃ l d, sc = .linkEnd l d) :
    (∀ c, sc = .channel c → c.val ∈ (s.takeError e sc).dram.fenced ∧ (s.takeError e sc).fabric = s.fabric) ∧
    (∀ l d, sc = .linkEnd l d → (l.val, d.val) ∈ (s.takeError e sc).fabric.endsFenced ∧ (s.takeError e sc).dram = s.dram) ∧
    s.takeError e sc = { s.suspendAll e sc with dram := (s.takeError e sc).dram, fabric := (s.takeError e sc).fabric } := by
  rw [takeError_fences sc hc hr]
  obtain rfl | ⟨c, rfl⟩ | ⟨l, d, rfl⟩ := hsc
  · exact ⟨nofun, nofun, rfl⟩
  · obtain ⟨hmem, honly⟩ := fenceScope_channel (s.suspendAll e (.channel c)) e c
    refine ⟨fun c' h => ?_, nofun, ?_⟩
    · cases h
      exact ⟨hmem, by rw [honly]; rfl⟩
    · generalize State.fenceScope _ _ _ = t at honly
      rw [honly]
  · obtain ⟨hmem, honly⟩ := fenceScope_linkEnd (s.suspendAll e (.linkEnd l d)) e l d
    refine ⟨nofun, fun l' d' h => ?_, ?_⟩
    · cases h
      exact ⟨hmem, by rw [honly]; rfl⟩
    · generalize State.fenceScope _ _ _ = t at honly
      rw [honly]

/-- A program fault freezes its running partition with cause PROGRAM (R278). -/
theorem programFault_hangs {p : Nat} (hp : p < 16) (hr : (s.part p).run = .running) (unit : Nat) :
    ((s.programFault p unit).part p).run = .hung ∧ ((s.programFault p unit).part p).frozen = true ∧
      (∃ d, ((s.programFault p unit).part p).dump = some d ∧ d.cause = 3 ∧ d.freeze = s.now) ∧
      (∀ cl ∈ s.clustersOf p, ((s.programFault p unit).clu cl).dispStopped = true) ∧ (s.programFault p unit).dram = s.dram := by
  unfold State.programFault
  rw [if_pos ⟨hp, hr⟩]
  obtain ⟨hdram, hstop, v, d, hpart, hcause, hfreeze⟩ := hangStop_spec s p 3 unit
  rw [hpart]
  exact ⟨rfl, rfl, ⟨d, rfl, hcause, hfreeze⟩, hstop, hdram⟩

theorem decideFault_program (h : programKind e.syndrome e.status = true) : s.decideFault e = s.programFault e.part e.unit := by
  unfold State.decideFault
  rw [if_pos h]

theorem decideFault_core (h : programKind e.syndrome e.status = false) (hu : bits 15 8 e.unit < 12) :
    s.decideFault e = s.noteFault (nameCl e.unit) (Fin.ofNat 12 (bits 15 8 e.unit)) := by
  unfold State.decideFault
  rw [if_neg (by simp [h]), if_pos hu]

end

/-- Settles O41: the command takes the error from the inbox, and each case of R265 and R278 is a lemma on `takeError` or `decideFault`. -/
theorem errorsReachTheManagementProcessor : Obligations.ErrorsReachTheManagementProcessor := by
  intro s e sc box hb
  have hb : s.Brings e sc box := hb
  refine ⟨fun h0 hc h8 => ?_, fun h0 h8 hc hr hsc => ?_, fun hp hr hwhy => ?_, fun h0 hk hu hp hr => ?_⟩
  · have hx := exec_reported_error hb h0 h8
    refine ⟨fun hrun => ⟨_, hx, ?_⟩, fun cur rest hrun => ⟨fun hlt => ⟨_, hx, ?_⟩, fun hle hq => ⟨_, hx, ?_⟩, fun hle hq => ⟨_, hx, ?_⟩⟩⟩
    · rw [takeError_starts (s := s.withInbox box) sc hc hrun, noteUnit_only]
      exact ⟨rfl, rfl, rfl, rfl⟩
    · rw [takeError_suspends (s := s.withInbox box) sc hc hrun hlt, noteUnit_only]
      exact ⟨rfl, rfl, rfl, rfl⟩
    · rw [takeError_waits (s := s.withInbox box) sc hc hrun hle hq, noteUnit_only]
      exact ⟨rfl, rfl, rfl, rfl⟩
    · rw [takeError_loses (s := s.withInbox box) sc hc hrun hle hq, noteUnit_only]
      exact ⟨rfl, rfl, rfl, rfl, rfl, rfl, rfl⟩
  · refine ⟨_, exec_reported_error hb h0 fun h => h8 h.1, ?_⟩
    obtain ⟨hch, hle, honly⟩ := takeError_fatal (s := s.withInbox box) hc hr hsc
    generalize (s.withInbox box).takeError e sc = t at *
    have hm : t.mgmt = ((s.withInbox box).suspendAll e sc).mgmt := by rw [honly]
    refine ⟨congrArg Mgmt.running hm, congrArg Mgmt.inbox hm, hch, hle, ?_⟩
    rw [hm]
    exact honly
  · rcases hwhy with ⟨h0, hk⟩ | ⟨h8, hc, hst⟩
    · refine ⟨_, exec_reported_fault hb h0, ?_⟩
      rw [decideFault_program hk]
      exact programFault_hangs (s := s.withInbox box) hp hr e.unit
    · refine ⟨_, exec_reported_refusal hb ⟨h8, hst⟩, ?_⟩
      rw [takeError_only _ sc hc]
      exact programFault_hangs (s := { s with mgmt := ((s.withInbox box).takeError e sc).mgmt }) hp hr e.unit
  · refine ⟨_, exec_reported_fault hb h0, ?_⟩
    rw [decideFault_core hk hu]
    refine ⟨mem_faults_noteFault (s := s.withInbox box) _ hp hr, ?_, ?_⟩ <;> rw [noteFault_only] <;> rfl

end Sys2Proof.Machine

namespace Sys2Proof.Machine

open Sys2Proof

/-! ### Packed fields (R267) -/

/-- The width in bits of packed fields. -/
def packWidth (fs : List (Nat × Nat)) : Nat := (fs.map Prod.fst).sum

theorem foldl_pack (fs : List (Nat × Nat)) (a : Nat) :
    fs.foldl (fun a f => a * 2 ^ f.1 + f.2 % 2 ^ f.1) a = a * 2 ^ packWidth fs + pack fs := by
  induction fs generalizing a with
  | nil => rw [List.foldl_nil, packWidth, List.map_nil, List.sum_nil, Nat.pow_zero, Nat.mul_one]; rfl
  | cons f t ih =>
    have hp : pack (f :: t) = f.2 % 2 ^ f.1 * 2 ^ packWidth t + pack t := by
      rw [pack, List.foldl_cons, ih, Nat.zero_mul, Nat.zero_add]
    have hw : packWidth (f :: t) = f.1 + packWidth t := rfl
    rw [List.foldl_cons, ih, hp, hw, Nat.pow_add]
    ring

theorem pack_cons (w v : Nat) (fs : List (Nat × Nat)) : pack ((w, v) :: fs) = v % 2 ^ w * 2 ^ packWidth fs + pack fs := by
  rw [pack, List.foldl_cons, foldl_pack, Nat.zero_mul, Nat.zero_add]

theorem pack_append (pre post : List (Nat × Nat)) : pack (pre ++ post) = pack pre * 2 ^ packWidth post + pack post := by
  rw [pack, List.foldl_append, foldl_pack]
  rfl

theorem pack_lt (fs : List (Nat × Nat)) : pack fs < 2 ^ packWidth fs := by
  induction fs with
  | nil => decide
  | cons f t ih =>
    have hw : packWidth (f :: t) = f.1 + packWidth t := rfl
    have hv : f.2 % 2 ^ f.1 < 2 ^ f.1 := Nat.mod_lt _ (Nat.two_pow_pos _)
    rw [pack_cons, hw, Nat.pow_add]
    calc f.2 % 2 ^ f.1 * 2 ^ packWidth t + pack t < (f.2 % 2 ^ f.1 + 1) * 2 ^ packWidth t := by rw [Nat.succ_mul]; omega
      _ ≤ 2 ^ f.1 * 2 ^ packWidth t := Nat.mul_le_mul_right _ hv

/-- A field is read back from where the fields after it end. -/
theorem pack_field (pre : List (Nat × Nat)) (w v : Nat) (post : List (Nat × Nat)) {k : Nat} (hk : packWidth post = k) :
    pack (pre ++ (w, v) :: post) / 2 ^ k % 2 ^ w = v % 2 ^ w := by
  subst hk
  have hw : packWidth ((w, v) :: post) = w + packWidth post := rfl
  have hsplit : pack (pre ++ (w, v) :: post) = pack post + 2 ^ packWidth post * (v % 2 ^ w + 2 ^ w * pack pre) := by
    rw [pack_append, pack_cons, hw, Nat.pow_add]
    ring
  rw [hsplit, Nat.add_mul_div_left _ _ (Nat.two_pow_pos _), Nat.div_eq_of_lt (pack_lt post), Nat.zero_add, Nat.add_mul_mod_self_left,
    Nat.mod_mod]

/-! ### The log (R267) -/

/-- The record that a log write of `r` leaves, with its number in the low 16 bits. -/
def numberedRec (r n : Nat) : Rec := BitVec.ofNat 256 (r / 65536 * 65536 + n % 65536)

theorem slots_logRec (s : State) (r : Nat) : find (s.logRec r).mgmt.slots (s.mgmt.logCount % 4096) = some (numberedRec r s.mgmt.logCount) :=
  find_ins_same ..

/-- The fields above the low 16 bits of a record are those of the value logged. -/
theorem extract_numberedRec (r n k w : Nat) (hk : 16 ≤ k) (hw : k + w ≤ 256) :
    (numberedRec r n).extractLsb' k w = BitVec.ofNat w (r / 2 ^ k) := by
  obtain ⟨j, rfl⟩ : ∃ j, k = 16 + j := ⟨k - 16, by omega⟩
  have hlow : (r / 65536 * 65536 + n % 65536) / 2 ^ (16 + j) = r / 2 ^ (16 + j) := by
    rw [Nat.pow_add, ← Nat.div_div_eq_div_mul, ← Nat.div_div_eq_div_mul]
    congr 1
    omega
  have hfit : 2 ^ (16 + j) * 2 ^ w ∣ 2 ^ 256 := by
    rw [← Nat.pow_add]
    exact Nat.pow_dvd_pow 2 hw
  apply BitVec.eq_of_toNat_eq
  rw [BitVec.extractLsb'_toNat, numberedRec, BitVec.toNat_ofNat, BitVec.toNat_ofNat, Nat.shiftRight_eq_div_pow, ← hlow,
    ← Nat.mod_mul_right_div_self, ← Nat.mod_mul_right_div_self, Nat.mod_mod_of_dvd _ hfit]

/-- An error's record names its source, class and unit. -/
theorem slots_logError (s : State) (e : ErrIn) (preempted : Bool) :
    ∃ r : Rec, find (s.logError e preempted).mgmt.slots (s.mgmt.logCount % 4096) = some r ∧ r.extractLsb' 248 8 = BitVec.ofNat 8 e.source ∧
      r.extractLsb' 246 2 = BitVec.ofNat 2 e.cls ∧ r.extractLsb' 216 24 = BitVec.ofNat 24 e.unit := by
  refine ⟨_, slots_logRec .., ?_, ?_, ?_⟩ <;> rw [extract_numberedRec _ _ _ _ (by decide) (by decide)] <;> apply BitVec.eq_of_toNat_eq <;>
    rw [BitVec.toNat_ofNat, BitVec.toNat_ofNat]
  · exact pack_field [] 8 e.source _ (by simp [packWidth])
  · exact pack_field [(8, e.source)] 2 e.cls _ (by simp [packWidth])
  · exact pack_field [(8, e.source), (2, e.cls), (1, if preempted then 1 else 0), (5, 0)] 24 e.unit _ (by simp [packWidth])

/-- A log write changes the log alone. -/
theorem logRec_only (s : State) (r : Nat) : s.logRec r = { s with mgmt := { s.mgmt with
    logCount := (s.logRec r).mgmt.logCount, mirror := (s.logRec r).mgmt.mirror, slots := (s.logRec r).mgmt.slots } } := by
  obtain ⟨n, m, l, h⟩ : ∃ n m l, s.logRec r = { s with mgmt := { s.mgmt with logCount := n, mirror := m, slots := l } } := ⟨_, _, _, rfl⟩
  rw [h]

theorem logError_only (s : State) (e : ErrIn) (preempted : Bool) : s.logError e preempted = { s with mgmt := { s.mgmt with
    logCount := (s.logError e preempted).mgmt.logCount, mirror := (s.logError e preempted).mgmt.mirror
    slots := (s.logError e preempted).mgmt.slots } } := logRec_only ..

/-! ### A handler completes (R260, R263, R265) -/

/-- The counts of handled errors once one of a class is counted (R260). -/
def Mgmt.counted (m : Mgmt) (cls : Nat) : Mgmt := { m with
  ce := if cls = 0 then sat32 m.ce 1 else m.ce
  de := if cls = 1 then sat32 m.de 1 else m.de
  ur := if cls = 2 then sat32 m.ur 1 else m.ur
  fatal := if 3 ≤ cls then sat32 m.fatal 1 else m.fatal }

theorem countError_eq (s : State) (cls : Nat) : s.countError cls = { s with mgmt := s.mgmt.counted cls } := by
  unfold State.countError Mgmt.counted
  match cls with
  | 0 => rfl
  | 1 => rfl
  | 2 => rfl
  | n + 3 => simp

/-- A completed handler's error is counted, and logged unless its unit is in a storm of corrected errors. -/
def State.handled (s : State) (h : Handler) : State :=
  let t := s.countError h.err.cls
  if h.err.cls = 0 ∧ t.mgmt.storms.contains h.err.unit then t else t.logError h.err h.preempted

/-- The handlers running and waiting once one has completed: the suspended one resumes before any waiting one. -/
def nextHandlers (rest q : List Handler) : List Handler × List Handler :=
  match rest with
  | _ :: _ => (rest, q)
  | [] => match takeNext q with
    | some (n, q') => ([n], q')
    | none => ([], q)

theorem countError_storms (s : State) (cls : Nat) : (s.countError cls).mgmt.storms = s.mgmt.storms := by
  rw [countError_eq]
  rfl

theorem handled_silent {s : State} {h : Handler} (hs : h.err.cls = 0 ∧ h.err.unit ∈ s.mgmt.storms) : s.handled h = s.countError h.err.cls :=
  if_pos (by rw [countError_storms]; simpa using hs)

theorem handled_logged {s : State} {h : Handler} (hs : ¬(h.err.cls = 0 ∧ h.err.unit ∈ s.mgmt.storms)) :
    s.handled h = (s.countError h.err.cls).logError h.err h.preempted := if_neg (by rw [countError_storms]; simpa using hs)

/-- Counting and logging an error change the counts of its class and the log alone. -/
theorem handled_only (s : State) (h : Handler) : s.handled h = { s with mgmt := { s.mgmt.counted h.err.cls with
    logCount := (s.handled h).mgmt.logCount, mirror := (s.handled h).mgmt.mirror, slots := (s.handled h).mgmt.slots } } := by
  by_cases hs : h.err.cls = 0 ∧ h.err.unit ∈ s.mgmt.storms
  · rw [handled_silent hs, countError_eq]
  · rw [handled_logged hs, countError_eq]
    exact logError_only { s with mgmt := s.mgmt.counted h.err.cls } h.err h.preempted

theorem exec_errorHandlerComplete {s : State} {h : Handler} {rest : List Handler} (hr : s.mgmt.running = h :: rest) :
    exec .errorHandlerComplete s = .next { s.handled h with mgmt := { (s.handled h).mgmt with
      running := (nextHandlers rest s.mgmt.queue).1, queue := (nextHandlers rest s.mgmt.queue).2 } } := by
  have hq : (s.handled h).mgmt.queue = s.mgmt.queue := by rw [handled_only]; rfl
  have hfold : (if h.err.cls = 0 ∧ (s.countError h.err.cls).mgmt.storms.contains h.err.unit then s.countError h.err.cls
    else (s.countError h.err.cls).logError h.err h.preempted) = s.handled h := rfl
  change execErrorHandlerComplete s = _
  unfold execErrorHandlerComplete
  rw [hr]
  dsimp only
  rw [hfold]
  cases rest with
  | cons x t => rw [← hq]; rfl
  | nil =>
    dsimp only [nextHandlers]
    rw [hq]
    cases takeNext s.mgmt.queue with
    | some nq => rfl
    | none => rw [← hq]

theorem foldl_cls_le {q : List Handler} {a c : Nat} (ha : a ≤ c) (h : ∀ x ∈ q, x.err.cls ≤ c) :
    q.foldl (fun a h => max a h.err.cls) a ≤ c := foldl_inv (p := (· ≤ c)) _ _ ha fun _ x hx hb => max_le hb (h x hx)

theorem le_foldl_cls (q : List Handler) (a : Nat) : a ≤ q.foldl (fun a h => max a h.err.cls) a :=
  foldl_inv (p := (a ≤ ·)) _ _ le_rfl fun _ _ _ hb => hb.trans (le_max_left ..)

/-- The first waiting handler of the highest class is taken, and the others keep their order (R265). -/
theorem takeNext_first {pre post : List Handler} {n : Handler} (hpre : ∀ x ∈ pre, x.err.cls < n.err.cls)
    (hpost : ∀ x ∈ post, x.err.cls ≤ n.err.cls) : takeNext (pre ++ n :: post) = some (n, pre ++ post) := by
  have htop : (pre ++ n :: post).foldl (fun a h => max a h.err.cls) 0 = n.err.cls := by
    rw [List.foldl_append, List.foldl_cons, max_eq_right (foldl_cls_le (Nat.zero_le _) fun x hx => (hpre x hx).le)]
    exact le_antisymm (foldl_cls_le le_rfl hpost) (le_foldl_cls ..)
  have hnone : (pre.find? fun h => h.err.cls = n.err.cls) = none :=
    List.find?_eq_none.2 fun x hx => by simpa using (hpre x hx).ne
  have hmem : n ∉ pre := fun h => (hpre n h).false
  unfold takeNext
  dsimp only
  rw [htop, List.find?_append, hnone, Option.none_or, List.find?_cons_of_pos (by simp)]
  dsimp only
  rw [List.erase_append_right _ hmem, List.erase_cons_head]

/-! ### Escalation and storms (R260, R264) -/

/-- The state once a unit's uncorrected-recoverable errors are no longer counted. -/
def State.forgetUr (s : State) (k : Nat) : State := { s with mgmt := { s.mgmt with urUnits := del s.mgmt.urUnits k } }

/-- The fatal error of a unit with too many uncorrected-recoverable ones. -/
def escalation (unit : Nat) : ErrIn :=
  { source := 0x0F, cls := 3, unit := unit, part := 0xFF, addr := 0, syndrome := 0, symbol := 0xFF, status := 0, taskId := 0 }

theorem exec_urEscalation (cl : Cl) (n : Nat) (s : State) : exec (.urEscalation cl n) s = .next (
    if 8 < ((look [] s.mgmt.urUnits (urKey (unitName cl n))).filter fun t => s.now < t + 1000000).length then
      (s.forgetUr (urKey (unitName cl n))).takeError (escalation (unitName cl n)) (unitScope (urKey (unitName cl n)))
    else s) := rfl

theorem unitScope_cases (u : Nat) : (∃ c, unitScope u = .cluster c) ∨ (∃ c, unitScope u = .channel c) ∨ ∃ l d, unitScope u = .linkEnd l d := by
  unfold unitScope
  dsimp only
  split
  · exact .inl ⟨_, rfl⟩
  · split
    · exact .inr (.inl ⟨_, rfl⟩)
    · exact .inr (.inr ⟨_, _, rfl⟩)

theorem exec_ceStorm (u : UnitName) (s : State) : exec (.ceStorm u) s = .next (
    if s.obj 0x5012 1 < look 0 s.mgmt.ceUnits u ∧ !s.mgmt.storms.contains u then
      ({ s with mgmt := { s.mgmt with storms := s.mgmt.storms ++ [u] } }).logError
        { source := 0x0E, cls := 0, unit := u, part := 0xFF, addr := 0, syndrome := 0, symbol := 0xFF, status := 0, taskId := 0 } false
    else s) := rfl

theorem exec_stormWindowEnd (s : State) : exec .stormWindowEnd s = .next (
    if s.now % 1000000 = 0 then { s with mgmt := { s.mgmt with ceUnits := [], storms := [] } } else s) := rfl

/-- Settles O42: a completed handler's error is counted and logged and the next one runs; the escalation is a fatal error of O41's kind. -/
theorem handlersCompleteAndErrorsEscalate : Obligations.HandlersCompleteAndErrorsEscalate := by
  intro s
  refine ⟨fun h rest hr => ⟨_, exec_errorHandlerComplete hr, ?_, fun hs => ?_, fun hs => ?_, fun hne => ?_, fun hnil hq => ?_, fun hnil pre n post hq hpre hpost => ?_, ?_⟩,
    fun cl n hle => ⟨s, ?_, rfl⟩, fun cl n u hu h8 hrun hncl => ?_, fun u => ⟨fun hlt hno => ?_, fun hle => ⟨s, ?_, rfl⟩⟩, fun hw => ?_⟩
  · rw [handled_only]
    rfl
  · rw [handled_silent hs, countError_eq]
    exact ⟨rfl, rfl⟩
  · rw [handled_logged hs, countError_eq]
    exact ⟨rfl, slots_logError { s with mgmt := s.mgmt.counted h.err.cls } h.err h.preempted⟩
  · cases rest with
    | nil => exact absurd rfl hne
    | cons x t => exact ⟨rfl, rfl⟩
  · rw [hnil, hq]
    rfl
  · rw [hnil, hq]
    simp only [nextHandlers, takeNext_first hpre hpost, and_self]
  · rw [handled_only]
  · rw [exec_urEscalation, if_neg (by omega)]
  · subst hu
    have hsc : unitScope (urKey (unitName cl n)) = .none ∨ (∃ c, unitScope (urKey (unitName cl n)) = .channel c) ∨
        ∃ l d, unitScope (urKey (unitName cl n)) = .linkEnd l d :=
      .inr ((unitScope_cases _).resolve_left fun ⟨c, hc⟩ => hncl c hc)
    obtain ⟨hch, hle, honly⟩ := takeError_fatal (s := s.forgetUr (urKey (unitName cl n))) (e := escalation (unitName cl n)) le_rfl hrun hsc
    refine ⟨_, by rw [exec_urEscalation, if_pos h8], ?_⟩
    generalize State.takeError _ _ _ = t at *
    have hm : t.mgmt = ((s.forgetUr (urKey (unitName cl n))).suspendAll (escalation (unitName cl n)) (unitScope (urKey (unitName cl n)))).mgmt := by
      rw [honly]
    refine ⟨⟨_, congrArg Mgmt.running hm, rfl, rfl, rfl, rfl⟩, ?_, fun c hc => (hch c hc).1, fun l d hl => (hle l d hl).1, ?_⟩
    · rw [hm]
      exact find_del_same ..
    · rw [hm]
      exact honly
  · have hc : (!s.mgmt.storms.contains u) = true := by simpa using hno
    refine ⟨_, by rw [exec_ceStorm, if_pos ⟨hlt, hc⟩], ?_⟩
    exact ⟨rfl, rfl, rfl⟩
  · rw [exec_ceStorm, if_neg fun h => absurd h.1 (by omega)]
  · exact ⟨_, by rw [exec_stormWindowEnd, if_pos hw], rfl, rfl, rfl⟩

end Sys2Proof.Machine

namespace Sys2Proof.Machine

open Sys2Proof

/-! ### Addresses of words and lines in DRAM (R206, R207) -/

/-- Interleaving goes by 4 KiB: an address keeps its offset within. -/
theorem phys_mod (s : State) (a : Nat) : s.phys a % 4096 = a % 4096 := by
  unfold State.phys
  dsimp only
  split <;> simp only [bits] <;> omega

theorem phys_line (s : State) (l : Nat) : s.phys (128 * l) % 128 = 0 := by
  have := phys_mod s (128 * l)
  omega

theorem phys_word (s : State) {a : Nat} (h : a % 16 = 0) : s.phys a % 16 = 0 := by
  have := phys_mod s a
  omega

theorem wordsOf_word {a : Nat} (h : a % 16 = 0) : wordsOf a 16 = [a / 16] := by
  have hn : (a + 16 - 1) / 16 + 1 - a / 16 = 1 := by omega
  unfold wordsOf
  rw [if_neg (by decide), hn]
  rfl

theorem mem_wordsOf_line {a k : Nat} (h : a % 128 = 0) (hk : k < 8) : a / 16 + k ∈ wordsOf a 128 := by
  rw [Mem.mem_wordsOf]
  omega

/-! ### Corrected words (R252, R259) -/

namespace Mem

theorem fixWord_of_corrected {m : Mem} {w i e : Nat} (h : verdict (m.synAt w) = .corrected i e) :
    m.fixWord w = (m.setRaws (16 * w) (m.read (16 * w) 16)).setSyn w 0 := by
  unfold fixWord
  rw [h]

theorem fixWord_of_other {m : Mem} {w : Nat} (h : ∀ i e, verdict (m.synAt w) ≠ .corrected i e) : m.fixWord w = m := by
  unfold fixWord
  split
  · next he => exact absurd he (h _ _)
  · rfl

theorem synAt_setRaws (bs : List Byte) (m : Mem) (a w : Nat) : (m.setRaws a bs).synAt w = m.synAt w := by
  induction bs generalizing m a with
  | nil => rfl
  | cons b t ih => exact (ih ..).trans (synAt_setRaw ..)

/-- The delivered byte of a word depends on its stored byte and syndrome alone. -/
theorem byte_congr {m n : Mem} {a : Nat} (hr : m.raw a = n.raw a) (hs : m.synAt (a / 16) = n.synAt (a / 16)) : m.byte a = n.byte a := by
  unfold byte
  rw [hr, hs]

/-- A word written as it is delivered delivers what it did. -/
theorem byte_fixWord (m : Mem) (w a : Nat) : (m.fixWord w).byte a = m.byte a := by
  by_cases h : ∃ i e, verdict (m.synAt w) = .corrected i e
  · obtain ⟨i, e, h⟩ := h
    have hraw (x : Nat) : (m.fixWord w).raw x = if 16 * w ≤ x ∧ x < 16 * w + 16 then m.byte x else m.raw x := by
      rw [fixWord_of_corrected h, raw_setSyn, raw_setRaws]
      have hlen : (m.read (16 * w) 16).length = 16 := by simp [read]
      rw [hlen]
      by_cases hin : 16 * w ≤ x ∧ x < 16 * w + 16
      · rw [if_pos hin, if_pos hin, getD_read _ (by omega), Nat.add_sub_cancel' hin.1]
      · rw [if_neg hin, if_neg hin]
    have hsyn (x : Nat) : (m.fixWord w).synAt x = if x = w then 0 else m.synAt x := by
      rw [fixWord_of_corrected h, synAt_setSyn, synAt_setRaws]
    by_cases hx : a / 16 = w
    · rw [byte_of_clean (by rw [hsyn, if_pos hx, verdict_zero]), hraw, if_pos (by omega)]
    · exact byte_congr (by rw [hraw, if_neg (by omega)]) (by rw [hsyn, if_neg hx])
  · rw [fixWord_of_other fun i e he => h ⟨i, e, he⟩]

theorem synAt_fixWord_ne (m : Mem) {w x : Nat} (h : x ≠ w) : (m.fixWord w).synAt x = m.synAt x := by
  unfold fixWord
  split
  · rw [synAt_setSyn, if_neg h, synAt_setRaws]
  · rfl

theorem synAt_fixWord_corrected {m : Mem} {w i e : Nat} (h : verdict (m.synAt w) = .corrected i e) : (m.fixWord w).synAt w = 0 := by
  rw [fixWord_of_corrected h, synAt_setSyn, if_pos rfl]

theorem synAt_fixWord_zero {m : Mem} {x : Nat} (w : Nat) (h : m.synAt x = 0) : (m.fixWord w).synAt x = 0 := by
  by_cases hx : x = w
  · subst hx
    rw [fixWord_of_other (fun i e => by rw [h, verdict_zero]; exact nofun), h]
  · rw [synAt_fixWord_ne m hx, h]

theorem byte_fixWords (l : List Nat) (m : Mem) (a : Nat) : (l.foldl fixWord m).byte a = m.byte a :=
  foldl_proj (g := fun m : Mem => m.byte a) l m fun m w => byte_fixWord m w a

/-- A word corrected among others has no syndrome left. -/
theorem synAt_fixWords {l : List Nat} {m : Mem} {x i e : Nat} (hx : x ∈ l) (h : verdict (m.synAt x) = .corrected i e) :
    (l.foldl fixWord m).synAt x = 0 := by
  induction l generalizing m with
  | nil => cases hx
  | cons w t ih =>
    rw [List.foldl_cons]
    by_cases hw : x = w
    · subst hw
      exact foldl_inv (p := fun u : Mem => u.synAt x = 0) t _ (synAt_fixWord_corrected h) fun u w _ hu => synAt_fixWord_zero w hu
    · exact ih ((List.mem_cons.1 hx).resolve_left hw) (by rw [synAt_fixWord_ne m hw, h])

end Mem

end Sys2Proof.Machine

namespace Sys2Proof.Machine

open Sys2Proof

/-! ### A channel takes a write (R252, R282, R384) -/

/-- The bytes of a word that a line's mask gives, from a store at the line's addresses. -/
def maskedWord (src : Mem) (l : Nat) (mask : BitVec 128) (w : Nat) : List (Option Byte) :=
  (List.range 16).map fun i => if mask.getLsbD (16 * w + i) then some (src.byte (128 * l + 16 * w + i)) else none

theorem length_maskedWord (src : Mem) (l : Nat) (mask : BitVec 128) (w : Nat) : (maskedWord src l mask w).length = 16 := by
  simp [maskedWord]

theorem getElem?_maskedWord (src : Mem) (l : Nat) (mask : BitVec 128) (i : Nat) :
    (maskedWord src l mask (i / 16))[i % 16]? = some (if mask.getLsbD i then some (src.byte (128 * l + i)) else none) := by
  have h1 : 16 * (i / 16) + i % 16 = i := Nat.div_add_mod i 16
  have h2 : 128 * l + 16 * (i / 16) + i % 16 = 128 * l + i := by omega
  rw [maskedWord, List.getElem?_map, List.getElem?_range (by omega), Option.map_some, h1, h2]

/-- Bit i of the part of a mask that concerns word w. -/
theorem mask_bit (mask : BitVec 128) (w : Nat) {i : Nat} (hi : i < 16) :
    mask.toNat / 2 ^ (16 * w) % 65536 / 2 ^ i % 2 = 1 ↔ mask.getLsbD (16 * w + i) = true := by
  have h : (mask.toNat / 2 ^ (16 * w) % 2 ^ 16).testBit i = mask.getLsbD (16 * w + i) := by
    rw [Nat.testBit_mod_two_pow, Nat.testBit_div_two_pow, BitVec.getLsbD, Nat.add_comm i]
    simp [hi]
  rw [← h, Nat.testBit_eq_decide_div_mod_eq]
  simp

/-- A channel merges each word of a source without syndromes by the bytes that the mask gives; a word with none stays. -/
theorem mergeWord_masked {src : Mem} (hs : src.plain) (m : Mem) (x l w : Nat) (mask : BitVec 128) :
    (let mk := mask.toNat / 2 ^ (16 * w) % 65536
     let k := 8 * l + w
     if mk = 0 then m
     else if src.anyPoison (16 * k) 16 || src.anyBad (16 * k) 16 then m.poisonWord x
     else m.mergeWord x ((List.range 16).map fun i => if mk / 2 ^ i % 2 = 1 then some (src.byte (16 * k + i)) else none)) =
      m.mergeWord x (maskedWord src l mask w) := by
  have hk : 16 * (8 * l + w) = 128 * l + 16 * w := by omega
  have hbytes : ((List.range 16).map fun i => if mask.toNat / 2 ^ (16 * w) % 65536 / 2 ^ i % 2 = 1
      then some (src.byte (16 * (8 * l + w) + i)) else none) = maskedWord src l mask w := by
    refine List.map_congr_left fun i hi => ?_
    rw [hk]
    exact if_congr (mask_bit mask w (List.mem_range.1 hi)) rfl rfl
  dsimp only
  rw [hbytes, Mem.anyPoison_plain hs, Mem.anyBad_plain hs]
  split
  · next h0 =>
    have hnone : (maskedWord src l mask w).all (fun b => b.isNone) = true := by
      rw [← hbytes, h0]
      simp
    rw [Mem.mergeWord, if_pos hnone]
  · rfl

/-- A store whose line at p is merged, word by word, with what a mask gives of a source's line l. -/
def Mem.mergeLine (m src : Mem) (p l : Nat) (mask : BitVec 128) : Mem :=
  ((List.range 8).map (p / 16 + ·)).foldl (fun m x => m.mergeWord x (maskedWord src l mask (x - p / 16))) m

theorem mergeLine_plain {m src : Mem} (hm : m.plain) {p : Nat} (hp : p % 128 = 0) (l : Nat) (mask : BitVec 128) :
    (m.mergeLine src p l mask).plain ∧
    (∀ i, i < 128 → (m.mergeLine src p l mask).raw (p + i) = if mask.getLsbD i = true then src.byte (128 * l + i) else m.raw (p + i)) ∧
    ∀ a, ¬(p ≤ a ∧ a < p + 128) → (m.mergeLine src p l mask).raw a = m.raw a := by
  unfold Mem.mergeLine
  obtain ⟨hplain, hraw⟩ := Mem.mergeWords_plain (fun x => maskedWord src l mask (x - p / 16)) (fun _ => length_maskedWord ..)
    ((List.range 8).map (p / 16 + ·)) (List.nodup_range.map fun _ _ h => Nat.add_left_cancel h) hm
  have hmem (x : Nat) : x / 16 ∈ (List.range 8).map (p / 16 + ·) ↔ p ≤ x ∧ x < p + 128 := by
    rw [List.mem_map]
    constructor
    · rintro ⟨w, hw, he⟩
      rw [List.mem_range] at hw
      omega
    · rintro ⟨h1, h2⟩
      exact ⟨x / 16 - p / 16, by rw [List.mem_range]; omega, by omega⟩
  refine ⟨hplain, fun i hi => ?_, fun a ha => ?_⟩
  · have h1 : (p + i) / 16 - p / 16 = i / 16 := by omega
    have h2 : (p + i) % 16 = i % 16 := by omega
    rw [hraw, if_pos ((hmem _).2 (by omega)), h1, h2, getElem?_maskedWord src l mask i]
    cases mask.getLsbD i <;> rfl
  · rw [hraw, if_neg fun h => ha ((hmem a).1 h)]

/-- Noting a write changes what is known to be touched, which lies in DRAM's part of the state. -/
theorem note_frame (s : State) (l : Nat) : s.note l = { s with dram := { s.dram with touched := (s.note l).dram.touched } } := by
  unfold State.note
  dsimp only
  split <;> rfl

/-- The reports of a channel that merges words of a line in part (R253, R256). -/
def State.partErrors (s : State) (l : Nat) (mask : BitVec 128) : State :=
  let p := s.phys (128 * l)
  (List.range 8).foldl (fun s w =>
    let mk := mask.toNat / 2 ^ (16 * w) % 65536
    if mk = 0 ∨ mk = 65535 then s
    else s.wordErrors s.dram.mem (p + 16 * w) (128 * l + 16 * w) 16 0x06 (chanUnit p) (s.ownerOf (128 * l)) 1) s

theorem partErrors_only (s : State) (l : Nat) (mask : BitVec 128) : s.partErrors l mask = { s with mgmt := (s.partErrors l mask).mgmt } := by
  refine foldl_mgmt _ _ (fun u w => ?_) s
  dsimp only
  split
  · rfl
  · exact wordErrors_only ..

theorem partErrors_plain {s : State} (h : s.dram.mem.plain) (l : Nat) (mask : BitVec 128) : s.partErrors l mask = s := by
  refine foldl_inv (p := fun u : State => u = s) _ s rfl fun u w _ hu => ?_
  subst hu
  dsimp only
  rw [wordErrors_plain h, ite_self]

/-- A channel takes a line's bytes into DRAM and leaves every other one (R384). -/
theorem chanWrite_plainStores {s : State} {src : Mem} (hm : s.dram.mem.plain) (hs : src.plain) (l : Nat) (mask : BitVec 128) :
    s.chanWrite src l mask = (s.setDram (s.dram.mem.mergeLine src (s.phys (128 * l)) l mask)).note l := by
  have hfold := mergeWord_masked hs
  have h : s.chanWrite src l mask = ((s.partErrors l mask).setDram ((List.range 8).foldl (fun m w =>
      m.mergeWord (s.phys (128 * l) / 16 + w) (maskedWord src l mask w)) (s.partErrors l mask).dram.mem)).note l := by
    unfold State.chanWrite
    dsimp only at hfold ⊢
    simp only [hfold]
    rfl
  rw [h, partErrors_plain hm, Mem.mergeLine, List.foldl_map]
  simp only [Nat.add_sub_cancel_left]

/-- What a channel does to take a write: words, notes and reports; its queues and scrubbers stay. -/
theorem chanTake_frame (s : State) (src : Mem) (l : Nat) (mask : BitVec 128) : s.chanTake src l mask = { s with
    mgmt := (s.chanTake src l mask).mgmt
    dram := { s.dram with mem := (s.chanTake src l mask).dram.mem, touched := (s.chanTake src l mask).dram.touched
                          discards := (s.chanTake src l mask).dram.discards } } := by
  unfold State.chanTake
  split
  · rfl
  · obtain ⟨r, hr⟩ : ∃ r, s.chanWrite src l mask = ((s.partErrors l mask).setDram r).note l := ⟨_, rfl⟩
    rw [hr, note_frame, partErrors_only]
    rfl

theorem takeWrite_frame (s : State) (q : WReq) : s.takeWrite q = { s with
    mgmt := (s.takeWrite q).mgmt
    dram := { s.dram with mem := (s.takeWrite q).dram.mem, touched := (s.takeWrite q).dram.touched
                          discards := (s.takeWrite q).dram.discards, wacks := s.dram.wacks ++ [q] } } := by
  unfold State.takeWrite
  dsimp only
  rw [chanTake_frame]

/-! ### The oldest write is accepted (R183, R259, R384) -/

/-- The state once a write has left the queue of those on their way. -/
def State.unqueue (s : State) (q : WReq) : State := { s with dram := { s.dram with wq := s.dram.wq.erase q } }

section
variable {s : State} (hp : s.power.tripped = false)
include hp

section
variable {q : WReq} (hq : s.dram.wq.find? s.writeMay = some q)
include hq

theorem exec_dramWriteAccept : exec .dramWriteAccept s = .next (
    if s.chanDown q.line then (s.unqueue q).discardWrite q
    else if s.lineHeld q.line then
      (s.unqueue q).setScrubber (s.lineChan q.line)
        { s.scrubber (s.lineChan q.line) with pendWrites := (s.scrubber (s.lineChan q.line)).pendWrites ++ [q] }
    else (s.unqueue q).takeWrite q) := by
  change execDramWriteAccept s = _
  unfold execDramWriteAccept
  rw [hp, if_neg (by decide), hq]
  rfl

theorem dramWriteAccept_taken (hd : s.chanDown q.line = false) (hh : s.lineHeld q.line = false) :
    exec .dramWriteAccept s = .next ((s.unqueue q).takeWrite q) := by
  rw [exec_dramWriteAccept hp hq, hd, hh]
  rfl

theorem dramWriteAccept_discarded (hd : s.chanDown q.line = true) : exec .dramWriteAccept s = .next ((s.unqueue q).discardWrite q) := by
  rw [exec_dramWriteAccept hp hq, hd, if_pos rfl]

theorem dramWriteAccept_held (hd : s.chanDown q.line = false) (hh : s.lineHeld q.line = true) : exec .dramWriteAccept s = .next (
    (s.unqueue q).setScrubber (s.lineChan q.line)
      { s.scrubber (s.lineChan q.line) with pendWrites := (s.scrubber (s.lineChan q.line)).pendWrites ++ [q] }) := by
  rw [exec_dramWriteAccept hp hq, hd, hh]
  rfl

end
end

end Sys2Proof.Machine

namespace Sys2Proof.Machine

open Sys2Proof

/-! ### What becomes of the accepted write, and its acceptance (R183, R189, R384) -/

section
variable {s : State}

theorem chanTake_up {src : Mem} {l : Nat} (hd : s.chanDown l = false) (hm : s.dram.mem.plain) (hs : src.plain) (mask : BitVec 128) :
    s.chanTake src l mask = (s.setDram (s.dram.mem.mergeLine src (s.phys (128 * l)) l mask)).note l := by
  unfold State.chanTake
  rw [hd, if_neg (by decide), chanWrite_plainStores hm hs]

theorem note_setDram (s : State) (m : Mem) (l : Nat) : ∃ x, (s.setDram m).note l = { s with dram := { s.dram with mem := m, touched := x } } :=
  ⟨_, note_frame ..⟩

theorem takeWrite_of_chanTake {q : WReq} {m : Mem} {x : SMap (BitVec 4)}
    (h : s.chanTake q.data q.line q.mask = { s with dram := { s.dram with mem := m, touched := x } }) :
    s.takeWrite q = { s with dram := { s.dram with mem := m, touched := x, wacks := s.dram.wacks ++ [q] } } := by
  unfold State.takeWrite
  rw [h]

/-- A write taken without syndromes puts its bytes into DRAM, and its acceptance goes on its way. -/
theorem takeWrite_up {q : WReq} (hd : s.chanDown q.line = false) (hm : s.dram.mem.plain) (hs : q.data.plain) :
    ∃ m x, s.takeWrite q = { s with dram := { s.dram with mem := m, touched := x, wacks := s.dram.wacks ++ [q] } } ∧
      (∀ i, i < 128 → m.byte (s.phys (128 * q.line) + i) =
        if q.mask.getLsbD i = true then q.data.byte (128 * q.line + i) else s.dram.mem.byte (s.phys (128 * q.line) + i)) ∧
      ∀ a, ¬(s.phys (128 * q.line) ≤ a ∧ a < s.phys (128 * q.line) + 128) → m.byte a = s.dram.mem.byte a := by
  obtain ⟨x, hx⟩ := note_setDram s (s.dram.mem.mergeLine q.data (s.phys (128 * q.line)) q.line q.mask) q.line
  obtain ⟨hplain, hin, hout⟩ := mergeLine_plain (src := q.data) hm (phys_line s q.line) q.line q.mask
  refine ⟨_, x, takeWrite_of_chanTake ((chanTake_up hd hm hs q.mask).trans hx), fun i hi => ?_, fun a ha => ?_⟩
  · rw [Mem.byte_plain hplain, hin i hi, Mem.byte_plain hm]
  · rw [Mem.byte_plain hplain, hout a ha, Mem.byte_plain hm]

theorem takeWrite_down {q : WReq} (hd : s.chanDown q.line = true) : s.takeWrite q = { s with
    dram := { s.dram with discards := s.dram.discards + 1, wacks := s.dram.wacks ++ [q] } } := by
  unfold State.takeWrite State.chanTake
  rw [if_pos hd]

theorem discardWrite_writeBack {q : WReq} {cl : Cl} {l : Nat} (h : q.writer = .writeBack cl l) : s.discardWrite q = s.takeWrite q := by
  unfold State.discardWrite
  rw [h]

/-- The state once a write for a failed channel has been counted (R183). -/
def State.countDiscard (s : State) : State := { s with dram := { s.dram with discards := s.dram.discards + 1 } }

theorem discardWrite_ring_head {q : WReq} {cl : Cl} {n : Rn} (h : q.writer = .ring cl n (s.ring cl n.val).head.toNat) :
    s.discardWrite q = s.countDiscard.ringBusError cl n.val (128 * q.line) 5 := by
  unfold State.discardWrite
  rw [h]
  exact if_pos rfl

theorem discardWrite_ring_other {q : WReq} {cl : Cl} {n : Rn} {num : Nat} (h : q.writer = .ring cl n num)
    (hne : num ≠ (s.ring cl n.val).head.toNat) : s.discardWrite q = s.countDiscard := by
  unfold State.discardWrite
  rw [h]
  exact if_neg hne

/-- A bus error of a ring changes the ring, its cluster's events and the reports, and no other ring. -/
theorem ringBusError_leaves {cl : Cl} {n : Rn} (h : (s.ring cl n.val).HaltsAlone 2) {status : Nat} (hs : status ≠ 1) (addr : Nat) :
    (s.ringBusError cl n.val addr status).dram = s.dram ∧
      ∀ cl' (n' : Rn), ¬(cl' = cl ∧ n' = n) → (s.ringBusError cl n.val addr status).ring cl' n'.val = s.ring cl' n'.val := by
  unfold State.ringBusError
  rw [if_neg hs]
  obtain ⟨-, hothers, -, hframe⟩ := haltRing_leaves (s := s.refusal (unitName cl (0x20 + n.val)) (s.clPart cl) addr status) h
    (addr % 2 ^ 39 / 128 * 128) status
  refine ⟨?_, fun cl' n' hne => hothers n.isLt cl' n'.val n'.isLt fun ⟨hcl, hn⟩ => hne ⟨hcl, Fin.ext hn⟩⟩
  dsimp only
  rw [hframe]
  rfl

/-- An acceptance that arrives makes a line clean unless it has been written again. -/
theorem ackWrite_writeBack (s : State) (cl : Cl) (l : Nat) : let t := s.ackWrite (.writeBack cl l)
    (t.clu cl).ccLines = (s.clu cl).ccLines.erase l ∧
    (∀ e, (s.clu cl).cache.line l = some e → e.wb = true →
      (t.clu cl).cache.line l = some { e with wb := false, dirty := e.again, again := false }) ∧
    t = { s with clusters := t.clusters } := by
  unfold State.ackWrite
  dsimp only
  rw [State.clu_setClu]
  refine ⟨rfl, fun e he hwb => ?_, rfl⟩
  have hfind : find (s.clu cl).cache.lines l = some e := he
  unfold Cache.line
  simp only [hfind, hwb, if_true]
  exact find_ins_same ..

theorem ackWrite_ring_head {cl : Cl} {n : Rn} {num : Nat} (h : num = (s.ring cl n.val).head.toNat) : s.ackWrite (.ring cl n num) =
    s.setRing cl n.val { s.ring cl n.val with wtOut := (s.ring cl n.val).wtOut.drop 1 } := if_pos h

theorem ackWrite_ring_other {cl : Cl} {n : Rn} {num : Nat} (h : num ≠ (s.ring cl n.val).head.toNat) : s.ackWrite (.ring cl n num) = s :=
  if_neg h

theorem exec_writeAcceptResponse (hp : s.power.tripped = false) {q : WReq} {rest : List WReq} (hw : s.dram.wacks = q :: rest) :
    exec .writeAcceptResponse s = .next (State.ackWrite { s with dram := { s.dram with wacks := rest } } q.writer) := by
  change execWriteAcceptResponse s = _
  unfold execWriteAcceptResponse
  rw [hp, if_neg (by decide), hw]

/-! ### A channel serves a read of a word (R252, R259) -/

theorem exec_dramRead (hp : s.power.tripped = false) {a : Nat} (ha : isDram a = true) (h16 : a % 16 = 0) : exec (.dramRead a) s = .next (
    if s.lineHeld (lineOf a) then { s with dram := { s.dram with lastVerdict := 4 } }
    else
      let x := s.chanRead a 16 (s.ownerOf a) 1
      if x.2.2 = 5 then { s with dram := { s.dram with lastVerdict := 5 } }
      else { x.1 with dram := { x.1.dram with lastRead := BitVec.ofNat 128 (leNat (x.2.1.read a 16))
                                              lastVerdict := verdictCode (s.dram.mem.synAt (s.phys a / 16)) } }) := by
  have he : a / 16 * 16 = a := Nat.div_mul_cancel (Nat.dvd_of_mod_eq_zero h16)
  change execDramRead a s = _
  unfold execDramRead
  rw [if_neg (by simp [ha, hp])]
  simp only [he]

/-- A channel that is up delivers a word of a store without syndromes. -/
theorem chanRead_clean {a : Nat} (hh : s.lineHeld (lineOf a) = false) (hd : s.chanDown (lineOf a) = false) (hm : s.dram.mem.plain)
    (n part cls : Nat) : s.chanRead a n part cls = (s, Mem.empty.copyFrom s.dram.mem a (s.phys a) n, 0) := by
  unfold State.chanRead
  simp only [hh, hd, Mem.anyBad_plain hm, Mem.anyPoison_plain hm, wordErrors_plain hm, Bool.or_self, Bool.false_eq_true, if_false]

theorem chanRead_failed {a : Nat} (hd : s.chanDown (lineOf a) = true) (n part cls : Nat) :
    s.chanRead a n part cls = (s, Mem.empty, 5) := if_pos hd

/-- An uncorrectable word that is read is reported, and becomes poison (R252). -/
theorem chanRead_bad {a : Nat} (hh : s.lineHeld (lineOf a) = false) (hd : s.chanDown (lineOf a) = false) (h16 : a % 16 = 0)
    (hv : verdict (s.dram.mem.synAt (s.phys a / 16)) = .uncorrectable) (part cls : Nat) :
    ∃ e data, e.cls = cls ∧ e.addr = a ∧ s.chanRead a 16 part cls =
      ((State.setDram (s.raise e .none) (s.dram.mem.poisonWord (s.phys a / 16))).note (lineOf a), data, 1) := by
  have hw : wordsOf (s.phys a) 16 = [s.phys a / 16] := wordsOf_word (phys_word s h16)
  have hbad : s.dram.mem.anyBad (s.phys a) 16 = true := by
    rw [Mem.anyBad, hw]
    simp [hv]
  have hsettle : s.dram.mem.settleBad (s.phys a) 16 = s.dram.mem.poisonWord (s.phys a / 16) := by
    rw [Mem.settleBad, hw, List.foldl_cons, List.foldl_nil, if_pos hv]
  have haddr : a / 16 * 16 + 16 * (s.phys a / 16 - s.phys a / 16) = a := by omega
  obtain ⟨e, hcls, hea, he⟩ : ∃ e : ErrIn, e.cls = cls ∧ e.addr = a ∧
      s.wordErrors s.dram.mem (s.phys a) a 16 0x01 (chanUnit (s.phys a)) part cls = s.raise e .none := by
    unfold State.wordErrors
    rw [hw]
    simp only [List.foldl_cons, List.foldl_nil, hv]
    exact ⟨_, rfl, haddr, rfl⟩
  refine ⟨e, (s.chanRead a 16 part cls).2.1, hcls, hea, ?_⟩
  unfold State.chanRead
  simp only [hh, hd, he, hbad, hsettle, Bool.true_or, Bool.false_eq_true, if_false, if_true]

end

end Sys2Proof.Machine

namespace Sys2Proof.Machine

open Sys2Proof

/-! ### A scrubber reads its line (R258, R259, R279) -/

/-- A fold in which all elements but one do nothing is the step of that one. -/
theorem foldl_only {α β : Type} {f : β → α → β} {l : List α} {a : α} (ha : a ∈ l) (hl : l.Nodup) (h : ∀ b x, x ∈ l → x ≠ a → f b x = b) (b : β) :
    l.foldl f b = f b a := by
  obtain ⟨pre, post, rfl⟩ := List.append_of_mem ha
  have hd := List.nodup_append.1 hl
  have hpre (b : β) : pre.foldl f b = b := foldl_inv (p := (· = b)) pre b rfl fun u x hx hu =>
    (h u x (List.mem_append_left _ hx) (hd.2.2 x hx a List.mem_cons_self)).trans hu
  have hpost (b : β) : post.foldl f b = b := foldl_inv (p := (· = b)) post b rfl fun u x hx hu =>
    (h u x (List.mem_append_right _ (List.mem_cons_of_mem _ hx)) fun he => (List.nodup_cons.1 hd.2.1).1 (he ▸ hx)).trans hu
  rw [List.foldl_append, hpre, List.foldl_cons, hpost]

/-- Where a channel's scrubber stands. -/
def State.scrubBase (s : State) (ch : Ch) : Nat := ch.val * 2 ^ 33 + (s.scrubber ch.val).pos

/-- The words that a scrubber reads at once. -/
def scrubWords (base : Nat) : List Nat := (List.range 8).map (base / 16 + ·)

theorem mem_scrubWords {base w : Nat} : w ∈ scrubWords base ↔ ∃ k, k < 8 ∧ base / 16 + k = w := by
  simp [scrubWords]

theorem scrubWords_nodup (base : Nat) : (scrubWords base).Nodup := List.nodup_range.map fun _ _ h => Nat.add_left_cancel h

/-- What a scrubber does on a word, where the line held `m` as it was read. -/
def State.scrubWord (m : Mem) (s : State) (w : Nat) : State :=
  match verdict (m.synAt w) with
  | .corrected sym _ => s.raise (scrubErr s (16 * w) 0 (m.synAt w).toNat sym) .none
  | .uncorrectable => (s.setDram (s.dram.mem.poisonWord w)).raise (scrubErr s (16 * w) 1 (m.synAt w).toNat 0xFF) .none
  | .poisoned => { s with dram := { s.dram with poisonSeen := s.dram.poisonSeen + 1 } }
  | .clean => s

/-- Whether a scrubber that stands at a base is at the last line of its channel. -/
def Scrub.last (v : Scrub) : Bool := decide (chanBytes ≤ v.pos + 128)

/-- A scrubber goes on to its next line, or holds the one it read for the correction write. -/
def State.scrubOn (s u : State) (ch : Ch) : State :=
  let v := s.scrubber ch.val
  u.setScrubber ch.val { v with
    pos := if v.last then 0 else v.pos + 128
    held := if (scrubWords (s.scrubBase ch)).any fun w => verdictCode (s.dram.mem.synAt w) = 1 then some (lineOf (u.devAddr (s.scrubBase ch))) else none }

/-- The end of a scrubber's read: poison changes what protects the owner, and the end of a channel counts a pass. -/
def State.scrubEnd (s u : State) (ch : Ch) : State :=
  let p := u.ownerOf (u.devAddr (s.scrubBase ch))
  let u := if p < 16 ∧ (scrubWords (s.scrubBase ch)).any fun w => decide (2 ≤ verdictCode (s.dram.mem.synAt w)) then u.reprotect p else u
  if (s.scrubber ch.val).last then { u with dram := { u.dram with scrubPasses := sat32 u.dram.scrubPasses 1 } } else u

theorem exec_scrubLine {s : State} {ch : Ch} (hp : s.power.tripped = false) (hn : (s.scrubber ch.val).held = none) :
    exec (.scrubLine ch) s =
      .next (s.scrubEnd (s.scrubOn ((scrubWords (s.scrubBase ch)).foldl (State.scrubWord s.dram.mem) s) ch) ch) := by
  change execScrubLine ch s = _
  unfold execScrubLine
  dsimp only
  rw [if_neg (by simp [hn, hp])]
  rfl

theorem inbox_reprotect (s : State) (p : Nat) : (s.reprotect p).mgmt.inbox = s.mgmt.inbox := by
  unfold State.reprotect
  dsimp only
  split
  · rfl
  · rw [State.logEvent_mgmt_inbox, hostEv_only]
    rfl

theorem dram_reprotect (s : State) (p : Nat) : (s.reprotect p).dram = s.dram := by rw [reprotect_only]

section
variable (s u : State) (ch : Ch)

/-- A pass is counted at the end of the channel; otherwise DRAM is as the scrubber left it. -/
theorem scrubEnd_dram : (s.scrubEnd u ch).dram =
    { u.dram with scrubPasses := if (s.scrubber ch.val).last then sat32 u.dram.scrubPasses 1 else u.dram.scrubPasses } := by
  unfold State.scrubEnd
  dsimp only
  generalize u.ownerOf _ = p
  split
  · split
    · dsimp only
      rw [dram_reprotect]
    · rfl
  · split
    · exact dram_reprotect ..
    · rfl

theorem scrubEnd_inbox : (s.scrubEnd u ch).mgmt.inbox = u.mgmt.inbox := by
  unfold State.scrubEnd
  dsimp only
  generalize u.ownerOf _ = p
  split <;> split
  · exact inbox_reprotect ..
  · rfl
  · exact inbox_reprotect ..
  · rfl

/-- Without poison in the line nothing is told. -/
theorem scrubEnd_mgmt (h : ∀ w ∈ scrubWords (s.scrubBase ch), verdictCode (s.dram.mem.synAt w) < 2) : (s.scrubEnd u ch).mgmt = u.mgmt := by
  have hno : ¬((scrubWords (s.scrubBase ch)).any fun w => decide (2 ≤ verdictCode (s.dram.mem.synAt w))) = true := by
    simpa using fun w hw => h w hw
  unfold State.scrubEnd
  dsimp only
  generalize u.ownerOf _ = p
  have hskip : ¬(p < 16 ∧ ((scrubWords (s.scrubBase ch)).any fun w => decide (2 ≤ verdictCode (s.dram.mem.synAt w))) = true) := fun h => hno h.2
  rw [if_neg hskip]
  split <;> rfl

end

end Sys2Proof.Machine

namespace Sys2Proof.Machine

open Sys2Proof

section
variable {s : State} {ch : Ch}

theorem scrubber_setScrubber (s : State) (c : Nat) (v : Scrub) : (s.setScrubber c v).scrubber c = v := look_put_same ..

theorem verdictCode_zero : verdictCode 0 = 0 := by decide

theorem scrubber_scrubEnd (s u : State) (ch : Ch) : (s.scrubEnd u ch).scrubber ch.val = u.scrubber ch.val :=
  congrArg (fun m => look (⟨0, none, []⟩ : Scrub) m ch.val) (congrArg DramSt.scrub (scrubEnd_dram s u ch) :)

/-- What the read of a line leaves, where `u` is the state once its words have been acted on. -/
theorem scrubEnd_scrubOn (s u : State) (ch : Ch) : let t := s.scrubEnd (s.scrubOn u ch) ch
    (t.scrubber ch.val).pos = (if (s.scrubber ch.val).last then 0 else (s.scrubber ch.val).pos + 128) ∧
    (t.scrubber ch.val).held = (if (scrubWords (s.scrubBase ch)).any fun w => verdictCode (s.dram.mem.synAt w) = 1
      then some (lineOf (u.devAddr (s.scrubBase ch))) else none) ∧
    t.dram.mem = u.dram.mem ∧
    t.dram.scrubPasses = (if (s.scrubber ch.val).last then sat32 u.dram.scrubPasses 1 else u.dram.scrubPasses) ∧
    t.mgmt.inbox = u.mgmt.inbox := by
  dsimp only
  rw [scrubber_scrubEnd, scrubEnd_dram, scrubEnd_inbox, State.scrubOn, scrubber_setScrubber]
  exact ⟨rfl, rfl, rfl, rfl, rfl⟩

/-- A line of clean words is passed over. -/
theorem scrubFound_clean (h : ∀ w ∈ scrubWords (s.scrubBase ch), s.dram.mem.synAt w = 0) :
    (scrubWords (s.scrubBase ch)).foldl (State.scrubWord s.dram.mem) s = s :=
  foldl_inv (p := (· = s)) _ s rfl fun u w hw hu => by rw [State.scrubWord, h w hw, Mem.verdict_zero, hu]

theorem scrubWord_corrected {m : Mem} {w sym wr : Nat} (h : verdict (m.synAt w) = .corrected sym wr) :
    s.scrubWord m w = s.raise (scrubErr s (16 * w) 0 (m.synAt w).toNat sym) .none := by
  rw [State.scrubWord, h]

theorem scrubWord_uncorrectable {m : Mem} {w : Nat} (h : verdict (m.synAt w) = .uncorrectable) :
    s.scrubWord m w = (s.setDram (s.dram.mem.poisonWord w)).raise (scrubErr s (16 * w) 1 (m.synAt w).toNat 0xFF) .none := by
  rw [State.scrubWord, h]

theorem verdictCode_corrected {syn : BitVec 16} {sym wr : Nat} (h : verdict syn = .corrected sym wr) : verdictCode syn = 1 := by
  rw [verdictCode, h]

theorem verdictCode_uncorrectable {syn : BitVec 16} (h : verdict syn = .uncorrectable) : verdictCode syn = 3 := by
  rw [verdictCode, h]

/-- A line without a corrected word is not held. -/
theorem scrub_no_fix (h : ∀ w ∈ scrubWords (s.scrubBase ch), verdictCode (s.dram.mem.synAt w) ≠ 1) :
    ((scrubWords (s.scrubBase ch)).any fun w => verdictCode (s.dram.mem.synAt w) = 1) = false := by
  simpa using h

/-- A line with a corrected word is held. -/
theorem scrub_fix {w : Nat} (hw : w ∈ scrubWords (s.scrubBase ch)) (h : verdictCode (s.dram.mem.synAt w) = 1) :
    ((scrubWords (s.scrubBase ch)).any fun w => verdictCode (s.dram.mem.synAt w) = 1) = true :=
  List.any_eq_true.2 ⟨w, hw, decide_eq_true h⟩

/-- The clean words of a line beside one that a scrubber acts on. -/
def State.CleanBeside (s : State) (ch : Ch) (k : Nat) : Prop := ∀ j, j < 8 → j ≠ k → s.dram.mem.synAt (s.scrubBase ch / 16 + j) = 0

theorem scrubFound_at {k : Nat} (hk : k < 8) (h : s.CleanBeside ch k) :
    (scrubWords (s.scrubBase ch)).foldl (State.scrubWord s.dram.mem) s = s.scrubWord s.dram.mem (s.scrubBase ch / 16 + k) := by
  refine foldl_only (mem_scrubWords.2 ⟨k, hk, rfl⟩) (scrubWords_nodup _) (fun u x hx hne => ?_) s
  obtain ⟨j, hj, rfl⟩ := mem_scrubWords.1 hx
  rw [State.scrubWord, h j hj fun he => hne (by rw [he]), Mem.verdict_zero]

/-- A corrected word is reported, and its line is held for the correction write (R259). -/
theorem scrubLine_corrected (hp : s.power.tripped = false) (hn : (s.scrubber ch.val).held = none) {k : Nat} (hk : k < 8) (h : s.CleanBeside ch k)
    {sym wr : Nat} (hv : verdict (s.dram.mem.synAt (s.scrubBase ch / 16 + k)) = .corrected sym wr) : Done (.scrubLine ch) s fun t =>
      (t.scrubber ch.val).held = some (lineOf (s.devAddr (s.scrubBase ch))) ∧ t.dram.mem = s.dram.mem ∧
      ∃ e, t.mgmt.inbox = s.mgmt.inbox ++ [e] ∧ e.1.source = 2 ∧ e.1.cls = 0 ∧ e.1.symbol = sym := by
  refine ⟨_, exec_scrubLine hp hn, ?_⟩
  rw [scrubFound_at hk h, scrubWord_corrected hv]
  obtain ⟨-, hheld, hmem, -, hbox⟩ := scrubEnd_scrubOn s
    (s.raise (scrubErr s (16 * (s.scrubBase ch / 16 + k)) 0 (s.dram.mem.synAt (s.scrubBase ch / 16 + k)).toNat sym) .none) ch
  rw [scrub_fix (mem_scrubWords.2 ⟨k, hk, rfl⟩) (verdictCode_corrected hv)] at hheld
  exact ⟨hheld, hmem, _, hbox, rfl, rfl, rfl⟩

/-- An uncorrectable word is reported and becomes poison, and the line is not held. -/
theorem scrubLine_uncorrectable (hp : s.power.tripped = false) (hn : (s.scrubber ch.val).held = none) {k : Nat} (hk : k < 8) (h : s.CleanBeside ch k)
    (hv : verdict (s.dram.mem.synAt (s.scrubBase ch / 16 + k)) = .uncorrectable) : Done (.scrubLine ch) s fun t =>
      (t.scrubber ch.val).held = none ∧ t.dram.mem = s.dram.mem.poisonWord (s.scrubBase ch / 16 + k) ∧
      ∃ e, t.mgmt.inbox = s.mgmt.inbox ++ [e] ∧ e.1.source = 2 ∧ e.1.cls = 1 := by
  have hno : ∀ w ∈ scrubWords (s.scrubBase ch), verdictCode (s.dram.mem.synAt w) ≠ 1 := fun w hw => by
    obtain ⟨j, hj, rfl⟩ := mem_scrubWords.1 hw
    by_cases hjk : j = k
    · rw [hjk, verdictCode_uncorrectable hv]
      decide
    · rw [h j hj hjk, verdictCode_zero]
      decide
  refine ⟨_, exec_scrubLine hp hn, ?_⟩
  rw [scrubFound_at hk h, scrubWord_uncorrectable hv]
  generalize s.dram.mem.poisonWord (s.scrubBase ch / 16 + k) = m
  generalize he : scrubErr s _ 1 _ 0xFF = e
  have hcls : e.source = 2 ∧ e.cls = 1 := by rw [← he]; exact ⟨rfl, rfl⟩
  obtain ⟨-, hheld, hmem, -, hbox⟩ := scrubEnd_scrubOn s ((s.setDram m).raise e .none) ch
  rw [scrub_no_fix hno] at hheld
  exact ⟨hheld, hmem, _, hbox, hcls⟩

/-- A clean line is passed over, and the end of the channel counts a pass (R258). -/
theorem scrubLine_clean (hp : s.power.tripped = false) (hn : (s.scrubber ch.val).held = none)
    (h : ∀ k, k < 8 → s.dram.mem.synAt (s.scrubBase ch / 16 + k) = 0) : Done (.scrubLine ch) s fun t =>
      (t.scrubber ch.val).held = none ∧ t.dram.mem = s.dram.mem ∧ t.mgmt = s.mgmt ∧
      ((s.scrubber ch.val).pos + 128 < chanBytes → (t.scrubber ch.val).pos = (s.scrubber ch.val).pos + 128 ∧ t.dram.scrubPasses = s.dram.scrubPasses) ∧
      (chanBytes ≤ (s.scrubber ch.val).pos + 128 → (t.scrubber ch.val).pos = 0 ∧ t.dram.scrubPasses = min (s.dram.scrubPasses + 1) 4294967295) := by
  have hz : ∀ w ∈ scrubWords (s.scrubBase ch), s.dram.mem.synAt w = 0 := fun w hw => by
    obtain ⟨k, hk, rfl⟩ := mem_scrubWords.1 hw
    exact h k hk
  have hcode : ∀ w ∈ scrubWords (s.scrubBase ch), verdictCode (s.dram.mem.synAt w) = 0 := fun w hw => by rw [hz w hw, verdictCode_zero]
  refine ⟨_, exec_scrubLine hp hn, ?_⟩
  rw [scrubFound_clean hz]
  obtain ⟨hpos, hheld, hmem, hpass, -⟩ := scrubEnd_scrubOn s s ch
  rw [scrub_no_fix fun w hw => by rw [hcode w hw]; decide] at hheld
  refine ⟨hheld, hmem, scrubEnd_mgmt _ _ _ fun w hw => by rw [hcode w hw]; decide, fun hlt => ?_, fun hge => ?_⟩
  · have hl : (s.scrubber ch.val).last = false := by simpa [Scrub.last] using hlt
    rw [hpos, hpass, hl]
    exact ⟨rfl, rfl⟩
  · have hl : (s.scrubber ch.val).last = true := by simpa [Scrub.last] using hge
    rw [hpos, hpass, hl]
    exact ⟨rfl, rfl⟩

/-! ### The correction write (R259) -/

theorem exec_scrubCorrectionWrite (hp : s.power.tripped = false) (ch : Ch) : exec (.scrubCorrectionWrite ch) s = .next (s.correctHeld ch.val) := by
  change execScrubCorrectionWrite ch s = _
  rw [execScrubCorrectionWrite, if_neg (by simp [hp])]

/-- The state once a channel's held line is written, `m` being DRAM's words then, and before the writes that waited. -/
def State.freed (s : State) (c : Nat) (m : Mem) : State := (s.setDram m).setScrubber c { s.scrubber c with held := none, pendWrites := [] }

theorem scrubber_freed (s : State) (c : Nat) (m : Mem) : (s.freed c m).scrubber c = { s.scrubber c with held := none, pendWrites := [] } :=
  scrubber_setScrubber ..

theorem freed_wacks (s : State) (c : Nat) (m : Mem) : (s.freed c m).dram.wacks = s.dram.wacks := rfl

theorem freed_mem (s : State) (c : Nat) (m : Mem) : (s.freed c m).dram.mem = m := rfl

theorem freed_only (s : State) (c : Nat) (m : Mem) : s.freed c m = { s with dram := (s.freed c m).dram } := rfl

/-- DRAM with the corrected words of a line written. -/
def State.correctedMem (s : State) (l : Nat) : Mem := (wordsOf (s.phys (128 * l)) 128).foldl Mem.fixWord s.dram.mem

theorem correctHeld_of_held {c l : Nat} (h : (s.scrubber c).held = some l) :
    s.correctHeld c = (s.scrubber c).pendWrites.foldl State.takeWrite (s.freed c (s.correctedMem l)) := by
  unfold State.correctHeld
  dsimp only
  rw [h]
  rfl

/-- Writes taken one after another go on their way in order, and leave the scrubbers. -/
theorem takeWrites_queues (qs : List WReq) (s : State) :
    (qs.foldl State.takeWrite s).dram.scrub = s.dram.scrub ∧ (qs.foldl State.takeWrite s).dram.wacks = s.dram.wacks ++ qs := by
  induction qs generalizing s with
  | nil => exact ⟨rfl, (List.append_nil _).symm⟩
  | cons q t ih =>
    obtain ⟨hscrub, hwacks⟩ := ih (s.takeWrite q)
    rw [List.foldl_cons, hscrub, hwacks, takeWrite_frame]
    exact ⟨rfl, by simp⟩

theorem correctHeld_queues {c l : Nat} (h : (s.scrubber c).held = some l) :
    (s.correctHeld c).scrubber c = { s.scrubber c with held := none, pendWrites := [] } ∧
      (s.correctHeld c).dram.wacks = s.dram.wacks ++ (s.scrubber c).pendWrites := by
  rw [correctHeld_of_held h]
  generalize s.correctedMem l = m
  obtain ⟨hscrub, hwacks⟩ := takeWrites_queues (s.scrubber c).pendWrites (s.freed c m)
  refine ⟨?_, by rw [hwacks, freed_wacks]⟩
  rw [State.scrubber, hscrub]
  exact scrubber_freed s c m

end

/-- Settles O39: a write's words are merged by its mask, a read settles its word, a scrubber acts on the one word that is not clean. -/
theorem channelsReadWriteAndScrub : Obligations.ChannelsReadWriteAndScrub := by
  intro s hp
  refine ⟨fun q hq => ⟨fun hd hh hm hs => ⟨_, dramWriteAccept_taken hp hq hd hh, ?taken⟩,
      fun hd => ⟨fun cl l hw => ⟨_, dramWriteAccept_discarded hp hq hd, ?writeBack⟩,
        fun cl n num hw hne => ⟨_, dramWriteAccept_discarded hp hq hd, ?otherDesc⟩,
        fun cl n b hw hb htsv => ⟨_, dramWriteAccept_discarded hp hq hd, ?headDesc⟩⟩,
      fun hd hh => ⟨_, dramWriteAccept_held hp hq hd hh, ?held⟩⟩,
    fun q rest hw => ⟨fun cl l hwr => ⟨_, exec_writeAcceptResponse hp hw, ?cleanLine⟩, fun cl n num hwr => ⟨_, exec_writeAcceptResponse hp hw, ?countOff⟩⟩,
    fun a ha h16 => ⟨fun hh => ⟨_, exec_dramRead hp ha h16, ?retry⟩, fun hh hd => ⟨_, exec_dramRead hp ha h16, ?failed⟩,
      fun hh hd hm => ⟨_, exec_dramRead hp ha h16, ?clean⟩, fun hh hd hv => ⟨_, exec_dramRead hp ha h16, ?bad⟩⟩,
    fun ch hn => ⟨scrubLine_clean hp hn, fun k hk h0 => ⟨fun sym wr hv => scrubLine_corrected hp hn hk h0 hv, scrubLine_uncorrectable hp hn hk h0⟩⟩,
    fun ch l hl => ⟨⟨_, exec_scrubCorrectionWrite hp ch, ?waited⟩, fun hnil => ⟨_, exec_scrubCorrectionWrite hp ch, ?corrected⟩⟩⟩
  case taken =>
    obtain ⟨m, x, hx, hin, hout⟩ := takeWrite_up (s := s.unqueue q) hd hm hs
    rw [hx]
    exact ⟨rfl, rfl, hin, hout, rfl⟩
  case writeBack =>
    rw [discardWrite_writeBack hw, takeWrite_down (s := s.unqueue q) hd]
    rfl
  case otherDesc =>
    rw [discardWrite_ring_other (s := s.unqueue q) hw hne]
    rfl
  case headDesc =>
    have halone : Ring.HaltsAlone (s.ring cl n.val) 2 := .inr (.inr fun b' hb' => by rw [hb] at hb'; cases hb'; exact htsv)
    rw [discardWrite_ring_head (s := s.unqueue q) hw]
    obtain ⟨hring, -, e, sc, hbox, hst⟩ := ringBusError_halts (s := (s.unqueue q).countDiscard) (status := 5) (by decide) halone (128 * q.line)
    obtain ⟨hdram, hothers⟩ := ringBusError_leaves (s := (s.unqueue q).countDiscard) halone (status := 5) (by decide) (128 * q.line)
    refine ⟨hdram, ?_, ?_, ?_, ⟨(e, sc), hbox, hst⟩, hothers⟩ <;> rw [hring] <;> rfl
  case held =>
    refine ⟨rfl, rfl, rfl, ?_, rfl⟩
    rw [scrubber_setScrubber]
  case cleanLine =>
    rw [hwr]
    obtain ⟨hcc, hline, honly⟩ := ackWrite_writeBack { s with dram := { s.dram with wacks := rest } } cl l
    refine ⟨congrArg State.dram honly, hcc, hline, honly⟩
  case countOff =>
    rw [hwr]
    by_cases h : num = (s.ring cl n.val).head.toNat
    · rw [ackWrite_ring_head (s := { s with dram := { s.dram with wacks := rest } }) h]
      exact ⟨rfl, fun _ => State.ring_setRing .., fun hne => absurd h hne, rfl⟩
    · rw [ackWrite_ring_other (s := { s with dram := { s.dram with wacks := rest } }) h]
      exact ⟨rfl, fun he => absurd he h, fun _ => rfl, rfl⟩
  case retry => exact if_pos hh
  case failed =>
    rw [if_neg (by simp [hh]), chanRead_failed hd]
    exact if_pos rfl
  case clean =>
    rw [if_neg (by simp [hh]), chanRead_clean hh hd hm]
    have hread : (Mem.empty.copyFrom s.dram.mem a (s.phys a) 16).read a 16 = s.dram.mem.read (s.phys a) 16 :=
      List.map_congr_left fun _ hi => byte_copyFrom Mem.plain_empty hm a (s.phys a) (List.mem_range.1 hi)
    dsimp only
    rw [if_neg (by decide), hread, Mem.synAt_plain hm, verdictCode_zero]
  case bad =>
    obtain ⟨e, data, hcls, haddr, hx⟩ := chanRead_bad hh hd h16 hv (s.ownerOf a) 1
    rw [if_neg (by simp [hh]), hx]
    dsimp only
    rw [if_neg (by decide), verdictCode_uncorrectable hv]
    generalize s.dram.mem.poisonWord (s.phys a / 16) = m
    obtain ⟨x, hn⟩ := note_setDram (s.raise e .none) m (lineOf a)
    rw [hn]
    exact ⟨rfl, rfl, ⟨_, rfl, hcls, haddr⟩, rfl⟩
  case waited =>
    obtain ⟨hv, hwacks⟩ := correctHeld_queues hl
    rw [hv]
    exact ⟨rfl, rfl, hwacks⟩
  case corrected =>
    rw [correctHeld_of_held hl, hnil, List.foldl_nil]
    refine ⟨by rw [scrubber_freed], fun a => ?_, fun k hk sym wr hv => ?_, freed_only ..⟩
    · rw [freed_mem, State.correctedMem, Mem.byte_fixWords]
    · rw [freed_mem, State.correctedMem, Mem.synAt_fixWords (mem_wordsOf_line (phys_line s l) hk) hv]

end Sys2Proof.Machine

namespace Sys2Proof.Machine

open Sys2Proof

/-! ### Bytes of a word as a number -/

theorem leNat_leBytes (n v : Nat) : leNat (leBytes n v) = v % 256 ^ n := by
  induction n generalizing v with
  | zero => rw [Nat.pow_zero, Nat.mod_one]; rfl
  | succ n ih =>
    have hp : 256 ^ (n + 1) = 256 * 256 ^ n := Nat.pow_succ'
    rw [leBytes, leNat, ih, BitVec.toNat_ofNat, hp]
    exact (Nat.mod_mul ..).symm

theorem leBytes_leNat (bs : List Byte) : leBytes bs.length (leNat bs) = bs := by
  induction bs with
  | nil => rfl
  | cons b t ih =>
    have hb := b.isLt
    have hdiv : leNat (b :: t) / 256 = leNat t := by rw [leNat]; omega
    have hlow : BitVec.ofNat 8 (leNat (b :: t)) = b := by
      apply BitVec.eq_of_toNat_eq
      rw [BitVec.toNat_ofNat, leNat]
      omega
    rw [List.length_cons, leBytes, hdiv, ih, hlow]

theorem leNat_lt (bs : List Byte) : leNat bs < 256 ^ bs.length := by
  rw [← leBytes_leNat bs, leNat_leBytes, leBytes_length]
  exact Nat.mod_lt _ (by positivity)

namespace Mem

theorem length_word (m : Mem) (w : Nat) : (m.word w).length = 16 := by simp [word]

theorem getD_word (m : Mem) (w : Nat) {i : Nat} (h : i < 16) : (m.word w).getD i 0 = m.raw (16 * w + i) := by
  rw [word, List.getD, List.getElem?_map, List.getElem?_range h]
  rfl

/-- A word stored with the given data and check bits, whatever they are (R262). -/
def putWord (m : Mem) (w d : Nat) (c : BitVec 16) : Mem := (m.setRaws (16 * w) (leBytes 16 d)).setSyn w (checkBits d ^^^ c)

theorem raw_putWord (m : Mem) (w d : Nat) (c : BitVec 16) (x : Nat) :
    (m.putWord w d c).raw x = if 16 * w ≤ x ∧ x < 16 * w + 16 then (leBytes 16 d).getD (x - 16 * w) 0 else m.raw x := by
  rw [putWord, raw_setSyn, raw_setRaws, leBytes_length]

theorem raw_putWord_in (m : Mem) (w d : Nat) (c : BitVec 16) {i : Nat} (h : i < 16) :
    (m.putWord w d c).raw (16 * w + i) = (leBytes 16 d).getD i 0 := by
  rw [raw_putWord, if_pos (by omega), Nat.add_sub_cancel_left]

theorem word_putWord (m : Mem) (w d : Nat) (c : BitVec 16) : (m.putWord w d c).word w = leBytes 16 d := by
  refine List.ext_getElem (by rw [length_word, leBytes_length]) fun i h h' => ?_
  have hi : i < 16 := by rwa [length_word] at h
  rw [← List.getD_eq_getElem _ 0 h, ← List.getD_eq_getElem _ 0 h', getD_word _ _ hi, raw_putWord_in _ _ _ _ hi]

/-- The check bits read back, for data of a word's 128 bits. -/
theorem checkAt_putWord (m : Mem) (w : Nat) {d : Nat} (h : d < 2 ^ 128) (c : BitVec 16) : (m.putWord w d c).checkAt w = c := by
  have hd : leNat (leBytes 16 d) = d := by
    rw [leNat_leBytes]
    exact Nat.mod_eq_of_lt h
  rw [checkAt, word_putWord, hd, putWord, synAt_setSyn, if_pos rfl, ← BitVec.xor_assoc, BitVec.xor_self, BitVec.zero_xor]

theorem byte_putWord_ne (m : Mem) {w a : Nat} (h : a / 16 ≠ w) (d : Nat) (c : BitVec 16) : (m.putWord w d c).byte a = m.byte a := by
  refine byte_congr ?_ ?_
  · rw [raw_putWord, if_neg (by omega)]
  · rw [putWord, synAt_setSyn, if_neg h, synAt_setRaws]

theorem leNat_word_lt (m : Mem) (w : Nat) : leNat (m.word w) < 2 ^ 128 := by
  have := leNat_lt (m.word w)
  rwa [length_word] at this

/-- A word stored with its own data keeps its bytes. -/
theorem raw_putWord_own (m : Mem) (w : Nat) (c : BitVec 16) (x : Nat) : (m.putWord w (leNat (m.word w)) c).raw x = m.raw x := by
  have h : leBytes 16 (leNat (m.word w)) = m.word w := by
    have := leBytes_leNat (m.word w)
    rwa [length_word] at this
  rw [raw_putWord, h]
  split
  · next hx => rw [getD_word _ _ (by omega), Nat.add_sub_cancel' hx.1]
  · rfl

end Mem

/-! ### The end of a command of the test window (R261, R262) -/

section
variable (s : State) (refused : Bool)

theorem twEnd_dram : (s.twEnd refused).dram = s.dram := rfl

theorem twEnd_cores : (s.twEnd refused).cores = s.cores := rfl

theorem twEnd_twDue : (s.twEnd refused).dict.twDue = 0 := rfl

theorem twEnd_logCount : (s.twEnd refused).mgmt.logCount = (s.mgmt.logCount + 1) % 2 ^ 32 := rfl

theorem twEnd_status : (s.twEnd refused).obj 0x9010 5 = s.obj 0x9010 5 % 2 ^ 28 + if refused then 2 ^ 28 else 0 :=
  State.obj_setObj ..

theorem twEnd_obj {j : Nat} (h : 256 * 0x9010 + j ≠ 256 * 0x9010 + 5) : (s.twEnd refused).obj 0x9010 j = s.obj 0x9010 j :=
  State.obj_setObj_ne _ _ _ _ h

theorem twMem_twEnd (T : TwTarget) : (s.twEnd refused).twMem T = s.twMem T := by
  cases T <;> rfl

end

theorem bits_status_refused (r : Nat) : bits 31 28 (r % 2 ^ 28 + 2 ^ 28) = 1 := by
  simp only [bits]
  omega

theorem bits_status_done (r : Nat) : bits 31 28 (r % 2 ^ 28 + 0) = 0 := by
  simp only [bits]
  omega

/-! ### The word of a target (R262) -/

/-- The line of a target is freed by the scrubber's correction write, which leaves the cores. -/
theorem cores_twFree (s : State) (T : TwTarget) : (s.twFree T).cores = s.cores := by
  cases T with
  | dram w => exact (congrArg State.cores (freeLine_only s (lineOf (s.devAddr (16 * w)))).1 :)
  | refused => rfl
  | tile cl c w => rfl

theorem twMem_setTwMem (s : State) (m : Mem) {T : TwTarget} (h : T ≠ .refused) : (s.setTwMem m T).twMem T = m := by
  cases T with
  | refused => exact absurd rfl h
  | dram w => rfl
  | tile cl c w => exact congrArg Core.ts (State.core_setCore ..)

section
variable {s : State} {T : TwTarget} (hT : s.twTarget = T)
include hT

theorem twWrite_refused {which : Nat} (hw : s.dict.twDue = which) (h : T = .refused) (data check : Option Nat) :
    s.twWrite which data check = s.twEnd true := by
  unfold State.twWrite
  rw [if_neg (not_not.2 hw)]
  exact if_pos (hT.trans h)

theorem twWrite_done {which : Nat} (hw : s.dict.twDue = which) (h : T ≠ .refused) (data check : Option Nat) :
    s.twWrite which data check = (((s.twFree T).setTwMem
      (((s.twFree T).twMem T).putWord (twWord T) (data.getD (leNat (((s.twFree T).twMem T).word (twWord T))))
        ((check.map (BitVec.ofNat 16)).getD (((s.twFree T).twMem T).checkAt (twWord T)))) T).twEnd false) := by
  unfold State.twWrite
  rw [if_neg (not_not.2 hw)]
  dsimp only
  rw [hT, if_neg h]
  cases check <;> rfl

end

/-- The end of a write command: the target's store is as given, and no other store has changed; a word of DRAM leaves the cores, and one
of a tile store leaves DRAM. -/
theorem twWrite_leaves (s : State) {T : TwTarget} (h : T ≠ .refused) (m : Mem) : let t := ((s.twFree T).setTwMem m T).twEnd false
    t.twMem T = m ∧ t.dict.twDue = 0 ∧ ((∃ d, T = .dram d) → t.cores = s.cores) ∧
    ∀ cl c w, T = .tile cl c w → t.dram = s.dram ∧ t.cores = (s.setCore cl c { s.core cl c with ts := m }).cores := by
  dsimp only
  rw [twMem_twEnd, twMem_setTwMem _ _ h, twEnd_dram, twEnd_cores]
  refine ⟨rfl, twEnd_twDue .., fun ⟨d, hd⟩ => ?_, fun cl c w hT => ?_⟩
  · subst hd
    exact cores_twFree s (.dram d)
  · subst hT
    exact ⟨rfl, rfl⟩

/-- A write command of the test window stores the word of its target, by the data and check bits given or else as they stand. -/
theorem exec_twWrite {s : State} {T : TwTarget} {w : Nat} {m : Mem} {c : Instr} {which : Nat} {data check : Option Nat} (hT : s.twTarget = T)
    (hne : T ≠ .refused) (hw : twWord T = w) (hm : (s.twFree T).twMem T = m) (hd : s.dict.twDue = which)
    (hc : exec c s = .next (s.twWrite which data check)) :
    ∃ t, exec c s = .next t ∧
      t.twMem T = m.putWord w (data.getD (leNat (m.word w))) ((check.map (BitVec.ofNat 16)).getD (m.checkAt w)) ∧
      t.dict.twDue = 0 ∧ ((∃ d, T = .dram d) → t.cores = s.cores) ∧
      ∀ cl c, T = .tile cl c w → t.dram = s.dram ∧ t.cores = (s.setCore cl c { s.core cl c with ts := t.twMem T }).cores := by
  rw [twWrite_done hT hd hne, hm, hw] at hc
  generalize m.putWord w _ _ = n at hc ⊢
  obtain ⟨hmem, hdue, hcores, htile⟩ := twWrite_leaves s hne n
  refine ⟨_, hc, hmem, hdue, hcores, fun cl c hcl => ?_⟩
  rw [hmem]
  exact htile cl c w hcl

/-! ### The read command (R261, R262) -/

/-- The symbol that a verdict names, or 63. -/
def verdictSymbol (syn : BitVec 16) : Nat := match verdict syn with
  | .corrected i _ => i
  | _ => 63

/-- STATUS of a read: the verdict, the symbol and the syndrome. -/
def readStatus (syn : BitVec 16) : Nat := pack [(4, 0), (2, verdictCode syn), (6, verdictSymbol syn), (4, 0), (16, syn.toNat)]

/-- The state once the word found and its check bits and status have been shown. -/
def State.showWord (s : State) (m : Mem) (w : Nat) : State :=
  ((s.setObj 0x9010 2 (leNat (m.word w))).setObj 0x9010 3 (m.checkAt w).toNat).setObj 0x9010 5 (readStatus (m.synAt w))

theorem exec_twReadRaw (s : State) : exec .twReadRaw s = .next (
    if s.dict.twDue ≠ 1 then s
    else if s.twTarget = .refused then s.twEnd true
    else ((s.twFree s.twTarget).showWord ((s.twFree s.twTarget).twMem s.twTarget) (twWord s.twTarget)).twEnd false) := rfl

theorem verdictCode_lt (syn : BitVec 16) : verdictCode syn < 4 := by
  unfold verdictCode
  split <;> decide

theorem readStatus_verdict (syn : BitVec 16) : readStatus syn / 2 ^ 26 % 2 ^ 2 = verdictCode syn :=
  (pack_field [(4, 0)] 2 _ _ (by simp [packWidth])).trans (Nat.mod_eq_of_lt (verdictCode_lt syn))

theorem readStatus_syndrome (syn : BitVec 16) : readStatus syn % 2 ^ 16 = syn.toNat := by
  have h := pack_field [(4, 0), (2, verdictCode syn), (6, verdictSymbol syn), (4, 0)] 16 syn.toNat [] (k := 0) rfl
  rw [Nat.pow_zero, Nat.div_one, Nat.mod_eq_of_lt syn.isLt] at h
  exact h

/-- The fields of STATUS below its top four bits survive the end of a command. -/
theorem bits_status_field (r : Nat) {hi lo : Nat} (h : hi < 28) : bits hi lo (r % 2 ^ 28 + 0) = bits hi lo r := by
  have hdvd : 2 ^ lo * 2 ^ (hi + 1 - lo) ∣ 2 ^ 28 ∨ hi + 1 ≤ lo := by
    rcases Nat.lt_or_ge hi lo with hlt | hge
    · exact .inr hlt
    · left
      rw [← Nat.pow_add]
      exact Nat.pow_dvd_pow 2 (by omega)
  unfold bits
  rw [Nat.add_zero]
  rcases hdvd with hdvd | hle
  · rw [← Nat.mod_mul_right_div_self, ← Nat.mod_mul_right_div_self, Nat.mod_mod_of_dvd _ hdvd]
  · rw [Nat.sub_eq_zero_of_le hle, Nat.pow_zero, Nat.mod_one, Nat.mod_one]

section
variable (s : State) (m : Mem) (w : Nat)

theorem showWord_data : (s.showWord m w).obj 0x9010 2 = leNat (m.word w) := by
  rw [State.showWord, State.obj_setObj_ne _ _ _ _ (by decide), State.obj_setObj_ne _ _ _ _ (by decide), State.obj_setObj]

theorem showWord_check : (s.showWord m w).obj 0x9010 3 = (m.checkAt w).toNat := by
  rw [State.showWord, State.obj_setObj_ne _ _ _ _ (by decide), State.obj_setObj]

theorem showWord_stores : (s.showWord m w).dram = s.dram ∧ (s.showWord m w).cores = s.cores := by
  simp [State.showWord]

theorem showWord_status : (s.showWord m w).obj 0x9010 5 = readStatus (m.synAt w) := State.obj_setObj ..

end

/-- The read command shows the word of its target as stored, with its verdict and syndrome, and changes no store beyond the correction write. -/
theorem exec_twRead {s : State} {T : TwTarget} {w : Nat} {m : Mem} (hT : s.twTarget = T) (hne : T ≠ .refused) (hw : twWord T = w)
    (hm : (s.twFree T).twMem T = m) (hd : s.dict.twDue = 1) : Done .twReadRaw s fun t =>
      t.obj 0x9010 2 = leNat (m.word w) ∧ t.obj 0x9010 3 = (m.checkAt w).toNat ∧ t.obj 0x9010 5 = readStatus (m.synAt w) % 2 ^ 28 + 0 ∧
      t.dict.twDue = 0 ∧ t.dram = (s.twFree T).dram ∧ t.cores = s.cores := by
  have hx : exec .twReadRaw s = .next (((s.twFree T).showWord m w).twEnd false) := by
    rw [exec_twReadRaw, if_neg (not_not.2 hd), hT, if_neg hne, hw, hm]
  have hcores := cores_twFree s T
  generalize s.twFree T = u at hx hcores
  obtain ⟨hd', hc'⟩ := showWord_stores u m w
  refine ⟨_, hx, ?_, ?_, ?_, twEnd_twDue .., (twEnd_dram ..).trans hd', (twEnd_cores ..).trans (hc'.trans hcores)⟩
  · exact (twEnd_obj _ _ (by decide)).trans (showWord_data u m w)
  · exact (twEnd_obj _ _ (by decide)).trans (showWord_check u m w)
  · exact (twEnd_status _ _).trans (by rw [showWord_status, if_neg (by decide)])

/-- A command whose target is refused. -/
theorem exec_tw_refused {s : State} {c : Instr} {which : Nat}
    (hc : (c, which) ∈ [(Instr.twReadRaw, 1), (Instr.twWriteData, 2), (Instr.twWriteCheck, 3), (Instr.twWriteBoth, 4)])
    (hw : s.dict.twDue = which) (hT : s.twTarget = .refused) : exec c s = .next (s.twEnd true) := by
  simp only [List.mem_cons, Prod.mk.injEq, List.not_mem_nil, or_false] at hc
  obtain ⟨rfl, rfl⟩ | ⟨rfl, rfl⟩ | ⟨rfl, rfl⟩ | ⟨rfl, rfl⟩ := hc
  · rw [exec_twReadRaw, if_neg (not_not.2 hw), if_pos hT]
  all_goals exact congrArg Host.Outcome.next (twWrite_refused hT hw rfl ..)

/-- Settles O40: every write is the store of one word by `Mem.putWord`, and a read shows the word as it is. -/
theorem testWindowActsOnOneWord : Obligations.TestWindowActsOnOneWord := by
  intro s
  refine ⟨fun c which hc hw hT => ⟨_, exec_tw_refused hc hw hT, twEnd_twDue .., ?_, twEnd_dram .., twEnd_cores .., twEnd_logCount ..⟩,
    fun T w m hT hne hw hm => ⟨fun hd => ?read, fun hd => ?both, fun hd => ?data, fun hd => ?check⟩⟩
  · rw [twEnd_status, if_pos rfl]
    exact bits_status_refused _
  case read =>
    obtain ⟨t, hx, hdata, hcheck, hst, hdue, hdram, hcores⟩ := exec_twRead hT hne hw hm hd
    refine ⟨t, hx, hdata, hcheck, ?_, ?_, ?_, hdue, hdram, hcores⟩ <;> rw [hst]
    · exact bits_status_done _
    · exact (bits_status_field _ (by decide)).trans (readStatus_verdict _)
    · rw [bits_status_field _ (by decide), bits, Nat.pow_zero, Nat.div_one]
      exact readStatus_syndrome _
  case both =>
    obtain ⟨t, hx, hmem, hdue, hcores, htile⟩ := exec_twWrite (c := .twWriteBoth) hT hne hw hm hd rfl
    refine ⟨t, hx, fun i hi => ?_, fun hlt => ?_, fun a ha => ?_, hdue, hcores, htile⟩ <;> rw [hmem]
    · exact Mem.raw_putWord_in _ _ _ _ hi
    · exact Mem.checkAt_putWord _ _ hlt _
    · exact Mem.byte_putWord_ne _ ha _ _
  case data =>
    obtain ⟨t, hx, hmem, -, hcores, htile⟩ := exec_twWrite (c := .twWriteData) hT hne hw hm hd rfl
    refine ⟨t, hx, fun i hi => ?_, fun hlt => ?_, fun a ha => ?_, hcores, htile⟩ <;> rw [hmem]
    · exact Mem.raw_putWord_in _ _ _ _ hi
    · exact Mem.checkAt_putWord _ _ hlt _
    · exact Mem.byte_putWord_ne _ ha _ _
  case check =>
    obtain ⟨t, hx, hmem, -, hcores, htile⟩ := exec_twWrite (c := .twWriteCheck) hT hne hw hm hd rfl
    refine ⟨t, hx, fun a => ?_, ?_, fun a ha => ?_, hcores, htile⟩ <;> rw [hmem]
    · exact Mem.raw_putWord_own _ _ _ a
    · exact Mem.checkAt_putWord _ _ (Mem.leNat_word_lt _ _) _
    · exact Mem.byte_putWord_ne _ ha _ _

end Sys2Proof.Machine
